-- ==== Sys2Proof/Word.lean ====
section
/-! DEFINITION. The plain word types of the X6 (00_scope R3): bytes, 32-bit and 64-bit values,
128-bit barrier words and the 96-bit instruction word. -/

namespace Sys2Proof

/-- One byte. -/
abbrev Byte := BitVec 8
/-- A 64-bit register value (07 R126). -/
abbrev Word := BitVec 64
/-- A 96-bit instruction word (00 R3, 04 R58). -/
abbrev IWord := BitVec 96
/-- A six-bit register, tile or token field (04 R62). -/
abbrev Reg := BitVec 6
/-- A twelve-bit register-space specifier, view in 11:8 and index in 7:0 (04 R67). -/
abbrev Spec := BitVec 12

end Sys2Proof
end

