-- ==== Sys2Proof/Config.lean ====
section
/-! DEFINITION. What the device fixes (01 R12), and the free values: constants with no body for
what the manual gives no figure. Each free value names its entry of the assumption log. -/

namespace Sys2Proof.Config

/-- Cores of the package, 24 by 16 (01 R12, R14). -/
def cores : Nat := 384
/-- Columns of the mesh (01 R14). -/
def meshX : Nat := 24
/-- Rows of the mesh (01 R14). -/
def meshY : Nat := 16
/-- The block limit in strand beats (01 R26). -/
def blockLimit : Nat := 65536
/-- The MWAIT limit in strand beats (07 R154). -/
def mwaitLimit : Nat := 1048576
/-- Matrix occupancy (04 R78). -/
def mmaOccupancy : Nat := 8
/-- Matrix C update latency (04 R78). -/
def mmaDue : Nat := 14
/-- Beats from a channel read command to its delivery at the entry router (23 R377). -/
def readDelivery : Nat := 36
/-- Beats a bank is busy after a command (23 R377). -/
def bankBusy : Nat := 32
/-- Port latency of a pool port (23 R379). -/
def poolLatency : Nat := 1536
/-- Port latency of the host port (23 R379). -/
def hostLatency : Nat := 2048
/-- Beats of the KEY.ROLL block (08 R200). -/
def keyRollBeats : Nat := 64
/-- Combined entries of a core's TLB (23 R383). -/
def tlbEntries : Nat := 128
/-- Walks in flight per I/O die (23 R383). -/
def walksInFlight : Nat := 512

/-- Isavik ports of the package (01 R12). -/
def isavikPorts : Nat := 16

/-- FREE VALUE (log 86, DESIGN CHOICE): whether the word that an answer Resume restarts finds its translation; 22 R372 sets it
as a condition of its run. -/
opaque resumeFinds : Nat → Bool
/-- FREE VALUE (log 6, DESIGN CHOICE): beats a translation walk takes; R383 gives no figure. -/
opaque walkBeats : Nat → Nat
/-- FREE VALUE (log 7, DESIGN CHOICE): the TLB entry replaced when all are in use; R383 names no rule. -/
opaque tlbVictim : Nat → Nat
/-- FREE VALUE (log 8, DESIGN CHOICE): beats until a die's interface may apply a store (06 R410). -/
opaque applyBeats : Nat → Nat
/-- FREE VALUE (log 13, DESIGN CHOICE): the collector's answer, taken within 08 R190's bound of 2,048 beats. -/
opaque collectBeats : Nat → Nat
/-- FREE VALUE (log 13, DESIGN CHOICE): beats of one SAVE or LOAD unit (08 R192 bounds only their sum). -/
opaque unitBeats : Nat → Nat
/-- FREE VALUE (log 14, DESIGN CHOICE): beats of the image copy of an admission (21 R358). -/
opaque copyBeats : Nat → Nat
/-- FREE VALUE (log 6, DESIGN CHOICE): beats a TLB invalidation takes (23 R383). -/
opaque invBeats : Nat → Nat
/-- FREE VALUE (log 16, DESIGN CHOICE): a byte that reads back under a key it was not written under
(08 R200, 23 R387): key slot and generation of the read, those of the write, device address, stored byte. -/
opaque scramble : Nat → Nat → Nat → Nat → Nat → BitVec 8 → BitVec 8
/-- FREE VALUE (log 17, DESIGN CHOICE): response of a standard CXL mailbox command (24 R396). -/
opaque mailboxAnswer : Nat → Nat → BitVec 64
/-- FREE VALUE (log 17, DESIGN CHOICE): signature over the measurements in an SPDM answer (24 R406). -/
opaque spdmSignature : List Nat → BitVec 64
/-- FREE VALUE (log 18, DESIGN CHOICE): whether both signatures of a firmware image verify (24 R406). -/
opaque signaturesVerify : List Nat → Bool
/-- FREE VALUE (log 18, DESIGN CHOICE): the SHA-384 measurement of an image (24 R406). -/
opaque measure : List Nat → Nat
/-- FREE VALUE (log 24, DESIGN CHOICE): the class TT.LOC reports where 15 R323 lists none. -/
opaque locClass : Nat → Nat → BitVec 3
/-- FREE VALUE (log 26, DESIGN CHOICE): FADDR after a cause for which the manual names no pointer or
address (07 R170), by cause code. -/
opaque noFaddr : Nat → BitVec 64
/-- FREE VALUE (log 26, DESIGN CHOICE): the section and the slot index TCAUSE holds for a trap of a sequencer between
two sections, at the word position given (07 R170). -/
opaque noSection : Nat → BitVec 12
opaque noSlot : Nat → BitVec 32
/-- FREE VALUE (log 30, DESIGN CHOICE): whether a retested core passes at its new bin, and whether
the module's measured power allows a raise (24 R408). -/
opaque retestPasses : Nat → Nat → Bool
opaque powerAllows : Nat → Bool

/-- FREE VALUE (log 5, DESIGN CHOICE): whether the other devices of a multi-device admission all issue it in time,
and whether a phase offset passes on them (21 R359). -/
opaque peersIssue : Nat → Bool
opaque peersPass : Nat → Nat → Bool
/-- FREE VALUE (log 5, DESIGN CHOICE): beats by which another device issued its part of a multi-device admission first. -/
opaque firstIssue : Nat → Nat
/-- FREE VALUE (log 5, DESIGN CHOICE): beats after this device's by which the last strand of a multi-device owner holds for a
re-phase (21 R369). -/
opaque peersHold : Nat → Nat
/-- FREE VALUE (log 5, DESIGN CHOICE): whether the strands that a multi-device owner has on other devices have all recorded
their masks by a beat (08 R189). -/
opaque peersPrept : Nat → Bool
/-- FREE VALUE (log 5, DESIGN CHOICE): beats by which a pool or host port answers after its fixed latency (23 R379). -/
opaque portDelay : Nat → Nat
/-- FREE VALUE (log 5, DESIGN CHOICE): whether a member on another device answers a chunk's request. -/
opaque remoteAnswers : Nat → Bool
/-- FREE VALUE (log 5, DESIGN CHOICE): a byte that a member on another device sends. -/
opaque remoteByte : Nat → Nat → BitVec 8
/-- FREE VALUE (log 5, DESIGN CHOICE): the port directions of other devices that a transfer from one device to another
crosses, as device and direction, in order; the route tables of other devices (24 R412) are theirs. -/
opaque linkRoute : Nat → Nat → List (Nat × Nat)
/-- FREE VALUE (log 5, DESIGN CHOICE): beats by which a link retry after a corrected error delays what follows (19 R346). -/
opaque linkRetry : Nat → Nat
/-- FREE VALUE (log 88, DESIGN CHOICE): beats beyond one by which the retry after a corrected error delays a delivery
(09 R220). -/
opaque retryBeats : Nat → Nat
/-- FREE VALUE (log 89, DESIGN CHOICE): whether a read of a spare-row copy meets an uncorrected error (23 R393). -/
opaque copyMeets : Nat → Bool
/-- FREE VALUE (log 89, DESIGN CHOICE): whether the data a pool or host port answers with is uncorrectable (09 R218). -/
opaque portPoisons : Nat → Bool

/-- FREE VALUE (log 16, DESIGN CHOICE): whether a key slot is implemented, and the partition whose lines it serves
(08 R199, R200; 24 R402); a number above 7 is no partition. -/
opaque keySlotPresent : Nat → Bool
opaque keySlotPart : Nat → Nat
/-- FREE VALUE (log 36, DESIGN CHOICE): whether a 4 KiB unit of a core's near buffers belongs to an owner that shares
the core (08 R192, R194 name buffer ranges and do not divide them). -/
opaque bufferUnit : Nat → Nat → Nat → Bool
/-- FREE VALUE (log 19, DESIGN CHOICE): a byte of a fast-context record whose place holds a field that 08 R193 names and does
not lay out, by save and offset. -/
opaque recordByte : Nat → Nat → BitVec 8
/-- FREE VALUE (log 13, DESIGN CHOICE): beats that the fast context takes to or from shadow storage, taken within 08 R192's
bound where the records fit. -/
opaque fastBeats : Nat → Nat

/-- FREE VALUE (log 17, DESIGN CHOICE): what a register reads as whose contents the manual does not state (CXL registers, the
launch window), by its offset. -/
opaque busWord : Nat → Nat → BitVec 64
/-- FREE VALUE (log 17, DESIGN CHOICE): the device's identity certificate chain (24 R406). -/
opaque identityChain : List (BitVec 64)

end Sys2Proof.Config
end

