-- ==== Sys2Proof/Syntax.lean ====
section
/-! DEFINITION. The abstract syntax: one constructor of Instr per row of spec/opcode_table.json.
The rows are the instruction words of 04 R76 (first the words, in the table's order) and the
machine's own events (95_what_each_step_holds.md). A word's constructor carries exactly the fields
its format gives it (04 R61); an event's constructor names the object it acts on. -/

namespace Sys2Proof

/-- The four sequencers of a strand, in ring order (01 R18, R24). -/
inductive SeqId where | ct | ld | cp | st
deriving DecidableEq, Repr

/-- The sixteen element types (04 R63). -/
inductive Ty where
  | i8 | i16 | i32 | i64 | n8 | n16 | n32 | n64 | f64 | f32 | f16 | bf16 | tf8 | tf6 | i4 | c4
deriving DecidableEq, Repr

/-- Rounding field (04 R64). -/
inductive Rnd where | rn | rz | rd | rp | ra | rdyn
deriving DecidableEq, Repr

/-- Overflow policy (04 R64). -/
inductive Ovf where | sat | inf | nan | trap
deriving DecidableEq, Repr

/-- Branch and PCMP conditions (04 R66). -/
inductive Cond where | eq | ne | lt | ge | ltn | gen
deriving DecidableEq, Repr

/-- Vector compare conditions (13 R275). -/
inductive VCond where | eq | ne | lt | le | un
deriving DecidableEq, Repr

/-- Lane selection (04 R65): every lane, or the lanes set in a mask. -/
inductive Lanes where | all | mk (n : BitVec 2)
deriving DecidableEq, Repr

/-- LDX sizes (04 R76). -/
inductive LdSize where | s8 | s16 | s32 | s64 | n8 | n16 | n32
deriving DecidableEq, Repr

/-- STX sizes (04 R76). -/
inductive StSize where | s8 | s16 | s32 | s64
deriving DecidableEq, Repr

/-- AMO operations (04 R76). -/
inductive AmoOp where | add | min | max | minn | maxn | and | or | xor | swap
deriving DecidableEq, Repr

/-- Atomic sizes: 32 or 64 bits (07 R150). -/
inductive AmoSize where | w32 | w64
deriving DecidableEq, Repr

/-- Fence scopes (06 R105). -/
inductive Scope where | core | clu | die | pkg | sys
deriving DecidableEq, Repr

/-- The near buffer of a word (09 R211). -/
inductive Buf where | wbuf | abuf
deriving DecidableEq, Repr

/-- Pad policies (09 R210). -/
inductive Pad where | handle | zero | clamp
deriving DecidableEq, Repr

/-- Pointer windows (07 R141). -/
inductive Win where | global | cluster | scratch | priv
deriving DecidableEq, Repr

/-- VRED operations (04 R76). -/
inductive RedOp where | add | min | max | and | or | xor
deriving DecidableEq, Repr

/-- VSCAN operations (04 R76). -/
inductive ScanOp where | add | min | max
deriving DecidableEq, Repr

/-- CLRED operations (19 R341). -/
inductive CollOp where | add | min | max
deriving DecidableEq, Repr

/-- Accumulation mode of an MMA (14 R297). -/
inductive Acc where | add | set | sub
deriving DecidableEq, Repr

/-- The token and predicate bits of every word (04 R58). -/
structure Head where
  pf : Bool
  pb : Bool
  wf : Bool
  wb : Bool
  pneg : Bool
  psel : BitVec 3
deriving DecidableEq, Repr

/-- The engine-dependence fields of an engine word (04 R62): three consumed tokens, one produced. -/
structure Toks where
  c0 : BitVec 6
  c1 : BitVec 6
  c2 : BitVec 6
  p : BitVec 6
deriving DecidableEq, Repr

/-- By which path a launch packet came (24 R397). -/
inductive LaunchPath where
  | bar0 | isavik (dev : Nat) | uet (endpoint : Nat) | control
deriving DecidableEq, Repr

/-- What a collective of another device asks of a member here (19 R340, R343, R345, R348): the source run of a CLRED; a chunk
of a CLBC, with the barrier it counts on; or it ends or begins its chunk anew, with the sectors that this leaves to be counted
on a barrier and whether it ended in error. -/
inductive PeerAsk where
  | read (off n : Nat) | chunk (off : Nat) (data : List Byte) (barrier : Option Nat) | ended (barrier : Option Nat) (left : Nat) (failed : Bool)
deriving DecidableEq, Repr

/-- A request of a collective of another device (19 R340, R346): the device, the GTS beat in which its command issued
(09 R219), the owner slot, the group as the issuer holds it, and the member core here. -/
structure PeerRequest where
  dev : Nat
  issued : Nat
  owner : Nat
  group : Nat
  tag : BitVec 32
  members : List (Nat × Nat)
  core : Nat
  ask : PeerAsk
deriving DecidableEq, Repr

/-- What the Splicer of another device does to an owner that lies on both (02 R47): a freeze from beat g, a thaw in beat g,
a re-phase begun, its abandonment, a pre-emption into a context with its freeze in beat g. -/
inductive PeerOrder where
  | freeze (g : Nat) | thaw (g : Nat) | rephase (delta wait : Nat) | abandon | prept (ctx g : Nat)
deriving DecidableEq, Repr

/-- The request that COLL_REQUEST_ARRIVES is about: one of work of this device, or one of another device's. -/
inductive CollAsk where
  | own (work : Nat) | peer (q : PeerRequest)
deriving DecidableEq, Repr

/-- The transfer that LINK_FLIT_STEP is about: a step of work of this device, or an owner's transfer between other devices, which
comes in by a port on its way to its destination (24 R412). -/
inductive LinkStep where
  | own (work : Nat) | transit (port owner dest : Nat) (data : List Byte)
deriving DecidableEq, Repr

/-- What an SPDM request asks (24 R394, R406): to set IDE keys, the measurements, the identity certificate chain. -/
inductive SpdmAsk where
  | keys | measurements | certificates
deriving DecidableEq, Repr

/-- Who reaches BAR0 (24 R396): a tenant's host software, the hypervisor, the control cluster. -/
inductive Requester where
  | host | hypervisor | control
deriving DecidableEq, Repr

/-- What FREEZE_BEGIN is about: an owner whose beat g has come, or what another device's Splicer begins for it. -/
inductive FreezeAsk where
  | own (owner : Nat) | peer (owner : Nat) (q : PeerOrder)
deriving DecidableEq, Repr

/-- A control register that REGISTER_WRITE names: a control-cluster CSR of a core, a strand, a
stack, a partition or the device (23 R392, 09 R206, 08 R199, 11 R250), or an offset of a
partition's control register block (24 R401). -/
inductive CtlReg where
  | enwt (core n : Nat)
  | htbase (part : Nat)
  | htlen (part : Nat)
  | s2root (part : Nat)
  | s1root (owner : Nat)
  | msel
  | faqbase
  | faqtail
  | hotctl
  | hotfq
  | block (part off : Nat)
  | route (dev port : Nat)
  /-- Not a register: the resident kernel moves the bytes at an offset of a handle's tensor out by an Ethernet port, or the
  bytes that came in to it, for an owner (24 R405; log 90). -/
  | ether (port owner : Nat) (handle : BitVec 64) (off : Nat) (out : Bool) (data : List Byte)
  /-- Not a register: the loader writes an image's .buffer data into a buffer (none is CBUF) of each of an owner's cores,
  before its origin (04 R80; 21 R358; log 92). -/
  | buffer (owner : Nat) (buf : Option Buf) (off : Nat) (data : List Byte)
  /-- A read of a control-cluster CSR by its number (08 R199; 09 R206; 23 R392): `at_` names the core, partition or owner slot
  whose register it is, where the number does not. -/
  | read (at_ n : Nat)
  /-- A read or write of eight bytes of BAR0 at an offset (24 R396). -/
  | bar0 (who : Requester) (write : Bool) (off : Nat)
  /-- Not a register: a sector of on-chip storage turns out to hold an uncorrectable error (08 R176; log 85). -/
  | sramError (addr : Nat)
deriving DecidableEq, Repr

/-- Every row of the opcode table. -/
inductive Instr where
  -- scalar (07 R128 to R133)
  | nop (h : Head)
  | add (h : Head) (xd xa xb : Reg)
  | sub (h : Head) (xd xa xb : Reg)
  | and (h : Head) (xd xa xb : Reg)
  | or (h : Head) (xd xa xb : Reg)
  | xor (h : Head) (xd xa xb : Reg)
  | andn (h : Head) (xd xa xb : Reg)
  | shl (h : Head) (xd xa xb : Reg)
  | shr (h : Head) (xd xa xb : Reg)
  | sra (h : Head) (xd xa xb : Reg)
  | min (h : Head) (xd xa xb : Reg)
  | max (h : Head) (xd xa xb : Reg)
  | minn (h : Head) (xd xa xb : Reg)
  | maxn (h : Head) (xd xa xb : Reg)
  | slt (h : Head) (xd xa xb : Reg)
  | sltn (h : Head) (xd xa xb : Reg)
  | addi (h : Head) (xd xa : Reg) (imm : BitVec 48)
  | mul (h : Head) (xd xa xb : Reg)
  | mulh (h : Head) (xd xa xb : Reg)
  | mulhn (h : Head) (xd xa xb : Reg)
  | div (h : Head) (xd xa xb : Reg)
  | divn (h : Head) (xd xa xb : Reg)
  | rem (h : Head) (xd xa xb : Reg)
  | remn (h : Head) (xd xa xb : Reg)
  | li (h : Head) (xd : Reg) (imm : BitVec 48)
  | lih (h : Head) (xd : Reg) (imm : BitVec 16)
  | clz (h : Head) (xd xa : Reg)
  | popc (h : Head) (xd xa : Reg)
  | sext (h : Head) (xd xa : Reg) (w : BitVec 7)
  | zext (h : Head) (xd xa : Reg) (w : BitVec 7)
  | pcmp (h : Head) (pd : BitVec 3) (xa xb : Reg) (cond : Cond)
  | pand (h : Head) (pd pa pb : BitVec 3)
  | por (h : Head) (pd pa pb : BitVec 3)
  | pxor (h : Head) (pd pa pb : BitVec 3)
  | pnot (h : Head) (pd pa : BitVec 3)
  -- transfers and time (07 R134 to R140)
  | br (h : Head) (cond : Cond) (xa xb : Reg) (off : BitVec 32)
  | brp (h : Head) (p : BitVec 3) (off : BitVec 32)
  | brpClr (h : Head) (p : BitVec 3) (off : BitVec 32)
  | jmp (h : Head) (off : BitVec 32)
  | jmpx (h : Head) (xa : Reg) (off : BitVec 32)
  | call (h : Head) (xd : Reg) (off : BitVec 32)
  | ret (h : Head) (xa : Reg)
  | loop (h : Head) (xa : Reg) (len : BitVec 16) (count : BitVec 32)
  | tick (h : Head) (xd : Reg)
  | gtsr (h : Head) (xd : Reg)
  | waitt (h : Head) (xa : Reg)
  | waitc (h : Head) (tok : BitVec 6)
  -- scalar memory, atomics, fences, monitors, barriers (07 R141 to R157)
  | ldx (h : Head) (size : LdSize) (xd xa xb : Reg) (off : BitVec 48)
  | stx (h : Head) (size : StSize) (xd xa xb : Reg) (off : BitVec 48)
  | ldxS (h : Head) (size : LdSize) (xd xa xb : Reg) (off : BitVec 48)
  | chk (h : Head) (xa : Reg)
  | chkG (h : Head) (spec : Spec)
  | sptest (h : Head) (xd xa : Reg)
  | spcast (h : Head) (xd xa : Reg) (win : Win) (p : BitVec 3)
  | amo (h : Head) (op : AmoOp) (size : AmoSize) (xd xa xb xp : Reg)
  | cas (h : Head) (size : AmoSize) (xd xa xb xp : Reg)
  | fence (h : Head) (pred succ : BitVec 6) (scope : Scope)
  | marm (h : Head) (xa : Reg)
  | mwait (h : Head) (xd : Reg)
  | mwaitTimeout (core slot : Nat)
  | txbInit (h : Head) (xa xb : Reg)
  | txbArrive (h : Head) (xa xb : Reg)
  | txbExpect (h : Head) (xa xb : Reg)
  | txbWait (h : Head) (xa xb : Reg)
  -- copies, sections, queues (09, 07 R163 to R166)
  | cpyIn (h : Head) (xd xh xc xs xb : Reg) (t : Toks) (buf : Buf) (pad : Pad) (at64 : BitVec 13)
  | cpyOut (h : Head) (xd xh xc xs xb : Reg) (t : Toks) (buf : Buf) (at64 : BitVec 13)
  | cpyG (h : Head) (xd xh xc xs xb : Reg) (t : Toks) (buf : Buf) (pad : Pad) (at64 : BitVec 13)
  | cpyMC (h : Head) (xd xh xc xs xb : Reg) (t : Toks) (buf : Buf) (pad : Pad) (at64 : BitVec 13)
  | cpyLL (h : Head) (xd xh xs xb : Reg) (t : Toks) (buf : Buf) (at64 : BitVec 13)
  | cpyCancel (h : Head) (tok : BitVec 6)
  | cpyStat (h : Head) (xd : Reg) (tok : BitVec 6)
  | secld (h : Head) (xd xa : Reg) (sec : BitVec 12) (dst : BitVec 14)
  | secwait (h : Head) (sec : BitVec 12) (q : BitVec 2)
  | qpush (h : Head) (xa : Reg)
  -- LD engine (10)
  | vld (h : Head) (d : Spec) (xa : Reg) (off : BitVec 20) (buf : Buf)
  | vlds (h : Head) (d : Spec) (sn : BitVec 4)
  | vldp (h : Head) (d : Spec) (xa xb : Reg) (off : BitVec 32)
  | vldS (h : Head) (d : Spec) (xa xb : Reg) (off : BitVec 32)
  | vgath (h : Head) (d i : Spec) (sn : BitVec 4)
  | qix (h : Head) (i : Spec)
  | sclA (h : Head) (xa : Reg) (sl : BitVec 4) (n : BitVec 6) (g c : BitVec 16)
  | sclB (h : Head) (xa : Reg) (sl : BitVec 4) (n : BitVec 6) (g c : BitVec 16)
  | vbrd (h : Head) (ty : Ty) (d : Spec) (xa : Reg) (off : BitVec 20) (buf : Buf)
  -- ST engine and write lane (11)
  | vst (h : Head) (a : Spec) (xb : Reg) (off : BitVec 20) (buf : Buf)
  | vstp (h : Head) (xd : Reg) (a : Spec) (xb : Reg) (off : BitVec 32)
  | vscat (h : Head) (sn : BitVec 4) (a i : Spec)
  | wst (h : Head) (xd xh xc xs : Reg) (src : Spec)
  | wstG (h : Head) (xd xh xs : Reg) (src : Spec)
  | wstc (h : Head) (xd xh xc : Reg) (t : Toks) (c : BitVec 6) (ty : Ty) (rnd : Rnd) (ovf : Ovf) (nochk : Bool)
  | wdrain (h : Head) (xa : Reg)
  | wbud (h : Head) (xd : Reg)
  | wfence (h : Head) (scope : Scope)
  -- vector engine (13)
  | vadd (h : Head) (ty : Ty) (rnd : Rnd) (ovf : Ovf) (d a b : Spec) (ln : Lanes)
  | vsub (h : Head) (ty : Ty) (rnd : Rnd) (ovf : Ovf) (d a b : Spec) (ln : Lanes)
  | vmul (h : Head) (ty : Ty) (rnd : Rnd) (ovf : Ovf) (d a b : Spec) (ln : Lanes)
  | vfma (h : Head) (ty : Ty) (rnd : Rnd) (ovf : Ovf) (d a b : Spec) (ln : Lanes)
  | vfms (h : Head) (ty : Ty) (rnd : Rnd) (ovf : Ovf) (d a b : Spec) (ln : Lanes)
  | vfnma (h : Head) (ty : Ty) (rnd : Rnd) (ovf : Ovf) (d a b : Spec) (ln : Lanes)
  | vdiv (h : Head) (ty : Ty) (rnd : Rnd) (ovf : Ovf) (d a b : Spec) (ln : Lanes)
  | vsqrt (h : Head) (ty : Ty) (rnd : Rnd) (ovf : Ovf) (d a : Spec) (ln : Lanes)
  | vrcp (h : Head) (ty : Ty) (rnd : Rnd) (ovf : Ovf) (d a : Spec) (ln : Lanes)
  | vrsq (h : Head) (ty : Ty) (rnd : Rnd) (ovf : Ovf) (d a : Spec) (ln : Lanes)
  | vmin (h : Head) (ty : Ty) (d a b : Spec) (ln : Lanes)
  | vmax (h : Head) (ty : Ty) (d a b : Spec) (ln : Lanes)
  | vabs (h : Head) (ty : Ty) (ovf : Ovf) (d a : Spec) (ln : Lanes)
  | vneg (h : Head) (ty : Ty) (ovf : Ovf) (d a : Spec) (ln : Lanes)
  | vcmp (h : Head) (cond : VCond) (ty : Ty) (m : BitVec 2) (a b : Spec) (ln : Lanes)
  | vsel (h : Head) (ty : Ty) (d a b : Spec) (m : BitVec 2)
  | vand (h : Head) (ty : Ty) (d a b : Spec) (ln : Lanes)
  | vor (h : Head) (ty : Ty) (d a b : Spec) (ln : Lanes)
  | vxor (h : Head) (ty : Ty) (d a b : Spec) (ln : Lanes)
  | vshl (h : Head) (ty : Ty) (d a b : Spec) (ln : Lanes)
  | vshr (h : Head) (ty : Ty) (d a b : Spec) (ln : Lanes)
  | vsra (h : Head) (ty : Ty) (d a b : Spec) (ln : Lanes)
  | vcvt (h : Head) (td ts : Ty) (rnd : Rnd) (ovf : Ovf) (d a : Spec) (part : BitVec 3) (ln : Lanes)
  | vred (h : Head) (op : RedOp) (ty : Ty) (rnd : Rnd) (ovf : Ovf) (d a : Spec) (ln : Lanes)
  | vscan (h : Head) (op : ScanOp) (ty : Ty) (rnd : Rnd) (ovf : Ovf) (d a : Spec) (ln : Lanes)
  | vcompact (h : Head) (ty : Ty) (d a : Spec) (ln : Lanes)
  | vperm (h : Head) (ty : Ty) (d a b : Spec) (ln : Lanes)
  | vmov (h : Head) (ty : Ty) (d a : Spec) (ln : Lanes)
  | vmovi (h : Head) (ty : Ty) (d : Spec) (imm : BitVec 32)
  | viota (h : Head) (ty : Ty) (d : Spec) (ln : Lanes)
  | vqpop (h : Head) (ty : Ty) (d : Spec) (ln : Lanes)
  | vlut (h : Head) (ty : Ty) (d a b : Spec) (ln : Lanes)
  | vexp2 (h : Head) (ty : Ty) (rnd : Rnd) (ovf : Ovf) (d a : Spec) (ln : Lanes)
  | vlog2 (h : Head) (ty : Ty) (rnd : Rnd) (ovf : Ovf) (d a : Spec) (ln : Lanes)
  | vclass (h : Head) (ty : Ty) (d a : Spec) (ln : Lanes)
  | vsplitExp (h : Head) (d a : Spec) (ln : Lanes)
  | vsplit (h : Head) (d a b : Spec) (sl : BitVec 4) (ln : Lanes)
  | vcombAcc (h : Head) (d a : Spec) (w : BitVec 4) (q : BitVec 2) (clr : Bool) (ln : Lanes)
  | vcombFin (h : Head) (rnd : Rnd) (ovf : Ovf) (d a b : Spec) (r : BitVec 4) (hh : Bool) (ln : Lanes)
  -- matrix engine and Telltale (14, 15)
  | mma (h : Head) (c : BitVec 6) (sa sb : BitVec 4) (ta tb : Ty) (acc : Acc) (breuse : Bool) (t : Toks)
  | mmas (h : Head) (c : BitVec 6) (sa sb sx : BitVec 4) (ta tb : Ty) (acc : Acc) (breuse : Bool) (t : Toks)
  | mclr (h : Head) (c : BitVec 6)
  | mldc (h : Head) (c : BitVec 6) (src : Spec) (q : BitVec 2)
  | mdrain (h : Head) (c : BitVec 6) (dst : Spec) (q : BitVec 2) (nochk : Bool) (t : Toks)
  | mchk (h : Head) (c : BitVec 6)
  | mcomp (h : Head) (cd cs : BitVec 6) (ty : Ty)
  | mbmp (h : Head) (cd cs : BitVec 6) (ty : Ty) (col : BitVec 5)
  | ttLoc (h : Head) (c : BitVec 6) (xd : Reg)
  | ttFix (h : Head) (c : BitVec 6)
  | ttReplay (h : Head)
  | ctabW (h : Head) (src : Spec)
  | ctabSwap (h : Head)
  -- collective engine (19)
  | clgrp (h : Head) (xd xa : Reg) (g : BitVec 4)
  | clgrpRelease (h : Head) (xd : Reg) (g : BitVec 4)
  | clred (h : Head) (op : CollOp) (td ts : Ty) (g : BitVec 4) (xd xh xc xs xb : Reg) (t : Toks)
  | clbc (h : Head) (g : BitVec 4) (xd xh xc xs xb : Reg) (t : Toks)
  | clstat (h : Head) (xd xa : Reg)
  -- system, CSRs, configuration (07 R158 to R175, 08 R184)
  | trap (h : Head) (n : BitVec 8)
  | eret (h : Head)
  | csrr (h : Head) (xd : Reg) (csr : BitVec 12)
  | csrw (h : Head) (xd xa : Reg) (csr : BitVec 12)
  | csrs (h : Head) (xd xa : Reg) (csr : BitVec 12)
  | csrc (h : Head) (xd xa : Reg) (csr : BitVec 12)
  | halt (h : Head)
  | prept (h : Head) (mask : BitVec 32)
  | yield (h : Head)
  | cropen (h : Head) (n : BitVec 4) (off : BitVec 32)
  | crclose (h : Head) (n : BitVec 4)
  | view (h : Head) (xa : Reg) (sl : BitVec 4) (imm : BitVec 64)
  | scfg (h : Head) (xa : Reg) (sl : BitVec 4) (fld : BitVec 6) (imm : BitVec 64)
  | nestSet (h : Head) (xa : Reg) (lvl : BitVec 4) (fld : BitVec 6) (imm : BitVec 64)
  | nestGo (h : Head)
  | nestStat (h : Head) (xd : Reg)
  -- Splicer and context (21 R360, 08 R198, R200)
  | splAdmit (h : Head) (xd xa : Reg) (sup : Bool) (ndev : BitVec 7) (grp : BitVec 16)
  | splRetire (h : Head) (xd xa : Reg)
  | splRephase (h : Head) (xd xa : Reg) (delta : BitVec 4) (wait : BitVec 24)
  | splFreeze (h : Head) (xd xa : Reg)
  | splThaw (h : Head) (xd xa : Reg)
  | splQuery (h : Head) (xd xa : Reg) (sel : BitVec 4)
  | ctxSave (h : Head) (xd xa : Reg) (prept : Bool)
  | ctxLoad (h : Head) (xd xa : Reg)
  | ctxKill (h : Head) (xd xa : Reg)
  | keyRoll (h : Head) (xd : Reg) (slot : BitVec 8)
  -- events of the machine (95_what_each_step_holds.md)
  | keyRollBlockEnd (core slot : Nat)
  | memoryInterfaceApply (die : Nat)
  | illegalWord (core slot : Nat) (q : SeqId) (w : IWord)
  | pcBound (core slot : Nat) (q : SeqId)
  | istoreEcc (core slot : Nat) (q : SeqId)
  | sectionStart (core slot : Nat) (q : SeqId)
  | blockLimitExpiry (core slot : Nat) (q : SeqId)
  | gtsTick
  | dueResultLands (core slot : Nat)
  | nestShadowLive (core slot : Nat)
  | mdrainDrain (work : Nat)
  | wstcDrain (work : Nat)
  | trapEntry (core slot : Nat)
  | stallEnd (core slot : Nat)
  | replayStall (core slot : Nat)
  | containmentUnwind (core slot region cause : Nat)
  | tlbWalkComplete (walk : Nat)
  | meshFlitStep (work : Nat)
  | linkFlitStep (step : LinkStep)
  | copySectorLands (work : Nat)
  | secldLands (work : Nat)
  | laneBeat (core slot : Nat)
  | laneBudgetRefill (core slot : Nat)
  | wlaneBackpressure (core slot : Nat)
  | chanReadCommand (work : Nat)
  | chanReadDelivery (work : Nat) (corrected uncorrected : Bool)
  | chanWriteCommand (work : Nat)
  | writeQueueDrain (chan : Nat)
  | portResponse (work : Nat)
  | hostMemoryAccess (write : Bool) (addr : Nat) (data : List Byte)
  | refresh (chan : Nat)
  | patrolScrub (chan : Nat) (corrected uncorrected : Bool)
  | patrolPassComplete (chan : Nat)
  | alertBackoff (chan bank : Nat)
  | alertServiceCommand (chan : Nat)
  | spareRowCopy (chan : Nat)
  | spareCopyEscalation (chan : Nat)
  | hotWindowEnd (stack : Nat)
  | hotPageMigrationCopy (stack : Nat)
  | migrationCommit (stack : Nat)
  | hotIneligibleExpiry (stack frame : Nat)
  | collRequestArrives (ask : CollAsk)
  | collChunkLands (work : Nat)
  | haltReported (core slot : Nat)
  | ownerOrigin (owner : Nat)
  | admitTimeout (grp : Nat)
  | freezeBegin (ask : FreezeAsk)
  | thawResume (owner : Nat)
  | rephaseRelease (owner : Nat)
  | rephaseResume (owner : Nat)
  | rephaseAbandon (owner : Nat)
  | preptWindowExpiry (owner : Nat)
  | collectComplete (owner : Nat)
  | contextSaveUnit (owner : Nat)
  | contextLoadUnit (owner : Nat)
  | krecordAppend (part : Nat) (hyper : Bool)
  | kansResume (core slot : Nat)
  | kansDeliver (core slot : Nat)
  | kansSwitchOut (core slot : Nat)
  | kansKill (core slot : Nat)
  | dharv (high group : BitVec 32)
  | tlbinv (part : Nat) (page : Nat) (all : Bool)
  | tlbinvComplete (part : Nat)
  | rcbBind (part : Nat) (value : BitVec 64)
  | pcoreWrite (part m : Nat) (value : BitVec 64)
  | partitionFence (part : Nat)
  | registerWrite (reg : CtlReg) (value : BitVec 64)
  | launchPacket (path : LaunchPath) (window : Nat) (words : List (BitVec 64))
  | launchDispatch (part : Nat)
  | bar2Access (write : Bool) (addr : Nat) (data : List Byte)
  | setDevnum (n : Nat)
  | loadFirmwareImage (image : List Nat) (version : Nat)
  | readBootMeasurements
  | cxlMailboxCommand (opcode payload : Nat)
  | boot
  | alignExchange (port : Nat) (offset : Int) (partner : Nat)
  | alignExchangeMissed (port : Nat)
  | powerBrake (asserted : Bool)
  | spdmRequest (ask : SpdmAsk) (payload : Nat)
  | isavikWrite (dev : Nat) (addr : Nat) (data : List Byte)
  | voltageBinRaise (core : Nat)
deriving DecidableEq, Repr

end Sys2Proof
end

