-- ==== Sys2Proof/Machine/Limits.lean ====
section
/-! DEFINITION. The value limits the entries state for operand fields: which types, policies,
CSR numbers, view descriptors and stream or nest values are listed (04 R62 to R66, R69, R77;
13 R266, R267; 14 R295; 07 R159, R160). WellFormed and the issue checks both cite them. -/

namespace Sys2Proof.Machine

/-- Type code of 04 R63. -/
def tyCode : Ty → BitVec 4
  | .i8 => 0 | .i16 => 1 | .i32 => 2 | .i64 => 3 | .n8 => 4 | .n16 => 5 | .n32 => 6 | .n64 => 7
  | .f64 => 8 | .f32 => 9 | .f16 => 10 | .bf16 => 11 | .tf8 => 12 | .tf6 => 13 | .i4 => 14 | .c4 => 15

/-- The type of a code of 04 R63. -/
def tyOfCode (c : BitVec 4) : Ty :=
  match c.toNat with
  | 0 => .i8 | 1 => .i16 | 2 => .i32 | 3 => .i64 | 4 => .n8 | 5 => .n16 | 6 => .n32 | 7 => .n64
  | 8 => .f64 | 9 => .f32 | 10 => .f16 | 11 => .bf16 | 12 => .tf8 | 13 => .tf6 | 14 => .i4 | _ => .c4

/-- "Integer" types, codes 0x0 to 0x7 (13 R266). -/
def tyIsInt : Ty → Bool
  | .i8 | .i16 | .i32 | .i64 | .n8 | .n16 | .n32 | .n64 => true
  | _ => false

/-- Signed integer types. -/
def tyIsSigned : Ty → Bool
  | .i8 | .i16 | .i32 | .i64 => true
  | _ => false

/-- "Float" types, codes 0x8 to 0xB (13 R266). -/
def tyIsFloat : Ty → Bool
  | .f64 | .f32 | .f16 | .bf16 => true
  | _ => false

/-- "Bits" types, codes 0x0 to 0xC (13 R266). -/
def tyIsBits : Ty → Bool
  | .tf6 | .i4 | .c4 => false
  | _ => true

/-- Element size in bytes (13 R264, 09 R205: packed types count bytes). -/
def tySize : Ty → Nat
  | .i8 | .n8 | .tf8 | .tf6 | .i4 | .c4 => 1
  | .i16 | .n16 | .f16 | .bf16 => 2
  | .i32 | .n32 | .f32 => 4
  | .i64 | .n64 | .f64 => 8

/-- The CSR numbers a core can name (07 R170, 08 R182, R199, 11 R250, 14 R313, 15 R320, R322, R328,
20 R351, 24 R399). Class 11 numbers are never reached by a core (04 R77), so PRIV precedes. -/
def csrListed (n : BitVec 12) : Bool :=
  let k := n.toNat
  k == 0x001 || k == 0x002 || k == 0x003 || k == 0x010 || k == 0x011 || k == 0x012 || k == 0x013 ||
  k == 0x014 || k == 0x040 || k == 0x041 || k == 0x042 || k == 0x043 || k == 0x044 ||
  k == 0x400 || k == 0x401 || k == 0x402 || k == 0x403 || k == 0x404 || k == 0x410 || k == 0x411 ||
  k == 0x412 || k == 0x420 || k == 0x421 || k == 0x422 || k == 0x430 || k == 0x440 || k == 0x441 ||
  k == 0x442 || k == 0x443 || k == 0x800 || k == 0x801 || decide (0xC00 ≤ k)

/-- A view descriptor with no reserved value (04 R69): bits 63:47 zero, LIMIT 1 to 256, LOGE at
most 10, BASE bits 5:0 zero. -/
def viewListed (v : BitVec 64) : Bool :=
  let limit := (v.extractLsb' 36 9).toNat
  decide (v.toNat < 2 ^ 47) && decide (1 ≤ limit) && decide (limit ≤ 256) &&
    decide ((v.extractLsb' 16 4).toNat ≤ 10) && (v.extractLsb' 0 6 == 0#6)

/-- Width in bits of each stream field (07 R159). -/
def streamFieldBits : Nat → Nat
  | 0 => 2 | 2 => 4 | 3 => 1 | 7 => 1 | _ => 20

/-- A value SCFG accepts for a field (07 R159, 10 R228): no wider than the field, BUF 0 or 1,
BASE and LPOFF 64-byte aligned. -/
def streamValueListed (fld : Nat) (v : BitVec 64) : Bool :=
  decide (fld ≤ 9) && decide (v.toNat < 2 ^ streamFieldBits fld) &&
    (fld != 0 || decide (v.toNat ≤ 1)) &&
    (!(fld == 1 || fld == 9) || (v.extractLsb' 0 6 == 0#6))

/-- A value NEST.SET accepts for a field (07 R160): COUNT 1 to 2^32 - 1, a step in the signed
32-bit range. -/
def nestValueListed (fld : Nat) (v : BitVec 64) : Bool :=
  if fld = 0 then decide (1 ≤ v.toNat) && decide (v.toNat < 2 ^ 32)
  else decide (0x10 ≤ fld) && decide (fld ≤ 0x1F) &&
    decide (-(2 : Int) ^ 31 ≤ v.toInt) && decide (v.toInt < (2 : Int) ^ 31)

/-- The operand type pairs of an MMA (14 R295). -/
def mmaTypes (ta tb : Ty) : Bool :=
  match ta, tb with
  | .tf8, .tf8 | .tf8, .tf6 | .tf6, .tf8 | .tf6, .tf6 => true
  | .bf16, .bf16 | .bf16, .f16 | .f16, .bf16 | .f16, .f16 => true
  | .c4, .c4 | .i8, .i8 | .i4, .i4 => true
  | _, _ => false

/-- The operand type pairs of an MMAS (14 R295, R305). -/
def mmasTypes (ta tb : Ty) : Bool :=
  match ta, tb with
  | .tf8, .tf8 | .i8, .i8 => true
  | _, _ => false

/-- Destination types of WSTC (11 R257). -/
def wstcType : Ty → Bool
  | .f32 | .f16 | .bf16 | .tf8 | .i32 | .i16 | .i8 => true
  | _ => false

/-- Source types of CLRED (19 R341). -/
def clredSource : Ty → Bool
  | .i32 | .f32 | .f16 | .bf16 => true
  | _ => false

/-- Type pairs of CLRED: Td is F32 or Ts, and I32 goes only to I32 (19 R341). -/
def clredTypes (td ts : Ty) : Bool :=
  clredSource ts && (if ts = .i32 then td == .i32 else (td == .f32 || td == ts))

/-- VCVT's types and part (13 R266, R278). -/
def vcvtListed (td ts : Ty) (part : BitVec 3) : Bool :=
  tyIsBits td && tyIsBits ts && td != ts &&
    decide (part.toNat < Nat.max (tySize td) (tySize ts) / Nat.min (tySize td) (tySize ts))

/-- RND must be 000 unless the form rounds (04 R64, 13 R267). -/
def rndOk (rounds : Bool) (r : Rnd) : Bool := rounds || r == .rn

end Sys2Proof.Machine
end

