-- ==== Sys2Proof/WellFormed.lean ====
section
/-! DEFINITION. Which terms of Instr are instructions: every value within the limits its entry
states (04 R70 step 4). Events are well formed whatever they name: an event that names nothing has
no effect. -/

namespace Sys2Proof

open Machine

/-- A C tile number (04 R62). -/
def tileOk (c : BitVec 6) : Bool := decide (c.toNat < 32)

/-- Well-formedness of an instruction word or event. -/
def Instr.wf : Instr → Bool
  | .sext _ _ _ w | .zext _ _ _ w => decide (1 ≤ w.toNat) && decide (w.toNat ≤ 64)
  | .loop _ xa len count => decide (1 ≤ len.toNat) && decide (len.toNat ≤ 4095) && (xa == 0#6 || count == 0#32)
  | .ldx _ _ xd _ xb _ | .ldxS _ _ xd _ xb _ => xd == 0#6 || xd != xb
  | .amo _ _ _ xd _ _ xp => xd == 0#6 || xd != xp
  | .cas _ _ xd _ _ xp => xd == 0#6 || xd != xp
  | .fence _ p s _ => p != 0#6 && s != 0#6
  | .cpyG _ _ _ xc _ _ _ _ _ _ => xc != 0#6 && xc.extractLsb' 0 3 == 0#3
  | .sclA _ xa _ n g c | .sclB _ xa _ n g c =>
    decide (1 ≤ n.toNat) && decide (n.toNat ≤ 32) && (xa == 0#6 || (g == 0#16 && c == 0#16))
  | .vbrd _ ty _ _ _ _ => tyIsBits ty
  | .wstc _ _ _ _ _ c ty _ ovf _ => tileOk c && wstcType ty && ovf != .trap
  | .vadd _ ty r _ _ _ _ _ | .vsub _ ty r _ _ _ _ _ | .vmul _ ty r _ _ _ _ _ =>
    (tyIsInt ty || tyIsFloat ty) && rndOk (tyIsFloat ty) r
  | .vfma _ ty _ _ _ _ _ _ | .vfms _ ty _ _ _ _ _ _ | .vfnma _ ty _ _ _ _ _ _ | .vdiv _ ty _ _ _ _ _ _ => tyIsFloat ty
  | .vsqrt _ ty _ _ _ _ _ | .vrcp _ ty _ _ _ _ _ | .vrsq _ ty _ _ _ _ _ | .vexp2 _ ty _ _ _ _ _
  | .vlog2 _ ty _ _ _ _ _ => tyIsFloat ty
  | .vmin _ ty _ _ _ _ | .vmax _ ty _ _ _ _ => tyIsInt ty || tyIsFloat ty
  | .vabs _ ty ovf _ _ _ | .vneg _ ty ovf _ _ _ => tyIsInt ty || (tyIsFloat ty && ovf == .sat)
  | .vcmp _ _ ty _ _ _ _ => tyIsInt ty || tyIsFloat ty
  | .vsel _ ty _ _ _ _ => tyIsBits ty
  | .vand _ ty _ _ _ _ | .vor _ ty _ _ _ _ | .vxor _ ty _ _ _ _ => tyIsInt ty
  | .vshl _ ty _ _ _ _ | .vshr _ ty _ _ _ _ | .vsra _ ty _ _ _ _ => tyIsInt ty
  | .vcvt _ td ts _ _ _ _ part _ => vcvtListed td ts part
  | .vred _ op ty r _ _ _ _ =>
    (match op with
      | .add | .min | .max => tyIsInt ty || tyIsFloat ty
      | .and | .or | .xor => tyIsInt ty) && rndOk (op == .add && tyIsFloat ty) r
  | .vscan _ op ty r _ _ _ _ => (tyIsInt ty || tyIsFloat ty) && rndOk (op == .add && tyIsFloat ty) r
  | .vcompact _ ty _ _ _ | .vmov _ ty _ _ _ => tyIsBits ty
  | .vperm _ ty _ _ _ _ | .vlut _ ty _ _ _ _ => tyIsBits ty
  | .vmovi _ ty _ _ => tyIsBits ty
  | .viota _ ty _ _ => tyIsInt ty
  | .vqpop _ ty _ _ => tyIsBits ty
  | .vclass _ ty _ _ _ => tyIsFloat ty
  | .vsplit _ _ _ _ s _ => decide (3 ≤ s.toNat) && decide (s.toNat ≤ 8)
  | .vcombAcc _ _ _ w _ _ _ => decide (2 ≤ w.toNat) && decide (w.toNat ≤ 9)
  | .mma _ c _ _ ta tb _ _ _ => tileOk c && mmaTypes ta tb
  | .mmas _ c _ _ _ ta tb _ _ _ => tileOk c && mmasTypes ta tb
  | .mclr _ c | .mchk _ c | .ttFix _ c => tileOk c
  | .mldc _ c _ _ => tileOk c
  | .mdrain _ c _ _ _ _ => tileOk c
  | .mcomp _ cd cs ty => tileOk cd && tileOk cs && (ty == .f32 || ty == .i32)
  | .mbmp _ cd cs ty _ => tileOk cd && tileOk cs && (ty == .tf8 || ty == .tf6 || ty == .bf16 || ty == .f16)
  | .ttLoc _ c _ => tileOk c
  | .clred _ _ td ts _ _ _ _ _ _ _ => clredTypes td ts
  | .csrr _ _ csr => csrListed csr
  | .csrw _ _ _ csr | .csrs _ _ _ csr | .csrc _ _ _ csr => csrListed csr
  | .cropen _ n _ => decide (n.toNat < 8)
  | .view _ xa _ imm => if xa = 0#6 then viewListed imm else imm == 0#64
  | .scfg _ xa _ fld imm =>
    decide (fld.toNat ≤ 9) && (if xa = 0#6 then streamValueListed fld.toNat imm else imm == 0#64)
  | .nestSet _ xa lvl fld imm =>
    decide (lvl.toNat ≤ 5) && (fld == 0#6 || (decide (0x10 ≤ fld.toNat) && decide (fld.toNat ≤ 0x1F))) &&
      (if xa = 0#6 then nestValueListed fld.toNat imm else imm == 0#64)
  | .splAdmit _ _ _ _ ndev grp => ndev != 0#7 && (ndev == 1#7 || grp != 0#16)
  | .splRephase _ _ _ delta _ => delta != 0#4
  | .splQuery _ _ _ sel => decide (sel.toNat ≤ 3)
  | _ => true

/-- Well-formed instructions, as a proposition. -/
abbrev Instr.WF (i : Instr) : Prop := i.wf = true

end Sys2Proof
end

