-- ==== Sys2Proof/Decode.lean ====
section
/-! DEFINITION. The decoder of 96-bit words and, after it, the encoder, both from the format tables
of 04 R58 to R66 and R76 and the field tables of the engine chapters. `parse` reads the fields;
`decode` keeps a parse only if it is well formed and encodes back to the very word, so a word with a
nonzero reserved field or an unlisted coded value is refused (04 R70 step 4, R71). -/

namespace Sys2Proof

open Machine

/-! ### Bit fields of the formats (04 R58, R61) -/

/-- Opcode, bits 95:88 (04 R58). -/
def wOpc (w : IWord) : BitVec 8 := w.extractLsb' 88 8
/-- Token and predicate bits, 87:80 (04 R58). -/
def wHead (w : IWord) : Head :=
  { pf := w.extractLsb' 87 1 == 1#1, pb := w.extractLsb' 86 1 == 1#1, wf := w.extractLsb' 85 1 == 1#1,
    wb := w.extractLsb' 84 1 == 1#1, pneg := w.extractLsb' 83 1 == 1#1, psel := w.extractLsb' 80 3 }
/-- First register field, bits 79:74 (S, Q and Y xd; B and N xa; M tile). -/
def wR1 (w : IWord) : BitVec 6 := w.extractLsb' 74 6
/-- Second register field, bits 73:68 (S and Y xa; B xb; Q xh). -/
def wR2 (w : IWord) : BitVec 6 := w.extractLsb' 68 6
/-- Third register field, bits 67:62 (S xb; Q xc). -/
def wR3 (w : IWord) : BitVec 6 := w.extractLsb' 62 6
/-- Fourth register field, bits 61:56 (S SUB; Q xs). -/
def wR4 (w : IWord) : BitVec 6 := w.extractLsb' 56 6
/-- Q format xb, bits 55:50. -/
def wQb (w : IWord) : BitVec 6 := w.extractLsb' 50 6
/-- IMM48, bits 47:0 (S and Y). -/
def wImm48 (w : IWord) : BitVec 48 := w.extractLsb' 0 48
/-- V format specifiers d, a and b (04 R61). -/
def wD (w : IWord) : Spec := w.extractLsb' 68 12
def wA (w : IWord) : Spec := w.extractLsb' 56 12
def wB (w : IWord) : Spec := w.extractLsb' 44 12
/-- V format TYPE, bits 43:40. -/
def wTy (w : IWord) : Ty := tyOfCode (w.extractLsb' 40 4)

/-! ### Coded values -/

/-- One bit of a flag. -/
def bit (b : Bool) : BitVec 1 := if b then 1#1 else 0#1
/-- RND code (04 R64). -/
def rndCode : Rnd → BitVec 3
  | .rn => 0 | .rz => 1 | .rd => 2 | .rp => 3 | .ra => 4 | .rdyn => 7
/-- RND of a code; 101 and 110 are reserved (04 R64). -/
def rndOf (c : BitVec 3) : Option Rnd :=
  match c.toNat with
  | 0 => some .rn | 1 => some .rz | 2 => some .rd | 3 => some .rp | 4 => some .ra | 7 => some .rdyn
  | _ => none
/-- OVF code (04 R64). -/
def ovfCode : Ovf → BitVec 2 | .sat => 0 | .inf => 1 | .nan => 2 | .trap => 3
/-- OVF of a code (04 R64). -/
def ovfOf (c : BitVec 2) : Ovf :=
  match c.toNat with | 0 => .sat | 1 => .inf | 2 => .nan | _ => .trap
/-- COND code (04 R66). -/
def condCode : Cond → BitVec 4 | .eq => 0 | .ne => 1 | .lt => 2 | .ge => 3 | .ltn => 4 | .gen => 5
/-- COND of a code; 0x6 to 0xF are reserved (04 R66). -/
def condOf (c : BitVec 4) : Option Cond :=
  match c.toNat with
  | 0 => some .eq | 1 => some .ne | 2 => some .lt | 3 => some .ge | 4 => some .ltn | 5 => some .gen
  | _ => none
/-- VCMP SUB (04 R76). -/
def vcondCode : VCond → BitVec 3 | .eq => 0 | .ne => 1 | .lt => 2 | .le => 3 | .un => 4
/-- VCMP condition of a SUB value (13 R275). -/
def vcondOf (c : BitVec 3) : Option VCond :=
  match c.toNat with
  | 0 => some .eq | 1 => some .ne | 2 => some .lt | 3 => some .le | 4 => some .un | _ => none
/-- Lane selection code (04 R65). -/
def lanesCode : Lanes → BitVec 3
  | .all => 0#3
  | .mk n => 1#1 ++ n
/-- Lane selection of a code; 001 to 011 are reserved (04 R65). -/
def lanesOf (c : BitVec 3) : Option Lanes :=
  if c = 0#3 then some .all
  else if c.extractLsb' 2 1 = 1#1 then some (.mk (c.extractLsb' 0 2)) else none
/-- LDX SUB (04 R76). -/
def ldCode : LdSize → BitVec 6
  | .s8 => 0 | .s16 => 1 | .s32 => 2 | .s64 => 3 | .n8 => 4 | .n16 => 5 | .n32 => 6
/-- LDX size of a SUB value. -/
def ldOf (c : BitVec 6) : Option LdSize :=
  match c.toNat with
  | 0 => some .s8 | 1 => some .s16 | 2 => some .s32 | 3 => some .s64 | 4 => some .n8
  | 5 => some .n16 | 6 => some .n32 | _ => none
/-- STX SUB (04 R76). -/
def stCode : StSize → BitVec 6 | .s8 => 0 | .s16 => 1 | .s32 => 2 | .s64 => 3
/-- STX size of a SUB value. -/
def stOf (c : BitVec 6) : Option StSize :=
  match c.toNat with
  | 0 => some .s8 | 1 => some .s16 | 2 => some .s32 | 3 => some .s64 | _ => none
/-- AMO SUB (04 R76). -/
def amoCode : AmoOp → BitVec 6
  | .add => 0 | .min => 1 | .max => 2 | .minn => 3 | .maxn => 4 | .and => 5 | .or => 6 | .xor => 7
  | .swap => 8
/-- AMO operation of a SUB value. -/
def amoOf (c : BitVec 6) : Option AmoOp :=
  match c.toNat with
  | 0 => some .add | 1 => some .min | 2 => some .max | 3 => some .minn | 4 => some .maxn
  | 5 => some .and | 6 => some .or | 7 => some .xor | 8 => some .swap | _ => none
/-- Size bits of an atomic (07 R150). -/
def amoSizeCode : AmoSize → BitVec 2 | .w32 => 2 | .w64 => 3
/-- Atomic size; 0 and 1 are reserved (07 R150). -/
def amoSizeOf (c : BitVec 2) : Option AmoSize :=
  match c.toNat with | 2 => some .w32 | 3 => some .w64 | _ => none
/-- Scope code (04 R76). -/
def scopeCode : Scope → BitVec 3 | .core => 0 | .clu => 1 | .die => 2 | .pkg => 3 | .sys => 4
/-- Scope of a code; 5 to 7 are reserved (11 R258). -/
def scopeOf (c : BitVec 3) : Option Scope :=
  match c.toNat with
  | 0 => some .core | 1 => some .clu | 2 => some .die | 3 => some .pkg | 4 => some .sys | _ => none
/-- Near buffer code of DIR (09 R211) and of the SUB of VLD, VBRD and VST (10 R234). -/
def bufCode2 : Buf → BitVec 2 | .wbuf => 0 | .abuf => 1
def bufOf2 (c : BitVec 2) : Option Buf := match c.toNat with | 0 => some .wbuf | 1 => some .abuf | _ => none
def bufCode3 : Buf → BitVec 3 | .wbuf => 0 | .abuf => 1
def bufOf3 (c : BitVec 3) : Option Buf := match c.toNat with | 0 => some .wbuf | 1 => some .abuf | _ => none
/-- PAD bits 23:22 (09 R210). -/
def padCode : Pad → BitVec 2 | .handle => 0 | .zero => 1 | .clamp => 2
def padOf (c : BitVec 2) : Option Pad :=
  match c.toNat with | 0 => some .handle | 1 => some .zero | 2 => some .clamp | _ => none
/-- Window codes (07 R141). -/
def winCode : Win → BitVec 8 | .global => 0 | .cluster => 0xC0 | .scratch => 0xD0 | .priv => 0xE0
def winOf (c : BitVec 8) : Option Win :=
  match c.toNat with
  | 0 => some .global | 0xC0 => some .cluster | 0xD0 => some .scratch | 0xE0 => some .priv | _ => none
/-- VRED SUB (04 R76). -/
def redCode : RedOp → BitVec 3 | .add => 0 | .min => 1 | .max => 2 | .and => 3 | .or => 4 | .xor => 5
def redOf (c : BitVec 3) : Option RedOp :=
  match c.toNat with
  | 0 => some .add | 1 => some .min | 2 => some .max | 3 => some .and | 4 => some .or | 5 => some .xor
  | _ => none
/-- VSCAN SUB (04 R76). -/
def scanCode : ScanOp → BitVec 3 | .add => 0 | .min => 1 | .max => 2
def scanOf (c : BitVec 3) : Option ScanOp :=
  match c.toNat with | 0 => some .add | 1 => some .min | 2 => some .max | _ => none
/-- CLRED op (19 R341). -/
def collCode : CollOp → BitVec 2 | .add => 0 | .min => 1 | .max => 2
def collOf (c : BitVec 2) : Option CollOp :=
  match c.toNat with | 0 => some .add | 1 => some .min | 2 => some .max | _ => none
/-- ACC (14 R297). -/
def accCode : Acc → BitVec 4 | .add => 0 | .set => 1 | .sub => 2
def accOf (c : BitVec 4) : Option Acc :=
  match c.toNat with | 0 => some .add | 1 => some .set | 2 => some .sub | _ => none
/-- Sequencer codes of SECWAIT (07 R165). -/
def seqOf (c : BitVec 2) : SeqId :=
  match c.toNat with | 0 => .ct | 1 => .ld | 2 => .cp | _ => .st

/-! ### The parser -/

/-- Token fields of an M-format word (04 R61). -/
def wToksM (w : IWord) : Toks :=
  ⟨w.extractLsb' 28 6, w.extractLsb' 22 6, w.extractLsb' 16 6, w.extractLsb' 34 6⟩
/-- Token fields of a Q-format word (04 R61). -/
def wToksQ (w : IWord) : Toks :=
  ⟨w.extractLsb' 44 6, w.extractLsb' 38 6, w.extractLsb' 32 6, w.extractLsb' 26 6⟩

/-- Opcodes 0x00 to 0x1F (04 R76). -/
def parseScalar (w : IWord) : Option Instr :=
  let h := wHead w
  let d := wR1 w
  let a := wR2 w
  let b := wR3 w
  let sub := (wR4 w).toNat
  let off : BitVec 32 := w.extractLsb' 0 32
  let p3 : BitVec 3 := w.extractLsb' 74 3
  let pa : BitVec 3 := w.extractLsb' 68 3
  let pb : BitVec 3 := w.extractLsb' 62 3
  let cond : BitVec 4 := w.extractLsb' 64 4
  match (wOpc w).toNat with
  | 0x00 => some (.nop h)
  | 0x01 =>
    match sub with
    | 0 => some (.add h d a b) | 1 => some (.sub h d a b) | 2 => some (.and h d a b)
    | 3 => some (.or h d a b) | 4 => some (.xor h d a b) | 5 => some (.andn h d a b)
    | 6 => some (.shl h d a b) | 7 => some (.shr h d a b) | 8 => some (.sra h d a b)
    | 9 => some (.min h d a b) | 10 => some (.max h d a b) | 11 => some (.minn h d a b)
    | 12 => some (.maxn h d a b) | 13 => some (.slt h d a b) | 14 => some (.sltn h d a b)
    | _ => none
  | 0x02 => some (.addi h d a (wImm48 w))
  | 0x03 =>
    match sub with
    | 0 => some (.mul h d a b) | 1 => some (.mulh h d a b) | 2 => some (.mulhn h d a b) | _ => none
  | 0x04 =>
    match sub with
    | 0 => some (.div h d a b) | 1 => some (.divn h d a b) | 2 => some (.rem h d a b)
    | 3 => some (.remn h d a b) | _ => none
  | 0x05 =>
    match sub with
    | 0 => some (.li h d (wImm48 w)) | 1 => some (.lih h d (w.extractLsb' 0 16)) | _ => none
  | 0x06 =>
    match sub with
    | 0 => some (.clz h d a) | 1 => some (.popc h d a)
    | 2 => some (.sext h d a (w.extractLsb' 0 7)) | 3 => some (.zext h d a (w.extractLsb' 0 7))
    | _ => none
  | 0x07 =>
    match sub with
    | 0 => (condOf (w.extractLsb' 0 4)).map (.pcmp h p3 a b ·)
    | 1 => some (.pand h p3 pa pb) | 2 => some (.por h p3 pa pb) | 3 => some (.pxor h p3 pa pb)
    | 4 => some (.pnot h p3 pa)
    | _ => none
  | 0x10 => (condOf cond).map (.br h · d a off)
  | 0x11 =>
    match cond.toNat with
    | 0 => some (.brp h p3 off) | 1 => some (.brpClr h p3 off) | _ => none
  | 0x12 => some (.jmp h off)
  | 0x13 => some (.jmpx h d off)
  | 0x14 => some (.call h d off)
  | 0x15 => some (.ret h d)
  | 0x16 => some (.loop h a (w.extractLsb' 32 16) off)
  | 0x18 => some (.tick h d)
  | 0x19 => some (.gtsr h d)
  | 0x1A => some (.waitt h a)
  | 0x1B => some (.waitc h (w.extractLsb' 0 6))
  | _ => none

/-- Opcodes 0x20 to 0x3F (04 R76). -/
def parseMem (w : IWord) : Option Instr :=
  let h := wHead w
  let d := wR1 w
  let a := wR2 w
  let b := wR3 w
  let sub := wR4 w
  let t := wToksQ w
  let buf := bufOf2 (w.extractLsb' 24 2)
  let pad := padOf (w.extractLsb' 22 2)
  let at64 : BitVec 13 := w.extractLsb' 0 13
  match (wOpc w).toNat with
  | 0x20 => (ldOf sub).map (.ldx h · d a b (wImm48 w))
  | 0x21 => (stOf sub).map (.stx h · d a b (wImm48 w))
  | 0x22 => (ldOf sub).map (.ldxS h · d a b (wImm48 w))
  | 0x23 =>
    match sub.toNat with
    | 0 => some (.chk h a) | 1 => some (.chkG h (w.extractLsb' 0 12)) | _ => none
  | 0x24 => some (.sptest h d a)
  | 0x25 => (winOf (w.extractLsb' 0 8)).map (.spcast h d a · (w.extractLsb' 8 3))
  | 0x26 =>
    match amoOf sub, amoSizeOf (w.extractLsb' 6 2) with
    | some o, some z => some (.amo h o z d a b (w.extractLsb' 0 6)) | _, _ => none
  | 0x27 => (amoSizeOf (w.extractLsb' 6 2)).map (.cas h · d a b (w.extractLsb' 0 6))
  | 0x28 => (scopeOf (w.extractLsb' 16 3)).map (.fence h (w.extractLsb' 0 6) (w.extractLsb' 8 6) ·)
  | 0x29 => some (.marm h a)
  | 0x2A => some (.mwait h d)
  | 0x2B =>
    match sub.toNat with
    | 0 => some (.txbInit h a b) | 1 => some (.txbArrive h a b) | 2 => some (.txbExpect h a b)
    | 3 => some (.txbWait h a b) | _ => none
  | 0x30 =>
    match buf, pad with
    | some u, some p => some (.cpyIn h d a b sub (wQb w) t u p at64) | _, _ => none
  | 0x31 => buf.map (.cpyOut h d a b sub (wQb w) t · at64)
  | 0x32 =>
    match buf, pad with
    | some u, some p => some (.cpyG h d a b sub (wQb w) t u p at64) | _, _ => none
  | 0x33 =>
    match buf, pad with
    | some u, some p => some (.cpyMC h d a b sub (wQb w) t u p at64) | _, _ => none
  | 0x34 => buf.map (.cpyLL h d a sub (wQb w) t · at64)
  | 0x35 => some (.cpyCancel h (w.extractLsb' 0 6))
  | 0x36 => some (.cpyStat h d (w.extractLsb' 0 6))
  | 0x38 => some (.secld h d a (w.extractLsb' 0 12) (w.extractLsb' 16 14))
  | 0x39 => some (.secwait h (w.extractLsb' 0 12) (w.extractLsb' 12 2))
  | 0x3A => some (.qpush h a)
  | _ => none

/-- Opcodes 0x40 to 0x5F: the LD and ST engines (10 R234, R242; 11 R251, R255, R258). -/
def parseLdSt (w : IWord) : Option Instr :=
  let h := wHead w
  let d := wD w
  let a := wA w
  let dx : Reg := w.extractLsb' 68 6
  let ax : Reg := w.extractLsb' 56 6
  let bx : Reg := w.extractLsb' 44 6
  let sub : BitVec 3 := w.extractLsb' 32 3
  let off20 : BitVec 20 := w.extractLsb' 0 20
  let off32 : BitVec 32 := w.extractLsb' 0 32
  match (wOpc w).toNat with
  | 0x40 => (bufOf3 sub).map (.vld h d ax off20 ·)
  | 0x41 => some (.vlds h d (w.extractLsb' 56 4))
  | 0x42 => some (.vldp h d ax bx off32)
  | 0x43 => some (.vldS h d ax bx off32)
  | 0x44 => some (.vgath h d a (w.extractLsb' 44 4))
  | 0x45 => some (.qix h a)
  | 0x46 => some (.sclA h (wR1 w) (w.extractLsb' 70 4) (w.extractLsb' 64 6) (w.extractLsb' 16 16) (w.extractLsb' 0 16))
  | 0x47 => some (.sclB h (wR1 w) (w.extractLsb' 70 4) (w.extractLsb' 64 6) (w.extractLsb' 16 16) (w.extractLsb' 0 16))
  | 0x48 => (bufOf3 sub).map (.vbrd h (wTy w) d ax off20 ·)
  | 0x50 => (bufOf3 sub).map (.vst h a bx off20 ·)
  | 0x51 => some (.vstp h dx a bx off32)
  | 0x52 => some (.vscat h (w.extractLsb' 68 4) a (wB w))
  | 0x53 =>
    if w.extractLsb' 12 1 = 0#1 then some (.wst h (wR1 w) (wR2 w) (wR3 w) (wR4 w) (w.extractLsb' 0 12))
    else some (.wstG h (wR1 w) (wR2 w) (wR4 w) (w.extractLsb' 0 12))
  | 0x54 => (rndOf (w.extractLsb' 10 3)).map
      (.wstc h (wR1 w) (wR2 w) (wR3 w) (wToksQ w) (w.extractLsb' 0 6) (tyOfCode (w.extractLsb' 6 4)) ·
        (ovfOf (w.extractLsb' 13 2)) (w.extractLsb' 15 1 == 1#1))
  | 0x55 => some (.wdrain h (wR2 w))
  | 0x56 => some (.wbud h (wR1 w))
  | 0x57 => (scopeOf (w.extractLsb' 16 3)).map (.wfence h ·)
  | _ => none

/-- Opcodes 0x60 to 0x9F: the vector engine (13). -/
def parseVec (w : IWord) : Option Instr :=
  let h := wHead w
  let d := wD w
  let a := wA w
  let b := wB w
  let ty := wTy w
  let o := ovfOf (w.extractLsb' 38 2)
  let sub : BitVec 3 := w.extractLsb' 32 3
  match rndOf (w.extractLsb' 35 3) with
  | none => none
  | some r =>
  let ln := lanesOf (w.extractLsb' 0 3)
  match (wOpc w).toNat with
  | 0x60 => ln.map (.vadd h ty r o d a b ·)
  | 0x61 => ln.map (.vsub h ty r o d a b ·)
  | 0x62 => ln.map (.vmul h ty r o d a b ·)
  | 0x63 => ln.map (.vfma h ty r o d a b ·)
  | 0x64 => ln.map (.vfms h ty r o d a b ·)
  | 0x65 => ln.map (.vfnma h ty r o d a b ·)
  | 0x66 => ln.map (.vdiv h ty r o d a b ·)
  | 0x67 => ln.map (.vsqrt h ty r o d a ·)
  | 0x68 => ln.map (.vrcp h ty r o d a ·)
  | 0x69 => ln.map (.vrsq h ty r o d a ·)
  | 0x6A => ln.map (.vmin h ty d a b ·)
  | 0x6B => ln.map (.vmax h ty d a b ·)
  | 0x6C => ln.map (.vabs h ty o d a ·)
  | 0x6D => ln.map (.vneg h ty o d a ·)
  | 0x6E =>
    match vcondOf sub, ln with
    | some c, some l => some (.vcmp h c ty (w.extractLsb' 68 2) a b l) | _, _ => none
  | 0x6F => some (.vsel h ty d a b (w.extractLsb' 0 2))
  | 0x70 => ln.map (.vand h ty d a b ·)
  | 0x71 => ln.map (.vor h ty d a b ·)
  | 0x72 => ln.map (.vxor h ty d a b ·)
  | 0x73 => ln.map (.vshl h ty d a b ·)
  | 0x74 => ln.map (.vshr h ty d a b ·)
  | 0x75 => ln.map (.vsra h ty d a b ·)
  | 0x76 => ln.map (.vcvt h ty (tyOfCode (w.extractLsb' 4 4)) r o d a (w.extractLsb' 8 3) ·)
  | 0x77 =>
    match redOf sub, ln with
    | some p, some l => some (.vred h p ty r o d a l) | _, _ => none
  | 0x78 =>
    match scanOf sub, ln with
    | some p, some l => some (.vscan h p ty r o d a l) | _, _ => none
  | 0x79 => ln.map (.vcompact h ty d a ·)
  | 0x7A => ln.map (.vperm h ty d a b ·)
  | 0x7B => ln.map (.vmov h ty d a ·)
  | 0x7C => some (.vmovi h ty d (w.extractLsb' 0 32))
  | 0x7D => ln.map (.viota h ty d ·)
  | 0x7E => ln.map (.vqpop h ty d ·)
  | 0x7F => ln.map (.vlut h ty d a b ·)
  | 0x80 => ln.map (.vexp2 h ty r o d a ·)
  | 0x81 => ln.map (.vlog2 h ty r o d a ·)
  | 0x82 => ln.map (.vclass h ty d a ·)
  | 0x83 =>
    if w.extractLsb' 3 1 = 1#1 then ln.map (.vsplitExp h d a ·)
    else ln.map (.vsplit h d a b (w.extractLsb' 4 4) ·)
  | 0x84 =>
    if w.extractLsb' 3 1 = 1#1 then
      ln.map (.vcombFin h r o d a b (w.extractLsb' 4 4) (w.extractLsb' 8 1 == 1#1) ·)
    else ln.map (.vcombAcc h d a (w.extractLsb' 4 4) (w.extractLsb' 8 2) (w.extractLsb' 10 1 == 1#1) ·)
  | _ => none

/-- Opcodes 0xA0 to 0xBF: the matrix engine and Telltale (14 R297; 15 R323, R324). -/
def parseMat (w : IWord) : Option Instr :=
  let h := wHead w
  let c := wR1 w
  let sp : Spec := w.extractLsb' 62 12
  let ta := tyOfCode (w.extractLsb' 58 4)
  let tb := tyOfCode (w.extractLsb' 54 4)
  let t := wToksM w
  match (wOpc w).toNat with
  | 0xA0 => (accOf (w.extractLsb' 48 4)).map
      (.mma h c (w.extractLsb' 70 4) (w.extractLsb' 66 4) ta tb · (w.extractLsb' 40 1 == 1#1) t)
  | 0xA1 => (accOf (w.extractLsb' 48 4)).map
      (.mmas h c (w.extractLsb' 70 4) (w.extractLsb' 66 4) (w.extractLsb' 62 4) ta tb · (w.extractLsb' 40 1 == 1#1) t)
  | 0xA2 => some (.mclr h c)
  | 0xA3 => some (.mldc h c sp (w.extractLsb' 40 2))
  | 0xA4 => some (.mdrain h c sp (w.extractLsb' 40 2) (w.extractLsb' 42 1 == 1#1) t)
  | 0xA5 => some (.mchk h c)
  | 0xA6 => some (.mcomp h c (wR2 w) ta)
  | 0xA7 => some (.mbmp h c (wR2 w) ta (w.extractLsb' 40 5))
  | 0xA8 => some (.ttLoc h c (wR2 w))
  | 0xA9 => some (.ttFix h c)
  | 0xAA => some (.ttReplay h)
  | 0xAB => some (.ctabW h sp)
  | 0xAC => some (.ctabSwap h)
  | _ => none

/-- Opcodes 0xC0 to 0xFF (04 R76). -/
def parseSys (w : IWord) : Option Instr :=
  let h := wHead w
  let d := wR1 w
  let a := wR2 w
  let csr : BitVec 12 := w.extractLsb' 56 12
  let ysub := (w.extractLsb' 48 8).toNat
  let imm64 : BitVec 64 := w.extractLsb' 0 64
  let sl : BitVec 4 := w.extractLsb' 70 4
  let fld : BitVec 6 := w.extractLsb' 64 6
  let n4 : BitVec 4 := w.extractLsb' 64 4
  match (wOpc w).toNat with
  | 0xC0 =>
    if w.extractLsb' 4 1 = 0#1 then some (.clgrp h d a (w.extractLsb' 0 4))
    else some (.clgrpRelease h d (w.extractLsb' 0 4))
  | 0xC1 => (collOf (w.extractLsb' 12 2)).map
      (.clred h · (tyOfCode (w.extractLsb' 8 4)) (tyOfCode (w.extractLsb' 4 4)) (w.extractLsb' 0 4)
        d a (wR3 w) (wR4 w) (wQb w) (wToksQ w))
  | 0xC2 => some (.clbc h (w.extractLsb' 0 4) d a (wR3 w) (wR4 w) (wQb w) (wToksQ w))
  | 0xC3 => some (.clstat h d a)
  | 0xD0 => some (.trap h (w.extractLsb' 0 8))
  | 0xD1 => some (.eret h)
  | 0xD2 =>
    match ysub with
    | 0 => some (.csrr h d csr) | 1 => some (.csrw h d a csr) | 2 => some (.csrs h d a csr)
    | 3 => some (.csrc h d a csr) | _ => none
  | 0xD3 => some (.halt h)
  | 0xD4 => some (.prept h (w.extractLsb' 0 32))
  | 0xD5 => some (.yield h)
  | 0xD6 => some (.cropen h n4 (w.extractLsb' 0 32))
  | 0xD7 => some (.crclose h n4)
  | 0xD8 => some (.view h d sl imm64)
  | 0xD9 => some (.scfg h d sl fld imm64)
  | 0xDA => some (.nestSet h d sl fld imm64)
  | 0xDB => some (.nestGo h)
  | 0xDC => some (.nestStat h d)
  | 0xE0 =>
    match ysub with
    | 0 => some (.splAdmit h d a (w.extractLsb' 0 1 == 1#1) (w.extractLsb' 16 7) (w.extractLsb' 32 16))
    | 1 => some (.splRetire h d a)
    | 2 => some (.splRephase h d a (w.extractLsb' 0 4) (w.extractLsb' 16 24))
    | 3 => some (.splFreeze h d a) | 4 => some (.splThaw h d a)
    | 5 => some (.splQuery h d a (w.extractLsb' 0 4))
    | _ => none
  | 0xE8 =>
    match ysub with
    | 0 => some (.ctxSave h d a (w.extractLsb' 0 1 == 1#1)) | 1 => some (.ctxLoad h d a)
    | 2 => some (.ctxKill h d a) | _ => none
  | 0xE9 => some (.keyRoll h d (w.extractLsb' 0 8))
  | _ => none

/-- The fields of a word, by opcode group (04 R76). Reserved bits are not looked at here. -/
def parse (w : IWord) : Option Instr :=
  if w.extractLsb' 93 3 = 0#3 then parseScalar w
  else if w.extractLsb' 93 3 = 1#3 then parseMem w
  else if w.extractLsb' 93 3 = 2#3 then parseLdSt w
  else if w.extractLsb' 93 3 = 3#3 then parseVec w
  else if w.extractLsb' 93 3 = 4#3 then parseVec w
  else if w.extractLsb' 93 3 = 5#3 then parseMat w
  else parseSys w

/-! ### The encoder -/

/-- Bits 95:80 (04 R58). -/
def encHead (opc : BitVec 8) (h : Head) : BitVec 16 :=
  opc ++ bit h.pf ++ bit h.pb ++ bit h.wf ++ bit h.wb ++ bit h.pneg ++ h.psel
/-- S format (04 R61). -/
def encS (opc : BitVec 8) (h : Head) (xd xa xb sub : BitVec 6) (imm : BitVec 48) : IWord :=
  encHead opc h ++ xd ++ xa ++ xb ++ sub ++ 0#8 ++ imm
/-- B format (04 R61). -/
def encB (opc : BitVec 8) (h : Head) (xa xb : BitVec 6) (cond : BitVec 4) (off : BitVec 32) : IWord :=
  encHead opc h ++ xa ++ xb ++ cond ++ 0#32 ++ off
/-- V format (04 R61). -/
def encV (opc : BitVec 8) (h : Head) (d a b : BitVec 12) (ty : BitVec 4) (ovf : BitVec 2) (rnd sub : BitVec 3)
    (imm : BitVec 32) : IWord :=
  encHead opc h ++ d ++ a ++ b ++ ty ++ ovf ++ rnd ++ sub ++ imm
/-- M format (04 R61); the twelve bits 73:62 hold SA, SB and SX, or a specifier (04 R62). -/
def encM (opc : BitVec 8) (h : Head) (ct : BitVec 6) (mid : BitVec 12) (ta tb : BitVec 4) (sparse : BitVec 2)
    (acc : BitVec 4) (flags : BitVec 8) (t : Toks) : IWord :=
  encHead opc h ++ ct ++ mid ++ ta ++ tb ++ sparse ++ acc ++ flags ++ t.p ++ t.c0 ++ t.c1 ++ t.c2 ++ 0#16
/-- Q format (04 R61). -/
def encQ (opc : BitVec 8) (h : Head) (xd xh xc xs xb : BitVec 6) (t : Toks) (dir : BitVec 2) (pad : BitVec 8)
    (subf : BitVec 16) : IWord :=
  encHead opc h ++ xd ++ xh ++ xc ++ xs ++ xb ++ t.c0 ++ t.c1 ++ t.c2 ++ t.p ++ dir ++ pad ++ subf
/-- Y format (04 R61). -/
def encY (opc : BitVec 8) (h : Head) (xd xa : BitVec 6) (csr : BitVec 12) (sub : BitVec 8) (imm : BitVec 48) : IWord :=
  encHead opc h ++ xd ++ xa ++ csr ++ sub ++ imm
/-- N format (04 R61). -/
def encN (opc : BitVec 8) (h : Head) (xa : BitVec 6) (sl : BitVec 4) (fld : BitVec 6) (imm : BitVec 64) : IWord :=
  encHead opc h ++ xa ++ sl ++ fld ++ imm
/-- A word that is not an engine instruction holds 63 in every token field (04 R62). -/
def noToks : Toks := ⟨63, 63, 63, 63⟩

/-- A three-operand vector word with no SUB and lane selection (13 R265, R267). -/
def encLanes (opc : BitVec 8) (h : Head) (d a b : Spec) (ty : Ty) (o : Ovf) (r : Rnd) (sub : BitVec 3) (l : Lanes) : IWord :=
  encV opc h d a b (tyCode ty) (ovfCode o) (rndCode r) sub (0#29 ++ lanesCode l)

/-- The words of scalar and control instructions. -/
def encScalar : Instr → Option IWord
  | .nop h => some (encS 0x00 h 0 0 0 0 0)
  | .add h d a b => some (encS 0x01 h d a b 0 0)
  | .sub h d a b => some (encS 0x01 h d a b 1 0)
  | .and h d a b => some (encS 0x01 h d a b 2 0)
  | .or h d a b => some (encS 0x01 h d a b 3 0)
  | .xor h d a b => some (encS 0x01 h d a b 4 0)
  | .andn h d a b => some (encS 0x01 h d a b 5 0)
  | .shl h d a b => some (encS 0x01 h d a b 6 0)
  | .shr h d a b => some (encS 0x01 h d a b 7 0)
  | .sra h d a b => some (encS 0x01 h d a b 8 0)
  | .min h d a b => some (encS 0x01 h d a b 9 0)
  | .max h d a b => some (encS 0x01 h d a b 10 0)
  | .minn h d a b => some (encS 0x01 h d a b 11 0)
  | .maxn h d a b => some (encS 0x01 h d a b 12 0)
  | .slt h d a b => some (encS 0x01 h d a b 13 0)
  | .sltn h d a b => some (encS 0x01 h d a b 14 0)
  | .addi h d a imm => some (encS 0x02 h d a 0 0 imm)
  | .mul h d a b => some (encS 0x03 h d a b 0 0)
  | .mulh h d a b => some (encS 0x03 h d a b 1 0)
  | .mulhn h d a b => some (encS 0x03 h d a b 2 0)
  | .div h d a b => some (encS 0x04 h d a b 0 0)
  | .divn h d a b => some (encS 0x04 h d a b 1 0)
  | .rem h d a b => some (encS 0x04 h d a b 2 0)
  | .remn h d a b => some (encS 0x04 h d a b 3 0)
  | .li h d imm => some (encS 0x05 h d 0 0 0 imm)
  | .lih h d imm => some (encS 0x05 h d 0 0 1 (0#32 ++ imm))
  | .clz h d a => some (encS 0x06 h d a 0 0 0)
  | .popc h d a => some (encS 0x06 h d a 0 1 0)
  | .sext h d a n => some (encS 0x06 h d a 0 2 (0#41 ++ n))
  | .zext h d a n => some (encS 0x06 h d a 0 3 (0#41 ++ n))
  | .pcmp h p a b c => some (encS 0x07 h (0#3 ++ p) a b 0 (0#44 ++ condCode c))
  | .pand h p a b => some (encS 0x07 h (0#3 ++ p) (0#3 ++ a) (0#3 ++ b) 1 0)
  | .por h p a b => some (encS 0x07 h (0#3 ++ p) (0#3 ++ a) (0#3 ++ b) 2 0)
  | .pxor h p a b => some (encS 0x07 h (0#3 ++ p) (0#3 ++ a) (0#3 ++ b) 3 0)
  | .pnot h p a => some (encS 0x07 h (0#3 ++ p) (0#3 ++ a) 0 4 0)
  | .br h c a b off => some (encB 0x10 h a b (condCode c) off)
  | .brp h p off => some (encB 0x11 h (0#3 ++ p) 0 0 off)
  | .brpClr h p off => some (encB 0x11 h (0#3 ++ p) 0 1 off)
  | .jmp h off => some (encB 0x12 h 0 0 0 off)
  | .jmpx h a off => some (encB 0x13 h a 0 0 off)
  | .call h d off => some (encB 0x14 h d 0 0 off)
  | .ret h a => some (encB 0x15 h a 0 0 0)
  | .loop h a len count => some (encS 0x16 h 0 a 0 0 (len ++ count))
  | .tick h d => some (encS 0x18 h d 0 0 0 0)
  | .gtsr h d => some (encS 0x19 h d 0 0 0 0)
  | .waitt h a => some (encS 0x1A h 0 a 0 0 0)
  | .waitc h t => some (encS 0x1B h 0 0 0 0 (0#42 ++ t))
  | _ => none

/-- The words of scalar memory, copies, sections and queues. -/
def encMem : Instr → Option IWord
  | .ldx h z d a b off => some (encS 0x20 h d a b (ldCode z) off)
  | .stx h z d a b off => some (encS 0x21 h d a b (stCode z) off)
  | .ldxS h z d a b off => some (encS 0x22 h d a b (ldCode z) off)
  | .chk h a => some (encS 0x23 h 0 a 0 0 0)
  | .chkG h s => some (encS 0x23 h 0 0 0 1 (0#36 ++ s))
  | .sptest h d a => some (encS 0x24 h d a 0 0 0)
  | .spcast h d a win p => some (encS 0x25 h d a 0 0 (0#37 ++ p ++ winCode win))
  | .amo h o z d a b p => some (encS 0x26 h d a b (amoCode o) (0#40 ++ amoSizeCode z ++ p))
  | .cas h z d a b p => some (encS 0x27 h d a b 0 (0#40 ++ amoSizeCode z ++ p))
  | .fence h p s sc => some (encS 0x28 h 0 0 0 0 (0#29 ++ scopeCode sc ++ 0#2 ++ s ++ 0#2 ++ p))
  | .marm h a => some (encS 0x29 h 0 a 0 0 0)
  | .mwait h d => some (encS 0x2A h d 0 0 0 0)
  | .txbInit h a b => some (encS 0x2B h 0 a b 0 0)
  | .txbArrive h a b => some (encS 0x2B h 0 a b 1 0)
  | .txbExpect h a b => some (encS 0x2B h 0 a b 2 0)
  | .txbWait h a b => some (encS 0x2B h 0 a b 3 0)
  | .cpyIn h d xh c s b t u p n =>
    some (encQ 0x30 h d xh c s b t (bufCode2 u) (padCode p ++ 0#6) (0#3 ++ n))
  | .cpyOut h d xh c s b t u n => some (encQ 0x31 h d xh c s b t (bufCode2 u) 0 (0#3 ++ n))
  | .cpyG h d xh c s b t u p n =>
    some (encQ 0x32 h d xh c s b t (bufCode2 u) (padCode p ++ 0#6) (0#3 ++ n))
  | .cpyMC h d xh c s b t u p n =>
    some (encQ 0x33 h d xh c s b t (bufCode2 u) (padCode p ++ 0#6) (0#3 ++ n))
  | .cpyLL h d xh s b t u n => some (encQ 0x34 h d xh 0 s b t (bufCode2 u) 0 (0#3 ++ n))
  | .cpyCancel h t => some (encS 0x35 h 0 0 0 0 (0#42 ++ t))
  | .cpyStat h d t => some (encS 0x36 h d 0 0 0 (0#42 ++ t))
  | .secld h d a sec dst => some (encS 0x38 h d a 0 0 (0#18 ++ dst ++ 0#4 ++ sec))
  | .secwait h sec q => some (encS 0x39 h 0 0 0 0 (0#34 ++ q ++ sec))
  | .qpush h a => some (encS 0x3A h 0 a 0 0 0)
  | _ => none

/-- The words of the LD and ST engines. -/
def encLdSt : Instr → Option IWord
  | .vld h d a off u => some (encV 0x40 h d (0#6 ++ a) 0 0 0 0 (bufCode3 u) (0#12 ++ off))
  | .vlds h d s => some (encV 0x41 h d (0#8 ++ s) 0 0 0 0 0 0)
  | .vldp h d a b off => some (encV 0x42 h d (0#6 ++ a) (0#6 ++ b) 0 0 0 0 off)
  | .vldS h d a b off => some (encV 0x43 h d (0#6 ++ a) (0#6 ++ b) 0 0 0 0 off)
  | .vgath h d i s => some (encV 0x44 h d i (0#8 ++ s) 0 0 0 0 0)
  | .qix h i => some (encV 0x45 h 0 i 0 0 0 0 0 0)
  | .sclA h a s n g c => some (encN 0x46 h a s n (0#32 ++ g ++ c))
  | .sclB h a s n g c => some (encN 0x47 h a s n (0#32 ++ g ++ c))
  | .vbrd h ty d a off u => some (encV 0x48 h d (0#6 ++ a) 0 (tyCode ty) 0 0 (bufCode3 u) (0#12 ++ off))
  | .vst h a b off u => some (encV 0x50 h 0 a (0#6 ++ b) 0 0 0 (bufCode3 u) (0#12 ++ off))
  | .vstp h d a b off => some (encV 0x51 h (0#6 ++ d) a (0#6 ++ b) 0 0 0 0 off)
  | .vscat h s a i => some (encV 0x52 h (0#8 ++ s) a i 0 0 0 0 0)
  | .wst h d xh c s src => some (encQ 0x53 h d xh c s 0 noToks 0 0 (0#4 ++ src))
  | .wstG h d xh s src => some (encQ 0x53 h d xh 0 s 0 noToks 0 0 (1#4 ++ src))
  | .wstc h d xh xc t c ty r o nochk =>
    some (encQ 0x54 h d xh xc 0 0 t 0 0 (bit nochk ++ ovfCode o ++ rndCode r ++ tyCode ty ++ c))
  | .wdrain h a => some (encS 0x55 h 0 a 0 0 0)
  | .wbud h d => some (encS 0x56 h d 0 0 0 0)
  | .wfence h sc => some (encS 0x57 h 0 0 0 0 (0#29 ++ scopeCode sc ++ 0#16))
  | _ => none

/-- The words of the vector engine. -/
def encVec : Instr → Option IWord
  | .vadd h ty r o d a b l => some (encLanes 0x60 h d a b ty o r 0 l)
  | .vsub h ty r o d a b l => some (encLanes 0x61 h d a b ty o r 0 l)
  | .vmul h ty r o d a b l => some (encLanes 0x62 h d a b ty o r 0 l)
  | .vfma h ty r o d a b l => some (encLanes 0x63 h d a b ty o r 0 l)
  | .vfms h ty r o d a b l => some (encLanes 0x64 h d a b ty o r 0 l)
  | .vfnma h ty r o d a b l => some (encLanes 0x65 h d a b ty o r 0 l)
  | .vdiv h ty r o d a b l => some (encLanes 0x66 h d a b ty o r 0 l)
  | .vsqrt h ty r o d a l => some (encLanes 0x67 h d a 0 ty o r 0 l)
  | .vrcp h ty r o d a l => some (encLanes 0x68 h d a 0 ty o r 0 l)
  | .vrsq h ty r o d a l => some (encLanes 0x69 h d a 0 ty o r 0 l)
  | .vmin h ty d a b l => some (encLanes 0x6A h d a b ty .sat .rn 0 l)
  | .vmax h ty d a b l => some (encLanes 0x6B h d a b ty .sat .rn 0 l)
  | .vabs h ty o d a l => some (encLanes 0x6C h d a 0 ty o .rn 0 l)
  | .vneg h ty o d a l => some (encLanes 0x6D h d a 0 ty o .rn 0 l)
  | .vcmp h c ty m a b l => some (encLanes 0x6E h (0#10 ++ m) a b ty .sat .rn (vcondCode c) l)
  | .vsel h ty d a b m => some (encLanes 0x6F h d a b ty .sat .rn 0 (.mk m))
  | .vand h ty d a b l => some (encLanes 0x70 h d a b ty .sat .rn 0 l)
  | .vor h ty d a b l => some (encLanes 0x71 h d a b ty .sat .rn 0 l)
  | .vxor h ty d a b l => some (encLanes 0x72 h d a b ty .sat .rn 0 l)
  | .vshl h ty d a b l => some (encLanes 0x73 h d a b ty .sat .rn 0 l)
  | .vshr h ty d a b l => some (encLanes 0x74 h d a b ty .sat .rn 0 l)
  | .vsra h ty d a b l => some (encLanes 0x75 h d a b ty .sat .rn 0 l)
  | .vcvt h td ts r o d a part l =>
    some (encV 0x76 h d a 0 (tyCode td) (ovfCode o) (rndCode r) 0
      (0#21 ++ part ++ tyCode ts ++ 0#1 ++ lanesCode l))
  | .vred h p ty r o d a l => some (encLanes 0x77 h d a 0 ty o r (redCode p) l)
  | .vscan h p ty r o d a l => some (encLanes 0x78 h d a 0 ty o r (scanCode p) l)
  | .vcompact h ty d a l => some (encLanes 0x79 h d a 0 ty .sat .rn 0 l)
  | .vperm h ty d a b l => some (encLanes 0x7A h d a b ty .sat .rn 0 l)
  | .vmov h ty d a l => some (encLanes 0x7B h d a 0 ty .sat .rn 0 l)
  | .vmovi h ty d imm => some (encV 0x7C h d 0 0 (tyCode ty) 0 0 0 imm)
  | .viota h ty d l => some (encLanes 0x7D h d 0 0 ty .sat .rn 0 l)
  | .vqpop h ty d l => some (encLanes 0x7E h d 0 0 ty .sat .rn 0 l)
  | .vlut h ty d a b l => some (encLanes 0x7F h d a b ty .sat .rn 0 l)
  | .vexp2 h ty r o d a l => some (encLanes 0x80 h d a 0 ty o r 0 l)
  | .vlog2 h ty r o d a l => some (encLanes 0x81 h d a 0 ty o r 0 l)
  | .vclass h ty d a l => some (encLanes 0x82 h d a 0 ty .sat .rn 0 l)
  | .vsplitExp h d a l => some (encV 0x83 h d a 0 8 0 0 0 (0#28 ++ 1#1 ++ lanesCode l))
  | .vsplit h d a b s l => some (encV 0x83 h d a b 8 0 0 0 (0#24 ++ s ++ 0#1 ++ lanesCode l))
  | .vcombAcc h d a n q clr l =>
    some (encV 0x84 h d a 0 2 0 0 0 (0#21 ++ bit clr ++ q ++ n ++ 0#1 ++ lanesCode l))
  | .vcombFin h r o d a b n hh l =>
    some (encV 0x84 h d a b 8 (ovfCode o) (rndCode r) 0 (0#23 ++ bit hh ++ n ++ 1#1 ++ lanesCode l))
  | _ => none

/-- The words of the matrix engine and Telltale. -/
def encMat : Instr → Option IWord
  | .mma h c sa sb ta tb acc br t =>
    some (encM 0xA0 h c (sa ++ sb ++ 0#4) (tyCode ta) (tyCode tb) 0 (accCode acc) (0#7 ++ bit br) t)
  | .mmas h c sa sb sx ta tb acc br t =>
    some (encM 0xA1 h c (sa ++ sb ++ sx) (tyCode ta) (tyCode tb) 1 (accCode acc) (0#7 ++ bit br) t)
  | .mclr h c => some (encM 0xA2 h c 0 0 0 0 0 0 noToks)
  | .mldc h c s q => some (encM 0xA3 h c s 0 0 0 0 (0#6 ++ q) noToks)
  | .mdrain h c s q nochk t => some (encM 0xA4 h c s 0 0 0 0 (0#5 ++ bit nochk ++ q) t)
  | .mchk h c => some (encM 0xA5 h c 0 0 0 0 0 0 noToks)
  | .mcomp h cd cs ty => some (encM 0xA6 h cd (cs ++ 0#6) (tyCode ty) 0 0 0 0 noToks)
  | .mbmp h cd cs ty col => some (encM 0xA7 h cd (cs ++ 0#6) (tyCode ty) 0 0 0 (0#3 ++ col) noToks)
  | .ttLoc h c d => some (encM 0xA8 h c (d ++ 0#6) 0 0 0 0 0 noToks)
  | .ttFix h c => some (encM 0xA9 h c 0 0 0 0 0 0 noToks)
  | .ttReplay h => some (encM 0xAA h 0 0 0 0 0 0 0 noToks)
  | .ctabW h s => some (encM 0xAB h 0 s 0 0 0 0 0 noToks)
  | .ctabSwap h => some (encM 0xAC h 0 0 0 0 0 0 0 noToks)
  | _ => none

/-- The words of collectives, system, configuration, context and Splicer. -/
def encSys : Instr → Option IWord
  | .clgrp h d a g => some (encS 0xC0 h d a 0 0 (0#44 ++ g))
  | .clgrpRelease h d g => some (encS 0xC0 h d 0 0 0 (0#43 ++ 1#1 ++ g))
  | .clred h op td ts g d xh c s b t =>
    some (encQ 0xC1 h d xh c s b t 0 0 (0#2 ++ collCode op ++ tyCode td ++ tyCode ts ++ g))
  | .clbc h g d xh c s b t => some (encQ 0xC2 h d xh c s b t 0 0 (0#12 ++ g))
  | .clstat h d a => some (encS 0xC3 h d a 0 0 0)
  | .trap h n => some (encY 0xD0 h 0 0 0 0 (0#40 ++ n))
  | .eret h => some (encY 0xD1 h 0 0 0 0 0)
  | .csrr h d csr => some (encY 0xD2 h d 0 csr 0 0)
  | .csrw h d a csr => some (encY 0xD2 h d a csr 1 0)
  | .csrs h d a csr => some (encY 0xD2 h d a csr 2 0)
  | .csrc h d a csr => some (encY 0xD2 h d a csr 3 0)
  | .halt h => some (encY 0xD3 h 0 0 0 0 0)
  | .prept h m => some (encY 0xD4 h 0 0 0 0 (0#16 ++ m))
  | .yield h => some (encY 0xD5 h 0 0 0 0 0)
  | .cropen h n off => some (encB 0xD6 h 0 0 n off)
  | .crclose h n => some (encB 0xD7 h 0 0 n 0)
  | .view h a sl imm => some (encN 0xD8 h a sl 0 imm)
  | .scfg h a sl fld imm => some (encN 0xD9 h a sl fld imm)
  | .nestSet h a sl fld imm => some (encN 0xDA h a sl fld imm)
  | .nestGo h => some (encN 0xDB h 0 0 0 0)
  | .nestStat h d => some (encS 0xDC h d 0 0 0 0)
  | .splAdmit h d a sup n g => some (encY 0xE0 h d a 0 0 (g ++ 0#9 ++ n ++ 0#15 ++ bit sup))
  | .splRetire h d a => some (encY 0xE0 h d a 0 1 0)
  | .splRephase h d a n wt => some (encY 0xE0 h d a 0 2 (0#8 ++ wt ++ 0#12 ++ n))
  | .splFreeze h d a => some (encY 0xE0 h d a 0 3 0)
  | .splThaw h d a => some (encY 0xE0 h d a 0 4 0)
  | .splQuery h d a n => some (encY 0xE0 h d a 0 5 (0#44 ++ n))
  | .ctxSave h d a p => some (encY 0xE8 h d a 0 0 (0#47 ++ bit p))
  | .ctxLoad h d a => some (encY 0xE8 h d a 0 1 0)
  | .ctxKill h d a => some (encY 0xE8 h d a 0 2 0)
  | .keyRoll h d n => some (encY 0xE9 h d 0 0 0 (0#40 ++ n))
  | _ => none

/-- The word of an instruction; an event of the machine has none. -/
def encode (i : Instr) : Option IWord :=
  match encScalar i with
  | some w => some w
  | none =>
  match encMem i with
  | some w => some w
  | none =>
  match encLdSt i with
  | some w => some w
  | none =>
  match encVec i with
  | some w => some w
  | none =>
  match encMat i with
  | some w => some w
  | none => encSys i

/-! ### The decoder -/

/-- The instruction a word holds: well formed, and with every reserved bit as its entry requires;
`none` where 04 R70 step 1 or step 4 refuses the word. Total on every word. -/
def decode (w : IWord) : Option Instr :=
  match parse w with
  | none => none
  | some i => if i.wf && encode i == some w then some i else none

/-- Opcodes the map assigns (04 R71 lists the rest). -/
def opcAssigned (o : BitVec 8) : Bool :=
  let n := o.toNat
  decide (n ≤ 0x07) || (decide (0x10 ≤ n) && decide (n ≤ 0x16)) || (decide (0x18 ≤ n) && decide (n ≤ 0x1B)) ||
  (decide (0x20 ≤ n) && decide (n ≤ 0x2B)) || (decide (0x30 ≤ n) && decide (n ≤ 0x36)) ||
  (decide (0x38 ≤ n) && decide (n ≤ 0x3A)) || (decide (0x40 ≤ n) && decide (n ≤ 0x48)) ||
  (decide (0x50 ≤ n) && decide (n ≤ 0x57)) || (decide (0x60 ≤ n) && decide (n ≤ 0x84)) ||
  (decide (0xA0 ≤ n) && decide (n ≤ 0xAC)) || (decide (0xC0 ≤ n) && decide (n ≤ 0xC3)) ||
  (decide (0xD0 ≤ n) && decide (n ≤ 0xDC)) || n == 0xE0 || n == 0xE8 || n == 0xE9

/-- Which sequencers may issue an opcode (01 R18). -/
def opcOnSeq (o : BitVec 8) (q : SeqId) : Bool :=
  let n := o.toNat
  if n < 0x20 then true
  else match q with
    | .ct => decide (n < 0x40) || decide (0xC0 ≤ n)
    | .ld => decide (0x40 ≤ n) && decide (n < 0x50)
    | .st => decide (0x50 ≤ n) && decide (n < 0x60)
    | .cp => decide (0x60 ≤ n) && decide (n < 0xC0)

/-- Opcodes privileged for every word (04 R76). -/
def opcPrivileged (o : BitVec 8) : Bool := o == 0xE0#8 || o == 0xE8#8 || o == 0xE9#8

/-- Whether a CSR number can be reached in a mode (04 R77). -/
def csrReach (n : BitVec 12) (sup : Bool) : Bool :=
  match (n.extractLsb' 10 2).toNat with
  | 0 | 1 => true
  | 2 => sup
  | _ => false

/-- Little-endian value of a byte list (00 R5). -/
def leNat : List Byte → Nat
  | [] => 0
  | b :: t => b.toNat + 256 * leNat t

/-- The word of twelve bytes at rising addresses (04 R60, R69's table). -/
def wordOfBytes (bs : List Byte) : IWord := BitVec.ofNat 96 (leNat bs)

/-- Little-endian bytes of a value. -/
def leBytes : Nat → Nat → List Byte
  | 0, _ => []
  | n + 1, v => BitVec.ofNat 8 v :: leBytes n (v / 256)

/-- The twelve bytes of a word. -/
def bytesOfWord (w : IWord) : List Byte := leBytes 12 w.toNat

/-- Decoding twelve bytes and keeping the rest; fewer than twelve are refused. -/
def decodeBytes (bs : List Byte) : Option (Instr × List Byte) :=
  if bs.length < 12 then none
  else (decode (wordOfBytes (bs.take 12))).map (·, bs.drop 12)

/-- The host's question: the instruction read from a word whose bits are w, bits above nbits zero. -/
def decodeTableWord (nbits w : Nat) : Option Instr :=
  (decodeBytes (bytesOfWord (BitVec.ofNat 96 (w % 2 ^ nbits)))).map (·.1)

end Sys2Proof
end

