-- ==== Sys2Proof/Machine/Tab.lean ====
section
/-! DEFINITION. Sparse tables: lists of key and value, keys rising. They hold what the manual numbers
(cores, strands, registers, channels) without writing out every entry at its default. -/

namespace Sys2Proof.Machine

/-- A sparse table from numbers. -/
abbrev Tab (α : Type) := List (Nat × α)

/-- The entry under a key, if there is one. -/
def Tab.get? {α : Type} : Tab α → Nat → Option α
  | [], _ => none
  | (j, w) :: t, k => if k = j then some w else Tab.get? t k

/-- Writes the entry under a key, keeping the keys in order. -/
def Tab.set {α : Type} : Tab α → Nat → α → Tab α
  | [], k, v => [(k, v)]
  | (j, w) :: t, k, v =>
    if k = j then (k, v) :: t
    else if k < j then (k, v) :: (j, w) :: t
    else (j, w) :: Tab.set t k v

/-- Drops the entry under a key. -/
def Tab.del {α : Type} (t : Tab α) (k : Nat) : Tab α := t.filter (fun e => e.1 != k)

/-- The entry under a key, or a default. -/
def Tab.getD {α : Type} (t : Tab α) (k : Nat) (d : α) : α := (t.get? k).getD d

/-- The keys, rising. -/
def Tab.keys {α : Type} (t : Tab α) : List Nat := t.map (·.1)

end Sys2Proof.Machine
end

