-- ==== Sys2Proof/Machine/State.lean ====
section
/-! DEFINITION. The state of the X6 as plain data, its faults and refusals, and the state right after
reset. INVENTORY.md lists every piece with the rule that names it. -/

namespace Sys2Proof.Machine

/-! ### Causes -/

/-- The cause codes that can be raised (08 R176). -/
inductive Cause where
  | illOpc | illSeq | illRsvd | illBank | illAlign | istoreEcc | pcBound
  | fpInvalid | fpDivzero | fpOverflow | fpUnderflow | fpInexact | fpSnan | ovfTrap
  | windowInvalid | align | xlatStage1 | xlatStage2 | poisonConsumed | poisonStore
  | handleInvalid | handlePerm | extentInvalid | scratchForeign | privateForeign | streamRange
  | capacityReleased | segCount | segSig | missedPromise | queueImbalance | wlaneBackpressure
  | tokenOverflow | wlaneBudget | classUnused | ttMismatch | ttUncorrectable | ttReplayExhausted
  | memUncorrected | sramUncorrected | shadowUncorrected | collPeerAbsent | collGroupInvalid
  | linkDown | priv | containmentUnwind | enginePort | blockAxis | swTrap | doubleTrap
  | budgetExhausted | hostSaveXlat | hostRestoreXlat | shroudFenced
deriving DecidableEq, Repr

/-- The five woven classes (02 R30). -/
inductive SlotClass where | issue | mesh | chan | wlane | link
deriving DecidableEq, Repr

/-! ### A sequencer -/

/-- One entry of a loop stack (07 R126, R136). -/
structure Loop where
  first : BitVec 14
  last : BitVec 14
  left : Nat
deriving DecidableEq, Repr

/-- A section in progress (04 R72, R75). -/
structure Section where
  hdr : BitVec 14
  num : BitVec 12
  len : BitVec 12
  preempt : Bool
  replay : Bool
  check : Bool
  rephase : Bool
  count : BitVec 32
  crc : BitVec 64
deriving DecidableEq, Repr

/-- What the word at a sequencer's head has begun to wait for (08 R193, "head state"). -/
inductive HeadWait where
  | none
  /-- WAITT: the τ from which the next word may be taken up, the promised τ, and the tagged work (07 R139). -/
  | waitt (next promised : Nat) (tag : Option Nat)
  /-- FENCE or WFENCE: τ_h and the predecessor set (06 R110). -/
  | fence (tauH : Nat) (preds : List Nat)
  /-- TXB.WAIT: the work that registers and releases it (07 R156). -/
  | txb (work : Nat)
  /-- MWAIT: the first head τ (07 R154). -/
  | mwait (tau : Nat)
  /-- A multi-device SPL.ADMIT being decided: its group, the beat it was issued in, a status once known (21 R359). -/
  | admitWait (grp since : Nat) (answer : Option Nat)
  /-- KEY.ROLL: the beat at which the block ends (08 R200). -/
  | keyRoll (slot endBeat : Nat)
  /-- A lane word blocked on a full lane queue since a τ (11 R248). -/
  | laneFull (since : Nat)
  /-- A lane word whose trap was taken, for a full queue or for its budget: the test that raised it now blocks without
  limit (11 R248, R249); `since` counts a full queue when that trap is still to come. -/
  | laneRetry (full budget : Bool) (since : Option Nat)
deriving DecidableEq, Repr

/-- One sequencer of a strand (07 R126). -/
structure Seq where
  pc : BitVec 14
  x : Tab Word
  p : BitVec 8
  tags : Tab Nat
  poison : BitVec 64
  loops : List Loop
  pending : Option (BitVec 14)
  /-- The word at the head stands in the delay slot of a transfer, taken or not (07 R134). -/
  delay : Bool
  ret : BitVec 12
  /-- RET as it becomes at the end of the beat (04 R74). -/
  retNext : Option (BitVec 12)
  sec : Option Section
  atHdr : Bool
  blockFrom : Option Nat
  wait : HeadWait
  epcWritten : Bool
  /-- The beat of the latest word it issued and the section that holds the word (24 R399). -/
  worked : Option (Nat × BitVec 12) := none
deriving DecidableEq, Repr

/-- What a single access does at its home (07 R143 to R156; 10 R237; 11 R253). -/
inductive Access where
  | load (bytes : Nat) (signed : Bool) (xd : Nat)
  /-- A vector load to a window offset; `spec` for VLD.S (10 R238). -/
  | vload (dst : Nat) (spec : Bool)
  | store (data : List Byte)
  | amo (op : AmoOp) (size : Nat) (operand : Word) (xd : Nat)
  | cas (size : Nat) (expect new : Word) (xd : Nat)
  | txbInit (v : Word)
  | txbArrive (n : Nat)
  | txbExpect (n : Nat)
  | txbWait (phase : Nat) (registered released : Bool)
deriving DecidableEq, Repr

/-! ### Results on their way -/

/-- One landing effect of an issued instruction (02 R35). Registers 64 to 71 are the handler bank's
x56 to x63 (08 R181). Register-space offsets are window relative. -/
inductive Land where
  | x (q : SeqId) (r : Nat) (v : Word) (tag : Option Nat) (poison : Bool)
  | xKeep (q : SeqId) (r : Nat)
  | pred (q : SeqId) (n : Nat) (v : Bool)
  | reg (off : Nat) (data : List Byte)
  | bytes (addr : Nat) (data : List Byte)
  | granules (first : Nat) (poison : List Bool)
  /-- Mask bits written, and their values. -/
  | mask (n : Nat) (which v : BitVec 1024)
  | view (n : Nat) (v : Word)
  | stream (n fld : Nat) (v : Word)
  | posAdd (n : Nat) (d : Int)
  | csr (n : Nat) (v : Word)
  | flags (f : BitVec 6)
  | push0 (idx : List (BitVec 16))
  | push1 (b : List Byte)
  | push2 (b : List Byte)
  | push3 (v : Word)
  | shadowCount (lvl : Nat) (v : Nat)
  | shadowStep (lvl n : Nat) (v : Int)
  | nestGo
  | tile (c : Nat) (tag : BitVec 3) (data row col : List (BitVec 32))
  | word (c i j : Nat) (v : BitVec 32)
  /-- A row or column check recomputed (15 R324). -/
  | fixRow (c i : Nat)
  | fixCol (c j : Nat)
  /-- Rows 8 q to 8 q + 7 loaded, the checks recomputed (14 R309). -/
  | mldc (c q : Nat) (data : List Byte)
  /-- One element of row 0 written, the checks recomputed (14 R307). -/
  | mbmp (c col : Nat) (v : BitVec 32)
  /-- The compare of MCHK (14 R311): tile, and the section and slot of the word. -/
  | mchk (c : Nat) (sec : BitVec 12) (ix : BitVec 32)
  | clearSyn
  /-- An MMA's operands as read at issue: tile, operand types, ACC, sparsity, A rows, B rows, metadata rows,
  block scales, code table, and an armed TT_INJECT (14 R296 to R305; 15 R328). A poisoned operand sector
  makes it write nothing (14 R304). -/
  | mma (c : Nat) (ta tb : Ty) (acc : Acc) (sparse : Bool) (a b x : List (List Byte)) (sca scb : List Byte)
      (code : List (BitVec 16)) (flip : Option Word)
  | openRegion (n : Nat) (handler : BitVec 14)
  /-- CRCLOSE n pops region n, and no other (07 R168). -/
  | closeRegion (n : Nat)
  | ctabW (data : List (BitVec 16))
  | ctabSwap
  | workDone (work : Nat)
  /-- A barrier update or registration by a scratchpad pointer acts at its home (07 R156). -/
  | workActs (work : Nat)
  /-- The drain of a WSTC: the lane store, whether its bytes go out, and the bytes with their addresses (11 R257). -/
  | laneFill (lane : Nat) (send : Bool) (bytes : List (Option Nat × Byte))
deriving DecidableEq, Repr

/-- A pending trap (08 R179, R180): the cause, FADDR, TVAL and where TCAUSE points. -/
structure PTrap where
  cause : Cause
  faddr : Word
  tval : Word
  q : SeqId
  sec : BitVec 12
  slot : BitVec 32
deriving DecidableEq, Repr

/-- A due latch (02 R35): its due time on the strand's clock or on the handler's. -/
structure Due where
  due : Nat
  hclock : Bool
  tauIssue : Nat
  q : SeqId
  lands : List Land
  trap : Option PTrap
  /-- The containment region whose kill cancels it, of the answer to a load or atomic (08 R188; 10 R240). -/
  region : Option Nat := none
deriving DecidableEq, Repr

/-! ### Streams, nests, lanes, monitors, regions -/

/-- A stream register (10 R228). -/
structure Stream where
  lpoff : BitVec 20
  pos : BitVec 20
  sstride : BitVec 20
  sbase : BitVec 20
  rstride : BitVec 20
  gather : BitVec 1
  axis : BitVec 1
  fmt : BitVec 4
  base : BitVec 20
  buf : BitVec 2
deriving DecidableEq, Repr

/-- One level of a nest table (07 R160): COUNT and the steps of the sixteen streams. -/
structure NestLevel where
  count : Nat
  step : Tab Int
deriving DecidableEq, Repr

/-- The loop nest (10 R231, R232). -/
structure Nest where
  shadow : List NestLevel
  pendingShadow : Bool
  live : Option (List NestLevel)
  iter : List Nat
deriving DecidableEq, Repr

/-- A store in the write lane (11 R247, R248). -/
structure LaneStore where
  num : Nat
  work : Nat
  staged : Nat
  beats : Nat
  sent : Nat
  notBefore : Nat
deriving DecidableEq, Repr

/-- The write lane of a strand (11 R247 to R250). -/
structure Lane where
  wissued : Nat
  wdone : Nat
  performed : List Nat
  brem : Nat
  lanebud : BitVec 64
  queue : List LaneStore
  /-- WLQ as it stood at the start of the present beat (11 R250). -/
  wlq : Word
deriving DecidableEq, Repr

/-- An armed monitor (07 R153, R154): the 64-byte line's home address. -/
structure Monitor where
  line : Nat
  fired : Bool
  restored : Bool
  /-- Works of the same sequencer that the arm follows as a load of the line would (07 R153; 06 R107): what they write
  comes before the arm. -/
  after : List Nat
deriving DecidableEq, Repr

/-- An open containment region (07 R167). -/
structure Region where
  num : Nat
  handler : BitVec 14
deriving DecidableEq, Repr

/-- The ring token queues (01 R24): forward and back counts of the four pairs, and this slot's changes. -/
structure Rings where
  fwd : List Nat
  back : List Nat
  dfwd : List Int
  dback : List Int
deriving DecidableEq, Repr

/-! ### A strand -/

/-- Why a strand stalls (02 R37, R38). -/
inductive StallKind where
  /-- The handler runs (08 R179, H = 1), or has issued ERET and waits for its rotation. -/
  | trap
  /-- A record is with the resident kernel or hypervisor (08 R186). -/
  | record (c : Cause)
  | tlbMiss (page : Nat)
  | notResident
  | rephaseHold
  | prept
  | replay
  | longService
  /-- The owner's budget account is empty (08 R203). -/
  | budget
deriving DecidableEq, Repr

/-- A stall: what it waits for, the beat b_s it began, and the beat in which its cause cleared. -/
structure Stall where
  kind : StallKind
  bs : Nat
  cleared : Option Nat
deriving DecidableEq, Repr

/-- The CSRs of a strand (05 R91; 07 R170; 08 R182, R199; 15 R320, R322, R328). -/
structure Csrs where
  fflags : BitVec 6
  frm : BitVec 3
  ftrapen : BitVec 6
  tvec : BitVec 14
  tepc : BitVec 14
  ldepc : BitVec 14
  cpepc : BitVec 14
  stepc : BitVec 14
  tcause : Word
  faddr : Word
  tval : Word
  ttctl : BitVec 64
  ttTol8 : BitVec 64
  ttTol16 : BitVec 64
  ttTolC4 : BitVec 64
  ttInject : BitVec 64
  ttsyn : BitVec 64
  ttmask : BitVec 64
  preptWait : BitVec 64
  ctxstat : BitVec 64
  blocked : BitVec 64
  ctabgen : BitVec 16
deriving DecidableEq, Repr

/-- Where a strand stands and what it is (02 R42; 07 R126, R127; 21 R358, R367). -/
structure Place where
  owner : Nat
  index : Nat
  taskId : BitVec 16
  sup : Bool
  winkb : Nat
  wbase : Nat
  iskb : Nat
  fbase : Nat
  mx : Bool
  ctmask : BitVec 32
  entries : List (BitVec 12)
  /-- Word positions of the footprint that hold section headers (04 R72; 21 R357). -/
  hdrs : List Nat
  /-- Word positions of the footprint that are not resident (07 R163, R164). -/
  absent : List Nat
  /-- Word positions where a section load will put its header (07 R163; 04 R66, R74). -/
  coming : List Nat
deriving DecidableEq, Repr

/-- The Telltale replay of a strand (15 R322, R325 to R327): the four points, COUNT, the sequencers whose
next section start a replay stall makes, and a replay stall asked for. -/
structure Replay where
  points : List (Option (BitVec 14))
  count : Nat
  noRecord : List SeqId
  asked : Bool
deriving DecidableEq, Repr

/-- The shared queues, configuration and clocks of a strand. -/
structure Shared where
  rings : Rings
  q0 : List (List (BitVec 16))
  q1 : List Byte
  q2 : List Byte
  q1out : List Nat
  q2out : List Nat
  q3 : List Word
  tokens : Tab Nat
  streams : Tab Stream
  nest : Nest
  views : Tab Word
  masks : Tab (BitVec 1024)
  granules : BitVec 1024
  codes : List (BitVec 16)
  codesShadow : List (BitVec 16)
deriving DecidableEq, Repr

/-- What is set aside of CT while its handler runs (07 R134; 08 R184). -/
structure CtSaved where
  pending : Option (BitVec 14)
  delay : Bool
  atHdr : Bool
  loops : List Loop
  wait : HeadWait
  blockFrom : Option Nat
deriving DecidableEq, Repr

/-- Run state of a strand (02 R33, R38; 08 R179, R201). -/
structure Run where
  tau : Nat
  h : Bool
  hclk : Nat
  halted : Bool
  reported : Bool
  stall : Option Stall
  /-- A stall of the handler while H = 1 (02 R38; 08 R181): its slots pass empty, the strand's own stall stands. -/
  hstall : Option Stall
  preptMask : Option (BitVec 32)
  arrived : Option Nat
  mmaUntil : Nat
  saved : Option CtSaved
  /-- The word at which a killed region's handler was entered, while that handler runs (08 R188). -/
  hregion : Option (BitVec 14)
  /-- A second cause that arose while H = 1 and that CT's next slot takes: a TRAP of the handler, an error it consumed, an
exhausted budget, a lost link (07 R171; 08 R185). -/
  htrap : Option Cause
  nj : BitVec 48
  pj : Nat
  esat : Bool
deriving DecidableEq, Repr

/-- The B rows that the matrix engine holds since a strand's latest MMA or MMAS (14 R302): the bytes of WBUF they came from, type,
sparsity, generation of the code table. -/
structure BRows where
  runs : List (Nat × Nat)
  ty : Ty
  sparse : Bool
  gen : BitVec 16
deriving DecidableEq, Repr

/-- A strand of an owner on a core. -/
structure Strand where
  place : Place
  run : Run
  ct : Seq
  ld : Seq
  cp : Seq
  st : Seq
  bank : Tab Word
  bankPoison : BitVec 8
  bankTags : Tab Nat
  sh : Shared
  csr : Csrs
  due : List Due
  traps : List PTrap
  lane : Lane
  monitors : List Monitor
  regions : List Region
  replay : Replay
  /-- Vector clocks by letter of R110 (06 R112): what fences order before accesses of the letter, and what
  accesses of the letter have shown; entry 6 of the second is that of lane stores alone (06 R116). -/
  vclock : List (List Nat)
  vseen : List (List Nat)
  /-- What accesses have shown since a FENCE or WFENCE began to wait: issue τ, letter, clock (06 R110). -/
  vlate : List (Nat × Nat × List Nat)
  /-- What accesses to bytes have shown or stored that some die has not applied: sequencer, address, length, clock (06 R111). -/
  vbytes : List (SeqId × Nat × Nat × List Nat)
  bLatch : Option BRows := none
deriving DecidableEq, Repr

/-! ### Engine work -/

/-- The access letters of a fence (06 R110), as bits R W C M X A, and whether work counts for WAITC 63. -/
structure Letters where
  bits : BitVec 6
  promised : Bool
deriving DecidableEq, Repr

/-- How a piece of work stands (09 R218). -/
inductive WorkState where
  | running
  | done
  | error (c : Cause)
  | cancelled
deriving DecidableEq, Repr

/-- One planned step (09 R219) at a beat of the owner's clock. Steps of one chain follow one another. -/
inductive Act where
  /-- A flit takes a mesh link, injection or ejection slot (01 R15); the last step of a data flit lands sectors. -/
  | mesh (inst : Nat)
  | link (inst : Nat)
  /-- Column commands on a channel (23 R377, R378) for the sector at a device address. -/
  | chanRead (chan bank addr : Nat)
  | delivered (sector : Nat)
  | chanWrite (chan bank : Nat) (sector : Nat)
  /-- The port takes the request, and answers (23 R379). -/
  | portRequest (addr : Nat)
  | portAnswer (sector : Nat)
  /-- Source bytes leave a buffer with a flit (06 R411). -/
  | takeSource (sector : Nat)
  /-- A sector lands at its destination. -/
  | sectorLands (sector : Nat)
  /-- A single request acts at its home: load, store, atomic, barrier, monitor (06 R411). -/
  | atHome
  | answerLands
  /-- Collective steps (19 R343, R344); `sectorLands` 16 c + m of a broadcast is chunk c whole at member m. What a
  collective has landed: (m, c) for chunk c at member m, (16, c) for chunk c everywhere. -/
  | memberRequest (member chunk : Nat)
  | chunkLands (chunk : Nat)
  | replicaCommit
deriving DecidableEq, Repr

/-- A planned step: the beat of the owner's clock, the chain it belongs to, what it does; the earliest beat it can have when
what comes before it is late; and what it follows in other chains: the whole of one, or its step on an instance. -/
structure PStep where
  at_ : Nat
  chain : Nat
  act : Act
  from_ : Nat := 0
  deps : List (Nat × Option Nat) := []
deriving DecidableEq, Repr

/-- A tensor handle as read at issue (09 R205). -/
structure Handle where
  fmt : Ty
  ndim : Nat
  base : Nat
  dims : List Nat
  strides : List Nat
  padv : BitVec 32
  key : Nat
  ilv : Nat
  va : Nat
deriving DecidableEq, Repr

/-- A combined TLB entry (23 R383): virtual page, owner slot, device page, permissions, key, flags. -/
structure TlbEntry where
  owner : Nat
  page : Nat
  frame : Nat
  r : Bool
  w : Bool
  repl : Bool
  mig : Bool
  peer : Bool
  key : Nat
  leaf : Nat
  /-- The leaf maps 2 MiB. -/
  big : Bool := false
deriving DecidableEq, Repr

/-- The kinds of engine work. -/
inductive WorkKind where
  /-- One access by a pointer: its device address with the translations of its pages, or its on-chip address
  with none. -/
  | access (a : Access) (home : Nat) (ents : List TlbEntry)
  /-- A copy: 0 CPY.IN, 1 CPY.OUT, 2 CPY.G, 3 CPY.MC, 4 CPY.LL; the handle, the near buffer and offset, the
  dimension-0 origin and extent, each footprint row (whether in range beyond dimension 0, and the address of its
  element 0, clamped), the pad policy, the destination cores, the source address of CPY.LL. -/
  | copy (op : Nat) (h : Handle) (buf : Buf) (off o0 e0 : Nat) (rows : List (Bool × Nat)) (pad : Pad)
      (dests : List Nat) (src : Nat)
  /-- A lane store: its footprint with the address each byte goes to; ILV and key of a handle, or the
  translations of a pointer's pages; whether the bytes lie on chip. -/
  | laneStore (num : Nat) (bytes : List (Option Nat × Byte)) (ilv key : Nat) (ents : List TlbEntry) (onChip : Bool)
  /-- The CBUF side of a WSTC; `lane` is the work of its lane store. -/
  | wstc (lane tile : Nat) (h : Handle) (origin : List Nat) (ty : Ty) (rnd : Rnd) (ovf : Ovf) (nochk : Bool)
      (frm : BitVec 3)
  | mdrain (tile dst q : Nat) (nochk : Bool)
  | mma (tile : Nat)
  | mldc (tile : Nat)
  /-- A section load: image address and translations, bytes, expected number, destination. -/
  | secld (home : Nat) (ents : List TlbEntry) (len sec dst : Nat)
  | clred (op : CollOp) (td ts : Ty) (group src dst n : Nat) (leaves : List (Nat × Nat × List Byte))
  | clbc (group src dst n : Nat)
  /-- What another device's collective does here (19 R343, R346), in the owner's slots of this device. -/
  | peer (q : PeerRequest)
  /-- A transfer between other devices that passes through this one (24 R412). -/
  | transit (dest : Nat) (data : List Byte)
deriving DecidableEq, Repr

/-- A piece of engine work (06 R118; 09 R219; 10 R237; 11 R247; 14; 19). -/
structure Work where
  core : Nat
  slot : Nat
  owner : Nat
  q : SeqId
  /-- Section and slot index of the word (07 R170). -/
  sec : BitVec 12
  ix : BitVec 32
  tau : Nat
  beat : Nat
  inH : Bool
  region : Option Nat
  letters : Letters
  kind : WorkKind
  promise : Nat
  /-- Work that must be over before a step of this work runs (06 R107, R117, R119). -/
  after : List Nat
  produces : Option Nat
  /-- Works whose tokens it consumes (06 R117). -/
  cons : List Nat
  /-- Its vector clock, and what its own reads have shown (06 R111, R112). -/
  clock : List Nat
  shown : List Nat
  faddr : Word
  barrier : Option Nat
  state : WorkState
  doneBeat : Option Nat
  steps : List PStep
  total : Nat
  landed : List (Nat × Nat)
  /-- Bytes read and on their way, with the uncorrectable error that reading them met. -/
  staged : List (Nat × List Byte × Option Cause)
  /-- Stores it was accepted as (06 R410). -/
  stores : List Nat
  /-- Flags a collective has raised, and the members found absent with the chunk (19 R340, R344). -/
  flags : BitVec 6
  absent : List (Nat × Nat)
deriving DecidableEq, Repr

/-- A lock of 06 R119: the bytes of a core's scratchpad an engine command writes. -/
structure Lock where
  work : Nat
  core : Nat
  lo : Nat
  hi : Nat
deriving DecidableEq, Repr

/-- A flit in an owner's latch at a router or a port, or on its way into it (21 R370): the instance it leaves by, the work and
chain it belongs to, the beat of the owner's clock from which it is there, and whether it carries a request. A latch holds one
(log 91). -/
structure Latch where
  owner : Nat
  inst : Nat
  work : Nat
  chain : Nat
  from_ : Nat
  request : Bool
deriving DecidableEq, Repr

/-- A store accepted at its home and not yet applied everywhere (06 R410, R112). -/
structure Store where
  id : Nat
  core : Nat
  die : Nat
  seqno : Nat
  clock : List Nat
  addr : Nat
  old : List Byte
  applied : List Nat
  due : List Nat
deriving DecidableEq, Repr

/-! ### Cores, owners -/

/-- A tile's Telltale data (15 R316). -/
structure Tile where
  tag : BitVec 3
  row : List (BitVec 32)
  col : List (BitVec 32)
deriving DecidableEq, Repr

/-- An address group entry (19 R338). -/
structure Group where
  tag : BitVec 32
  self : Nat
  members : List (Nat × Nat)
deriving DecidableEq, Repr

/-- A core (01 R12, R20). -/
structure Core where
  enwt : Tab Nat
  idlePj : Nat
  idleMark : Nat
  idleOwned : Nat
  tlb : List TlbEntry
  tiles : Tab Tile
  bin : Nat
  disabled : Bool
  groups : Tab Group
  /-- Beats in which the core issued a word; and by section number the owned ISSUE slots in which a sequencer in the section issued
  one, and those in which it did not (24 R399). -/
  busyBeats : Nat := 0
  sections : Tab (Nat × Nat) := []
deriving DecidableEq, Repr

/-- The timetable header's contract as admitted (02 R42). -/
structure Header where
  strides : List (Option Nat)
  phases : List Nat
  reloc : BitVec 5
  ncore : Nat
  winkb : Nat
  iskb : Nat
  ctmask : BitVec 32
  cores : List Nat
  entries : List (BitVec 12)
  entryPos : List (BitVec 14)
deriving DecidableEq, Repr

/-- The states of an owner slot (21 R367; 08 R191). -/
inductive OwnerState where
  | empty | admitting | running | frozen | window | collect | save | saveHeld | saved
  | load | loadHeld | ready | halted
  /-- Retired in the present beat, freed in the next (21 R363). -/
  | retiring
deriving DecidableEq, Repr

/-- A re-phase in progress (21 R369). -/
structure Rephase where
  delta : Nat
  limit : Option Nat
  release : Option Nat
  /-- The beat by which the last strand on any device holds, once every strand here does (21 R369). -/
  arrived : Option Nat := none
deriving DecidableEq, Repr

/-- A pre-emption in progress (08 R189 to R192). -/
structure Preempt where
  ctx : Nat
  g : Nat
  windowEnd : Nat
  gf : Nat
  unit : Nat
  unitDue : Nat
  /-- The end of COLLECT (08 R192). -/
  since : Nat
  /-- The strand that asked, by its owner slot and index in the core list. -/
  issuer : Option (Nat × Nat)
deriving DecidableEq, Repr

/-- An owner slot (02 R29; 21 R367). -/
structure Owner where
  state : OwnerState
  last : Nat
  hdr : Header
  sup : Bool
  part : Nat
  origin : Nat
  /-- Beats in which the owner was frozen as a whole, those before its origin among them (02 R33). -/
  frozen : Nat
  freezeAt : Option Nat
  thawAt : Option Nat
  rephase : Option Rephase
  preempt : Option Preempt
  rcb : Nat
  /-- The block whose account it charges, and whether it waits for an answer to BUDGET_EXHAUSTED (08 R203). -/
  acct : Option Nat
  broke : Bool
  ndev : Nat
  grp : Nat
  resv : List (SlotClass × Nat × Nat)
  /-- Beat phases by class chosen at admission or at LOAD (21 R358, R366). -/
  placed : List Nat
  /-- The beat in which its latest reservation was made: an admission, a re-phase, a load (21 R371). -/
  resvBeat : Option Nat
  s1root : Nat
  report : Option Nat
deriving DecidableEq, Repr

/-! ### Memory system -/

/-- A spare-row copy in progress (23 R389). -/
structure RowCopy where
  bank : Nat
  row : Nat
  spare : Nat
  next : Nat
  since : Nat
deriving DecidableEq, Repr

/-- An HBM channel (23 R377 to R381, R389). -/
structure Chan where
  bankFree : Tab Nat
  refreshDue : Tab Nat
  postponed : Tab Nat
  queue : List (Nat × List Byte)
  alert : List (Nat × Nat)
  yields : Tab Nat
  scrub : Nat
  rows : List (Nat × Nat × Nat)
  remap : List (Nat × Nat × Nat)
  copy : Option RowCopy
  /-- Sectors an atomic holds between its two commands (07 R150), with the work. -/
  held : List (Nat × Nat)
  /-- One more than the beat of the latest maintenance command: a slot takes one (23 R380). -/
  maintAt : Nat
  /-- Rows whose count has reached 8 and whose copy waits for another's end: bank and row (23 R389). -/
  rowQueue : List (Nat × Nat)
deriving DecidableEq, Repr

/-- A page migration in progress (23 R391): the frame of the stack, the device address of the new frame, the leaf. -/
structure Migration where
  frame : Nat
  target : Nat
  leaf : Nat
  part : Nat
  next : Nat
deriving DecidableEq, Repr

/-- Accesses counted on a frame from one core in this window (23 R391), with what the frame's leaf says. -/
structure HotCount where
  frame : Nat
  core : Nat
  count : Nat
  leaf : Nat
  peer : Bool
  part : Nat
  big : Bool := false
deriving DecidableEq, Repr

/-- A stack's base die (23 R386, R390 to R392). -/
structure Stack where
  dirty : List Nat
  dhbits : BitVec 64
  faqbase : BitVec 64
  faqhead : BitVec 16
  faqtail : BitVec 16
  faqdrop : BitVec 32
  badPages : List Nat
  hotctl : BitVec 64
  hotfq : BitVec 64
  counts : List HotCount
  ineligible : Tab Nat
  migration : Option Migration
  /-- Alert services logged: GTS, source number, channel, bank (23 R381; 08 R178). -/
  alertLog : List (Nat × Nat × Nat × Nat)
deriving DecidableEq, Repr

/-- A translation walk in flight (23 R383). -/
structure Walk where
  core : Nat
  slot : Nat
  owner : Nat
  page : Nat
  write : Bool
  doneBeat : Nat
  result : Option (Cause × Nat)
deriving DecidableEq, Repr

/-- A K or H record not answered, or waiting for room in its queue (08 R186). -/
structure KRecord where
  hyper : Bool
  gts : Nat
  core : Nat
  slot : Nat
  words : List Word
deriving DecidableEq, Repr

/-- A launch packet in a queue (24 R397, R398). -/
structure Packet where
  words : List Word
  path : LaunchPath
  arrival : Nat
deriving DecidableEq, Repr

/-- A partition's control state (24 R401, R402; 23 R392; 09 R206). -/
structure Part where
  s2root : BitVec 64
  htbase : BitVec 64
  htlen : BitVec 64
  kqbase : BitVec 64
  kqhead : BitVec 16
  kqtail : BitVec 16
  hqbase : BitVec 64
  hqhead : BitVec 16
  hqtail : BitVec 16
  lbsel : BitVec 64
  ldrop : BitVec 64
  fencestat : Nat
  savebase : BitVec 64
  rcbsel : BitVec 64
  pcore : List (BitVec 64)
  records : List KRecord
  launches : List Packet
  tlbinv : Option (Nat × Bool × Nat)
deriving DecidableEq, Repr

/-- The record of one strand (08 R193), with the key it had, the tiles saved and their data and checks, the tags of all
tiles (15 R329), its register-space window, and its footprint of the image (log 19); and its bytes as they lie in shadow
storage, with how many of them at its end have spilled to the bulk area (08 R192, R194). -/
structure SavedStrand where
  key : Nat
  strand : Strand
  mask : BitVec 32
  tiles : List (Nat × Tile × List Byte)
  tags : List (BitVec 3)
  window : List Byte
  foot : List Byte
  record : List Byte
  spilled : Nat
  /-- Staged bytes of the lane stores queued, which go to the bulk area behind what has spilled (11 R250). -/
  staged : List Byte
deriving DecidableEq, Repr

/-- A saved context (08 R193 to R195): its owner slot, the strands in core-list order, the engine work saved with
them and the locks it takes again. -/
structure Saved where
  owner : Nat
  strands : List SavedStrand
  works : List (Nat × Work)
  locks : List Lock
deriving DecidableEq, Repr

/-! ### Host and links -/

/-- An Isavik port (24 R403, R404). -/
structure Port where
  good : Nat
  missed : Nat
  partner : Option Nat
  aligned : Bool
deriving DecidableEq, Repr

/-- What the machine sends to an outside agent (24 R400, R396, R406; 19). -/
inductive Output where
  /-- A residency report, with the port by which one of an Isavik packet leaves (24 R412). -/
  | report (path : LaunchPath) (port : Option Nat) (addr tag : Nat) (words : List Word)
  | mailbox (words : List Word)
  | spdm (words : List Word)
  | hostData (data : List Byte)
  | errorCompletion
  /-- Bytes of a CLBC for a core of another device, by the port that the route table names (24 R412). -/
  | isavik (port dev : Nat) (addr : Nat) (data : List Byte)
  /-- The answer of a member core to another device's collective: nothing where it is absent (19 R340, R346). -/
  | collAnswer (port dev core : Nat) (data : Option (List Byte))
  /-- A CLBC ends before its last chunk: what a member on another device counts on its barrier, and whether it ended in error
  (19 R345). -/
  | collEnd (port dev core : Nat) (barrier : Option Nat) (left : Nat) (failed : Bool)
  /-- A transfer between other devices goes on (24 R412). -/
  | forward (port dest : Nat) (data : List Byte)
  /-- Bytes sent by an Ethernet port (24 R405). -/
  | ethernet (port : Nat) (data : List Byte)
deriving DecidableEq, Repr

/-- Firmware and module state (24 R396, R406, R408, R409). -/
structure HostSt where
  booted : Bool
  firmware : Option (List Nat × Nat)
  rollback : Nat
  measurements : List Nat
  bar2Open : Bool
  ideKeys : List Nat
  ports : Tab Port
  routes : Tab Nat
  brake : Bool
  out : List Output
  /-- Control-cluster cores that run at 1.6 GHz (24 R408). -/
  slow : List Nat := []
deriving DecidableEq, Repr

/-! ### The machine -/

/-- The word slot being taken up: core, strand slot, sequencer (model's own, log 2). -/
structure Cursor where
  core : Nat
  slot : Nat
  q : SeqId
deriving DecidableEq, Repr

/-- What the last word or check did (model's own, log 2). -/
inductive Verdict where
  | idle | issued | blocked | trapped | stalled | waiting
deriving DecidableEq, Repr

/-- What remains of the present beat (model's own, log 2). -/
inductive Todo where
  | event (i : Instr)
  | slot (core slot : Nat)
  | issue (core slot : Nat) (q : SeqId)
  | phase (n : Nat)
deriving DecidableEq, Repr

/-- Everything but the bytes of memory. -/
structure Chip where
  gts : Nat
  devnum : BitVec 7
  cores : Tab Core
  owners : Tab Owner
  strands : Tab Strand
  works : Tab Work
  workNext : Nat
  locks : List Lock
  latches : List Latch
  stores : List Store
  storeCounts : List Nat
  chans : Tab Chan
  hbm : Tab Stack
  msel : BitVec 64
  parts : Tab Part
  walks : List Walk
  saved : Tab Saved
  keyGen : Tab Nat
  lineKeys : Tab (Nat × Nat)
  poisoned : List Nat
  /-- 64-byte sectors of on-chip storage that hold an uncorrectable error (08 R176; 10 R240; log 85). -/
  sramBad : List Nat
  /-- Writes of hardware and of killed owners' lane stores to sectors that an atomic holds: key, address, bytes (07 R150). -/
  late : List (Nat × Nat × List Byte)
  released : List (Nat × Nat)
  /-- Dynamic capacity extents added (23 R388). -/
  extents : List (Nat × Nat) := []
  /-- Budget accounts held on die, by block address (08 R204). -/
  accounts : Tab Nat
  /-- Clocks that cluster-shared words carry (06 R112), by 8-byte unit. -/
  clocks : Tab (List Nat)
  host : HostSt
  agenda : List Todo
  inputs : List (Nat × Instr)
  cur : Cursor
  verdict : Verdict
  fresh : Nat
  /-- Owners and places of strands by key as they stood before the first word of a beat that changed an owner, and that beat
  (21 R367). -/
  before : Option (Nat × Tab Owner × Tab Place) := none
deriving DecidableEq, Repr

/-- Memory: one canonical list of bytes by address (23 R375 for device addresses; on-chip storage lies
above 2^48, Ops.lean). An address not listed reads as zero (log 3). -/
abbrev Memory := List Host.Cell

/-- The state. -/
structure State where
  mem : Memory
  chip : Chip
deriving DecidableEq, Repr

/-- Reasons a step stops with a fault. -/
inductive Fault where
  /-- Raised by no meaning: kept for an access by hardware to a device address no memory answers,
  where the manual gives no outcome (23 R375). Safe: the machine stops. -/
  | unpopulated (addr : Nat)
deriving DecidableEq, Repr

/-- Reasons for which there is no meaning. -/
inductive Refusal where
  /-- An instruction this model does not give a meaning to yet. Safe: the machine stops. -/
  | notModelled (mnemonic : String)
deriving DecidableEq, Repr

/-! ### Reset -/

/-- A launch partition at reset (24 R401, 23 R392, 09 R206). -/
def Part.reset : Part :=
  { s2root := 0, htbase := 0, htlen := 0, kqbase := 0, kqhead := 0, kqtail := 0, hqbase := 0, hqhead := 0,
    hqtail := 0, lbsel := 0, ldrop := 0, fencestat := 0, savebase := 0, rcbsel := 0,
    pcore := [0, 0, 0, 0, 0, 0], records := [], launches := [], tlbinv := none }

/-- The host side at reset (24 R406; logs 17, 22, 30, 32). -/
def HostSt.reset : HostSt :=
  { booted := false, firmware := none, rollback := 0, measurements := [], bar2Open := true, ideKeys := [],
    ports := [], routes := [], brake := false, out := [] }

/-- Everything but memory at reset: no owner is woven and nothing is in flight. -/
def Chip.reset : Chip :=
  { gts := 0, devnum := 0, cores := [], owners := [], strands := [], works := [], workNext := 1, locks := [], latches := [],
    stores := [], storeCounts := [0, 0, 0, 0], chans := [], hbm := [], msel := 0, parts := [], walks := [],
    saved := [], keyGen := [], lineKeys := [], poisoned := [], sramBad := [], late := [], released := [], accounts := [], clocks := [], host := HostSt.reset,
    agenda := [], inputs := [], cur := ⟨0, 0, .ct⟩, verdict := .idle, fresh := 0 }

/-- The machine right after reset. -/
def State.reset : State := { mem := [], chip := Chip.reset }

end Sys2Proof.Machine
end

