-- ==== Sys2Proof/Machine/Bits.lean ====
section
/-! DEFINITION. Memory as bytes by address, the places of on-chip storage in it, byte strings, and the
CRC of checked sections. -/

namespace Sys2Proof.Machine

/-! ### Memory -/

/-- Cells of a block of bytes from an address, zero bytes left out: an unlisted byte reads zero (log 3). -/
def cellsOf (a : Nat) : List Byte → List Host.Cell
  | [] => []
  | b :: t => if b = 0#8 then cellsOf (a + 1) t else (a, b) :: cellsOf (a + 1) t

/-- One byte. -/
def Memory.read (m : Memory) (a : Nat) : Byte := ((m.find? (fun c => c.1 == a)).map (·.2)).getD 0#8

/-- Writes a block of bytes, keeping the canonical form. -/
def Memory.write (m : Memory) (a : Nat) (bs : List Byte) : Memory :=
  m.filter (fun c => decide (c.1 < a)) ++ (cellsOf a bs ++ m.filter (fun c => decide (a + bs.length ≤ c.1)))

/-- Reads along rising cells. -/
def readFrom : List Host.Cell → Nat → Nat → List Byte
  | _, _, 0 => []
  | [], _, n + 1 => 0#8 :: readFrom [] 0 n
  | (k, v) :: t, a, n + 1 => if k = a then v :: readFrom t (a + 1) n else 0#8 :: readFrom ((k, v) :: t) (a + 1) n

/-- A block of bytes. -/
def Memory.readBytes (m : Memory) (a n : Nat) : List Byte :=
  readFrom (m.filter (fun c => decide (a ≤ c.1) && decide (c.1 < a + n))) a n

/-- A little-endian value of n bytes. -/
def Memory.readLe (m : Memory) (a n : Nat) : Nat := leNat (m.readBytes a n)

/-- Addresses strictly rising from a bound, no zero byte listed. -/
def wfFrom (lo : Nat) : List Host.Cell → Bool
  | [] => true
  | (k, v) :: t => decide (lo ≤ k) && (v != 0#8) && wfFrom (k + 1) t

/-- The canonical form of memory. -/
def Memory.wf (m : Memory) : Bool := wfFrom 0 m

/-- Writes a list of blocks in order. -/
def writeAll (m : Memory) : List (Nat × List Byte) → Memory
  | [] => m
  | (a, bs) :: t => writeAll (Memory.write m a bs) t

/-! ### Places of on-chip storage (01 R12, R21), above every device address -/

/-- Base of a core's storage. -/
def coreBase (c : Nat) : Nat := 2 ^ 48 + c * 2 ^ 21
/-- WBUF, 512 KiB. -/
def wbufAddr (c : Nat) : Nat := coreBase c
/-- ABUF, 256 KiB. -/
def abufAddr (c : Nat) : Nat := coreBase c + 0x80000
/-- Register space, 64 KiB. -/
def rsAddr (c : Nat) : Nat := coreBase c + 0xC0000
/-- CBUF, 128 KiB: tile t at 4,096 t, element (i, j) at 128 i + 4 j (14 R294). -/
def cbufAddr (c : Nat) : Nat := coreBase c + 0xE0000
/-- Instruction store, 128 KiB, twelve bytes a word (04 R60). -/
def istoreAddr (c : Nat) : Nat := coreBase c + 0x100000
/-- Size of a near buffer (01 R21). -/
def bufSize : Buf → Nat | .wbuf => 0x80000 | .abuf => 0x40000
/-- Base of a near buffer. -/
def bufAddr (b : Buf) (c : Nat) : Nat := match b with | .wbuf => wbufAddr c | .abuf => abufAddr c

/-! ### Byte strings -/

/-- Zero bytes. -/
def zeros (n : Nat) : List Byte := List.replicate n 0#8
/-- Bytes of a 64-bit value. -/
def wordBytes (v : Word) : List Byte := leBytes 8 v.toNat
/-- The i-th group of n bytes. -/
def chunk (l : List Byte) (i n : Nat) : List Byte := (l.drop (i * n)).take n
/-- Little-endian value of the i-th group of n bytes. -/
def elem (l : List Byte) (i n : Nat) : Nat := leNat (chunk l i n)
/-- Sign extension of the low n bits to 64. -/
def sextN (n : Nat) (v : Nat) : Word :=
  let m := v % 2 ^ n
  if n = 0 then 0 else if m < 2 ^ (n - 1) then BitVec.ofNat 64 m else BitVec.ofInt 64 ((m : Int) - 2 ^ n)
/-- Signed reading of an n-bit value. -/
def toSigned (n : Nat) (v : Nat) : Int :=
  let m := v % 2 ^ n
  if n = 0 then 0 else if m < 2 ^ (n - 1) then (m : Int) else (m : Int) - 2 ^ n
/-- An integer reduced to n bits. -/
def wrapBits (n : Nat) (v : Int) : Nat := (v % (2 ^ n : Int)).toNat
/-- Ceiling of a quotient. -/
def cdiv (a b : Nat) : Nat := (a + b - 1) / b
/-- Bits hi..lo of a word as a number. -/
def bitsOf (v : Word) (lo n : Nat) : Nat := v.toNat / 2 ^ lo % 2 ^ n
/-- Splits a byte list into groups of n, at most k of them. -/
def chunksOf (n : Nat) : Nat → List Byte → List (List Byte)
  | 0, _ => []
  | k + 1, l => l.take n :: chunksOf n k (l.drop n)

/-! ### CRC-64/ECMA-182 (04 R75) -/

/-- One bit step. -/
def crcStep (crc : BitVec 64) : Nat → BitVec 64
  | 0 => crc
  | n + 1 => crcStep (if crc.msb then (crc <<< 1) ^^^ 0x42F0E1EBA9EA3693#64 else crc <<< 1) n
/-- Feeds a byte, most significant bit first. -/
def crcByte (crc : BitVec 64) (b : Byte) : BitVec 64 := crcStep (crc ^^^ ((b.setWidth 64) <<< 56)) 8
/-- Feeds bytes in order. -/
def crcBytes (crc : BitVec 64) (l : List Byte) : BitVec 64 := l.foldl crcByte crc

/-! ### Codes -/

/-- TCAUSE code of a cause (08 R176). -/
def causeCode : Cause → Nat
  | .illOpc => 0x01 | .illSeq => 0x02 | .illRsvd => 0x03 | .illBank => 0x04 | .illAlign => 0x05
  | .istoreEcc => 0x06 | .pcBound => 0x07
  | .fpInvalid => 0x10 | .fpDivzero => 0x11 | .fpOverflow => 0x12 | .fpUnderflow => 0x13 | .fpInexact => 0x14
  | .fpSnan => 0x15 | .ovfTrap => 0x16
  | .windowInvalid => 0x20 | .align => 0x21 | .xlatStage1 => 0x22 | .xlatStage2 => 0x23
  | .poisonConsumed => 0x24 | .poisonStore => 0x25 | .handleInvalid => 0x26 | .handlePerm => 0x27
  | .extentInvalid => 0x28 | .scratchForeign => 0x29 | .privateForeign => 0x2A | .streamRange => 0x2B
  | .capacityReleased => 0x2C
  | .segCount => 0x30 | .segSig => 0x31 | .missedPromise => 0x32 | .queueImbalance => 0x33
  | .wlaneBackpressure => 0x34 | .tokenOverflow => 0x35 | .wlaneBudget => 0x36 | .classUnused => 0x37
  | .ttMismatch => 0x40 | .ttUncorrectable => 0x41 | .ttReplayExhausted => 0x42 | .memUncorrected => 0x43
  | .sramUncorrected => 0x44 | .shadowUncorrected => 0x45
  | .collPeerAbsent => 0x50 | .collGroupInvalid => 0x51 | .linkDown => 0x52
  | .priv => 0x60 | .containmentUnwind => 0x61 | .enginePort => 0x62 | .blockAxis => 0x63 | .swTrap => 0x64
  | .doubleTrap => 0x65 | .budgetExhausted => 0x66
  | .hostSaveXlat => 0x70 | .hostRestoreXlat => 0x71 | .shroudFenced => 0x72

/-- Who receives a cause (08 R176, R177). -/
inductive Receiver where | strand | kernel | hyper
deriving DecidableEq, Repr

/-- The "To" column of 08 R176. The region handler of CONTAINMENT_UNWIND is a handler of the strand. -/
def causeTo : Cause → Receiver
  | .istoreEcc | .xlatStage1 | .xlatStage2 | .capacityReleased | .memUncorrected | .sramUncorrected
  | .shadowUncorrected | .linkDown | .doubleTrap | .budgetExhausted => .kernel
  | .hostSaveXlat | .hostRestoreXlat | .shroudFenced => .hyper
  | _ => .strand

/-- Sequencer number 0 CT, 1 LD, 2 CP, 3 ST (07 R165, R170). -/
def seqNum : SeqId → Nat | .ct => 0 | .ld => 1 | .cp => 2 | .st => 3
/-- The ring successor (01 R24). -/
def seqSucc : SeqId → SeqId | .ct => .ld | .ld => .cp | .cp => .st | .st => .ct
/-- The ring predecessor. -/
def seqPred : SeqId → SeqId | .ct => .st | .ld => .ct | .cp => .ld | .st => .cp
/-- All four, in ring order. -/
def allSeqs : List SeqId := [.ct, .ld, .cp, .st]
/-- Class number of CLASS_UNUSED (02 R32). -/
def className : SlotClass → Nat | .issue => 0 | .mesh => 1 | .chan => 2 | .wlane => 3 | .link => 4

end Sys2Proof.Machine
end

