-- ==== Sys2Proof/Machine/Ops.lean ====
section
/-! DEFINITION. The named operations every meaning is built from: reaching the parts of the state, one
result type, registers, due latches, the slot and clock tests, taking a trap and returning from one,
and the issue checks and bookkeeping of a word. -/

namespace Sys2Proof.Machine

/-! ### Results -/

/-- What a meaning yields: the new chip and the blocks of memory it writes, in order. -/
structure Res where
  chip : Chip
  writes : List (Nat × List Byte)

/-- The outcome type of every meaning. -/
abbrev Outcome := Host.Outcome State Fault Refusal

/-- The next state of a result. -/
def State.commit (s : State) (r : Res) : State := { mem := writeAll s.mem r.writes, chip := r.chip }

/-- A next state in which memory is as it was. -/
def State.keep (s : State) (c : Chip) : State := { s with chip := c }

/-! ### Parts of the state -/

/-- Table key of a strand: core and strand slot. -/
def skey (c sl : Nat) : Nat := c * 4 + sl
/-- A strand, if the slot holds one. -/
def Chip.strand? (ch : Chip) (c sl : Nat) : Option Strand := ch.strands.get? (skey c sl)
/-- Puts a strand back. -/
def Chip.setStrand (ch : Chip) (c sl : Nat) (st : Strand) : Chip :=
  { ch with strands := ch.strands.set (skey c sl) st }
/-- Applies a change to a strand that is there. -/
def Chip.onStrand (ch : Chip) (c sl : Nat) (f : Strand → Strand) : Chip :=
  match ch.strand? c sl with
  | some st => ch.setStrand c sl (f st)
  | none => ch

/-- Reset energy weights (08 R202). -/
def enwtReset (n : Nat) : Nat :=
  [2, 5, 12, 40, 180, 420, 760, 1900, 300, 250, 6554, 7200, 900, 60, 8, 496].getD n 0
/-- A core nothing has touched. -/
def Core.fresh : Core :=
  { enwt := [], idlePj := 0, idleMark := 0, idleOwned := 0, tlb := [], tiles := [], bin := 350,
    disabled := false, groups := [] }
/-- A core. -/
def Chip.core (ch : Chip) (c : Nat) : Core := ch.cores.getD c Core.fresh
/-- Puts a core back. -/
def Chip.setCore (ch : Chip) (c : Nat) (k : Core) : Chip := { ch with cores := ch.cores.set c k }
/-- A partition between the first and the last step of a fence (24 R407). -/
def Part.fenced (p : Part) : Bool := p.fencestat == 1 || p.fencestat == 2
/-- Weight of an energy class on a core. -/
def Core.weight (k : Core) (n : Nat) : Nat := k.enwt.getD n (enwtReset n)

/-- A header with nothing in it. -/
def Header.none : Header :=
  { strides := [], phases := [], reloc := 0, ncore := 0, winkb := 0, iskb := 0, ctmask := 0, cores := [],
    entries := [], entryPos := [] }
/-- An owner slot that holds nobody. -/
def Owner.empty : Owner :=
  { state := .empty, last := 0, hdr := Header.none, sup := false, part := 0, origin := 0, frozen := 0,
    freezeAt := none, thawAt := none, rephase := none, preempt := none, rcb := 0, acct := none, broke := false, ndev := 1, grp := 0,
    resv := [], placed := [], resvBeat := none, s1root := 0, report := none }
/-- An owner slot. -/
def Chip.owner (ch : Chip) (o : Nat) : Owner := ch.owners.getD o Owner.empty
/-- Puts an owner slot back. -/
def Chip.setOwner (ch : Chip) (o : Nat) (w : Owner) : Chip := { ch with owners := ch.owners.set o w }

/-- A partition. -/
def Chip.part (ch : Chip) (n : Nat) : Part := ch.parts.getD n Part.reset
/-- Puts a partition back. -/
def Chip.setPart (ch : Chip) (n : Nat) (p : Part) : Chip := { ch with parts := ch.parts.set n p }

/-- A channel with nothing under way (log 29). -/
def Chan.fresh : Chan :=
  { bankFree := [], refreshDue := [], postponed := [], queue := [], alert := [], yields := [], scrub := 0,
    rows := [], remap := [], copy := none, held := [], maintAt := 0, rowQueue := [] }
/-- A channel. -/
def Chip.chan (ch : Chip) (n : Nat) : Chan := ch.chans.getD n Chan.fresh
/-- Puts a channel back. -/
def Chip.setChan (ch : Chip) (n : Nat) (k : Chan) : Chip := { ch with chans := ch.chans.set n k }
/-- A base die at reset (23 R392). -/
def Stack.fresh : Stack :=
  { dirty := [], dhbits := 0, faqbase := 0, faqhead := 0, faqtail := 0, faqdrop := 0, badPages := [],
    hotctl := 0x400, hotfq := 0, counts := [], ineligible := [], migration := none, alertLog := [] }
/-- A stack's base die. -/
def Chip.stk (ch : Chip) (n : Nat) : Stack := ch.hbm.getD n Stack.fresh
/-- Puts a base die back. -/
def Chip.setStk (ch : Chip) (n : Nat) (k : Stack) : Chip := { ch with hbm := ch.hbm.set n k }

/-- A piece of work. -/
def Chip.work? (ch : Chip) (w : Nat) : Option Work := ch.works.get? w
/-- Puts work back. -/
def Chip.setWork (ch : Chip) (w : Nat) (k : Work) : Chip := { ch with works := ch.works.set w k }
/-- Adds work and gives its number. -/
def Chip.addWork (ch : Chip) (k : Work) : Chip × Nat :=
  ({ ch with works := ch.works.set ch.workNext k, workNext := ch.workNext + 1 }, ch.workNext)

/-- A sequencer of a strand. -/
def Strand.seq (st : Strand) : SeqId → Seq
  | .ct => st.ct | .ld => st.ld | .cp => st.cp | .st => st.st
/-- Puts a sequencer back. -/
def Strand.setSeq (st : Strand) (q : SeqId) (v : Seq) : Strand :=
  match q with
  | .ct => { st with ct := v } | .ld => { st with ld := v } | .cp => { st with cp := v } | .st => { st with st := v }

/-- The other strands of an owner, with their keys. -/
def Chip.strandsOf (ch : Chip) (o : Nat) : List (Nat × Strand) :=
  ch.strands.filter (fun e => e.2.place.owner == o)

/-! ### State at admission (07 R126) -/

/-- A sequencer at admission: its section header next. -/
def Seq.atAdmission (pos : BitVec 14) (entry : BitVec 12) : Seq :=
  { pc := pos, x := [], p := 1, tags := [], poison := 0, loops := [], pending := none, delay := false,
    ret := BitVec.ofNat 12 ((entry.toNat + 4094) % 4095), retNext := none, sec := none, atHdr := true, blockFrom := none,
    wait := .none, epcWritten := false }
/-- CSRs at admission (05 R91; 07 R170; 08 R182, R199; 15 R320). TEPC, LDEPC, CPEPC and STEPC read 0 until a trap or a CSR write
sets them (00 R7). -/
def Csrs.atAdmission : Csrs :=
  { fflags := 0, frm := 0, ftrapen := 0x20, tvec := 0, tepc := 0, ldepc := 0, cpepc := 0, stepc := 0,
    tcause := 0, faddr := 0, tval := 0, ttctl := 8, ttTol8 := 0x3A800000, ttTol16 := 0x3A800000,
    ttTolC4 := 0x3A800000, ttInject := 0, ttsyn := 0, ttmask := 0, preptWait := 0x4000,
    ctxstat := 0, blocked := 0, ctabgen := 0 }
/-- A nest level at admission: COUNT 1 and no steps (07 R160). -/
def NestLevel.unit : NestLevel := { count := 1, step := [] }
/-- Shared state at admission. -/
def Shared.atAdmission : Shared :=
  { rings := { fwd := [0, 0, 0, 0], back := [0, 0, 0, 0], dfwd := [0, 0, 0, 0], dback := [0, 0, 0, 0] },
    q0 := [], q1 := [], q2 := [], q1out := [], q2out := [], q3 := [], tokens := [], streams := [],
    nest := { shadow := List.replicate 6 NestLevel.unit, pendingShadow := false, live := none, iter := [] },
    views := [], masks := [], granules := 0, codes := List.replicate 16 0, codesShadow := List.replicate 16 0 }
/-- LANEBUD at reset (11 R250). -/
def lanebudReset : BitVec 64 := 0x00010010FFFFFFFF
/-- A strand at admission, at its place. LANEBUD has its reset value and B_rem is filled at τ = 0 (11 R249). -/
def Strand.atAdmission (pl : Place) (pos : List (BitVec 14)) : Strand :=
  let sq (i : Nat) := Seq.atAdmission (pos.getD i 0) (pl.entries.getD i 0)
  { place := pl,
    run := { tau := 0, h := false, hclk := 0, halted := false, reported := false, stall := none, hstall := none, preptMask := none,
             arrived := none, mmaUntil := 0, saved := none, hregion := none, htrap := none, nj := 0, pj := 0, esat := false },
    ct := sq 0, ld := sq 1, cp := sq 2, st := sq 3, bank := [], bankPoison := 0, bankTags := [],
    sh := Shared.atAdmission, csr := Csrs.atAdmission, due := [], traps := [],
    lane := { wissued := 0, wdone := 0, performed := [], brem := 0, lanebud := lanebudReset, queue := [], wlq := 0 },
    monitors := [], regions := [], replay := { points := [none, none, none, none], count := 0, noRecord := [], asked := false },
    vclock := List.replicate 6 [0, 0, 0, 0], vseen := List.replicate 7 [0, 0, 0, 0], vlate := [], vbytes := [] }

/-! ### Clocks and slots -/

/-- Whether an owner is frozen as a whole in beat b (02 R33, R36, R37). -/
def Owner.frozenAt (o : Owner) (b : Nat) : Bool :=
  decide (b < o.origin) ||
    (match o.freezeAt with
     | none => false
     | some g => decide (g ≤ b) && (match o.thawAt with | none => true | some t => decide (b < t)))
/-- The owner's clock: beats in which it was not frozen as a whole. -/
def Owner.clock (o : Owner) (b : Nat) : Nat := b - o.frozen
/-- Stride of a class; none when unused (02 R31). -/
def Owner.stride (o : Owner) (c : SlotClass) : Option Nat := (o.hdr.strides[className c]?).join
/-- Phase P_c of a class. -/
def Owner.phase (o : Owner) (c : SlotClass) : Nat := o.hdr.phases.getD (className c) 0
/-- The rotation L: the largest stride among the used classes (02 R31). -/
def Owner.rotation (o : Owner) : Nat := o.hdr.strides.foldl (fun m s => max m (s.getD 1)) 1
/-- Whether a beat of the owner's clock is an owned slot of a class (02 R34). -/
def Owner.ownsAt (o : Owner) (c : SlotClass) (t : Nat) : Bool :=
  match o.stride c with
  | some s => t % s == o.phase c % s
  | none => false
/-- Beat phase Q_c (02 R34). -/
def Owner.beatPhase (o : Owner) (c : SlotClass) : Nat :=
  match o.stride c with
  | some s => (o.phase c + o.frozen) % s
  | none => 0xF
/-- A woven owner whose strands run when they neither stall nor are frozen. -/
def Owner.live (o : Owner) : Bool :=
  match o.state with
  | .running | .window | .frozen | .halted => true
  | _ => false
/-- Whether a strand is running in the present beat (02 R33). -/
def Chip.runs (ch : Chip) (st : Strand) : Bool :=
  let o := ch.owner st.place.owner
  o.live && !o.frozenAt ch.gts && (match st.run.stall with | none => true | some k => decide (ch.gts < k.bs))
/-- Whether the owner holds the present beat as an ISSUE slot and is not frozen (02 R34, R40). -/
def Chip.ownsIssue (ch : Chip) (st : Strand) : Bool :=
  let o := ch.owner st.place.owner
  o.live && !o.frozenAt ch.gts && o.ownsAt .issue (o.clock ch.gts)
/-- The end of a stall: the first beat at or after `b` a positive multiple of L past `bs` (02 R38). -/
def stallEndBeat (bs b l : Nat) : Nat := bs + max 1 (cdiv (b - bs) l) * l

/-! ### Scalar registers (01 R18; 04 R62; 08 R181) -/

/-- Whether a register field of a sequencer names the handler bank. -/
def Strand.inBank (st : Strand) (q : SeqId) (r : Reg) : Bool := q == .ct && st.run.h && decide (56 ≤ r.toNat)
/-- The value of a register as it stands; x0 reads zero. -/
def Strand.rx (st : Strand) (q : SeqId) (r : Reg) : Word :=
  if r = 0#6 then 0
  else if st.inBank q r then st.bank.getD (r.toNat - 56) 0
  else (st.seq q).x.getD r.toNat 0
/-- The poison bit of a register; only CT has them (07 R133). -/
def Strand.px (st : Strand) (q : SeqId) (r : Reg) : Bool :=
  if r = 0#6 then false
  else match q with
    | .ct => if st.inBank q r then st.bankPoison.getLsbD (r.toNat - 56) else st.ct.poison.getLsbD r.toNat
    | _ => false
/-- The promise tag of a register (07 R138). -/
def Strand.tagOf (st : Strand) (q : SeqId) (r : Reg) : Option Nat :=
  if r = 0#6 then none
  else if st.inBank q r then st.bankTags.get? (r.toNat - 56) else (st.seq q).tags.get? r.toNat
/-- The number under which a landing names a register: 64 and up for the handler bank. -/
def Strand.regNo (st : Strand) (q : SeqId) (r : Reg) : Nat := if st.inBank q r then r.toNat + 8 else r.toNat
/-- One bit of a set, written. -/
def setBit {w : Nat} (v : BitVec w) (n : Nat) (b : Bool) : BitVec w :=
  if b then v ||| BitVec.twoPow w n else v &&& ~~~ (BitVec.twoPow w n)
/-- Writes a register at landing, with its tag and poison bit; a write to x0 is discarded. -/
def Strand.wx (st : Strand) (q : SeqId) (r : Nat) (v : Word) (tag : Option Nat) (poison : Bool) : Strand :=
  if r = 0 then st
  else if 64 ≤ r then
    { st with bank := st.bank.set (r - 64) v, bankPoison := setBit st.bankPoison (r - 64) poison,
              bankTags := match tag with | some t => st.bankTags.set (r - 64) t | none => st.bankTags.del (r - 64) }
  else
    let sq := st.seq q
    st.setSeq q { sq with x := sq.x.set r v,
                          tags := match tag with | some t => sq.tags.set r t | none => sq.tags.del r,
                          poison := if q = .ct then setBit sq.poison r poison else sq.poison }
/-- Sets only the poison bit of a register (07 R145). -/
def Strand.poisonX (st : Strand) (q : SeqId) (r : Nat) : Strand :=
  if r = 0 then st
  else if 64 ≤ r then { st with bankPoison := setBit st.bankPoison (r - 64) true }
  else if q = .ct then { st with ct := { st.ct with poison := setBit st.ct.poison r true } } else st
/-- A predicate; p0 is 1. -/
def Strand.rp (st : Strand) (q : SeqId) (n : BitVec 3) : Bool :=
  if n = 0#3 then true else (st.seq q).p.getLsbD n.toNat
/-- Writes a predicate; a write to p0 is discarded. -/
def Strand.wp (st : Strand) (q : SeqId) (n : Nat) (v : Bool) : Strand :=
  if n = 0 then st else st.setSeq q { st.seq q with p := setBit (st.seq q).p n v }

/-! ### Due latches (02 R35) -/

/-- Adds a result due n beats after issue on the sequencer's clock. -/
def Strand.later (st : Strand) (q : SeqId) (n : Nat) (lands : List Land) (trap : Option PTrap := none) : Strand :=
  let hc := q == .ct && st.run.h
  let now := if hc then st.run.hclk else st.run.tau
  { st with due := st.due ++ [{ due := now + n, hclock := hc, tauIssue := st.run.tau, q := q, lands := lands, trap := trap }] }

/-- The result of a word that writes one scalar register n beats after issue. -/
def Strand.laterX (st : Strand) (q : SeqId) (n : Nat) (r : Reg) (v : Word) (tag : Option Nat := none)
    (poison : Bool := false) : Strand :=
  st.later q n [.x q (st.regNo q r) v tag poison]

/-! ### Sections in the instruction store (04 R60, R72) -/

/-- Positions of a footprint (04 R60). -/
def positions (iskb : Nat) : Nat := iskb * 1024 / 12
/-- The word at a footprint position. -/
def wordAt (m : Memory) (c : Nat) (pl : Place) (p : Nat) : IWord :=
  wordOfBytes (m.readBytes (istoreAddr c + (pl.fbase + p) * 12) 12)
/-- Fields of a header word (04 R72): the section as it starts. -/
def sectionOf (p : BitVec 14) (w : IWord) : Section :=
  { hdr := p, num := w.extractLsb' 52 12, len := w.extractLsb' 40 12, preempt := w.getLsbD 3,
    replay := w.getLsbD 2, check := w.getLsbD 1, rephase := w.getLsbD 0, count := 0, crc := 0 }
/-- The three prerequisites (04 R72). -/
def prereqs (w : IWord) : List (BitVec 12) := [w.extractLsb' 28 12, w.extractLsb' 16 12, w.extractLsb' 4 12]
/-- A header with a reserved value (04 R72): NUM 0xFFF, LEN 0, or bits 95:64. -/
def headerReserved (w : IWord) : Bool :=
  w.extractLsb' 52 12 == 0xFFF#12 || w.extractLsb' 40 12 == 0#12 || w.extractLsb' 64 32 != 0#32
/-- A prerequisite n is met (04 R73); 0xFFF names none. DESIGN CHOICE (log 82): SECWAIT with 0xFFF passes as well. -/
def prereqMet (ret n : BitVec 12) : Bool := n == 0xFFF#12 || decide ((ret.toNat + 4095 - n.toNat) % 4095 ≤ 2047)
/-- Last body position of a section. -/
def Section.lastPos (s : Section) : Nat := s.hdr.toNat + s.len.toNat
/-- Whether a position is a body word of a section. -/
def Section.inBody (s : Section) (p : Nat) : Bool := decide (s.hdr.toNat < p) && decide (p ≤ s.lastPos)
/-- The section whose body holds a position, found from the headers of the footprint. -/
def sectionHolding (m : Memory) (c : Nat) (pl : Place) (p : Nat) : Option Section :=
  (pl.hdrs.map (fun h => sectionOf (BitVec.ofNat 14 h) (wordAt m c pl h))).find? (fun s => s.inBody p)
/-- The word at which the handler that runs is entered: TVEC (07 R127), or a killed region's own handler (08 R188). -/
def Strand.handlerWord (st : Strand) : Nat := (st.run.hregion.getD st.csr.tvec).toNat
/-- The section that governs a sequencer's transfers: in a handler the one that holds its handler's word (07 R127). -/
def currentSection (m : Memory) (c : Nat) (st : Strand) (q : SeqId) : Option Section :=
  if q = .ct ∧ st.run.h = true then sectionHolding m c st.place st.handlerWord else (st.seq q).sec
/-- A position that holds a section header, or will when the load under way puts it there (04 R66, R74; log 25). -/
def Place.isHdr (pl : Place) (p : Nat) : Bool := pl.hdrs.contains p || pl.coming.contains p
/-- A target the sequencer may transfer to (04 R66; 07 R127): a word of the current section's body or a header. -/
def targetOk (m : Memory) (c : Nat) (st : Strand) (q : SeqId) (t : Nat) : Bool :=
  let hdr := st.place.isHdr t
  decide (t < positions st.place.iskb) &&
    ((hdr && !(q == .ct && st.run.h)) ||
      (match currentSection m c st q with | some s => s.inBody t | none => false))

/-! ### Traps (08 R176 to R186) -/

/-- TCAUSE for a trap (07 R170). -/
def tcauseOf (t : PTrap) : Word :=
  BitVec.ofNat 64 (causeCode t.cause + seqNum t.q * 2 ^ 8 + t.sec.toNat * 2 ^ 12 + t.slot.toNat * 2 ^ 24)
/-- Where a trap of a sequencer points: its section and issued-slot count. Between sections the manual gives neither
(log 26). -/
def Strand.whereNow (st : Strand) (q : SeqId) : BitVec 12 × BitVec 32 :=
  match (st.seq q).sec with
  | some s => (s.num, s.count)
  | none => (Config.noSection (st.seq q).pc.toNat, Config.noSlot (st.seq q).pc.toNat)
/-- A trap found at a sequencer's head. -/
def Strand.mkTrap (st : Strand) (q : SeqId) (c : Cause) (faddr tval : Word) : PTrap :=
  { cause := c, faddr := faddr, tval := tval, q := q, sec := (st.whereNow q).1, slot := (st.whereNow q).2 }

/-- A K or H record (08 R186), kept until it is appended and answered. DESIGN CHOICE (log 84): the source number of a
strand's record is its core. -/
def recordOf (ch : Chip) (c sl : Nat) (st : Strand) (cause : Cause) (second : Nat) : KRecord :=
  { hyper := causeTo cause == .hyper, gts := ch.gts, core := c, slot := sl,
    words := [BitVec.ofNat 64 ch.gts,
      BitVec.ofNat 64 (c + st.place.owner * 2 ^ 16 + sl * 2 ^ 20 + c * 2 ^ 32 + second * 2 ^ 48 + causeCode cause * 2 ^ 56),
      st.csr.tcause, st.csr.faddr] }
/-- Hands a record to the context engine, which appends it as room allows (event KRECORD_APPEND). -/
def Chip.addRecord (ch : Chip) (part : Nat) (r : KRecord) : Chip :=
  ch.setPart part { ch.part part with records := (ch.part part).records ++ [r] }

/-- The EPCs at a trap: the word index at the head of each sequencer (08 R179 step 4). -/
def Strand.saveEpcs (st : Strand) : Strand :=
  { st with csr := { st.csr with tepc := st.ct.pc, ldepc := st.ld.pc, cpepc := st.cp.pc, stepc := st.st.pc } }

/-- A cause that arises while H = 1 waits for CT's next slot (08 R179, R185); the first of several is the one taken. -/
def Strand.second (st : Strand) (c : Cause) : Strand := { st with run := { st.run with htrap := some (st.run.htrap.getD c) } }
/-- A double trap (08 R185): the strand stays frozen, TVAL bits 6:0 take the second cause. -/
def doubleTrap (ch : Chip) (c sl : Nat) (st : Strand) (second : Nat) : Chip :=
  let csr := { st.csr with tval := (st.csr.tval &&& ~~~ 0x7F#64) ||| BitVec.ofNat 64 second }
  let bs := (st.run.stall.map (·.bs)).getD ch.gts
  let st1 := { st with csr := csr, run := { st.run with stall := some { kind := .record .doubleTrap, bs := bs, cleared := none } } }
  (ch.setStrand c sl st1).addRecord (ch.owner st.place.owner).part (recordOf ch c sl st1 .doubleTrap second)

/-- Enters the strand's handler (08 R179 steps 3 to 5), or the handler of a killed region at `at?`. -/
def enterHandler (m : Memory) (ch : Chip) (c sl : Nat) (st : Strand) (at? : Option (BitVec 14)) : Chip :=
  let st := st.saveEpcs
  let tvec := at?.getD st.csr.tvec
  let usable := (match sectionHolding m c st.place tvec.toNat with | some _ => true | none => false) &&
    !st.place.absent.contains tvec.toNat
  let ct := { st.ct with pc := tvec, pending := none, delay := false, loops := [], wait := .none, blockFrom := none,
                         epcWritten := false, atHdr := false }
  let bs := (st.run.stall.map (·.bs)).getD ch.gts
  let st1 : Strand :=
    { st with
      ct := ct, ld := { st.ld with epcWritten := false }, cp := { st.cp with epcWritten := false },
      st := { st.st with epcWritten := false },
      run := { st.run with h := true, hregion := at?, htrap := none, hstall := none, stall := some { kind := .trap, bs := bs, cleared := none },
                           saved := some { pending := st.ct.pending, delay := st.ct.delay, atHdr := st.ct.atHdr, loops := st.ct.loops, wait := st.ct.wait,
                                           blockFrom := st.ct.blockFrom } } }
  if usable then ch.setStrand c sl st1 else doubleTrap ch c sl st1 0x65

/-- A WAITT whose MISSED_PROMISE check was taken is not tested again, and a lane word whose trap was
taken blocks from then on (08 R184; 11 R248, R249). -/
def Seq.afterTrap (sq : Seq) (c : Cause) : Seq :=
  match c with
  | .missedPromise | .collPeerAbsent => { sq with wait := .none }
  | .wlaneBackpressure =>
    { sq with wait := .laneRetry true (match sq.wait with | .laneRetry _ b _ => b | _ => false) none }
  | .wlaneBudget =>
    { sq with wait := .laneRetry (match sq.wait with | .laneRetry f _ _ => f | _ => false) true none }
  | _ => sq

/-- TAKING A TRAP (08 R177, R179, R185): the strand stalls, TCAUSE, FADDR and TVAL are written, and the
cause goes to the strand's handler, the resident kernel or the hypervisor. Every precise fault, flag trap,
Telltale outcome and software trap goes through here. DESIGN CHOICE: the EPCs are written for every cause, also
where no handler is entered (log 83); a sequencer keeps the beat its block began in, so a word that trapped at the
block limit and is retried traps again at once (log 72). -/
def takeTrap (m : Memory) (ch : Chip) (c sl : Nat) (t : PTrap) : Chip :=
  match ch.strand? c sl with
  | none => ch
  | some st =>
    if st.run.h then doubleTrap ch c sl st (causeCode t.cause)
    else
      let st := st.setSeq t.q ((st.seq t.q).afterTrap t.cause)
      let st := { st with csr := { st.csr with tcause := tcauseOf t, faddr := t.faddr, tval := t.tval } }.saveEpcs
      let bs := (st.run.stall.map (·.bs)).getD ch.gts
      match causeTo t.cause with
      | .strand =>
        if st.csr.tvec = 0#14 then
          let st1 := { st with run := { st.run with stall := some { kind := .record t.cause, bs := bs, cleared := none } } }
          (ch.setStrand c sl st1).addRecord (ch.owner st.place.owner).part (recordOf ch c sl st1 t.cause 0)
        else enterHandler m ch c sl st none
      | _ =>
        let st1 := { st with run := { st.run with stall := some { kind := .record t.cause, bs := bs, cleared := none } } }
        (ch.setStrand c sl st1).addRecord (ch.owner st.place.owner).part (recordOf ch c sl st1 t.cause 0)

/-- Where a sequencer takes up after a handler (08 R184): an EPC the handler wrote empties the loop stack
and drops the pending transfer, and may name a section header or a word of another section. DESIGN CHOICE (log 55): an EPC that
names neither, such as a check word, resumes there in no section and the word is decoded. -/
def Seq.resume (m : Memory) (c : Nat) (pl : Place) (sq : Seq) (epc : BitVec 14) : Seq :=
  if sq.epcWritten then
    let hdr := pl.isHdr epc.toNat
    let sec := match sq.sec with
      | some s => if s.inBody epc.toNat then some s else sectionHolding m c pl epc.toNat
      | none => sectionHolding m c pl epc.toNat
    { sq with pc := epc, loops := [], pending := none, delay := false, wait := .none, blockFrom := none, atHdr := hdr, sec := sec }
  else { sq with pc := epc }

/-- RETURNING FROM A TRAP (08 R184; 07 R172): ERET clears H, gives CT back what was set aside, resumes the
four sequencers at their EPCs and lets the stall end by its rotation. A start at an EPC that the handler wrote is not one
that a replay stall made (15 R325). -/
def leaveHandler (m : Memory) (ch : Chip) (c sl : Nat) (st : Strand) : Chip :=
  let sv := st.run.saved.getD { pending := none, delay := false, atHdr := false, loops := [], wait := .none, blockFrom := none }
  let ct := { st.ct with pending := sv.pending, delay := sv.delay, loops := sv.loops, wait := sv.wait, blockFrom := sv.blockFrom,
                         atHdr := sv.atHdr }
  let st1 : Strand :=
    { st with ct := Seq.resume m c st.place ct st.csr.tepc, ld := Seq.resume m c st.place st.ld st.csr.ldepc,
              cp := Seq.resume m c st.place st.cp st.csr.cpepc, st := Seq.resume m c st.place st.st st.csr.stepc,
              replay := { st.replay with noRecord := st.replay.noRecord.filter (fun q => !(st.seq q).epcWritten) },
              run := { st.run with h := false, saved := none, hregion := none, htrap := none,
                                   stall := st.run.stall.map (fun k => { k with cleared := some (ch.gts + 1) }) } }
  ch.setStrand c sl st1

/-! ### Ring tokens (01 R24) -/

/-- Index of the forward queue out of a sequencer; the back queue out of a sequencer has the same index. -/
def ringIx (q : SeqId) : Nat := seqNum q
/-- An entry of a list changed. -/
def adjust (l : List Int) (i : Nat) (d : Int) : List Int := l.set i (l.getD i 0 + d)
/-- Whether the token actions of a word can all act, on the counts at the start of the beat. -/
def Rings.ready (r : Rings) (q : SeqId) (h : Head) : Bool :=
  (!h.wf || decide (0 < r.fwd.getD (ringIx (seqPred q)) 0)) &&
  (!h.wb || decide (0 < r.back.getD (ringIx (seqSucc q)) 0)) &&
  (!h.pf || decide (r.fwd.getD (ringIx q) 0 < 15)) &&
  (!h.pb || decide (r.back.getD (ringIx q) 0 < 15))
/-- The token actions of an issuing word, taking effect after the beat. -/
def Rings.act (r : Rings) (q : SeqId) (h : Head) : Rings :=
  let f := if h.wf then adjust r.dfwd (ringIx (seqPred q)) (-1) else r.dfwd
  let f := if h.pf then adjust f (ringIx q) 1 else f
  let b := if h.wb then adjust r.dback (ringIx (seqSucc q)) (-1) else r.dback
  let b := if h.pb then adjust b (ringIx q) 1 else b
  { r with dfwd := f, dback := b }
/-- The counts after the beat. -/
def Rings.settle (r : Rings) : Rings :=
  { fwd := List.zipWith (fun c d => (c + d).toNat) (r.fwd.map Int.ofNat) r.dfwd,
    back := List.zipWith (fun c d => (c + d).toNat) (r.back.map Int.ofNat) r.dback,
    dfwd := [0, 0, 0, 0], dback := [0, 0, 0, 0] }

/-! ### Energy (08 R201, R202) -/

/-- Adds picojoules to a strand's counter; at the top it stays and ESAT is set. -/
def Run.charge (r : Run) (pj : Nat) : Run :=
  if r.esat then r
  else
    let t := r.pj + pj
    let n := r.nj.toNat + t / 1000
    if n < 2 ^ 48 then { r with nj := BitVec.ofNat 48 n, pj := t % 1000 }
    else { r with nj := BitVec.ofNat 48 (2 ^ 48 - 1), esat := true }

/-! ### Issuing a word (04 R70) -/

/-- What the sequencer group of a word admits (01 R18). -/
inductive Grp where | any | ct | ld | cp | st
deriving DecidableEq, Repr
/-- Whether a sequencer is in a group. -/
def Grp.has (g : Grp) (q : SeqId) : Bool :=
  match g, q with
  | .any, _ | .ct, .ct | .ld, .ld | .cp, .cp | .st, .st => true
  | _, _ => false

/-- What a word's entry says of it before its own checks: group, energy class (08 R202), privilege, whether
every field is within its limits, and whether its own checks come before the token test (log 11). -/
structure Info where
  grp : Grp
  cls : Nat
  ok : Bool
  denied : Strand → Bool := fun _ => false
  opc : BitVec 8 := 0
  late : Bool := false

/-- Everything a meaning reads at issue. -/
structure Ctx where
  core : Nat
  slot : Nat
  q : SeqId
  mem : Memory
  chip : Chip
  st : Strand
  sq : Seq

/-- τ of the issue slot. -/
def Ctx.tau (x : Ctx) : Nat := x.st.run.tau
/-- The present beat. -/
def Ctx.now (x : Ctx) : Nat := x.chip.gts
/-- A register of the issuing sequencer. -/
def Ctx.rx (x : Ctx) (r : Reg) : Word := x.st.rx x.q r
/-- Its poison bit. -/
def Ctx.px (x : Ctx) (r : Reg) : Bool := x.st.px x.q r
/-- The issuing owner. -/
def Ctx.owner (x : Ctx) : Owner := x.chip.owner x.st.place.owner

/-- Where control goes after a word. -/
inductive Flow where
  | next
  | jump (t : BitVec 14)
  | loop (last : BitVec 14) (n : Nat)
  | skip (last : BitVec 14)
  | stop
  | eret
deriving DecidableEq, Repr

/-- What a word does once the checks of R70 are passed. -/
inductive Effect where
  /-- A precise fault (00 R9). -/
  | fault (c : Cause) (faddr tval : Word)
  /-- The slot stalls (02 R38); the chip holds what began, such as a walk. -/
  | stall (k : StallKind) (ch : Chip)
  /-- The sequencer blocks (01 R26); the cause at the limit, if there is one, and what it waits for. -/
  | block (limit : Option Cause) (w : HeadWait) (ch : Chip)
  /-- The word issues. -/
  | go (r : Res) (f : Flow) (w : HeadWait)

/-- A word that issues with a change to its strand alone. -/
def Ctx.done (x : Ctx) (st : Strand) : Effect :=
  .go { chip := x.chip.setStrand x.core x.slot st, writes := [] } .next .none
/-- A word that issues and does nothing more. -/
def Ctx.nothing (x : Ctx) : Effect := .go { chip := x.chip, writes := [] } .next .none
/-- A word that writes one scalar register n beats after issue. -/
def Ctx.writeX (x : Ctx) (n : Nat) (r : Reg) (v : Word) (poison : Bool := false) : Effect :=
  x.done (x.st.laterX x.q n r v none poison)
/-- FADDR of a cause for which the manual names no address (log 26). -/
def noAddr (c : Cause) : Word := Config.noFaddr (causeCode c)
/-- A precise fault with no address or value. -/
def trapNow (c : Cause) : Effect := .fault c (noAddr c) 0

/-- The last body word of an inner loop may be that of the loops around it (07 R136): where control goes
after a body's last word, and the loop stack then. -/
def loopEnd (pc : BitVec 14) : List Loop → BitVec 14 × List Loop
  | [] => (pc + 1, [])
  | l :: t =>
    if l.last = pc then
      if 1 < l.left then (l.first, { l with left := l.left - 1 } :: t) else loopEnd pc t
    else (pc + 1, l :: t)
/-- The loops whose body holds a position, after a transfer there. -/
def loopsAt (p : BitVec 14) : List Loop → List Loop
  | [] => []
  | l :: t => if l.first.toNat ≤ p.toNat ∧ p.toNat ≤ l.last.toNat then l :: t else loopsAt p t

/-- A sequencer after a word issued: delay slot, loops, next word (07 R134, R136). DESIGN CHOICE (log 101): a taken transfer that
is its section's last body word ends the section, and its delay slot is the word at the next position. -/
def Seq.advance (sq : Seq) (pl : Place) (f : Flow) : Seq :=
  if f = .eret ∨ f = .stop then sq else
  match sq.pending with
  | some t =>
    -- a delay slot that is a body's last word uses its iteration before control goes to the target (07 R136)
    let hdr := pl.isHdr t.toNat
    { sq with pc := t, pending := none, loops := if hdr then [] else loopsAt t (loopEnd sq.pc sq.loops).2, atHdr := hdr }
  | none =>
    match f with
    | .jump t => { sq with pending := some t, pc := (loopEnd sq.pc sq.loops).1, loops := (loopEnd sq.pc sq.loops).2 }
    | .loop last n => { sq with pc := sq.pc + 1, loops := { first := sq.pc + 1, last := last, left := n } :: sq.loops }
    | .skip last => { sq with pc := (loopEnd last sq.loops).1, loops := (loopEnd last sq.loops).2 }
    | .stop | .eret => sq
    | .next => { sq with pc := (loopEnd sq.pc sq.loops).1, loops := (loopEnd sq.pc sq.loops).2 }

/-- The section of a sequencer after a word issued (04 R74, R75): its count and signature, its end, its
check word, RET at the end. Answers the sequencer, the cause of a failed check, and the section that retired. -/
def Seq.close (m : Memory) (c : Nat) (pl : Place) (sq : Seq) (halt : Bool) : Seq × Option PTrap × Option Section :=
  match sq.sec with
  | none => (sq, none, none)
  | some s =>
    if halt || s.inBody sq.pc.toNat then (sq, none, none)
    else
      let past := sq.pc.toNat == s.lastPos + 1
      let chkPos := s.lastPos + 1
      let pc := if past && s.check then BitVec.ofNat 14 (chkPos + 1) else sq.pc
      let w := wordAt m c pl chkPos
      let bad : Option Cause :=
        if !s.check then none
        else if w.extractLsb' 64 32 != s.count then some .segCount
        else if w.extractLsb' 0 64 != s.crc then some .segSig
        else none
      let sq1 := { sq with pc := pc, sec := none, atHdr := true, loops := [] }
      match bad with
      | some cause =>
        (sq1, some { cause := cause, faddr := noAddr cause, tval := 0, q := .ct, sec := s.num, slot := s.count }, none)
      | none => ({ sq1 with retNext := some s.num }, none, some s)

/-- Counts an issued word in its section (04 R75). -/
def Seq.count (sq : Seq) (opc flags : Byte) : Seq :=
  match sq.sec with
  | none => sq
  | some s =>
    { sq with sec := some { s with count := s.count + 1,
                                   crc := crcBytes s.crc [opc, flags, s.count.setWidth 8] } }

/-- Whether an opcode is a transfer's: the word after it is its delay slot, taken or not (07 R134). -/
def transferOpc (opc : BitVec 8) : Bool := decide (0x10 ≤ opc.toNat) && decide (opc.toNat ≤ 0x15)
/-- Bits 87:80 of a word, from its head. -/
def headByte (h : Head) : Byte := bit h.pf ++ bit h.pb ++ bit h.wf ++ bit h.wb ++ bit h.pneg ++ h.psel

/-- The end of an issue: tokens, energy, the section's count and signature, the next word, and the end of
the section if control leaves it. A failed check word is a trap pending for the next owned slot. -/
def retire (m : Memory) (ch : Chip) (c sl : Nat) (q : SeqId) (h : Head) (i : Info) (f : Flow) (w : HeadWait) : Chip :=
  match ch.strand? c sl with
  | none => ch
  | some st =>
    let hand := q == .ct && st.run.h
    let sq := if f = .eret then st.seq q else { st.seq q with wait := w, blockFrom := none, delay := transferOpc i.opc }
    let sq := if hand || f == .eret then sq else sq.count i.opc (headByte h)
    let sq := { sq.advance st.place f with worked := some (ch.gts, (sq.sec.map (·.num)).getD 0) }
    let (sq, bad, fin) := if hand || f == .eret then (sq, none, none) else sq.close m c st.place (f == .stop)
    let run := st.run.charge ((ch.core c).weight i.cls)
    let run := match fin with
      | some s => if q = .ct ∧ s.rephase = true ∧ (ch.owner st.place.owner).rephase.isSome = true ∧ run.arrived = none then
          { run with arrived := some ch.gts } else run
      | none => run
    let st := st.setSeq q sq
    let st := { st with run := run, sh := { st.sh with rings := st.sh.rings.act q h },
                        traps := match bad with | some t => st.traps ++ [{ t with q := q }] | none => st.traps }
    { ch.setStrand c sl st with verdict := .issued }

/-- A blocked slot (01 R26): counted in BLOCKED; at 65,536 consecutive strand beats the limit's cause. DESIGN CHOICE
(log 72): a trap at the limit does not restart the count. -/
def blockSlot (m : Memory) (ch : Chip) (c sl : Nat) (q : SeqId) (limit : Option Cause) (w : HeadWait) : Chip :=
  match ch.strand? c sl with
  | none => ch
  | some st =>
    let now := if q == .ct && st.run.h then st.run.hclk else st.run.tau
    let from_ := ((st.seq q).blockFrom).getD now
    let expired := match limit with | some _ => decide (from_ + Config.blockLimit ≤ now) | none => false
    match expired, limit with
    | true, some cause => { takeTrap m ch c sl (st.mkTrap q cause (noAddr cause) 0) with verdict := .trapped }
    | _, _ =>
      let sq := { st.seq q with blockFrom := some from_, wait := w }
      let st := { st.setSeq q sq with csr := { st.csr with blocked := st.csr.blocked + 1 } }
      { ch.setStrand c sl st with verdict := .blocked }

/-- A strand, or while H = 1 its handler, that begins to stall in the present beat (02 R38). -/
def stallNow (ch : Chip) (c sl : Nat) (k : StallKind) : Chip :=
  let new : Stall := { kind := k, bs := ch.gts, cleared := none }
  { (ch.onStrand c sl (fun st =>
      { st with run := if st.run.h then { st.run with hstall := some new } else { st.run with stall := some new } }))
    with verdict := .stalled }

/-- Whether the word at the head stands in a delay slot (07 R134). -/
def Seq.inDelay (sq : Seq) : Bool := sq.delay || sq.pending.isSome
/-- Whether a transfer or LOOP stands where it may not (07 R134). -/
def Seq.transferHere (sq : Seq) : Bool :=
  !sq.inDelay && (match sq.loops with | l :: _ => l.last != sq.pc | [] => true)

/-- ISSUING A WORD (04 R70): on the cursor's sequencer, the checks of R70 in order, then the entry's own
checks and effect. `pre` are the operand checks of step 5. An inactive word (04 R59) only acts on its
tokens. Where the cursor names no strand nothing happens. -/
def issue (s : State) (h : Head) (i : Info) (pre : Ctx → Option Cause) (body : Ctx → Effect) : Outcome :=
  let cur := s.chip.cur
  match s.chip.strand? cur.core cur.slot with
  | none => .next s
  | some st =>
    let x : Ctx := { core := cur.core, slot := cur.slot, q := cur.q, mem := s.mem, chip := s.chip, st := st, sq := st.seq cur.q }
    let trap (c : Cause) (fa tv : Word) : Outcome :=
      .next (s.keep { takeTrap s.mem s.chip cur.core cur.slot (st.mkTrap cur.q c fa tv) with verdict := .trapped })
    if !i.grp.has cur.q then trap .illSeq (noAddr .illSeq) 0
    else if i.denied st then trap .priv (noAddr .priv) 0
    else if !i.ok then trap .illRsvd (noAddr .illRsvd) 0
    else match pre x with
    | some c => trap c (noAddr c) 0
    | none =>
      let ready := st.sh.rings.ready cur.q h
      let active := (st.rp cur.q h.psel).xor h.pneg
      let tokenBlock : Outcome := .next (s.keep (blockSlot s.mem s.chip cur.core cur.slot cur.q (some .tokenOverflow) x.sq.wait))
      if !active then
        if ready then .next (s.keep (retire s.mem s.chip cur.core cur.slot cur.q h i .next .none)) else tokenBlock
      else if !ready && !i.late then tokenBlock
      else match body x with
        | .fault c fa tv => trap c fa tv
        | .stall k ch => .next (s.keep (stallNow ch cur.core cur.slot k))
        | .block lim w ch => .next (s.keep (blockSlot s.mem ch cur.core cur.slot cur.q lim w))
        | .go r f w =>
          if !ready then tokenBlock
          else .next (s.commit { r with chip := retire s.mem r.chip cur.core cur.slot cur.q h i f w })

/-- A word with no register-space operands. -/
def noOperands : Ctx → Option Cause := fun _ => none

end Sys2Proof.Machine
end

