-- ==== Sys2Proof/Machine/Scalar.lean ====
section
/-! DEFINITION. The scalar group (07 R128 to R133): arithmetic, immediates, products, quotients, bit
operations and predicates. Each word issues on all four sequencers; on CT a poisoned source poisons the
result (R133). -/

namespace Sys2Proof.Machine

/-- Bookkeeping of a scalar word. -/
def scalarInfo (opc : BitVec 8) (cls : Nat) (ok : Bool := true) : Info :=
  { grp := .any, cls := cls, ok := ok, opc := opc }

/-- A word of two sources and one result n beats after issue (07 R128, R130, R133). -/
def scalar2 (s : State) (h : Head) (opc : BitVec 8) (cls n : Nat) (xd xa xb : Reg) (f : Word → Word → Word) : Outcome :=
  issue s h (scalarInfo opc cls) noOperands (fun x => x.writeX n xd (f (x.rx xa) (x.rx xb)) (x.px xa || x.px xb))

/-- A word of one source and one result at τ+1 (07 R129, R131, R133). -/
def scalar1 (s : State) (h : Head) (opc : BitVec 8) (ok : Bool) (xd xa : Reg) (f : Word → Word) : Outcome :=
  issue s h (scalarInfo opc 1 ok) noOperands (fun x => x.writeX 1 xd (f (x.rx xa)) (x.px xa))

/-- A predicate word (07 R132): pd written at τ+1. -/
def predWord (s : State) (h : Head) (pd : BitVec 3) (f : Ctx → Bool) : Outcome :=
  issue s h (scalarInfo 0x07 1) noOperands (fun x => x.done (x.st.later x.q 1 [.pred x.q pd.toNat (f x)]))

/-- The conditions of 04 R66. -/
def condHolds (c : Cond) (a b : Word) : Bool :=
  match c with
  | .eq => a == b
  | .ne => a != b
  | .lt => decide (a.toInt < b.toInt)
  | .ge => decide (b.toInt ≤ a.toInt)
  | .ltn => decide (a.toNat < b.toNat)
  | .gen => decide (b.toNat ≤ a.toNat)

/-- Quotient rounded toward zero, signed; a divisor of 0 gives all ones (07 R130). -/
def divS (a b : Word) : Word := if b = 0#64 then BitVec.allOnes 64 else BitVec.ofInt 64 (Int.tdiv a.toInt b.toInt)
/-- Quotient, unsigned. -/
def divU (a b : Word) : Word := if b = 0#64 then BitVec.allOnes 64 else BitVec.ofNat 64 (a.toNat / b.toNat)
/-- Remainder: xa - quotient × xb; a divisor of 0 gives xa. -/
def remS (a b : Word) : Word := if b = 0#64 then a else a - divS a b * b
/-- Remainder, unsigned. -/
def remU (a b : Word) : Word := if b = 0#64 then a else a - divU a b * b
/-- High half of the signed product. -/
def mulHighS (a b : Word) : Word := BitVec.ofInt 64 (a.toInt * b.toInt / 2 ^ 64)
/-- High half of the unsigned product. -/
def mulHighU (a b : Word) : Word := BitVec.ofNat 64 (a.toNat * b.toNat / 2 ^ 64)
/-- Leading zeros; 64 for zero (07 R131). -/
def leadingZeros (a : Word) : Word := if a = 0#64 then 64 else BitVec.ofNat 64 (63 - Nat.log2 a.toNat)
/-- The number of ones. -/
def onesCount (a : Word) : Word := BitVec.ofNat 64 ((List.range 64).countP (fun i => a.getLsbD i))
/-- One as a word. -/
def boolWord (b : Bool) : Word := if b then 1 else 0

/-- NOP (04 R76): its slot and its token actions. -/
def execNop (h : Head) (s : State) : Outcome := issue s h (scalarInfo 0x00 0) noOperands (fun x => x.nothing)

/-- ADD (07 R128). -/
def execAdd (h : Head) (xd xa xb : Reg) (s : State) : Outcome := scalar2 s h 0x01 1 1 xd xa xb (fun a b => a + b)
/-- SUB. -/
def execSub (h : Head) (xd xa xb : Reg) (s : State) : Outcome := scalar2 s h 0x01 1 1 xd xa xb (fun a b => a - b)
/-- AND. -/
def execAnd (h : Head) (xd xa xb : Reg) (s : State) : Outcome := scalar2 s h 0x01 1 1 xd xa xb (fun a b => a &&& b)
/-- OR. -/
def execOr (h : Head) (xd xa xb : Reg) (s : State) : Outcome := scalar2 s h 0x01 1 1 xd xa xb (fun a b => a ||| b)
/-- XOR. -/
def execXor (h : Head) (xd xa xb : Reg) (s : State) : Outcome := scalar2 s h 0x01 1 1 xd xa xb (fun a b => a ^^^ b)
/-- ANDN. -/
def execAndn (h : Head) (xd xa xb : Reg) (s : State) : Outcome := scalar2 s h 0x01 1 1 xd xa xb (fun a b => a &&& ~~~ b)
/-- SHL: by xb[5..0]. -/
def execShl (h : Head) (xd xa xb : Reg) (s : State) : Outcome :=
  scalar2 s h 0x01 1 1 xd xa xb (fun a b => a <<< (b.toNat % 64))
/-- SHR: zero fill. -/
def execShr (h : Head) (xd xa xb : Reg) (s : State) : Outcome :=
  scalar2 s h 0x01 1 1 xd xa xb (fun a b => a >>> (b.toNat % 64))
/-- SRA: sign fill. -/
def execSra (h : Head) (xd xa xb : Reg) (s : State) : Outcome :=
  scalar2 s h 0x01 1 1 xd xa xb (fun a b => a.sshiftRight (b.toNat % 64))
/-- MIN, signed. -/
def execMin (h : Head) (xd xa xb : Reg) (s : State) : Outcome :=
  scalar2 s h 0x01 1 1 xd xa xb (fun a b => if a.toInt ≤ b.toInt then a else b)
/-- MAX, signed. -/
def execMax (h : Head) (xd xa xb : Reg) (s : State) : Outcome :=
  scalar2 s h 0x01 1 1 xd xa xb (fun a b => if a.toInt ≤ b.toInt then b else a)
/-- MINN, unsigned. -/
def execMinn (h : Head) (xd xa xb : Reg) (s : State) : Outcome :=
  scalar2 s h 0x01 1 1 xd xa xb (fun a b => if a.toNat ≤ b.toNat then a else b)
/-- MAXN, unsigned. -/
def execMaxn (h : Head) (xd xa xb : Reg) (s : State) : Outcome :=
  scalar2 s h 0x01 1 1 xd xa xb (fun a b => if a.toNat ≤ b.toNat then b else a)
/-- SLT, signed. -/
def execSlt (h : Head) (xd xa xb : Reg) (s : State) : Outcome :=
  scalar2 s h 0x01 1 1 xd xa xb (fun a b => boolWord (decide (a.toInt < b.toInt)))
/-- SLTN, unsigned. -/
def execSltn (h : Head) (xd xa xb : Reg) (s : State) : Outcome :=
  scalar2 s h 0x01 1 1 xd xa xb (fun a b => boolWord (decide (a.toNat < b.toNat)))

/-- ADDI (07 R129). -/
def execAddi (h : Head) (xd xa : Reg) (imm : BitVec 48) (s : State) : Outcome :=
  scalar1 s h 0x02 true xd xa (fun a => a + imm.signExtend 64)
/-- LI. -/
def execLi (h : Head) (xd : Reg) (imm : BitVec 48) (s : State) : Outcome :=
  issue s h (scalarInfo 0x05 1) noOperands (fun x => x.writeX 1 xd (imm.signExtend 64))
/-- LIH: the high sixteen bits; the low 48 as xd stood at issue. -/
def execLih (h : Head) (xd : Reg) (imm : BitVec 16) (s : State) : Outcome :=
  issue s h (scalarInfo 0x05 1) noOperands
    (fun x => x.writeX 1 xd (imm ++ (x.rx xd).extractLsb' 0 48) (x.px xd))

/-- MUL (07 R130). -/
def execMul (h : Head) (xd xa xb : Reg) (s : State) : Outcome := scalar2 s h 0x03 2 3 xd xa xb (fun a b => a * b)
/-- MULH. -/
def execMulh (h : Head) (xd xa xb : Reg) (s : State) : Outcome := scalar2 s h 0x03 2 3 xd xa xb mulHighS
/-- MULHN. -/
def execMulhn (h : Head) (xd xa xb : Reg) (s : State) : Outcome := scalar2 s h 0x03 2 3 xd xa xb mulHighU
/-- DIV. -/
def execDiv (h : Head) (xd xa xb : Reg) (s : State) : Outcome := scalar2 s h 0x04 2 20 xd xa xb divS
/-- DIVN. -/
def execDivn (h : Head) (xd xa xb : Reg) (s : State) : Outcome := scalar2 s h 0x04 2 20 xd xa xb divU
/-- REM. -/
def execRem (h : Head) (xd xa xb : Reg) (s : State) : Outcome := scalar2 s h 0x04 2 20 xd xa xb remS
/-- REMN. -/
def execRemn (h : Head) (xd xa xb : Reg) (s : State) : Outcome := scalar2 s h 0x04 2 20 xd xa xb remU

/-- CLZ (07 R131). -/
def execClz (h : Head) (xd xa : Reg) (s : State) : Outcome := scalar1 s h 0x06 true xd xa leadingZeros
/-- POPC. -/
def execPopc (h : Head) (xd xa : Reg) (s : State) : Outcome := scalar1 s h 0x06 true xd xa onesCount
/-- SEXT. -/
def execSext (h : Head) (xd xa : Reg) (w : BitVec 7) (s : State) : Outcome :=
  scalar1 s h 0x06 (Instr.wf (.sext h xd xa w)) xd xa (fun a => sextN w.toNat a.toNat)
/-- ZEXT. -/
def execZext (h : Head) (xd xa : Reg) (w : BitVec 7) (s : State) : Outcome :=
  scalar1 s h 0x06 (Instr.wf (.zext h xd xa w)) xd xa (fun a => BitVec.ofNat 64 (a.toNat % 2 ^ w.toNat))

/-- PCMP (07 R132): a poisoned source on CT is consumed (R133). -/
def execPcmp (h : Head) (pd : BitVec 3) (xa xb : Reg) (cond : Cond) (s : State) : Outcome :=
  issue s h (scalarInfo 0x07 1) noOperands (fun x =>
    if x.px xa || x.px xb then trapNow .poisonConsumed
    else x.done (x.st.later x.q 1 [.pred x.q pd.toNat (condHolds cond (x.rx xa) (x.rx xb))]))
/-- PAND. -/
def execPand (h : Head) (pd pa pb : BitVec 3) (s : State) : Outcome :=
  predWord s h pd (fun x => x.st.rp x.q pa && x.st.rp x.q pb)
/-- POR. -/
def execPor (h : Head) (pd pa pb : BitVec 3) (s : State) : Outcome :=
  predWord s h pd (fun x => x.st.rp x.q pa || x.st.rp x.q pb)
/-- PXOR. -/
def execPxor (h : Head) (pd pa pb : BitVec 3) (s : State) : Outcome :=
  predWord s h pd (fun x => (x.st.rp x.q pa).xor (x.st.rp x.q pb))
/-- PNOT. -/
def execPnot (h : Head) (pd pa : BitVec 3) (s : State) : Outcome := predWord s h pd (fun x => !x.st.rp x.q pa)

end Sys2Proof.Machine
end

