-- ==== Sys2Proof/Machine/Control.lean ====
section
/-! DEFINITION. Transfers, loops and time (07 R134 to R140), and what a sequencer does at its head: section
starts, non-instructions and the footprint's bound (04 R70 to R75). -/

namespace Sys2Proof.Machine

/-! ### Transfers -/

/-- Bookkeeping of a transfer. -/
def transferInfo (opc : BitVec 8) (ok : Bool := true) : Info := { grp := .any, cls := 1, ok := ok, opc := opc }
/-- A transfer, LOOP, CROPEN or CRCLOSE in a delay slot, and a transfer or LOOP at the end of an active loop
body, are reserved (07 R134). -/
def notInDelay (x : Ctx) : Option Cause := if x.sq.transferHere then none else some .illRsvd
/-- As above for CROPEN and CRCLOSE, which only the delay slot forbids. -/
def notInDelaySlot (x : Ctx) : Option Cause := if x.sq.inDelay then some .illRsvd else none

/-- A taken transfer to a target (04 R66): WINDOW_INVALID unless it may be taken there. `st` is the strand
with what else the word writes. -/
def goTo (x : Ctx) (st : Strand) (t : Int) : Effect :=
  if t < 0 ∨ targetOk x.mem x.core x.st x.q t.toNat = false then trapNow .windowInvalid
  else .go { chip := x.chip.setStrand x.core x.slot st, writes := [] } (.jump (BitVec.ofNat 14 t.toNat)) .none
/-- The target of a relative transfer: the index of the word plus OFF. -/
def relTarget (x : Ctx) (off : BitVec 32) : Int := (x.sq.pc.toNat : Int) + off.toInt
/-- A relative transfer when a condition holds. -/
def branchIf (s : State) (h : Head) (opc : BitVec 8) (off : BitVec 32) (poison : Ctx → Bool) (taken : Ctx → Bool) : Outcome :=
  issue s h (transferInfo opc) notInDelay (fun x =>
    if poison x then trapNow .poisonConsumed
    else if taken x then goTo x x.st (relTarget x off) else x.nothing)

/-- BR.cond (07 R134, R146). -/
def execBr (h : Head) (c : Cond) (xa xb : Reg) (off : BitVec 32) (s : State) : Outcome :=
  branchIf s h 0x10 off (fun x => x.px xa || x.px xb) (fun x => condHolds c (x.rx xa) (x.rx xb))
/-- BRP (07 R134). -/
def execBrp (h : Head) (p : BitVec 3) (off : BitVec 32) (s : State) : Outcome :=
  branchIf s h 0x11 off (fun _ => false) (fun x => x.st.rp x.q p)
/-- BRP.CLR. -/
def execBrpClr (h : Head) (p : BitVec 3) (off : BitVec 32) (s : State) : Outcome :=
  branchIf s h 0x11 off (fun _ => false) (fun x => !x.st.rp x.q p)
/-- JMP. -/
def execJmp (h : Head) (off : BitVec 32) (s : State) : Outcome :=
  branchIf s h 0x12 off (fun _ => false) (fun _ => true)
/-- JMPX (07 R135): to xa + sext(OFF). DESIGN CHOICE (log 73): the sum is taken modulo 2^64. -/
def execJmpx (h : Head) (xa : Reg) (off : BitVec 32) (s : State) : Outcome :=
  issue s h (transferInfo 0x13) notInDelay (fun x =>
    if x.px xa then trapNow .poisonConsumed
    else goTo x x.st ((x.rx xa + off.signExtend 64).toNat : Int))
/-- CALL: the index of the word after the delay slot goes to the register at τ+1. -/
def execCall (h : Head) (xd : Reg) (off : BitVec 32) (s : State) : Outcome :=
  issue s h (transferInfo 0x14) notInDelay (fun x =>
    goTo x (x.st.laterX x.q 1 xd (BitVec.ofNat 64 (x.sq.pc.toNat + 2))) (relTarget x off))
/-- RET. -/
def execRet (h : Head) (xa : Reg) (s : State) : Outcome :=
  issue s h (transferInfo 0x15) notInDelay (fun x =>
    if x.px xa then trapNow .poisonConsumed else goTo x x.st ((x.rx xa).toNat : Int))

/-- LOOP's checks beyond its fields (07 R136): the body inside the section and inside the loop around it, at
most four levels. -/
def loopFits (x : Ctx) (len : BitVec 16) : Option Cause :=
  match notInDelay x with
  | some c => some c
  | none =>
    let last := x.sq.pc.toNat + len.toNat
    let inSec := match currentSection x.mem x.core x.st x.q with | some s => decide (last ≤ s.lastPos) | none => false
    let inLoop := match x.sq.loops with | l :: _ => decide (last ≤ l.last.toNat) | [] => true
    if inSec && inLoop && decide (x.sq.loops.length < 4) then none else some .illRsvd
/-- LOOP (07 R136): the count is IMM48 bits 31:0 when xa is x0, otherwise xa[31..0]. -/
def execLoop (h : Head) (xa : Reg) (len : BitVec 16) (count : BitVec 32) (s : State) : Outcome :=
  issue s h (transferInfo 0x16 (Instr.wf (.loop h xa len count))) (fun x => loopFits x len) (fun x =>
    if x.px xa then trapNow .poisonConsumed
    else
      let n := if xa = 0#6 then count.toNat else (x.rx xa).toNat % 2 ^ 32
      let last : BitVec 14 := BitVec.ofNat 14 (x.sq.pc.toNat + len.toNat)
      .go { chip := x.chip, writes := [] } (if n = 0 then .skip last else .loop last n) .none)

/-! ### Time (07 R137 to R140) -/

/-- TICK: the strand time of its slot, in a handler the frozen τ. -/
def execTick (h : Head) (xd : Reg) (s : State) : Outcome :=
  issue s h (scalarInfo 0x18 1) noOperands (fun x => x.writeX 1 xd (BitVec.ofNat 64 x.tau))
/-- GTSR: the GTS of its beat. -/
def execGtsr (h : Head) (xd : Reg) (s : State) : Outcome :=
  issue s h (scalarInfo 0x19 1) noOperands (fun x => x.writeX 1 xd (BitVec.ofNat 64 x.now))
/-- WAITT (07 R139): the next word is taken up from max(xa, τ+1). -/
def execWaitt (h : Head) (xa : Reg) (s : State) : Outcome :=
  issue s h (scalarInfo 0x1A 1) noOperands (fun x =>
    if x.px xa then trapNow .poisonConsumed
    else
      let v := (x.rx xa).toNat
      .go { chip := x.chip, writes := [] } .next (.waitt (max v (x.tau + 1)) v (x.st.tagOf x.q xa)))

/-- Work that is over, seen from beat b: complete in an earlier beat (06 R118; 09 R219, R222). -/
def Work.overAt (k : Work) (b : Nat) : Bool :=
  match k.doneBeat with | some d => decide (d < b) | none => false
/-- Whether numbered work is over in the present beat; work that is gone is, and what another device's collective does here
(19 R343) once its lock is gone. -/
def Chip.workOver (ch : Chip) (w : Nat) : Bool :=
  match ch.work? w with | some k => k.overAt ch.gts | none => ch.locks.all (fun l => l.work != w)
/-- The works of a strand. -/
def Chip.worksOf (ch : Chip) (c sl : Nat) : List (Nat × Work) :=
  ch.works.filter (fun e => e.2.core == c && e.2.slot == sl)
/-- Work that a slot finds complete: in its completion beat (06 R118; 20 R353; log 12), a WSTC's token only in the
beat after its drain (11 R257), a load or atomic once its value has landed (06 R106). -/
def Work.seenDone (k : Work) (b : Nat) : Bool :=
  match k.kind with
  | .wstc _ _ _ _ _ _ _ _ _ => k.overAt b
  | .access (.load _ _ _) _ _ | .access (.vload _ _) _ _ | .access (.amo _ _ _ _) _ _ | .access (.cas _ _ _ _) _ _ => k.overAt b
  | _ => k.doneBeat.isSome
/-- Whether a token's latest producing work is complete (07 R126, R140). -/
def tokenDone (ch : Chip) (st : Strand) (t : BitVec 6) : Bool :=
  if t = 63#6 then true
  else match st.sh.tokens.get? t.toNat with
    | some w => (match ch.work? w with | some k => k.seenDone ch.gts | none => true)
    | none => true

/-- WAITC (07 R140): with token 63, all the strand's promised work. -/
def execWaitc (h : Head) (tok : BitVec 6) (s : State) : Outcome :=
  issue s h (scalarInfo 0x1B 1) noOperands (fun x =>
    let finished :=
      if tok = 63#6 then (x.chip.worksOf x.core x.slot).all (fun e => !e.2.letters.promised || e.2.seenDone x.now)
      else tokenDone x.chip x.st tok
    if finished then x.nothing else .block none .none x.chip)

/-! ### The head of a sequencer (04 R70, R74) -/

/-- What stops a sequencer before a word reaches R70, taken as a trap of the present slot. -/
def headTrap (s : State) (c sl : Nat) (q : SeqId) (cause : Cause) (faddr tval : Word) : Outcome :=
  match s.chip.strand? c sl with
  | none => .next s
  | some st => .next (s.keep { takeTrap s.mem s.chip c sl (st.mkTrap q cause faddr tval) with verdict := .trapped })

/-- ILLEGAL_WORD (04 R70 steps 1 to 4, R71): the fate of a bit pattern that is not an instruction. -/
def execIllegalWord (core slot : Nat) (q : SeqId) (w : IWord) (s : State) : Outcome :=
  match s.chip.strand? core slot with
  | none => .next s
  | some st =>
    let o := wOpc w
    let cause : Cause :=
      if !opcAssigned o then .illOpc
      else if !opcOnSeq o q then .illSeq
      else if opcPrivileged o && !st.place.sup then .priv
      else if o = 0xD1#8 ∧ st.run.h = false then .priv
      else if o == 0xD2#8 && !csrReach (w.extractLsb' 56 12) st.place.sup then .priv
      else .illRsvd
    headTrap s core slot q cause (noAddr cause) 0

/-- PC_BOUND (08 R176): the next word position lies beyond the footprint. -/
def execPcBound (core slot : Nat) (q : SeqId) (s : State) : Outcome :=
  match s.chip.strand? core slot with
  | none => .next s
  | some st =>
    if positions st.place.iskb ≤ (st.seq q).pc.toNat then headTrap s core slot q .pcBound (noAddr .pcBound) 0
    else .next s

/-- ISTORE_ECC (08 R176): the word at the head is uncorrectable at its issue check. -/
def execIstoreEcc (core slot : Nat) (q : SeqId) (s : State) : Outcome :=
  headTrap s core slot q .istoreEcc (noAddr .istoreEcc) 0

/-- Whether header, body and check word of the section at p are resident (07 R164). -/
def sectionResident (pl : Place) (p : Nat) (sec : Section) : Bool :=
  !pl.absent.contains p && pl.absent.all (fun a => decide (a < p) || decide (p + sec.len.toNat + (if sec.check then 1 else 0) < a))

/-- A replay point recorded at a section's start (15 R325); one that CP records sets COUNT to 0. Starts that a
replay stall makes do not record. -/
def recordPoint (st : Strand) (q : SeqId) (sec : Section) : Strand :=
  if st.replay.noRecord.contains q then
    { st with replay := { st.replay with noRecord := st.replay.noRecord.filter (fun r => r != q) } }
  else if sec.replay then
    { st with replay := { st.replay with points := st.replay.points.set (seqNum q) (some sec.hdr),
                                         count := if q = .cp then 0 else st.replay.count } }
  else st

/-- SECTION_START (04 R74): the tests of a header in the order of R74; when they pass the section starts and
its first body word is next in the same slot. -/
def execSectionStart (core slot : Nat) (q : SeqId) (s : State) : Outcome :=
  match s.chip.strand? core slot with
  | none => .next s
  | some st =>
    let sq := st.seq q
    let p := sq.pc.toNat
    let w := wordAt s.mem core st.place p
    let sec := sectionOf sq.pc w
    if st.place.absent.contains p then .next (s.keep (stallNow s.chip core slot .notResident))
    else if headerReserved w then headTrap s core slot q .illRsvd (noAddr .illRsvd) 0
    else if !sectionResident st.place p sec then .next (s.keep (stallNow s.chip core slot .notResident))
    else
      let others := [seqSucc q, seqSucc (seqSucc q), seqPred q]
      let met := (List.zipWith (fun o n => prereqMet (st.seq o).ret n) others (prereqs w)).all id
      if !met then .next (s.keep (blockSlot s.mem s.chip core slot q (some .tokenOverflow) .none))
      else
        let sq1 := { sq with pc := sq.pc + 1, sec := some sec, atHdr := false, blockFrom := none, loops := [] }
        let st1 := st.setSeq q sq1
        let st2 := recordPoint st1 q sec
        .next (s.keep { s.chip.setStrand core slot st2 with verdict := .idle })

/-- BLOCK_LIMIT_EXPIRY (01 R26): a block of 65,536 strand beats ends in a trap; the word at the head says
which cause. The event counts a blocked slot of a sequencer whose header prerequisites are unmet; a word's
own block is counted where the word is taken up. -/
def execBlockLimitExpiry (core slot : Nat) (q : SeqId) (s : State) : Outcome :=
  match s.chip.strand? core slot with
  | none => .next s
  | some st =>
    match (st.seq q).blockFrom with
    | none => .next s
    | some f =>
      if f + Config.blockLimit ≤ st.run.tau ∧ (st.seq q).atHdr = true then
        headTrap s core slot q .tokenOverflow (noAddr .tokenOverflow) 0
      else .next s

end Sys2Proof.Machine
end

