-- ==== Sys2Proof/Machine/System.lean ====
section
/-! DEFINITION. CSRs, system words, containment regions, views, streams and nests (07 R158 to R175). -/

namespace Sys2Proof.Machine

/-- Bookkeeping of a CT word. -/
def ctInfo (opc : BitVec 8) (cls : Nat) (ok : Bool := true) : Info := { grp := .ct, cls := cls, ok := ok, opc := opc }

/-! ### CSRs (07 R169, R170; 08 R182, R199; 11 R250; 14 R313; 15 R320, R322, R328; 20 R351; 24 R399) -/

/-- STRANDID (07 R170). -/
def strandId (c sl : Nat) (st : Strand) : Word :=
  BitVec.ofNat 64 (c + sl * 2 ^ 16 + st.place.owner * 2 ^ 24 + (if st.place.sup then 2 ^ 32 else 0) + (if st.run.h then 2 ^ 33 else 0))
/-- ENERGY (08 R201). -/
def energyCsr (r : Run) : Word := BitVec.ofNat 64 (r.nj.toNat + if r.esat then 2 ^ 63 else 0)
/-- WLQ of a lane as it stands (11 R250). -/
def wlqCsr (l : Lane) : Word :=
  BitVec.ofNat 64 (l.queue.length + l.queue.foldl (fun n e => n + cdiv e.staged 64) 0 * 2 ^ 8 + l.brem * 2 ^ 32)
/-- TTREP (15 R322). -/
def ttrepCsr (r : Replay) : Word :=
  BitVec.ofNat 64 (r.count % 16 + (r.points.mapIdx (fun i p => if p.isSome then 2 ^ (4 + i) else 0)).sum)
/-- TTPNT (15 R322). -/
def ttpntCsr (r : Replay) : Word :=
  BitVec.ofNat 64 ((r.points.mapIdx (fun i p => (p.getD 0).toNat * 2 ^ (16 * i))).sum)

/-- A CSR as it reads at issue. -/
def csrRead (ch : Chip) (c sl : Nat) (st : Strand) (n : Nat) : Word :=
  let k := st.csr
  match n with
  | 0x001 => k.fflags.setWidth 64
  | 0x002 => k.frm.setWidth 64
  | 0x003 => k.ftrapen.setWidth 64
  | 0x010 => k.tvec.setWidth 64
  | 0x011 => k.tepc.setWidth 64
  | 0x012 => k.ldepc.setWidth 64
  | 0x013 => k.cpepc.setWidth 64
  | 0x014 => k.stepc.setWidth 64
  | 0x040 => k.ttctl
  | 0x041 => k.ttTol8
  | 0x042 => k.ttTol16
  | 0x043 => k.ttTolC4
  | 0x044 => k.ttInject
  | 0x400 => strandId c sl st
  | 0x401 => k.blocked
  | 0x402 => energyCsr st.run
  | 0x403 => ch.devnum.setWidth 64
  | 0x404 => st.place.taskId.setWidth 64
  | 0x410 => k.tcause
  | 0x411 => k.faddr
  | 0x412 => k.tval
  | 0x420 => BitVec.ofNat 64 st.lane.wdone
  | 0x421 => BitVec.ofNat 64 st.lane.wissued
  | 0x422 => st.lane.wlq
  | 0x430 => k.ctabgen.setWidth 64
  | 0x440 => k.ttsyn
  | 0x441 => k.ttmask
  | 0x442 => ttrepCsr st.replay
  | 0x443 => ttpntCsr st.replay
  | 0x800 => k.preptWait
  | 0x801 => k.ctxstat
  | _ => 0

/-- A word half that a TT_TOL register accepts (15 R320): neither negative nor NaN nor infinite; −0 counts as 0. -/
def tolHalfOk (v : BitVec 32) : Bool :=
  v.extractLsb' 23 8 != 0xFF#8 && (!v.msb || v.extractLsb' 0 31 == 0#31)
/-- A TT_TOL value that is accepted. -/
def tolOk (v : Word) : Bool := tolHalfOk (v.extractLsb' 0 32) && tolHalfOk (v.extractLsb' 32 32)

/-- Writes a CSR at landing; read-only registers and reserved bits ignore the write (00 R6, R7). A handler
that writes an EPC is remembered for ERET (08 R184). -/
def csrWrite (st : Strand) (n : Nat) (v : Word) : Strand :=
  let k := st.csr
  match n with
  | 0x001 => { st with csr := { k with fflags := v.setWidth 6 } }
  | 0x002 => if (v.extractLsb' 0 3).toNat ≤ 4 then { st with csr := { k with frm := v.setWidth 3 } } else st
  | 0x003 => { st with csr := { k with ftrapen := v.setWidth 6 } }
  | 0x010 => { st with csr := { k with tvec := v.setWidth 14 } }
  | 0x011 => { st with csr := { k with tepc := v.setWidth 14 }, ct := { st.ct with epcWritten := true } }
  | 0x012 => { st with csr := { k with ldepc := v.setWidth 14 }, ld := { st.ld with epcWritten := true } }
  | 0x013 => { st with csr := { k with cpepc := v.setWidth 14 }, cp := { st.cp with epcWritten := true } }
  | 0x014 => { st with csr := { k with stepc := v.setWidth 14 }, st := { st.st with epcWritten := true } }
  | 0x040 => if v.extractLsb' 0 2 = 3#2 then st else { st with csr := { k with ttctl := v &&& 0x3F } }
  | 0x041 => if tolOk v then { st with csr := { k with ttTol8 := v } } else st
  | 0x042 => if tolOk v then { st with csr := { k with ttTol16 := v } } else st
  | 0x043 => if tolOk v then { st with csr := { k with ttTolC4 := v } } else st
  | 0x044 => { st with csr := { k with ttInject := v &&& 0xC000001F1F1F1F1F } }
  | 0x800 => { st with csr := { k with preptWait := v &&& 0x1FFFFF } }
  -- CTXSTAT, written by the context engine at τ+1 (08 R198): no CSR word can name this number
  | 0x1801 => { st with csr := { k with ctxstat := v } }
  | _ => st

/-- CSR words (07 R169): xd receives the value at issue, the new value governs from τ+1. -/
def csrWord (s : State) (h : Head) (ok : Bool) (xd : Reg) (xa : Option Reg) (csr : BitVec 12) (f : Word → Word → Word) : Outcome :=
  issue s h { grp := .ct, cls := 14, ok := ok, opc := 0xD2, denied := fun st => !csrReach csr st.place.sup } noOperands (fun x =>
    let old := csrRead x.chip x.core x.slot x.st csr.toNat
    let rd := Land.x x.q (x.st.regNo x.q xd) old none false
    match xa with
    | none => x.done (x.st.later x.q 1 [rd])
    | some a =>
      if x.px a then trapNow .poisonConsumed
      else x.done (x.st.later x.q 1 [rd, .csr csr.toNat (f old (x.rx a))]))

/-- CSRR. -/
def execCsrr (h : Head) (xd : Reg) (csr : BitVec 12) (s : State) : Outcome :=
  csrWord s h (Instr.wf (.csrr h xd csr)) xd none csr (fun o _ => o)
/-- CSRW. -/
def execCsrw (h : Head) (xd xa : Reg) (csr : BitVec 12) (s : State) : Outcome :=
  csrWord s h (Instr.wf (.csrw h xd xa csr)) xd (some xa) csr (fun _ v => v)
/-- CSRS. -/
def execCsrs (h : Head) (xd xa : Reg) (csr : BitVec 12) (s : State) : Outcome :=
  csrWord s h (Instr.wf (.csrs h xd xa csr)) xd (some xa) csr (fun o v => o ||| v)
/-- CSRC. -/
def execCsrc (h : Head) (xd xa : Reg) (csr : BitVec 12) (s : State) : Outcome :=
  csrWord s h (Instr.wf (.csrc h xd xa csr)) xd (some xa) csr (fun o v => o &&& ~~~ v)

/-! ### System words -/

/-- TRAP n (07 R171): issues; SW_TRAP is taken in CT's next slot (event TRAP_ENTRY), in a handler as a second cause
(08 R185). -/
def execTrap (h : Head) (n : BitVec 8) (s : State) : Outcome :=
  issue s h (ctInfo 0xD0 14) noOperands (fun x =>
    if x.st.run.h then x.done { x.st with run := { x.st.run with htrap := some .swTrap } }
    else x.done { x.st with traps := x.st.traps ++ [x.st.mkTrap x.q .swTrap (noAddr .swTrap) (n.setWidth 64)] })
/-- ERET (07 R172; 08 R184): in a handler, once all it started is complete. -/
def execEret (h : Head) (s : State) : Outcome :=
  issue s h { grp := .ct, cls := 14, ok := true, opc := 0xD1, denied := fun st => !st.run.h } noOperands (fun x =>
    let busy := (x.chip.worksOf x.core x.slot).any (fun e => e.2.inH && !e.2.seenDone x.now)
    if busy then .block none .none x.chip
    else .go { chip := leaveHandler x.mem x.chip x.core x.slot x.st, writes := [] } .eret .none)
/-- HALT (07 R173): nothing of the strand issues after this slot; HALT_REPORTED follows. DESIGN CHOICE (log 102): a HALT issued
in a handler leaves H and the stall as they are. -/
def execHalt (h : Head) (s : State) : Outcome :=
  issue s h (ctInfo 0xD3 14) noOperands (fun x =>
    .go { chip := x.chip.setStrand x.core x.slot { x.st with run := { x.st.run with halted := true } }, writes := [] } .stop .none)
/-- PREPT mask (07 R174; 08 R189): records the tiles to save while a pre-emption of the owner is pending, and
the strand stalls from the next beat. In a handler it has no effect (08 R181). -/
def execPrept (h : Head) (mask : BitVec 32) (s : State) : Outcome :=
  issue s h (ctInfo 0xD4 14) noOperands (fun x =>
    let o := x.owner
    let open_ := match o.state, o.preempt with
      | .window, some p => decide (p.g ≤ x.now) && decide (x.now < p.windowEnd)
      | _, _ => false
    if x.st.run.h || !open_ then x.nothing
    else x.done { x.st with run := { x.st.run with
      preptMask := some (mask &&& x.st.place.ctmask),
      stall := some { kind := .prept, bs := x.now + 1, cleared := none } } })

/-! ### Containment (07 R167, R168) -/

/-- The open regions of a strand, less one whose CRCLOSE has issued and not yet landed. -/
def Strand.openRegions (st : Strand) : List Region :=
  st.regions.filter (fun r => !st.due.any (fun d => d.lands.contains (.closeRegion r.num)))
/-- The innermost open region tags the work a strand issues. CRCLOSE closes it for the words of its own slot (07 R168). -/
def Strand.innermost (st : Strand) : Option Nat := st.openRegions.head?.map (·.num)
/-- CROPEN n (07 R167): pushed at τ+1. -/
def execCropen (h : Head) (n : BitVec 4) (off : BitVec 32) (s : State) : Outcome :=
  issue s h (ctInfo 0xD6 14 (Instr.wf (.cropen h n off)))
    (fun x =>
      match notInDelaySlot x with
      | some c => some c
      | none => if x.st.regions.any (fun r => r.num == n.toNat) || decide (8 ≤ x.st.regions.length) then some .illRsvd else none)
    (fun x =>
      let t := relTarget x off
      if x.st.run.h then x.nothing
      else if t < 0 ∨ targetOk x.mem x.core x.st x.q t.toNat = false then trapNow .windowInvalid
      else x.done (x.st.later x.q 1 [.openRegion n.toNat (BitVec.ofNat 14 t.toNat)]))
/-- CRCLOSE n (07 R168): blocks until the region's work is complete, then pops it. -/
def execCrclose (h : Head) (n : BitVec 4) (s : State) : Outcome :=
  issue s h (ctInfo 0xD7 14)
    (fun x =>
      match notInDelaySlot x with
      | some c => some c
      | none => if x.st.innermost = some n.toNat then none else some .illRsvd)
    (fun x =>
      let busy := (x.chip.worksOf x.core x.slot).any (fun e => e.2.region == some n.toNat && !e.2.seenDone x.now)
      if busy then .block none .none x.chip
      else x.done (x.st.later x.q 1 [.closeRegion n.toNat]))

/-! ### Views, streams, nests (07 R158 to R162) -/

/-- The value a configuration word takes: IMM64 when xa is x0, otherwise xa. DESIGN CHOICE (log 81): a poisoned xa of
VIEW, SCFG or NEST.SET is read as it stands. -/
def cfgValue (x : Ctx) (xa : Reg) (imm : Word) : Word := if xa = 0#6 then imm else x.rx xa
/-- VIEW (07 R158; 04 R69): governs specifiers decoded at τ+1 or later (03 R54). -/
def execView (h : Head) (xa : Reg) (sl : BitVec 4) (imm : Word) (s : State) : Outcome :=
  issue s h (ctInfo 0xD8 14 (Instr.wf (.view h xa sl imm))) noOperands (fun x =>
    let v := cfgValue x xa imm
    if !viewListed v then trapNow .illRsvd else x.done (x.st.later x.q 1 [.view sl.toNat v]))
/-- SCFG (07 R159). -/
def execScfg (h : Head) (xa : Reg) (sl : BitVec 4) (fld : BitVec 6) (imm : Word) (s : State) : Outcome :=
  issue s h (ctInfo 0xD9 14 (Instr.wf (.scfg h xa sl fld imm))) noOperands (fun x =>
    let v := cfgValue x xa imm
    if !streamValueListed fld.toNat v then trapNow .illRsvd
    else x.done (x.st.later x.q 1 [.stream sl.toNat fld.toNat v]))
/-- NEST.SET (07 R160, R161): blocks while a shadow is pending. -/
def execNestSet (h : Head) (xa : Reg) (lvl : BitVec 4) (fld : BitVec 6) (imm : Word) (s : State) : Outcome :=
  issue s h (ctInfo 0xDA 14 (Instr.wf (.nestSet h xa lvl fld imm))) noOperands (fun x =>
    let v := cfgValue x xa imm
    if !nestValueListed fld.toNat v then trapNow .illRsvd
    else if x.st.sh.nest.pendingShadow then .block (some .queueImbalance) .none x.chip
    else x.done (x.st.later x.q 1
      [if fld = 0#6 then .shadowCount lvl.toNat v.toNat else .shadowStep lvl.toNat (fld.toNat - 0x10) v.toInt]))
/-- NEST.GO (07 R161). -/
def execNestGo (h : Head) (s : State) : Outcome :=
  issue s h (ctInfo 0xDB 14) noOperands (fun x =>
    if x.st.sh.nest.pendingShadow then .block (some .queueImbalance) .none x.chip
    else x.done (x.st.later x.q 1 [.nestGo]))
/-- NEST.STAT's value (07 R162). -/
def nestStatus (n : Nest) : Word :=
  let left := match n.live with | some (l :: _) => l.count - n.iter.getD 0 0 | _ => 0
  BitVec.ofNat 64 ((if n.live.isSome then 1 else 0) + (if n.pendingShadow then 2 else 0) + left * 2 ^ 16)
/-- NEST.STAT. -/
def execNestStat (h : Head) (xd : Reg) (s : State) : Outcome :=
  issue s h (ctInfo 0xDC 14) noOperands (fun x => x.writeX 1 xd (nestStatus x.st.sh.nest))

/-! ### Sections and q3 (07 R165, R166) -/

/-- SECWAIT (07 R165). -/
def execSecwait (h : Head) (sec : BitVec 12) (q : BitVec 2) (s : State) : Outcome :=
  issue s h (ctInfo 0x39 13) noOperands (fun x =>
    if prereqMet (x.st.seq (seqOf q)).ret sec then x.nothing else .block (some .tokenOverflow) .none x.chip)
/-- QPUSH (07 R166). -/
def execQpush (h : Head) (xa : Reg) (s : State) : Outcome :=
  issue s h (ctInfo 0x3A 13) noOperands (fun x =>
    if x.px xa then trapNow .poisonConsumed
    else if 16 ≤ x.st.sh.q3.length then .block (some .queueImbalance) .none x.chip
    else x.done (x.st.later x.q 1 [.push3 (x.rx xa)]))

end Sys2Proof.Machine
end

