-- ==== Sys2Proof/Machine/Operands.lean ====
section
/-! DEFINITION. Operand forms: register-space specifiers and banks (04 R67, R68), generic pointers (07 R141,
R142), streams (10 R228 to R230), device addresses and channels (23 R375, R376), translation (23 R382 to
R385) and tensor handles (09 R205 to R209). -/

namespace Sys2Proof.Machine

/-! ### Specifiers -/

/-- A register-space operand of a word: vector, or an element whose view has a required LOGE. -/
structure Opnd where
  spec : Spec
  vec : Bool
  loge : Option Nat
  src : Bool
deriving DecidableEq, Repr

/-- The view register a specifier names (04 R67); zero at admission. -/
def Strand.viewOf (st : Strand) (s : Spec) : Word := st.sh.views.getD (s.extractLsb' 8 4).toNat 0
/-- LOGE of a view. -/
def viewLoge (v : Word) : Nat := bitsOf v 16 4
/-- The window-relative address of a specifier (04 R67). -/
def Strand.opAddr (st : Strand) (s : Spec) : Nat :=
  let v := st.viewOf s
  bitsOf v 0 16 + (s.extractLsb' 0 8).toNat * bitsOf v 20 16
/-- Bytes of an operand. -/
def Strand.opLen (st : Strand) (o : Opnd) : Nat := if o.vec then 1024 else 2 ^ viewLoge (st.viewOf o.spec)
/-- An element view with another LOGE than the entry's (13 R264, 10 R234), a reserved value. -/
def Strand.logeBad (st : Strand) (o : Opnd) : Bool :=
  match o.loge with | some n => !o.vec && viewLoge (st.viewOf o.spec) != n | none => false
/-- Misaligned. -/
def Strand.alignBad (st : Strand) (o : Opnd) : Bool :=
  st.opAddr o.spec % (if o.vec then 1024 else 2 ^ viewLoge (st.viewOf o.spec)) != 0
/-- Outside the view's limit or the strand's window. -/
def Strand.windowBad (st : Strand) (o : Opnd) : Bool :=
  decide (bitsOf (st.viewOf o.spec) 36 9 ≤ (o.spec.extractLsb' 0 8).toNat) ||
    decide (st.place.winkb * 1024 < st.opAddr o.spec + st.opLen o)
/-- Bit 10 of an operand's address: its bank (04 R68). -/
def Strand.opBank (st : Strand) (o : Opnd) : Bool := (st.opAddr o.spec).testBit 10
/-- Two sources in one bank (04 R68). -/
def Strand.bankBad (st : Strand) (ops : List Opnd) : Bool :=
  match ops.filter (·.src) with
  | a :: b :: _ => st.opBank a == st.opBank b
  | _ => false
/-- Step 5 of 04 R70, with the LOGE rule of step 4 before it. -/
def Strand.checkOperands (st : Strand) (ops : List Opnd) : Option Cause :=
  if ops.any st.logeBad then some .illRsvd
  else if ops.any st.alignBad then some .illAlign
  else if st.bankBad ops then some .illBank
  else if ops.any st.windowBad then some .windowInvalid
  else none
/-- A vector source, a vector destination. -/
def vsrc (s : Spec) : Opnd := ⟨s, true, none, true⟩
def vdst (s : Spec) : Opnd := ⟨s, true, none, false⟩
/-- An element source or destination of 2^n bytes. -/
def esrc (s : Spec) (n : Nat) : Opnd := ⟨s, false, some n, true⟩
def edst (s : Spec) (n : Nat) : Opnd := ⟨s, false, some n, false⟩
/-- Operand checks of a word. -/
def operands (ops : List Opnd) : Ctx → Option Cause := fun x => x.st.checkOperands ops

/-- Address in memory of a strand's window. -/
def windowBase (c : Nat) (st : Strand) : Nat := rsAddr c + st.place.wbase
/-- Bytes of a register-space operand at issue. -/
def Ctx.readOp (x : Ctx) (s : Spec) (n : Nat) : List Byte :=
  x.mem.readBytes (windowBase x.core x.st + x.st.opAddr s) n
/-- The 64-byte granules a window range touches (10 R240). -/
def granulesOf (off n : Nat) : List Nat := (List.range (cdiv (off % 64 + n) 64)).map (· + off / 64)
/-- Whether any granule of a window range is poisoned. -/
def Strand.poisonedRange (st : Strand) (off n : Nat) : Bool := (granulesOf off n).any (fun g => st.sh.granules.getLsbD g)
/-- Poison bits of the granules of a window range. -/
def Strand.granuleBits (st : Strand) (off n : Nat) : List Bool := (granulesOf off n).map (fun g => st.sh.granules.getLsbD g)
/-- A result that writes window bytes and the poison of their granules. -/
def regLands (off : Nat) (data : List Byte) (poison : List Bool) : List Land :=
  [.reg off data, .granules (off / 64) poison]

/-! ### Mesh places (01 R14 to R17) -/

/-- Column and row of a core. -/
def coreX (c : Nat) : Nat := c % 24
def coreY (c : Nat) : Nat := c / 24
/-- Core at a column and row. -/
def coreAt (x y : Nat) : Nat := y * 24 + x
/-- Compute die of a core. -/
def dieOf (c : Nat) : Nat := (if coreX c < 12 then 0 else 1) + (if coreY c < 8 then 0 else 2)
/-- Cluster of a core. -/
def clusterOf (c : Nat) : Nat := (coreY c / 2) * 12 + coreX c / 2
/-- Core k of the cluster of a core. -/
def clusterCore (c k : Nat) : Nat := coreAt ((coreX c / 2) * 2 + k % 2) ((coreY c / 2) * 2 + k / 2)
/-- Core in cluster. -/
def inCluster (c : Nat) : Nat := (coreY c % 2) * 2 + coreX c % 2

/-! ### Generic pointers (07 R141) -/

/-- A pointer read by its layout. -/
inductive Ptr where
  | global (va : Nat)
  | cluster (k off : Nat)
  | scratch (core buf off : Nat)
  | priv (core owner off : Nat)
  | bad
deriving DecidableEq, Repr

/-- Size of a scratchpad buffer by its pointer code. -/
def scratchSize : Nat → Nat | 0 => 0x80000 | 1 => 0x40000 | 2 => 0x20000 | _ => 0
/-- A pointer's layout (07 R141); the bound on a private offset is not tested here. -/
def ptrOf (v : Word) : Ptr :=
  match bitsOf v 56 8 with
  | 0x00 => if bitsOf v 48 8 = 0 then .global (bitsOf v 0 48) else .bad
  | 0xC0 => if bitsOf v 22 34 = 0 ∧ bitsOf v 0 20 < 0x40000 then .cluster (bitsOf v 20 2) (bitsOf v 0 20) else .bad
  | 0xD0 =>
    if bitsOf v 42 14 = 0 ∧ bitsOf v 32 10 < Config.cores ∧ bitsOf v 22 10 = 0 ∧ bitsOf v 0 20 < scratchSize (bitsOf v 20 2)
    then .scratch (bitsOf v 32 10) (bitsOf v 20 2) (bitsOf v 0 20) else .bad
  | 0xE0 =>
    if bitsOf v 50 6 = 0 ∧ bitsOf v 40 10 < Config.cores ∧ bitsOf v 36 4 = 0 ∧ bitsOf v 32 4 < 8 ∧ bitsOf v 16 16 = 0
    then .priv (bitsOf v 40 10) (bitsOf v 32 4) (bitsOf v 0 16) else .bad
  | _ => .bad
/-- Width of a pointer's offset field. -/
def offsetBits (v : Word) : Nat :=
  match bitsOf v 56 8 with | 0x00 => 48 | 0xC0 | 0xD0 => 20 | 0xE0 => 16 | _ => 0
/-- A pointer with a byte offset added within its offset field (07 R142). DESIGN CHOICE (log 77): a sum outside the field
wraps in it, and a window code with no layout has no field, so that FADDR is then the pointer as it stands. -/
def ptrAdd (v : Word) (off : Int) : Word :=
  let n := offsetBits v
  BitVec.ofNat 64 (v.toNat / 2 ^ n * 2 ^ n + wrapBits n ((v.toNat % 2 ^ n : Nat) + off))
/-- Whether that sum leaves the field. -/
def ptrAddBad (v : Word) (off : Int) : Bool :=
  let t := ((v.toNat % 2 ^ offsetBits v : Nat) : Int) + off
  decide (t < 0) || decide ((2 : Int) ^ offsetBits v ≤ t)

/-- Where an access goes once its pointer has passed. -/
inductive Target where
  | priv (off : Nat)
  | scratch (buf off : Nat)
  | cluster (core off : Nat)
  | global (va : Nat)
deriving DecidableEq, Repr

/-- Whether an access at an offset leaves a bound (07 R142 step 2). The rule bounds the offset; of an access longer than its
alignment, a vector's, the whole extent stays inside (10 R237, 11 R253; log 78). -/
def pastBound (bound o extent align : Nat) : Bool := decide (bound < o + (if extent ≤ align then 1 else extent))
/-- Steps 2 to 5 of 07 R142 for an access of `extent` bytes: the fault and FADDR, or the target. `noWbuf` for a port that
WBUF has none of (11 R253). -/
def checkPtr (core : Nat) (st : Strand) (v : Word) (off : Int) (extent align : Nat) (noWbuf : Bool := false) :
    Except (Cause × Word) Target :=
  let p := ptrAdd v off
  let win : Except (Cause × Word) Target := .error (.windowInvalid, p)
  if ptrAddBad v off then win else
  match ptrOf p with
  | .bad => win
  | .global va =>
    if pastBound (2 ^ 48) va extent align then win
    else if va % align ≠ 0 then .error (.align, p) else .ok (.global va)
  | .cluster k o =>
    if pastBound 0x40000 o extent align then win
    else if o % align ≠ 0 then .error (.align, p) else .ok (.cluster (clusterCore core k) o)
  | .scratch c b o =>
    if pastBound (scratchSize b) o extent align then win
    else if c ≠ core then .error (.scratchForeign, p)
    else if b = 2 ∨ (noWbuf = true ∧ b = 0) then .error (.enginePort, p)
    else if o % align ≠ 0 then .error (.align, p) else .ok (.scratch b o)
  | .priv c w o =>
    let own := c = core ∧ w = st.place.owner
    if own ∧ pastBound (st.place.winkb * 1024) o extent align = true then win
    else if ¬ own then .error (.privateForeign, p)
    else if o % align ≠ 0 then .error (.align, p) else .ok (.priv o)

/-- Address of a scratchpad byte. -/
def scratchAddr (c b off : Nat) : Nat := (if b = 0 then wbufAddr c else abufAddr c) + off

/-! ### Streams (10 R228 to R230) -/

/-- A stream register at admission. -/
def Stream.zero : Stream :=
  { lpoff := 0, pos := 0, sstride := 0, sbase := 0, rstride := 0, gather := 0, axis := 0, fmt := 0, base := 0, buf := 0 }
/-- A stream register. -/
def Strand.stream (st : Strand) (n : Nat) : Stream := st.sh.streams.getD n Stream.zero
/-- The near buffer a stream names. -/
def Stream.buffer (s : Stream) : Buf := if s.buf = 1#2 then .abuf else .wbuf
/-- BASE + POS. -/
def Stream.at0 (s : Stream) : Nat := s.base.toNat + s.pos.toNat
/-- The start of row r. -/
def Stream.row (s : Stream) (r : Nat) : Nat := s.at0 + r * s.rstride.toNat
/-- The checks of 10 R230 over runs (start, length): first every start's alignment, then every extent. -/
def checkRuns (size : Nat) (runs : List (Nat × Nat)) : Option (Cause × Word) :=
  match runs.find? (fun r => r.1 % 64 != 0) with
  | some r => some (.align, BitVec.ofNat 64 r.1)
  | none =>
    match runs.find? (fun r => decide (size < r.1 + r.2)) with
    | some r => some (.streamRange, BitVec.ofNat 64 (max r.1 size))
    | none => none
/-- Writes a stream field (07 R159). -/
def Stream.setField (s : Stream) (fld : Nat) (v : Word) : Stream :=
  match fld with
  | 0 => { s with buf := v.setWidth 2 }
  | 1 => { s with base := v.setWidth 20 }
  | 2 => { s with fmt := v.setWidth 4 }
  | 3 => { s with axis := v.setWidth 1 }
  | 4 => { s with rstride := v.setWidth 20 }
  | 5 => { s with sbase := v.setWidth 20 }
  | 6 => { s with sstride := v.setWidth 20 }
  | 7 => { s with gather := v.setWidth 1 }
  | 8 => { s with pos := v.setWidth 20 }
  | 9 => { s with lpoff := v.setWidth 20 }
  | _ => s

/-! ### Device addresses and channels (23 R375, R376) -/

/-- What a device address names. -/
inductive Place375 where
  | hbm (stack off : Nat)
  | pool (port off : Nat)
  | host (pa : Nat)
  | none
deriving DecidableEq, Repr

/-- The device-address map (23 R375). -/
def placeOf (a : Nat) : Place375 :=
  if a < 8 * 2 ^ 37 then (if a % 2 ^ 37 < 20 * 2 ^ 32 then .hbm (a / 2 ^ 37) (a % 2 ^ 37) else .none)
  else if 2 ^ 42 ≤ a ∧ a < 2 ^ 42 + 2 * 2 ^ 42 then .pool ((a - 2 ^ 42) / 2 ^ 42) ((a - 2 ^ 42) % 2 ^ 42)
  else if 2 ^ 46 ≤ a ∧ a < 2 ^ 47 then .host (a - 2 ^ 46)
  else .none
/-- Granule of an ILV value (23 R376). -/
def granule (ilv : Nat) : Nat := if ilv = 0 then 2 ^ 16 else 256 * 2 ^ (ilv - 1)
/-- Channel within the stack of an offset. -/
def chanOf (ilv off : Nat) : Nat := off / granule ilv % 32
/-- Offset within the channel: the stack offset with its channel-select bits removed. -/
def chanOffset (ilv off : Nat) : Nat := off / (32 * granule ilv) * granule ilv + off % granule ilv
/-- Bank of an offset. -/
def bankOf (ilv off : Nat) : Nat := chanOffset ilv off / 64 % 32
/-- The cell that an offset under ILV names, as the offset that names it under ILV 0: each ILV is a
one-to-one map of a stack's offsets onto its cells (23 R376). -/
def cellOf (ilv off : Nat) : Nat :=
  let c := chanOffset ilv off
  c / 2 ^ 16 * (32 * 2 ^ 16) + chanOf ilv off * 2 ^ 16 + c % 2 ^ 16
/-- The address under which the byte at a device address lies, under an ILV. -/
def homeAddr (ilv a : Nat) : Nat :=
  match placeOf a with
  | .hbm s off => s * 2 ^ 37 + cellOf ilv off
  | _ => a
/-- The device address that names under an ILV what the home address `a` names: the other way round. -/
def deviceAddr (ilv a : Nat) : Nat :=
  match placeOf a with
  | .hbm s off =>
    let c := chanOffset 0 off
    s * 2 ^ 37 + (c / granule ilv * (32 * granule ilv) + chanOf 0 off * granule ilv + c % granule ilv)
  | _ => a
/-- Entry router of a channel (01 R16). -/
def entryRouter (stack ch : Nat) : Nat := coreAt (if stack < 4 then 0 else 23) (4 * (stack % 4) + ch / 8)

/-! ### Translation (23 R382 to R385) -/

/-- Reserved bits of an entry (23 R382): 11:7 and 63:56, and in stage 1 REPL, MIG and PEER. -/
def entryReserved (stage2 : Bool) (e : Word) : Bool :=
  bitsOf e 7 5 != 0 || bitsOf e 56 8 != 0 || (!stage2 && bitsOf e 4 3 != 0)
/-- A leaf found by a walk: output address of the first byte of the 64 KiB page, permissions, flags. -/
structure Leaf where
  addr : Nat
  r : Bool
  w : Bool
  repl : Bool
  mig : Bool
  peer : Bool
  key : Nat
  entry : Nat
  big : Bool
deriving DecidableEq, Repr

/-- A walk from a level (23 R382) for a read or a write, `r` and `w` what the entries before permit. Every entry must permit
the access. `via` turns a table address of this stage into a device address; where it fails, in stage 1, stage 2 has found the
fault of a table's own address (23 R375). -/
def walkFrom (m : Memory) (stage2 : Bool) (via : Nat → Option Nat) (write : Bool) :
    List (Nat × Nat × Nat) → Bool → Bool → Nat → Nat → Except Cause Leaf
  | [], _, _, _, _ => .error (if stage2 then .xlatStage2 else .xlatStage1)
  | (level, lo, n) :: rest, r, w, table, a =>
    match via (table + a / 2 ^ lo % 2 ^ n * 8) with
    | none => .error .xlatStage2
    | some d =>
      let bad : Except Cause Leaf := .error (if stage2 then .xlatStage2 else .xlatStage1)
      let e := BitVec.ofNat 64 (m.readLe (homeAddr 0 d) 8)
      let leaf := e.getLsbD 1
      let oa := bitsOf e 12 36 * 2 ^ 12
      let r := r && e.getLsbD 2
      let w := w && e.getLsbD 3
      if !e.getLsbD 0 || entryReserved stage2 e || !(if write then w else r) then bad
      else if !leaf then
        if level = 3 then bad
        else if bitsOf e 48 8 ≠ 0 then bad
        else walkFrom m stage2 via write rest r w oa a
      else if level < 2 then bad
      else
        let size := if level = 2 then 2 ^ 21 else 2 ^ 16
        if oa % size ≠ 0 then bad
        else if !stage2 && bitsOf e 48 8 != 0 then bad
        else .ok { addr := oa + a % size / 2 ^ 16 * 2 ^ 16, r := r, w := w, repl := e.getLsbD 4,
                   mig := e.getLsbD 5, peer := e.getLsbD 6, key := bitsOf e 48 8, entry := d, big := level == 2 }
/-- The four levels: level, low index bit, index bits. -/
def levels : List (Nat × Nat × Nat) := [(0, 39, 9), (1, 30, 9), (2, 21, 9), (3, 16, 5)]

/-- Stage 2 of an intermediate address: the leaf of its 64 KiB page (23 R375, R382, R385). -/
def stage2 (m : Memory) (s2root : Word) (ipa : Nat) (write : Bool) : Option Leaf :=
  match walkFrom m true some write levels true true (bitsOf s2root 12 36 * 2 ^ 12) ipa with
  | .error _ => none
  | .ok l =>
    match placeOf l.addr with
    | .none => none
    | .hbm s _ => if l.repl && (!decide (s < 2) || l.big) then none else some l
    | _ => if l.repl then none else some l
/-- Device address of an intermediate address that a walk reads a table entry at. -/
def stage2Addr (m : Memory) (s2root : Word) (ipa : Nat) : Option Nat :=
  (stage2 m s2root ipa false).map (fun l => l.addr + ipa % 2 ^ 16)
/-- Both stages (23 R382): the fault, or the combined entry of a virtual page. -/
def translateWalk (m : Memory) (s1root : Nat) (s2root : Word) (owner page : Nat) (write : Bool) : Except Cause TlbEntry :=
  let va := page * 2 ^ 16
  match walkFrom m false (stage2Addr m s2root) write levels true true s1root va with
  | .error c => .error c
  | .ok l1 =>
    match stage2 m s2root l1.addr write with
    | none => .error .xlatStage2
    | some l2 =>
      .ok { owner := owner, page := page, frame := l2.addr, r := l1.r && l2.r, w := l1.w && l2.w, repl := l2.repl,
            mig := l2.mig, peer := l2.peer, key := l2.key, leaf := l2.entry, big := l2.big }
/-- The replica of a page for a die (23 R385). -/
def replicaAddr (a die : Nat) : Nat := a + [0, 4, 2, 6].getD die 0 * 2 ^ 37
/-- The replica's sequencer die (23 R385): OA bits 17:16. -/
def seqDie (frame : Nat) : Nat := frame / 2 ^ 16 % 4

/-- What a TLB lookup finds for a run of bytes (07 R144). -/
inductive Xlat where
  | hit (pieces : List (Nat × Nat × TlbEntry))
  | miss (page : Nat)
  | fault (c : Cause)
deriving DecidableEq, Repr

/-- A TLB entry that serves an access. -/
def tlbFind (k : Core) (owner page : Nat) (write : Bool) : Option TlbEntry :=
  k.tlb.find? (fun e => e.owner == owner && e.page == page && (if write then e.w else e.r))
/-- The pages of a run of bytes: page, offset in the page, bytes. -/
def pagesOf (va n : Nat) : List (Nat × Nat × Nat) :=
  (List.range ((va + n - 1) / 2 ^ 16 - va / 2 ^ 16 + 1)).map (fun i =>
    let p := va / 2 ^ 16 + i
    let lo := max va (p * 2 ^ 16)
    let hi := min (va + n) ((p + 1) * 2 ^ 16)
    (p, lo - p * 2 ^ 16, hi - lo))
/-- Translates a run of bytes of the strand's owner (07 R144): a walk that ended in a fault is found here. -/
def translate (ch : Chip) (core sl : Nat) (owner va n : Nat) (write : Bool) : Xlat :=
  let look (p : Nat × Nat × Nat) : Xlat :=
    match ch.walks.find? (fun w => w.core == core && w.slot == sl && w.owner == owner && w.page == p.1 && w.result.isSome) with
    | some w => .fault (match w.result with | some r => r.1 | none => .xlatStage1)
    | none =>
      match tlbFind (ch.core core) owner p.1 write with
      | some e => .hit [(e.frame + p.2.1, p.2.2, e)]
      | none => .miss p.1
  (pagesOf va n).foldl (fun acc p =>
    match acc with
    | .hit l => (match look p with | .hit l2 => .hit (l ++ l2) | r => r)
    | r => r) (.hit [])
/-- Starts a walk for a strand, unless one runs (23 R383); `doneBeat` 0 waits for a free walker. -/
def startWalk (ch : Chip) (core sl owner page : Nat) (write : Bool) : Chip :=
  if ch.walks.any (fun w => w.core == core && w.slot == sl && w.owner == owner && w.page == page) then ch
  else { ch with walks := ch.walks ++ [{ core := core, slot := sl, owner := owner, page := page, write := write,
                                         doneBeat := 0, result := none }] }
/-- Forgets a strand's faulted walks once the fault is raised. -/
def dropWalks (ch : Chip) (core sl : Nat) : Chip :=
  let mine (w : Walk) : Bool := w.core == core && w.slot == sl && some w.owner == (ch.strand? core sl).map (·.place.owner)
  { ch with walks := ch.walks.filter (fun w => !(mine w && w.result.isSome)) }
/-- Whether a device address lies in a released extent of a pool (23 R388). -/
def Chip.releasedAt (ch : Chip) (a : Nat) : Bool := ch.released.any (fun r => decide (r.1 ≤ a) && decide (a < r.2))

/-! ### Handles and tiles (09 R205 to R209) -/

/-- Element size of a handle: packed types count bytes (09 R205). -/
def Handle.e (h : Handle) : Nat := tySize h.fmt
/-- Bytes as they stand at .PKG: of a byte over which a store is not yet applied on every die, what the first of them hid
(06 R410). -/
def packageBytes (m : Memory) (ch : Chip) (a n : Nat) : List Byte :=
  (m.readBytes a n).mapIdx (fun i v =>
    match ch.stores.find? (fun s => decide (s.addr ≤ a + i) && decide (a + i < s.addr + s.old.length) && decide (s.applied.length < 4)) with
    | some s => s.old.getD (a + i - s.addr) v
    | none => v)
/-- Reads a handle entry as performed at .PKG (09 R206); `none` where 09 R207 refuses it. -/
def readHandle (m : Memory) (ch : Chip) (p : Part) (owner : Nat) (xh : Word) : Option (Handle × Bool × Bool) :=
  let idx := xh.toNat
  let a := bitsOf p.htbase 6 42 * 64 + idx * 64
  let entry := packageBytes m ch (homeAddr 0 a) 64
  let w (i : Nat) : Word := BitVec.ofNat 64 (leNat ((entry.drop (8 * i)).take 8))
  let dims := (List.range 4).map (fun i => bitsOf (w 1) (16 * i) 16)
  let ndim := bitsOf (w 0) 52 2
  let reserved := bitsOf (w 0) 56 7 != 0 || bitsOf (w 2) 48 16 != 0 || bitsOf (w 3) 48 16 != 0 || bitsOf (w 4) 48 16 != 0 ||
    bitsOf (w 5) 43 5 != 0 || bitsOf (w 5) 56 8 != 0 || bitsOf (w 6) 48 16 != 0 || w 7 != 0
  if idx ≥ 2 ^ 16 ∨ bitsOf p.htlen 0 17 ≤ idx then none
  else if !(w 0).getLsbD 63 || !(w 5).getLsbD (48 + owner) || dims.any (· == 0) || reserved then none
  else if placeOf (bitsOf (w 0) 0 48) = .none then none
  else some ({ fmt := tyOfCode (BitVec.ofNat 4 (bitsOf (w 0) 48 4)), ndim := ndim, base := bitsOf (w 0) 0 48, dims := dims,
               strides := [bitsOf (w 2) 0 48, bitsOf (w 3) 0 48, bitsOf (w 4) 0 48], padv := (w 5).setWidth 32,
               key := bitsOf (w 5) 32 8, ilv := bitsOf (w 5) 40 3, va := bitsOf (w 6) 0 48 },
             (w 0).getLsbD 54, (w 0).getLsbD 55)
/-- Four 16-bit fields of a register (09 R208). -/
def fields16 (v : Word) : List Nat := (List.range 4).map (fun i => bitsOf v (16 * i) 16)
/-- The extent checks of 09 R208. -/
def extentBad (h : Handle) (origin ext : List Nat) : Bool :=
  ext.any (· == 0) || (List.range 4).any (fun i => decide (h.dims.getD i 1 ≤ origin.getD i 0)) ||
    (List.range 4).any (fun i => decide (h.ndim < i) && (origin.getD i 0 != 0 || ext.getD i 1 != 1))
/-- Row pitch: rows start on 64-byte boundaries (09 R209). -/
def pitchOf (e0 e : Nat) : Nat := cdiv (e0 * e) 64 * 64
/-- Device address of element 0 of a row of a tile, and whether the row is in range in dimensions 1 to 3. -/
def rowAddr (h : Handle) (o0 i1 i2 i3 : Nat) : Option Nat :=
  if i1 < h.dims.getD 1 1 ∧ i2 < h.dims.getD 2 1 ∧ i3 < h.dims.getD 3 1 then
    some (h.base + o0 * h.e + i1 * h.strides.getD 0 0 + i2 * h.strides.getD 1 0 + i3 * h.strides.getD 2 0)
  else none
/-- Device address of each byte of a footprint row: `none` for padding (09 R209, R210). -/
def rowBytes (h : Handle) (o0 e0 : Nat) (row : Option Nat) : List (Option Nat) :=
  let n := e0 * h.e
  (List.range (pitchOf e0 h.e)).map (fun b =>
    match row with
    | some a => if b < n ∧ o0 + b / h.e < h.dims.getD 0 1 then some (a + b) else none
    | none => none)
/-- The rows of a tile in row-major order (09 R209). -/
def tileRows (h : Handle) (origin ext : List Nat) : List (Option Nat) :=
  (List.range (ext.getD 3 1)).flatMap (fun k3 => (List.range (ext.getD 2 1)).flatMap (fun k2 =>
    (List.range (ext.getD 1 1)).map (fun k1 =>
      rowAddr h (origin.getD 0 0) (origin.getD 1 0 + k1) (origin.getD 2 0 + k2) (origin.getD 3 0 + k3))))
/-- Device address of each byte of a tile's footprint. -/
def tileBytes (h : Handle) (origin ext : List Nat) : List (List (Option Nat)) :=
  (tileRows h origin ext).map (rowBytes h (origin.getD 0 0) (ext.getD 0 1))

end Sys2Proof.Machine
end

