-- ==== Sys2Proof/Machine/Plan.lean ====
section
/-! DEFINITION. Plans of engine work (09 R219): every step of a piece of work is put into the owner's owned
slots at issue, on the owner's clock, and the promise is read off the plan. The classes and instances are
those of 02 R30 and 21 R367; injection and ejection at a router are instances of their own. -/

namespace Sys2Proof.Machine

/-! ### Instances and routes (01 R15) -/

/-- MESH instance of a link: core number × 4 + direction (21 R367). -/
def linkInst (c dir : Nat) : Nat := c * 4 + dir
/-- Injection and ejection at a router. -/
def injectInst (c : Nat) : Nat := 384 * 4 + c * 2
def ejectInst (c : Nat) : Nat := 384 * 4 + c * 2 + 1
/-- The entry into an I/O die from a column, and the way out of it (01 R17; log 20). -/
def ioInst (north : Bool) (x : Nat) (out : Bool) : Nat := 384 * 6 + (if north then 0 else 48) + x * 2 + (if out then 1 else 0)

/-- Beats one hop lasts: three where it crosses a die boundary (01 R15). -/
def hopBeats (east : Bool) (lo : Nat) : Nat := if (east && lo == 11) || (!east && lo == 7) then 3 else 1
/-- Hops along X, then along Y: instance and beats of each. -/
def hopsX (y x0 x1 : Nat) : List (Nat × Nat) :=
  if x0 ≤ x1 then (List.range (x1 - x0)).map (fun i => (linkInst (coreAt (x0 + i) y) 1, hopBeats true (x0 + i)))
  else (List.range (x0 - x1)).map (fun i => (linkInst (coreAt (x0 - i) y) 3, hopBeats true (x0 - i - 1)))
def hopsY (x y0 y1 : Nat) : List (Nat × Nat) :=
  if y0 ≤ y1 then (List.range (y1 - y0)).map (fun i => (linkInst (coreAt x (y0 + i)) 2, hopBeats false (y0 + i)))
  else (List.range (y0 - y1)).map (fun i => (linkInst (coreAt x (y0 - i)) 0, hopBeats false (y0 - i - 1)))
/-- Steps of a packet from core to core: inject, hops X first, eject. -/
def route (a b : Nat) : List (Nat × Nat) :=
  (injectInst a, 1) :: (hopsX (coreY a) (coreX a) (coreX b) ++ hopsY (coreX b) (coreY a) (coreY b)) ++ [(ejectInst b, 1)]
/-- Steps from a core into an I/O die, by its own column (01 R17): the last is a crossing (log 20). -/
def routeToIo (a : Nat) (north : Bool) : List (Nat × Nat) :=
  (injectInst a, 1) :: hopsY (coreX a) (coreY a) (if north then 0 else 15) ++ [(ioInst north (coreX a) false, 3)]
/-- Steps from an I/O die to a core, by the core's column. -/
def routeFromIo (b : Nat) (north : Bool) : List (Nat × Nat) :=
  (ioInst north (coreX b) true, 3) :: hopsY (coreX b) (if north then 0 else 15) (coreY b) ++ [(ejectInst b, 1)]

/-- An instance of another device, in the slots that the owner has there too (02 R47; 19 R346). -/
def remoteInst (dev inst : Nat) : Nat := (dev + 1) * 65536 + inst
/-- Beats a flit's step on a MESH instance lasts (01 R15; log 20). -/
def instBeats (i : Nat) : Nat :=
  let inst := i % 65536
  if 384 * 6 ≤ inst then 3
  else if 384 * 4 ≤ inst then 1
  else
    let c := inst / 4
    match inst % 4 with
    | 0 => hopBeats false (coreY c - 1)
    | 1 => hopBeats true (coreX c)
    | 2 => hopBeats false (coreY c)
    | _ => hopBeats true (coreX c - 1)

/-! ### Reservations -/

/-- A reserved slot: class, instance, beat of the owner's clock. -/
abbrev Resv := List (SlotClass × Nat × Nat)
/-- Whether a slot is taken. -/
def Resv.has (r : Resv) (c : SlotClass) (inst t : Nat) : Bool := r.any (fun e => e.1 == c && e.2.1 == inst && e.2.2 == t)
/-- The first beat at or after t that the owner owns in a class. -/
def Owner.ownedFrom (o : Owner) (c : SlotClass) (t : Nat) : Nat :=
  match o.stride c with
  | some s => t + (o.phase c % s + s - t % s) % s
  | none => t
/-- The next owned slot after an owned one. -/
def Owner.strideOf (o : Owner) (c : SlotClass) : Nat := (o.stride c).getD 1
/-- The first owned slot at or after t that passes a test, in at most n tries. -/
def Owner.firstSlot (o : Owner) (c : SlotClass) (ok : Nat → Bool) : Nat → Nat → Nat
  | 0, t => t
  | n + 1, t => if ok t then t else Owner.firstSlot o c ok n (t + o.strideOf c)
/-- The first owned slot of an instance at or after t that no earlier command has (09 R219). -/
def planSlot (o : Owner) (r : Resv) (c : SlotClass) (inst t : Nat) : Nat :=
  o.firstSlot c (fun u => !r.has c inst u) (r.length + 1) (o.ownedFrom c t)

/-- Plans the steps of one flit: each after the step before it, and after the same step of the flit before it.
Answers the beats of its steps and the reservations. -/
def planFlit (o : Owner) (r : Resv) : List (Nat × Nat) → Nat → List Nat → List (Nat × Nat) × Resv
  | [], _, _ => ([], r)
  | (inst, len) :: rest, t, prev =>
    let from_ := max t (match prev with | p :: _ => p + 1 | [] => 0)
    let u := planSlot o r .mesh inst from_
    let (l, r2) := planFlit o ((.mesh, inst, u) :: r) rest (u + len) prev.tail
    ((inst, u) :: l, r2)
/-- The beats of a planned flit. -/
def flitBeats (l : List (Nat × Nat)) : List Nat := l.map (·.2)
/-- The beat of the last step: ejection. The last step into an I/O die ends two beats later. -/
def flitEnd (path : List (Nat × Nat)) (l : List (Nat × Nat)) : Nat :=
  (l.getLast?.map (·.2)).getD 0 + ((path.getLast?.map (·.2)).getD 1 - 1)
/-- The planned steps of a flit as work steps of a chain. -/
def flitSteps (chain : Nat) (l : List (Nat × Nat)) : List PStep := l.map (fun e => { at_ := e.2, chain := chain, act := .mesh e.1 })

/-! ### Channel commands (23 R377, R378) -/

/-- Whether beat b is a write beat (23 R378). -/
def writeBeat (b : Nat) : Bool := [0, 3, 6, 8, 11].contains (b % 14)
/-- Commands planned and not made: channel, bank, beat. -/
abbrev Commands := List (Nat × Nat × Nat)
/-- The command that a step is. -/
def PStep.command (p : PStep) (frozen : Nat) : Option (Nat × Nat × Nat) :=
  match p.act with
  | .chanRead c b _ | .chanWrite c b _ => some (c, b, max p.at_ p.from_ + frozen)
  | _ => none
/-- The commands of the plans of all work. -/
def Chip.commands (ch : Chip) : Commands := ch.works.flatMap (fun e => e.2.steps.filterMap (fun p => p.command (ch.owner e.2.owner).frozen))
/-- Whether a bank is free at beat b, of commands made and planned (23 R377). -/
def bankOk (k : Chan) (cmds : Commands) (chan bank b : Nat) : Bool :=
  decide (k.bankFree.getD bank 0 ≤ b) &&
    cmds.all (fun p => p.1 != chan || p.2.1 != bank || decide (p.2.2 + Config.bankBusy ≤ b) || decide (b + Config.bankBusy ≤ p.2.2))
/-- Tries for a channel slot: every slot that a reservation or a planned command of the bank can spoil, and of each fourteen
slots one at least on a write beat (23 R378). -/
def chanTries (r : Resv) (cmds : Commands) : Nat := 14 * (r.length + 64 * (cmds.length + 1) + 32)
/-- Plans one command for a sector: the first owned CHAN slot at which its bank is free, for a write one on a
write beat. -/
def planCommand (ch : Chip) (cmds : Commands) (o : Owner) (r : Resv) (chan bank : Nat) (write : Bool) (t : Nat) : Nat × Resv × Commands :=
  let k := ch.chan chan
  let u := o.firstSlot .chan
    (fun u => !r.has .chan chan u && bankOk k cmds chan bank (u + o.frozen) && (!write || writeBeat (u + o.frozen)))
    (chanTries r cmds) (o.ownedFrom .chan t)
  (u, (.chan, chan, u) :: r, (chan, bank, u + o.frozen) :: cmds)

/-! ### A running plan -/

/-- What a plan has made so far. -/
structure Planner where
  chip : Chip
  resv : Resv
  cmds : Commands
  steps : List PStep
  chain : Nat
  /-- Beats of the steps of the data flit before. -/
  prev : List Nat
  /-- When each channel's request is in, by global channel number, and the chain of that request. -/
  ready : Tab Nat
  asked : Tab Nat
  last : Nat

/-- A fresh plan for an owner. -/
def Planner.start (ch : Chip) (o : Owner) : Planner :=
  { chip := ch, resv := o.resv.filter (fun e => decide (o.clock ch.gts ≤ e.2.2)), cmds := ch.commands, steps := [], chain := 0, prev := [],
    ready := [], asked := [], last := 0 }
/-- Steps that follow something in other chains: its deps are put on each that nothing of its own chain precedes. -/
def PStep.following (deps : List (Nat × Option Nat)) (l : List PStep) : List PStep := l.map (fun s => { s with deps := deps })
/-- Adds a flit along a path from beat t, after the chains `deps`; its final act happens at its end. -/
def Planner.flit (p : Planner) (o : Owner) (path : List (Nat × Nat)) (t : Nat) (ordered : Bool) (lead fin : List Act)
    (deps : List Nat := []) : Planner × Nat :=
  let (l, r) := planFlit o p.resv path t (if ordered then p.prev else [])
  let e := flitEnd path l
  let t0 := (l.head?.map (·.2)).getD t
  let first := PStep.following (deps.map (fun c => (c, none)))
    (lead.map (fun a => { at_ := t0, chain := p.chain, act := a }) ++ flitSteps p.chain (l.take 1))
  ({ p with resv := r, chain := p.chain + 1,
            steps := p.steps ++ first ++ flitSteps p.chain (l.drop 1) ++ fin.map (fun a => { at_ := e, chain := p.chain, act := a }),
            prev := if ordered then flitBeats l else p.prev, last := max p.last e }, e)
/-- Global channel number and bank of a home address (23 R376), its entry router. -/
def homeChan (ilv a : Nat) : Option (Nat × Nat × Nat) :=
  match placeOf a with
  | .hbm s off => some (s * 32 + chanOf ilv off, bankOf ilv off, entryRouter s (chanOf ilv off))
  | _ => none
/-- The I/O die of a pool or host address: north for the host, and its port latency (23 R379). -/
def portOf (a : Nat) : Option (Bool × Nat) :=
  match placeOf a with
  | .pool _ _ => some (false, Config.poolLatency)
  | .host _ => some (true, Config.hostLatency)
  | _ => none
/-- A request flit from a core to a channel's entry router, made once per channel. -/
def Planner.request (p : Planner) (o : Owner) (core t chan router : Nat) : Planner :=
  match p.ready.get? chan with
  | some _ => p
  | none =>
    let (p1, e) := p.flit o (route core router) t false [] []
    { p1 with ready := p1.ready.set chan (e + 1), asked := p1.asked.set chan p.chain }
/-- Key of the port of an I/O die among the requests. -/
def portKey (north : Bool) : Nat := if north then 1000 else 1001
/-- A request flit from a core into an I/O die, made once. -/
def Planner.requestIo (p : Planner) (o : Owner) (core t : Nat) (north : Bool) : Planner :=
  match p.ready.get? (portKey north) with
  | some _ => p
  | none =>
    let (p1, e) := p.flit o (routeToIo core north) t false [] []
    { p1 with ready := p1.ready.set (portKey north) (e + 1), asked := p1.asked.set (portKey north) p.chain }
/-- The request that a channel's or a port's reads follow. -/
def Planner.after (p : Planner) (key : Nat) : List (Nat × Option Nat) := ((p.asked.get? key).map (fun c => (c, none))).toList
/-- A channel read for a sector of the work, from beat t: the beat its data is at the entry router. -/
def Planner.read (p : Planner) (o : Owner) (ilv a sector t : Nat) : Planner × Nat :=
  match placeOf a with
  | .hbm s off =>
    let chan := s * 32 + chanOf ilv off
    let bank := bankOf ilv off
    let (u, r, l) := planCommand p.chip p.cmds o p.resv chan bank false (max t (p.ready.getD chan t))
    ({ p with cmds := l, resv := r, chain := p.chain + 1, ready := p.ready.set chan (u + 1),
              steps := p.steps ++ [{ at_ := u, chain := p.chain, act := .chanRead chan bank sector, deps := p.after chan },
                { at_ := u + Config.readDelivery, chain := p.chain, act := .delivered sector }] }, u + Config.readDelivery)
  | _ =>
    match portOf a with
    | none => (p, t)
    | some (north, lat) =>
      let u := max t (p.ready.getD (portKey north) t) - 1
      ({ p with chain := p.chain + 1,
                steps := p.steps ++ [{ at_ := u, chain := p.chain, act := .portRequest sector, deps := p.after (portKey north) },
                  { at_ := u + lat, chain := p.chain, act := .portAnswer sector }] }, u + lat)
/-- A channel write for a sector, from beat t, after the chains `deps`: the beat it is accepted. A pool or host write is
accepted when the port answers. -/
def Planner.write (p : Planner) (o : Owner) (ilv a sector t : Nat) (deps : List Nat) : Planner × Nat :=
  let after : List (Nat × Option Nat) := deps.map (fun c => (c, none))
  match placeOf a with
  | .hbm s off =>
    let chan := s * 32 + chanOf ilv off
    let bank := bankOf ilv off
    let (u, r, l) := planCommand p.chip p.cmds o p.resv chan bank true t
    ({ p with cmds := l, resv := r, chain := p.chain + 1, last := max p.last u,
              steps := p.steps ++ [{ at_ := u, chain := p.chain, act := .chanWrite chan bank sector, deps := after }] }, u)
  | _ =>
    match portOf a with
    | none => (p, t)
    | some (_, lat) =>
      let u := t - 1
      ({ p with chain := p.chain + 1, last := max p.last (u + lat),
                steps := p.steps ++ [{ at_ := u, chain := p.chain, act := .portRequest sector, deps := after },
                  { at_ := u + lat, chain := p.chain, act := .portAnswer sector }] }, u + lat)

/-- The path from a home to a core, and from a core to a home. -/
def pathFrom (ilv a core : Nat) : List (Nat × Nat) :=
  match homeChan ilv a with
  | some (_, _, r) => route r core
  | none => match portOf a with | some (north, _) => routeFromIo core north | none => []
def pathTo (ilv core a : Nat) : List (Nat × Nat) :=
  match homeChan ilv a with
  | some (_, _, r) => route core r
  | none => match portOf a with | some (north, _) => routeToIo core north | none => []
/-- The request that precedes reads of a home address. -/
def Planner.ask (p : Planner) (o : Owner) (ilv core t a : Nat) : Planner :=
  match homeChan ilv a with
  | some (chan, _, r) => p.request o core t chan r
  | none => match portOf a with | some (north, _) => p.requestIo o core t north | none => p

/-- Strand time of a beat of the owner's clock, for a strand that is running now (02 R36). -/
def tauAt (ch : Chip) (o : Owner) (st : Strand) (t : Nat) : Nat := st.run.tau + (t - o.clock ch.gts)
/-- The promise: one more than the τ in which the last step ends (09 R219). In a handler the promise is the
frozen τ (08 R181). -/
def promiseOf (ch : Chip) (o : Owner) (st : Strand) (q : SeqId) (last : Nat) : Nat :=
  if q == .ct && st.run.h then st.run.tau else tauAt ch o st last + 1

/-- Reservations of a finished plan go to the owner. -/
def Planner.finish (p : Planner) (on : Nat) (o : Owner) : Chip := p.chip.setOwner on { o with resv := p.resv }

/-- The τ from which a consumer of work may start: a promise is one more than the last step's τ, a matrix
word's due τ is its own (09 R219; 14 R303). -/
def Work.freeTau (k : Work) : Nat :=
  match k.kind with
  | .mdrain _ _ _ _ | .mma _ | .mldc _ | .wstc _ _ _ _ _ _ _ _ _ => k.promise + 1
  | _ => k.promise
/-- The first beat a plan of a strand on a core may use: after the issue beat, after what it consumes, after the locks that
work of its own core holds (09 R219); another core's lock is not seen at issue (09 R220). A promise is of the strand it was
made for. -/
def startBeat (ch : Chip) (o : Owner) (core : Nat) (st : Strand) (after : List Nat) (locks : List Nat) : Nat :=
  let now := o.clock ch.gts
  let wait (own : Bool) (w : Nat) : Nat :=
    match ch.work? w with
    | some k =>
      if k.overAt ch.gts || (own && k.core != core) then 0
      else now + (k.freeTau - ((ch.strand? k.core k.slot).getD st).run.tau)
    | none => 0
  (after.map (wait false) ++ locks.map (wait true)).foldl max (now + 1)

end Sys2Proof.Machine
end

