-- ==== Sys2Proof/Machine/Engine.lean ====
section
/-! DEFINITION. Engine work at run time: writes and reads at a home (06 R106 to R114, R410, R411; 23 R385 to
R387), transaction barriers (07 R155 to R157), promised accesses (07 R143, R150; 10 R237), and the steps of
planned work (09 R219; 23 R377 to R379). -/

namespace Sys2Proof.Machine

/-! ### What a write at a home brings about -/

/-- Whether a store or atomic has written at its home (06 R106). -/
def Work.performedOnce (k : Work) : Bool :=
  !k.stores.isEmpty || (match k.kind with | .access _ _ [] => !k.staged.isEmpty | _ => false)
/-- 64-byte lines of a run of bytes. -/
def linesOf (a n : Nat) : List Nat := (List.range ((a + n + 63) / 64 - a / 64)).map (· + a / 64)
/-- Monitors on a written line fire (07 R153). -/
def fireMonitors (ch : Chip) (a n : Nat) : Chip :=
  let hit (m : Monitor) : Bool := (linesOf a n).contains m.line && m.after.all (fun w =>
    match ch.work? w with | some k => k.doneBeat.isSome || k.performedOnce | none => true)
  { ch with strands := ch.strands.map (fun e =>
      if e.2.monitors.any hit then
        (e.1, { e.2 with monitors := e.2.monitors.map (fun m => if hit m then { m with fired := true } else m) })
      else e) }
/-- Frames of a stack that a run of device bytes touches get their dirty bits (23 R386). -/
def setDirty (ch : Chip) (a n : Nat) : Chip :=
  match placeOf a with
  | .hbm s off =>
    let k := ch.stk s
    let fs := (List.range ((off + n + 65535) / 65536 - off / 65536)).map (· + off / 65536)
    ch.setStk s { k with dirty := k.dirty ++ fs.filter (fun f => !k.dirty.contains f) }
  | _ => ch
/-- A sector's poison, set or cleared. -/
def Chip.setPoison (ch : Chip) (sector : Nat) (b : Bool) : Chip :=
  { ch with poisoned := if b then (if ch.poisoned.contains sector then ch.poisoned else sector :: ch.poisoned)
                        else ch.poisoned.filter (fun s => s != sector) }
/-- A sector wholly written is no longer poisoned. -/
def clearPoison (ch : Chip) (a n : Nat) : Chip :=
  { ch with poisoned := ch.poisoned.filter (fun s => !(decide (a ≤ s * 64) && decide (s * 64 + 64 ≤ a + n))) }
/-- Whether any sector of a run is poisoned. -/
def Chip.poisonedAt (ch : Chip) (a n : Nat) : Bool := ch.poisoned.any (fun s => decide (s * 64 < a + n) && decide (a < s * 64 + 64))
/-- Whether any sector of a run of on-chip storage holds an uncorrectable error. -/
def Chip.sramBadAt (ch : Chip) (a n : Nat) : Bool := ch.sramBad.any (fun s => decide (s * 64 < a + n) && decide (a < s * 64 + 64))
/-- A sector of on-chip storage wholly written holds no error any more. -/
def clearSram (ch : Chip) (a n : Nat) : Chip :=
  { ch with sramBad := ch.sramBad.filter (fun s => !(decide (a ≤ s * 64) && decide (s * 64 + 64 ≤ a + n))) }
/-- The cause that a read of on-chip storage consumes (08 R176; 10 R240; 14 R304): an uncorrectable error of the storage,
or a sector that landed poisoned. -/
def Chip.errorAt (ch : Chip) (a n : Nat) : Option Cause :=
  if ch.sramBadAt a n then some .sramUncorrected else if ch.poisonedAt a n then some .memUncorrected else none
/-- B rows that come from bytes written are held no more (14 R302). -/
def dropRows (ch : Chip) (a n : Nat) : Chip :=
  let hit (st : Strand) : Bool := match st.bLatch with | some b => b.runs.any (fun r => decide (r.1 < a + n) && decide (a < r.1 + r.2)) | none => false
  if a < 2 ^ 48 ∨ ch.strands.all (fun e => !hit e.2) = true then ch
  else { ch with strands := ch.strands.map (fun e => if hit e.2 then (e.1, { e.2 with bLatch := none }) else e) }
/-- Monitors, dirty bits, poison, storage errors and held B rows after a write. -/
def written (ch : Chip) (a n : Nat) : Chip := setDirty (clearSram (clearPoison (dropRows (fireMonitors ch a n) a n) a n) a n) a n

/-! ### Keys (23 R387; 08 R200) -/

/-- Whether lines at an address are encrypted: HBM and the capacity tier. -/
def encrypted (a : Nat) : Bool := match placeOf a with | .hbm _ _ | .pool _ _ => true | _ => false
/-- The generation of a key slot. -/
def Chip.genOf (ch : Chip) (key : Nat) : Nat := ch.keyGen.getD key 0
/-- A key slot with the map its line is reached under: slot + 256 × ILV, so that the line's device address, its tweak, is
known (23 R387). -/
def keyOf (slot ilv : Nat) : Nat := slot + 256 * ilv
/-- The tweak of a line at a home address: its device address under the map. -/
def tweakOf (key line : Nat) : Nat := deviceAddr (key / 256) (line * 64)
/-- Whether a line reads back under a key slot as it was written: slot, generation and tweak are the same. A line nothing has
written reads alike under every slot (log 3). -/
def Chip.keyFits (ch : Chip) (key line : Nat) : Bool :=
  match ch.lineKeys.get? line with
  | some k => k.1 % 256 == key % 256 && k.2 == ch.genOf (key % 256) && tweakOf k.1 line == tweakOf key line
  | none => true
/-- A byte as it reads under a key slot (log 16). -/
def decryptByte (ch : Chip) (key a : Nat) (b : Byte) : Byte :=
  match ch.lineKeys.get? (a / 64) with
  | some k => if ch.keyFits key (a / 64) then b else Config.scramble key (ch.genOf (key % 256)) k.1 k.2 a b
  | none => b
/-- Bytes read under a key slot. -/
def decrypt (ch : Chip) (key a : Nat) (l : List Byte) : List Byte :=
  if encrypted a && !(linesOf a l.length).all (ch.keyFits key) then l.mapIdx (fun i b => decryptByte ch key (a + i) b) else l
/-- A write under a key slot: the other bytes of a line that was written under another key are written back as
they read, since a line is one data unit. -/
def keyedWrites (m : Memory) (ch : Chip) (key a : Nat) (l : List Byte) : Chip × List (Nat × List Byte) :=
  if !encrypted a then (ch, [(a, l)])
  else
    let ls := linesOf a l.length
    let fix := (ls.filter (fun n => !ch.keyFits key n)).map (fun n => (n * 64, decrypt ch key (n * 64) (m.readBytes (n * 64) 64)))
    ({ ch with lineKeys := ls.foldl (fun t n => t.set n (key, ch.genOf (key % 256))) ch.lineKeys }, fix ++ [(a, l)])

/-! ### Stores and what a die sees of them (06 R106, R112, R410) -/

/-- The greater of two clocks, entry by entry. -/
def clockMax (a b : List Nat) : List Nat := List.zipWith max a b
/-- Whether two runs of bytes meet. -/
def meets (a n b m : Nat) : Bool := decide (a < b + m) && decide (b < a + n)
/-- Overlays bytes of one run on another. -/
def overlay (a : Nat) (l : List Byte) (b : Nat) (old : List Byte) : List Byte :=
  l.mapIdx (fun i v => if b ≤ a + i ∧ a + i < b + old.length then old.getD (a + i - b) v else v)
/-- The stores over a byte that a core's die has not applied, after the core's own latest: the first of them
hides itself and what follows. -/
def hidden (ch : Chip) (core a : Nat) : Option Store :=
  let there := ch.stores.filter (fun s => decide (s.addr ≤ a) && decide (a < s.addr + s.old.length))
  let after := there.foldl (fun acc s => if s.core = core then [] else acc ++ [s]) []
  after.find? (fun s => !s.applied.contains (dieOf core))
/-- Bytes as a core's memory interface shows them (06 R410). -/
def viewBytes (m : Memory) (ch : Chip) (core a n : Nat) : List Byte :=
  let l := m.readBytes a n
  if ch.stores.any (fun s => meets a n s.addr s.old.length) then
    l.mapIdx (fun i v => match hidden ch core (a + i) with | some s => s.old.getD (a + i - s.addr) v | none => v)
  else l
/-- The clock that names nothing. -/
def clockZero : List Nat := [0, 0, 0, 0]
/-- What seeing a store shows: the stores its clock names, and itself (06 R112). -/
def Store.shows (s : Store) : List Nat := clockMax s.clock ((List.range 4).map (fun d => if d = s.die then s.seqno else 0))
/-- What the stores of a run of bytes show that pass a test, with the clocks left there. -/
def clocksAt (ch : Chip) (sees : Store → Bool) (a n : Nat) : List Nat :=
  let fromStores := (ch.stores.filter (fun s => meets a n s.addr s.old.length && sees s)).foldl (fun c s => clockMax c s.shows) clockZero
  (List.range (cdiv (a % 8 + n) 8)).foldl (fun c i => clockMax c (ch.clocks.getD (a / 8 + i) clockZero)) fromStores
/-- What a load of those bytes through its die's interface shows its issuer (06 R410, R112). -/
def knownAt (ch : Chip) (core a n : Nat) : List Nat := clocksAt ch (fun s => s.core == core || s.applied.contains (dieOf core)) a n
/-- What a read at the home itself shows: it returns every store accepted there (06 R411). -/
def knownHome (ch : Chip) (a n : Nat) : List Nat := clocksAt ch (fun _ => true) a n
/-- Leaves a clock on the 8-byte units of a run, for what reads them (06 R112). -/
def stampClock (ch : Chip) (a n : Nat) (c : List Nat) : Chip :=
  let units := (List.range (cdiv (a % 8 + n) 8)).map (· + a / 8)
  if c.all (· == 0) then ch else { ch with clocks := units.foldl (fun t u => t.set u (clockMax (t.getD u clockZero) c)) ch.clocks }
/-- Whether a clock names a store. -/
def names (c : List Nat) (s : Store) : Bool := decide (s.seqno ≤ c.getD s.die 0)
/-- A clock with what the stores it names name in turn, and with the stores that come before those in coherence order. -/
def closeClock (ch : Chip) : Nat → List Nat → List Nat
  | 0, c => c
  | n + 1, c =>
    closeClock ch n (ch.stores.foldl (fun c s =>
      if names c s || ch.stores.any (fun t => names c t && decide (s.id < t.id) && meets s.addr s.old.length t.addr t.old.length)
      then clockMax c s.shows else c) c)
/-- The stores that a clock names are applied by every die before what carries it is performed at its home (06 R112). The
beats of these steps are no figure of the manual's (06 R410), and the plan holds the promise of what carries the clock
(09 R219), so that they come first and it does not wait (DEDUCED, log 87). -/
def applyNamed (ch : Chip) (c : List Nat) : Chip :=
  if ch.stores.any (names c) then
    let c := closeClock ch ch.stores.length c
    { ch with stores := ch.stores.filter (fun s => !names c s) }
  else ch
/-- What accesses of a sequencer to bytes of a run have shown or stored: what comes before a later access to them (06 R107,
R111). -/
def Strand.bytesSeen (st : Strand) (q : SeqId) (a n : Nat) : List Nat :=
  (st.vbytes.filter (fun e => e.1 == q && meets a n e.2.1 e.2.2.1)).foldl (fun c e => clockMax c e.2.2.2) clockZero
/-- Whether a FENCE or WFENCE of the strand waits for its predecessors. -/
def Strand.fencing (st : Strand) : Bool :=
  (match st.ct.wait with | .fence _ _ => true | _ => false) || (match st.st.wait with | .fence _ _ => true | _ => false)
/-- Merges a clock into what accesses of a letter have shown. -/
def seeClock (vseen : List (List Nat)) (letter : Nat) (c : List Nat) : List (List Nat) :=
  vseen.set letter (clockMax (vseen.getD letter [0, 0, 0, 0]) c)
/-- Adds to what a strand has seen through an access of a letter issued at a τ. While a fence waits it is kept apart, for
what an access issued since shows is no predecessor's (06 R110). -/
def Strand.learn (st : Strand) (tau letter : Nat) (c : List Nat) : Strand :=
  let c := clockMax c (st.vclock.getD letter (st.vclock.getD 1 clockZero))
  if st.fencing then { st with vlate := st.vlate ++ [(tau, letter, c)] } else { st with vseen := seeClock st.vseen letter c }
/-- Values written at every scope at once hide no older value any more. -/
def patchStores (ch : Chip) (a : Nat) (l : List Byte) : Chip :=
  if ch.stores.any (fun s => meets a l.length s.addr s.old.length) then
    { ch with stores := ch.stores.map (fun s => { s with old := overlay s.addr s.old a l }) }
  else ch
/-- Whether every store a clock names is applied on every die. -/
def clockApplied (ch : Chip) (c : List Nat) : Bool :=
  ch.stores.all (fun s => decide (c.getD s.die 0 < s.seqno) || decide (4 ≤ s.applied.length))

/-- Remembers for bytes what an access of a sequencer to them has shown, as long as a store it names is not applied
everywhere. -/
def Strand.noteBytes (st : Strand) (ch : Chip) (q : SeqId) (a n : Nat) (c : List Nat) : Strand :=
  { st with vbytes := (st.vbytes ++ [(q, a, n, c)]).filter (fun e => !clockApplied ch e.2.2.2) }
/-- The device bytes a migration under way also writes: the same offset in the new frame (23 R391). -/
def mirrorOf (ch : Chip) (a : Nat) : Option Nat :=
  match placeOf a with
  | .hbm s off =>
    match (ch.stk s).migration with
    | some g => if g.frame = off / 65536 then some (g.target + off % 65536) else none
    | none => none
  | _ => none
/-- A write performed at its home at once at every scope of the package: copies, collectives, replicated pages,
on-chip storage. -/
def writeHome (m : Memory) (r : Res) (key a : Nat) (l : List Byte) : Res :=
  let (ch, ws) := keyedWrites m (patchStores r.chip a l) key a l
  let ch := written ch a l.length
  match mirrorOf ch a with
  | none => { chip := ch, writes := r.writes ++ ws }
  | some b =>
    let (ch2, ws2) := keyedWrites m ch key b l
    { chip := written ch2 b l.length, writes := r.writes ++ ws ++ ws2 }
/-- The key slot under which hardware writes a line of its own structures: the one the line has (23 R387; DEDUCED, log 46). -/
def Chip.lineKey (ch : Chip) (a : Nat) : Nat := ((ch.lineKeys.get? (a / 64)).map (·.1)).getD 0
/-- Whether an atomic holds any 64-byte sector of a run (07 R150). -/
def Chip.heldAt (ch : Chip) (a n : Nat) : Bool :=
  ch.chans.any (fun (e : Nat × Chan) => e.2.held.any (fun h => decide (h.1 * 64 < a + n) && decide (a < h.1 * 64 + 64)))
/-- A write that waits while an atomic holds a sector of it (07 R150). -/
def writeFree (m : Memory) (r : Res) (key a : Nat) (l : List Byte) : Res :=
  if r.chip.heldAt a l.length then { r with chip := { r.chip with late := r.chip.late ++ [(key, a, l)] } } else writeHome m r key a l
/-- A write of hardware to a structure of its own: a queue, a ring, a table. -/
def writeOwn (m : Memory) (r : Res) (a : Nat) (l : List Byte) : Res := writeFree m r (r.chip.lineKey a) a l
/-- The writes that wait and that nothing holds any more, in order. -/
def settleLate (m : Memory) (r : Res) : Res :=
  if r.chip.late.isEmpty then r
  else r.chip.late.foldl (fun r e => writeFree (writeAll m r.writes) r e.1 e.2.1 e.2.2) { r with chip := { r.chip with late := [] } }
/-- A store of a core accepted at its home (06 R410): memory holds it, its die numbers it, and each interface
applies it later. Answers the store's number as well. -/
def acceptStore (m : Memory) (r : Res) (core : Nat) (clock : List Nat) (key a : Nat) (l : List Byte) : Res × Nat :=
  let d := dieOf core
  let n := r.chip.storeCounts.getD d 0 + 1
  let old := decrypt r.chip key a (m.readBytes a l.length)
  let fresh := r.chip.fresh
  let s : Store := { id := fresh, core := core, die := d, seqno := n, clock := clock, addr := a, old := old, applied := [],
                     due := (List.range 4).map (fun i => r.chip.gts + 1 + Config.applyBeats (4 * fresh + i)) }
  let (ch, ws) := keyedWrites m r.chip key a l
  let ch := written ch a l.length
  let ch := { ch with stores := ch.stores ++ [s], storeCounts := ch.storeCounts.set d n, fresh := fresh + 1 }
  match mirrorOf ch a with
  | none => ({ chip := ch, writes := r.writes ++ ws }, s.id)
  | some b =>
    let (ch2, ws2) := keyedWrites m ch key b l
    ({ chip := written ch2 b l.length, writes := r.writes ++ ws ++ ws2 }, s.id)
/-- Whether a store is performed at a scope, seen from its own die (06 R410). One to the host window is performed at .SYS
when the host has completed it, which is its acceptance (24 R394); DESIGN CHOICE (log 76): any other at .SYS as at .PKG, once all
four dies have applied it. -/
def storePerformed (ch : Chip) (id : Nat) (sc : Scope) : Bool :=
  match ch.stores.find? (fun s => s.id == id) with
  | none => true
  | some s =>
    match sc with
    | .core => true
    | .clu | .die => s.applied.contains s.die
    | .sys => (match placeOf s.addr with | .host _ => true | _ => decide (4 ≤ s.applied.length))
    | .pkg => decide (4 ≤ s.applied.length)

/-! ### Transaction barriers (07 R155 to R157) -/

/-- A barrier word by its fields; its reserved bits read as zero (00 R7). -/
structure Barrier where
  phase : Nat
  apend : Nat
  spend : Nat
  areload : Nat
  sreload : Nat
  status : Nat
deriving DecidableEq, Repr

/-- Reads the layout of 07 R155. -/
def barrierOf (v : Nat) : Barrier :=
  { phase := v % 16, apend := v / 2 ^ 4 % 2 ^ 16, spend := v / 2 ^ 20 % 2 ^ 32, areload := v / 2 ^ 52 % 2 ^ 16,
    sreload := v / 2 ^ 68 % 2 ^ 32, status := v / 2 ^ 100 % 2 ^ 8 }
/-- Its word. -/
def Barrier.word (b : Barrier) : Nat :=
  b.phase + b.apend * 2 ^ 4 + b.spend * 2 ^ 20 + b.areload * 2 ^ 52 + b.sreload * 2 ^ 68 + b.status * 2 ^ 100
/-- After a step: with both counts zero the phase advances and the counts reload (07 R156). -/
def Barrier.settle (b : Barrier) : Barrier :=
  if b.apend = 0 ∧ b.spend = 0 then { b with phase := (b.phase + 1) % 16, apend := b.areload, spend := b.sreload } else b
/-- Sets status bit 7. -/
def Barrier.overflow (b : Barrier) : Barrier := if b.status < 128 then { b with status := b.status + 128 } else b
/-- TXB.INIT. -/
def Barrier.init (v : Word) : Barrier :=
  { phase := 0, apend := bitsOf v 0 16, spend := bitsOf v 16 32, areload := bitsOf v 0 16, sreload := bitsOf v 16 32, status := 0 }
/-- TXB.ARRIVE. -/
def Barrier.arrive (b : Barrier) (n : Nat) : Barrier :=
  let n := if n = 0 then 1 else n
  if n ≤ b.apend then ({ b with apend := b.apend - n }).settle else ({ b.overflow with apend := 0 }).settle
/-- TXB.EXPECT. -/
def Barrier.expect (b : Barrier) (n : Nat) : Barrier :=
  if b.spend + n < 2 ^ 32 then ({ b with spend := b.spend + n }).settle else ({ b.overflow with spend := 2 ^ 32 - 1 }).settle
/-- One sector counted (07 R157; 09 R221). -/
def Barrier.count (b : Barrier) : Barrier :=
  if 0 < b.spend then ({ b with spend := b.spend - 1 }).settle else b.overflow.settle
/-- n sectors counted. -/
def Barrier.counts (b : Barrier) : Nat → Barrier
  | 0 => b
  | n + 1 => b.count.counts n
/-- An error cause written when none stands (07 R157). -/
def Barrier.fail (b : Barrier) (c : Cause) : Barrier := if b.status % 128 = 0 then { b with status := b.status + causeCode c } else b
/-- A step on the barrier at an address. The bytes read are those the result so far leaves. -/
def barrierStep (m : Memory) (r : Res) (a : Nat) (f : Barrier → Barrier) : Res :=
  let v := (writeAll (m.filter (fun c => decide (a ≤ c.1) && decide (c.1 < a + 16)))
    (r.writes.filter (fun w => meets a 16 w.1 w.2.length))).readLe a 16
  writeHome m r 0 a (leBytes 16 (f (barrierOf v)).word)
/-- Sectors counted on a piece of work's barrier, if it has one. -/
def countSectors (m : Memory) (r : Res) (bar : Option Nat) (n : Nat) : Res :=
  match bar with | some a => if n = 0 then r else barrierStep m r a (fun b => b.counts n) | none => r

/-! ### Completion -/

/-- Completes a piece of work in the present beat: its locks and latches go (06 R118, R119), and a sector an atomic held. What consumes
its token carries its clock (06 R111, R117). -/
def finishWork (ch : Chip) (w : Nat) (k : Work) (s : WorkState) : Chip :=
  let c := clockMax k.clock k.shown
  let free (e : Nat × Chan) : Nat × Chan :=
    if e.2.held.any (fun h => h.2 == w) then (e.1, { e.2 with held := e.2.held.filter (fun h => h.2 != w) }) else e
  let tell (e : Nat × Work) : Nat × Work := if e.2.cons.contains w then (e.1, { e.2 with clock := clockMax e.2.clock c }) else e
  let ch := ch.setWork w { k with state := s, doneBeat := some ch.gts, steps := [] }
  { ch with locks := ch.locks.filter (fun l => l.work != w), latches := ch.latches.filter (fun l => l.work != w),
            chans := ch.chans.map free, works := ch.works.map tell }
/-- What a read of bytes by work has shown the strand, with what earlier accesses of its sequencer to them have (06 R111). -/
def Strand.sees (st : Strand) (ch : Chip) (k : Work) (letter a n : Nat) (c : List Nat) : Strand :=
  let c := clockMax c (st.bytesSeen k.q a n)
  (st.learn k.tau letter c).noteBytes ch k.q a n c
/-- What a piece of work's own read has shown it and its strand. -/
def workSees (ch : Chip) (w : Nat) (k : Work) (letter a n : Nat) (c : List Nat) : Chip :=
  (ch.setWork w { k with shown := clockMax k.shown c }).onStrand k.core k.slot (fun st => st.sees ch k letter a n c)
/-- Clock and due time of a response for a strand: in the first running beat, or at its promised τ if that is
later (02 R36); a handler's access on the handler's clock (08 R181). -/
def responseDue (st : Strand) (k : Work) : Nat × Bool :=
  if k.inH then (st.run.hclk, true) else (max k.promise st.run.tau, false)
/-- Hands a response to the strand's port. -/
def respond (ch : Chip) (k : Work) (lands : List Land) : Chip :=
  ch.onStrand k.core k.slot (fun st =>
    let (d, hc) := responseDue st k
    { st with due := st.due ++ [{ due := d, hclock := hc, tauIssue := k.tau, q := k.q, lands := lands, trap := none, region := k.region }] })
/-- A trap of a piece of work: it names the section and slot of the work's word (05 R94; 07 R170). -/
def workTrap (k : Work) (c : Cause) (fa tval : Word) : PTrap :=
  { cause := c, faddr := fa, tval := tval, q := k.q, sec := k.sec, slot := k.ix }
/-- TVAL of CONTAINMENT_UNWIND (08 R183). -/
def unwindTval (st : Strand) (n : Nat) (c : Cause) : Word :=
  let inner := match st.regions with | r :: _ => r.num != n | [] => false
  BitVec.ofNat 64 (n + causeCode c * 2 ^ 8 + (if inner then 2 ^ 16 else 0))
/-- An uncorrectable error consumed by work (08 R188; 10 R240): its region is killed, or the cause goes to the
resident kernel. Either is taken in the strand's first owned running slot from here on. -/
def consume (ch : Chip) (k : Work) (c : Cause) : Chip :=
  match ch.strand? k.core k.slot with
  | none => ch
  | some st =>
    let kill (n : Nat) : Strand :=
      if st.regions.any (fun r => r.num == n) then
        { st with traps := st.traps ++ [workTrap k .containmentUnwind (noAddr .containmentUnwind) (unwindTval st n c)] }
      else { st with traps := st.traps ++ [workTrap k c k.faddr 0] }
    -- a cause that a handler's own work raises is a second trap (08 R185)
    if k.inH && st.run.h then ch.setStrand k.core k.slot (st.second c)
    else
      match k.region with
      | some n => ch.setStrand k.core k.slot (kill n)
      | none => ch.setStrand k.core k.slot { st with traps := st.traps ++ [workTrap k c k.faddr 0] }
/-- Error of a word's own read of a poisoned sector at a fixed time: of no region, or of the innermost one; of a handler's word
a second cause (08 R185). -/
def consumeNow (st : Strand) (q : SeqId) (c : Cause) (fa : Word) : Strand :=
  if st.run.h then st.second c else
  match st.openRegions with
  | r :: _ => { st with traps := st.traps ++ [st.mkTrap q .containmentUnwind (noAddr .containmentUnwind) (unwindTval st r.num c)] }
  | [] => { st with traps := st.traps ++ [st.mkTrap q c fa 0] }

/-! ### Region budgets (08 R203, R204) -/

/-- The block whose ACCOUNT an owner charges: the nearest ancestor whose INHERIT bit 16 is clear. -/
def accountBlock (m : Memory) : Nat → Nat → Nat
  | 0, a => a
  | n + 1, a =>
    let w1 := m.readLe (homeAddr 0 (a + 8)) 8
    let parent := m.readLe (homeAddr 0 (a + 16)) 8 % 2 ^ 48
    if w1 / 2 ^ 16 % 2 = 1 ∧ parent ≠ 0 then accountBlock m n parent else a

/-- The strand that an owner's own cause, BUDGET_EXHAUSTED or LINK_DOWN, is found on (DESIGN CHOICE, log 103): the first that is neither halted nor in a
handler, otherwise the first that has not halted. -/
def Chip.budgetStrand (ch : Chip) (on : Nat) : Option (Nat × Strand) :=
  let open_ := (ch.strandsOf on).filter (fun (e : Nat × Strand) => !e.2.run.halted)
  (open_.find? (fun (e : Nat × Strand) => !e.2.run.h)).or open_.head?
/-- A cause of an owner is pending on one of its strands, in a handler as a second cause (08 R185). Of an owner whose strands have
all halted the record is the context engine's. -/
def Chip.raiseOn (ch : Chip) (on : Nat) (c : Cause) : Chip :=
  match ch.budgetStrand on with
  | some e =>
    let st := if e.2.run.h then e.2.second c else { e.2 with traps := e.2.traps ++ [e.2.mkTrap .ct c (noAddr c) 0] }
    { ch with strands := ch.strands.set e.1 st }
  | none =>
    match (ch.strandsOf on).head? with
    | some e => ch.addRecord (ch.owner on).part (recordOf ch (e.1 / 4) (e.1 % 4) e.2 c 0)
    | none => ch
/-- Charges units to the account of an owner. At zero, BUDGET_EXHAUSTED is raised, and the owner stalls until the kernel
answers. -/
def charge (ch : Chip) (on n : Nat) : Chip :=
  let o := ch.owner on
  match o.acct with
  | none => ch
  | some a =>
    let left := ch.accounts.getD a 0
    let ch := { ch with accounts := ch.accounts.set a (left - n) }
    if n < left ∨ o.broke = true then ch
    else (ch.setOwner on { o with broke := true }).raiseOn on .budgetExhausted

/-! ### Single accesses (07 R143, R150, R151, R156; 10 R237) -/

/-- Whether an access writes at its home. -/
def Access.stores : Access → Bool
  | .store _ | .amo _ _ _ _ | .cas _ _ _ _ | .txbInit _ | .txbArrive _ | .txbExpect _ => true
  | _ => false
/-- Whether an access brings an answer back. -/
def Access.answers : Access → Bool
  | .load _ _ _ | .vload _ _ | .amo _ _ _ _ | .cas _ _ _ _ => true
  | _ => false
/-- Whether an access is an atomic at memory, with a read and a write. -/
def Access.atomic : Access → Bool
  | .amo _ _ _ _ | .cas _ _ _ _ => true
  | _ => false
/-- Bytes of an access. -/
def Access.size : Access → Nat
  | .load n _ _ => n
  | .vload _ _ => 1024
  | .store l => l.length
  | .amo _ n _ _ | .cas n _ _ _ => n
  | .txbInit _ | .txbArrive _ | .txbExpect _ | .txbWait _ _ _ => 16
/-- The new value of an atomic (07 R150): its operation on n-byte values. -/
def amoValue (op : AmoOp) (n : Nat) (old : Nat) (v : Word) : Nat :=
  let b := 8 * n
  let x := v.toNat % 2 ^ b
  match op with
  | .add => (old + x) % 2 ^ b
  | .min => if toSigned b old ≤ toSigned b x then old else x
  | .max => if toSigned b old ≤ toSigned b x then x else old
  | .minn => min old x
  | .maxn => max old x
  | .and => old &&& x
  | .or => old ||| x
  | .xor => old ^^^ x
  | .swap => x
/-- What an atomic leaves at its home. -/
def Access.newValue (a : Access) (old : Nat) : Nat :=
  match a with
  | .amo op n v _ => amoValue op n old v
  | .cas n e v _ => if old = e.toNat % 2 ^ (8 * n) then v.toNat % 2 ^ (8 * n) else old
  | _ => old
/-- Where a load finds an address: the replica of its own die for a replicated page (06 R114). -/
def readPlace (core : Nat) (e : TlbEntry) (a : Nat) : Nat := if e.repl then replicaAddr a (dieOf core) else a
/-- Where a store finds its home: the replica of the sequencer die. -/
def storePlace (e : TlbEntry) (a : Nat) : Nat := if e.repl then replicaAddr a (seqDie e.frame) else a
/-- The runs of an access of n bytes over the pages of its translations. -/
def piecesOf : Nat → Nat → List TlbEntry → List (Nat × Nat × TlbEntry)
  | _, _, [] => []
  | home, n, [e] => [(home, n, e)]
  | home, n, e :: e2 :: t =>
    let k := min n (e.frame + 65536 - home)
    (home, k, e) :: piecesOf e2.frame (n - k) (e2 :: t)
/-- The 64-byte sectors of a run, with the bytes of each that it covers. -/
def sectorRuns (a n : Nat) : List (Nat × Nat) :=
  (linesOf a n).map (fun l => (max a (l * 64), min (a + n) (l * 64 + 64) - max a (l * 64)))
/-- The sectors of an access at its home: address, bytes, translation. -/
def Access.sectors (a : Access) (core home : Nat) (ents : List TlbEntry) : List (Nat × Nat × TlbEntry) :=
  (piecesOf home a.size ents).flatMap (fun p =>
    (sectorRuns p.1 p.2.1).map (fun s => (if a.stores then storePlace p.2.2 s.1 else readPlace core p.2.2 s.1, s.2, p.2.2)))
/-- The bytes a load of a core reads at its home. -/
def readAt (m : Memory) (ch : Chip) (core : Nat) (e : TlbEntry) (a n : Nat) : List Byte := decrypt ch e.key a (viewBytes m ch core a n)
/-- A store of an access performed at its home: on chip, at every replica, or accepted at its channel or port. Where it is
at once seen beyond its own die, the stores its clock names come first. -/
def storeAt (m : Memory) (r : Res) (k : Work) (ent : Option TlbEntry) (home : Nat) (l : List Byte) : Res × Option Nat :=
  match ent with
  | none =>
    let r := writeHome m { r with chip := applyNamed r.chip k.clock } 0 home l
    ({ r with chip := stampClock r.chip home l.length k.clock }, none)
  | some e =>
    if e.repl then
      ((List.range 4).foldl (fun r d => writeHome m r e.key (replicaAddr home d) l) { r with chip := applyNamed r.chip k.clock }, none)
    else
      let (r, id) := acceptStore m r k.core k.clock e.key home l
      (r, some id)
/-- Letter of R110 an access counts under. -/
def Access.letter : Access → Nat
  | .load _ _ _ | .vload _ _ => 0
  | .store _ => 1
  | _ => 5

/-- A hot page's access is counted when it comes from more than two hops off (23 R391). -/
def countHot (ch : Chip) (core : Nat) (e : TlbEntry) (a : Nat) : Chip :=
  match placeOf a with
  | .hbm s off =>
    let r := entryRouter s (chanOf 0 off)
    let hops := (coreX core - coreX r) + (coreX r - coreX core) + (coreY core - coreY r) + (coreY r - coreY core)
    if e.mig && decide (2 < hops) then
      let k := ch.stk s
      let f := off / 65536
      let old := match k.counts.find? (fun c => c.frame == f && c.core == core) with | some c => c.count | none => 0
      let new : HotCount := { frame := f, core := core, count := old + 1, leaf := e.leaf, peer := e.peer, part := (ch.owner e.owner).part, big := e.big }
      ch.setStk s { k with counts := new :: k.counts.filter (fun c => !(c.frame == f && c.core == core)) }
    else ch
  | _ => ch

/-! ### Planning an access -/

/-- The largest of the beats at which sectors are at hand. -/
def maxOf (l : List Nat) : Nat := l.foldl max 0
/-- Plans the flits that carry n sectors to a core, two to a flit; `ready i` is when sector i is at hand. -/
def planData (p : Planner) (o : Owner) (path : List (Nat × Nat)) (ready : Nat → Nat) (deps : List Nat) (fin : Nat → List Act) :
    List (List Nat) → Planner
  | [] => p
  | f :: rest => planData (p.flit o path (maxOf (f.map ready)) true [] (f.flatMap fin) deps).1 o path ready deps fin rest
/-- Numbers below n in pairs. -/
def pairsUpTo (n : Nat) : List (List Nat) := (List.range (cdiv n 2)).map (fun i => if 2 * i + 1 < n then [2 * i, 2 * i + 1] else [2 * i])
/-- Adds the arrival of the answer at the last beat planned. -/
def Planner.answered (p : Planner) : Planner :=
  { p with steps := p.steps ++ [{ at_ := p.last, chain := p.chain - 1, act := .answerLands }] }
/-- Plans an access whose home is an ABUF. -/
def planOnChip (p : Planner) (o : Owner) (core homeCore : Nat) (a : Access) (t : Nat) : Planner :=
  let asked := p.chain
  let (p, e) := p.flit o (route core homeCore) t false [] [.atHome]
  if a.answers then
    (planData p o (route homeCore core) (fun _ => e + 1) [asked] (fun _ => []) (pairsUpTo (cdiv a.size 64))).answered
  else p
/-- Plans an atomic at memory: its request, the read command, at HBM the write command, the answer that leaves
with the data read; it is in once the write is accepted too (07 R150; log 28). -/
def planAtomic (p : Planner) (o : Owner) (core place t : Nat) : Planner :=
  let asked := p.chain
  let (p, e) := p.flit o (pathTo 0 core place) t false [] []
  let key := match homeChan 0 place with
    | some (chan, _, _) => chan
    | none => portKey (match portOf place with | some q => q.1 | none => true)
  let read := p.chain
  let (p, d) := { p with ready := p.ready.set key (e + 1), asked := p.asked.set key asked }.read o 0 place 0 (e + 1)
  let p := if (homeChan 0 place).isSome then (p.write o 0 place 0 d [read]).1 else p
  (p.flit o (pathFrom 0 place core) d false [] [] [read]).1.answered
/-- Plans the reads of sectors of memory and the flits that bring them to a core. -/
def planLoad (p : Planner) (o : Owner) (core t : Nat) (places : List Nat) : Planner :=
  let p := places.foldl (fun p a => p.ask o 0 core t a) p
  let (p, rdy) := places.foldl (fun (acc : Planner × List (Nat × Nat)) a =>
    let (q, d) := acc.1.read o 0 a acc.2.length t
    (q, acc.2 ++ [(d, acc.1.chain)])) (p, [])
  -- a flit carries sectors of one channel only
  let groups := (pairsUpTo places.length).flatMap (fun f =>
    match f with
    | [i, j] => if homeChan 0 (places.getD i 0) = homeChan 0 (places.getD j 0) ∨
        (homeChan 0 (places.getD i 0)).map (·.1) = (homeChan 0 (places.getD j 0)).map (·.1) then [[i, j]] else [[i], [j]]
    | g => [g])
  let chanAt (g : List Nat) : Option Nat := (homeChan 0 (places.getD (g.headD 0) 0)).map (·.1)
  -- the flit before one is the one before it of its channel (09 R219; DEDUCED, log 99)
  (groups.foldl (fun (acc : Planner × Option Nat) g =>
    let p := if acc.2 = chanAt g then acc.1 else { acc.1 with prev := [] }
    ((p.flit o (pathFrom 0 (places.getD (g.headD 0) 0) core) (maxOf (g.map (fun i => (rdy.getD i (0, 0)).1))) true [] []
      (g.map (fun i => (rdy.getD i (0, 0)).2))).1, chanAt g)) (p, none)).1.answered
/-- Plans a single access by a pointer from beat t (07 R143, R150; 10 R237; 23 R379). -/
def planAccess (p : Planner) (o : Owner) (core homeCore : Nat) (a : Access) (places : List Nat) (t : Nat) : Planner :=
  match places with
  | [] => planOnChip p o core homeCore a t
  | place :: _ =>
    if a.atomic then planAtomic p o core place t
    else if a.answers then planLoad p o core t places
    else
      let sent := p.chain
      let (p, e) := p.flit o (pathTo 0 core place) t false [] []
      (p.write o 0 place 0 (e + 1) [sent]).1

/-- Fields of new work of a word, before its plan. -/
def Ctx.work (x : Ctx) (kind : WorkKind) (letter : Nat) (promised : Bool) (after : List Nat) : Work :=
  { core := x.core, slot := x.slot, owner := x.st.place.owner, q := x.q, sec := (x.st.whereNow x.q).1, ix := (x.st.whereNow x.q).2, tau := x.tau, beat := x.now,
    inH := x.q == .ct && x.st.run.h, region := x.st.innermost, letters := { bits := BitVec.twoPow 6 letter, promised := promised },
    kind := kind, promise := 0, after := after, produces := none, cons := [], clock := x.st.vclock.getD letter clockZero, shown := clockZero,
    faddr := 0, barrier := none,
    state := .running, doneBeat := none, steps := [], total := 0, landed := [], staged := [], stores := [], flags := 0, absent := [] }
/-- Runs of consecutive addresses: each as its first address and its length. -/
def addrRuns : List Nat → List (Nat × Nat)
  | [] => []
  | a :: t =>
    match addrRuns t with
    | (b, n) :: r => if b = a + 1 then (a, n + 1) :: r else (a, 1) :: (b, n) :: r
    | [] => [(a, 1)]
/-- The runs of bytes of an access at its home. -/
def Access.runs (a : Access) (home : Nat) : List TlbEntry → List (Nat × Nat)
  | [] => [(home, a.size)]
  | ents => (piecesOf home a.size ents).map (fun p => (p.1, p.2.1))
/-- The runs of bytes at their homes that an access or a lane store reads or writes; a lane store still to be drained is
known by the work that drains it (11 R257). -/
def Work.runs (k : Work) : List (Nat × Nat) :=
  match k.kind with
  | .access a home ents => a.runs home ents
  | .laneStore _ bs ilv _ _ onChip => (addrRuns (bs.filterMap (·.1))).map (fun r => (if onChip then r.1 else homeAddr ilv r.1, r.2))
  | .wstc _ _ h o _ _ _ _ _ => (addrRuns ((tileBytes h o [32, 32, 1, 1]).flatten.filterMap id)).map (fun r => (homeAddr h.ilv r.1, r.2))
  | _ => []
/-- The work that performs those accesses: of the draining of a WSTC, its lane store. -/
def Work.performer (w : Nat) (k : Work) : Nat := match k.kind with | .wstc lane _ _ _ _ _ _ _ _ => lane | _ => w
/-- Accesses of the same sequencer to overlapping bytes that are not yet performed come first (06 R107). -/
def earlierOverlaps (x : Ctx) (runs : List (Nat × Nat)) : List Nat :=
  ((x.chip.worksOf x.core x.slot).filter (fun e => e.2.q == x.q && !x.chip.workOver (e.2.performer e.1) &&
    e.2.runs.any (fun a => runs.any (fun b => meets a.1 a.2 b.1 b.2)))).map (fun e => e.2.performer e.1)
/-- Issues an access by a pointer: plans it, and gives the chip, the work's number and the promise. -/
def startAccess (x : Ctx) (a : Access) (home : Nat) (ents : List TlbEntry) (homeCore : Nat) (promised : Bool) (fa : Word) : Chip × Nat × Nat :=
  let o := x.owner
  let after := earlierOverlaps x (a.runs home ents)
  -- requests to one on-chip home keep their order on the way, so only a lane store is waited for
  let lane (w : Nat) : Bool :=
    match x.chip.work? w with
    | some k => (match k.kind with | .laneStore _ _ _ _ _ _ => true | _ => false)
    | none => false
  let wait := if ents.isEmpty then after.filter lane else after
  let t := startBeat x.chip o x.core x.st wait []
  let p := planAccess (Planner.start x.chip o) o x.core homeCore a ((a.sectors x.core home ents).map (·.1)) t
  let pr := promiseOf x.chip o x.st x.q p.last
  let k := { x.work (.access a home ents) a.letter promised after with promise := pr, steps := p.steps, faddr := fa }
  let (ch, w) := (p.finish x.st.place.owner o).addWork k
  (ch, w, pr)

/-! ### The steps of an access -/

/-- What earlier accesses of its sequencer to the same bytes have shown (06 R111). -/
def Chip.seenBefore (ch : Chip) (k : Work) (a n : Nat) : List Nat :=
  match ch.strand? k.core k.slot with | some st => st.bytesSeen k.q a n | none => clockZero
/-- Stores an atomic's or a plain store's bytes and remembers the store, which comes after what earlier accesses of its
sequencer to those bytes have shown (06 R111). -/
def performStore (m : Memory) (r : Res) (k : Work) (ent : Option TlbEntry) (home : Nat) (l : List Byte) : Res × Work :=
  let k := { k with clock := clockMax k.clock (r.chip.seenBefore k home l.length) }
  -- only a killed owner's store finds a sector held: its command would have waited (07 R150)
  if ent.isSome && r.chip.heldAt home l.length then (writeFree m r ((ent.map (·.key)).getD 0) home l, k) else
  let (r, id) := storeAt m r k ent home l
  let k := { k with stores := k.stores ++ id.toList }
  let own := match r.chip.stores.find? (fun s => some s.id == id) with
    | some s => (List.range 4).map (fun d => if d = s.die then s.seqno else 0)
    | none => clockZero
  let letter := match k.kind with | .access a _ _ => a.letter | _ => 1
  let lane := match k.kind with | .laneStore _ _ _ _ _ _ => true | _ => false
  ({ r with chip := r.chip.onStrand k.core k.slot (fun st =>
      let st := (st.learn k.tau letter own).noteBytes r.chip k.q home l.length (clockMax k.clock own)
      if lane then st.learn k.tau 6 own else st) }, k)

/-- A barrier update acts: it reads the barrier's clock and leaves its own there (06 R112). -/
def barrierWork (m : Memory) (r : Res) (w : Nat) (k : Work) (home : Nat) (f : Barrier → Barrier) : Res :=
  let r := barrierStep m r home f
  let seen := r.chip.clocks.getD (home / 8) clockZero
  let ch := stampClock (applyNamed (finishWork r.chip w k .done) k.clock) (home / 8 * 8) 8 k.clock
  { r with chip := ch.onStrand k.core k.slot (fun st => st.learn k.tau 5 seen) }

/-- The access acts at an on-chip home in the beat its request ejects there (06 R411; 07 R156). -/
def actAtHome (m : Memory) (ch : Chip) (w : Nat) (k : Work) (a : Access) (home : Nat) : Res :=
  let r : Res := { chip := ch, writes := [] }
  let learn (r : Res) (letter : Nat) : Res :=
    { r with chip := r.chip.onStrand k.core k.slot (fun st => st.sees ch k letter home a.size (knownAt ch k.core home a.size)) }
  match a with
  | .load _ _ _ | .vload _ _ =>
    let k := { k with staged := (sectorRuns home a.size).mapIdx (fun i r => (i, m.readBytes r.1 r.2, ch.errorAt r.1 r.2)) }
    learn { r with chip := r.chip.setWork w k } 0
  | .store l =>
    let (r, k) := performStore m r k none home l
    { r with chip := finishWork r.chip w k .done }
  | .amo _ n _ _ | .cas n _ _ _ =>
    let old := m.readBytes home n
    let (r, k) := performStore m (learn r 5) k none home (leBytes n (a.newValue (leNat old)))
    { r with chip := r.chip.setWork w { k with staged := [(0, old, ch.errorAt home n)] } }
  | .txbInit v => barrierWork m r w k home (fun _ => Barrier.init v)
  | .txbArrive n => barrierWork m r w k home (fun b => b.arrive n)
  | .txbExpect n => barrierWork m r w k home (fun b => b.expect n)
  | .txbWait p _ _ => { r with chip := r.chip.setWork w { k with kind := .access (.txbWait p true false) home [] } }

/-- The answer of an access is at its core: the register or register-space bytes land, and the access is
complete. Uncorrectable data is consumed: a register is not written then (log 33), register space takes the
data and its poison unless a region is killed (10 R240). -/
def answer (ch : Chip) (w : Nat) (k : Work) (a : Access) : Chip :=
  let found := k.staged.findSome? (fun s => s.2.2)
  let bad := found.isSome
  let data := (List.range k.staged.length).flatMap (fun i => ((k.staged.find? (fun s => s.1 == i)).map (·.2.1)).getD [])
  let c := found.getD .memUncorrected
  match a with
  | .load n sgn xd =>
    if bad then finishWork (consume ch k c) w k (.error c)
    else
      let v := if sgn then sextN (8 * n) (leNat data) else BitVec.ofNat 64 (leNat data)
      finishWork (respond ch k [.x k.q xd v none false]) w k .done
  | .amo _ n _ xd | .cas n _ _ xd =>
    if bad then finishWork (consume ch k c) w k (.error c)
    else finishWork (respond ch k [.x k.q xd (sextN (8 * n) (leNat data)) none false]) w k .done
  | .vload dst spec =>
    if bad then
      if spec then finishWork (respond ch k [.granules (dst / 64) (List.replicate 16 true)]) w k .done
      else
        let poison := (List.range 16).map (fun i => k.staged.any (fun s => s.1 == i && s.2.2.isSome))
        let ch := if k.region.isSome then ch else respond ch k (regLands dst data poison)
        finishWork (consume ch k c) w k (.error c)
    else finishWork (respond ch k (regLands dst data (List.replicate 16 false))) w k .done
  | .txbWait p _ _ =>
    let home := match k.kind with | .access _ h _ => h | _ => 0
    finishWork ch w { k with kind := .access (.txbWait p true true) home [] } .done
  | _ => finishWork ch w k .done

/-- A channel read command or a port request of an access reads the source (06 R411). -/
def accessRead (m : Memory) (ch : Chip) (w : Nat) (k : Work) (a : Access) (home : Nat) (ents : List TlbEntry) (i : Nat) : Chip :=
  match (a.sectors k.core home ents)[i]? with
  | none => ch
  | some (lo, n, e) =>
    let data := if a.atomic then decrypt ch e.key lo (m.readBytes lo n) else readAt m ch k.core e lo n
    let seen := if a.atomic then knownHome ch lo n else knownAt ch k.core lo n
    let k := { k with staged := k.staged ++ [(i, data, ch.errorAt lo n)] }
    workSees (countHot ch k.core e lo) w k a.letter lo n seen
/-- An access's write accepted at a channel or a port. -/
def accessWrite (m : Memory) (ch : Chip) (w : Nat) (k : Work) (a : Access) (home : Nat) (ents : List TlbEntry) : Res :=
  match ents with
  | [] => { chip := ch, writes := [] }
  | e :: _ =>
    -- an atomic is one access, counted at its read (23 R391)
    let r : Res := { chip := if a.atomic then ch else countHot ch k.core e (storePlace e home), writes := [] }
    match a with
    | .store l =>
      let (r, k) := performStore m r k (some e) home l
      { r with chip := finishWork r.chip w k .done }
    | .amo _ n _ _ | .cas n _ _ _ =>
      let old := ((k.staged.head?).map (·.2.1)).getD []
      let (r, k) := performStore m r k (some e) home (leBytes n (a.newValue (leNat old)))
      { r with chip := r.chip.setWork w k }
    | _ => r

end Sys2Proof.Machine
end

