-- ==== Sys2Proof/Machine/MemScalar.lean ====
section
/-! DEFINITION. Scalar memory, atomics, fences, monitors and transaction barriers (07 R141 to R157; 06 R110). -/

namespace Sys2Proof.Machine

/-- Bookkeeping of a scalar memory word (08 R202). -/
def memInfo (opc : BitVec 8) (ok : Bool := true) : Info := ctInfo opc 3 ok

/-! ### Reaching memory through a pointer (07 R142, R144; 02 R32; 23 R388) -/

/-- Where an access goes once every check has passed, or what stops it. -/
inductive Reach where
  | priv (off : Nat)
  | scratch (buf off : Nat)
  | chip (core off : Nat)
  | global (home : Nat) (ents : List TlbEntry)
  | fault (c : Cause) (fa tval : Word)
  | miss (page : Nat) (write : Bool)
deriving DecidableEq, Repr

/-- CLASS_UNUSED of a class (02 R32). -/
def classUnused (c : SlotClass) (fa : Word) : Reach := .fault .classUnused fa (BitVec.ofNat 64 (className c))
/-- Whether any of a run of device addresses lies in HBM. -/
def inHbm (a : Nat) : Bool := match placeOf a with | .hbm _ _ => true | _ => false
/-- The translation of a global access; `read` and `write` are the permissions it needs. A miss names the permission that
its walk is to test, so that a page with one of two is walked for the other. -/
def translateGlobal (ch : Chip) (core slot : Nat) (st : Strand) (va n : Nat) (read write : Bool) (fa : Word) : Reach :=
  let hit (l : List (Nat × Nat × TlbEntry)) : Reach :=
    if l.any (fun p => ch.releasedAt p.1) then .fault .capacityReleased fa 0
    else .global ((l.head?.map (·.1)).getD 0) (l.map (·.2.2))
  match translate ch core slot st.place.owner va n write with
  | .fault c => .fault c fa 0
  | .miss p => .miss p write
  | .hit l =>
    if write && read then
      match translate ch core slot st.place.owner va n false with
      | .fault c => .fault c fa 0
      | .miss p => .miss p false
      | .hit _ => hit l
    else hit l
/-- The class check of a global access, after every other (02 R32). -/
def classCheck (o : Owner) (fa : Word) (r : Reach) : Reach :=
  match r with
  | .global _ ents =>
    if (o.stride .mesh).isNone then classUnused .mesh fa
    else if ents.any (fun e => inHbm e.frame) && (o.stride .chan).isNone then classUnused .chan fa
    else r
  | r => r
/-- The translation and class checks of a global access. -/
def reachGlobal (ch : Chip) (core slot : Nat) (st : Strand) (o : Owner) (va n : Nat) (read write : Bool) (fa : Word) : Reach :=
  classCheck o fa (translateGlobal ch core slot st va n read write fa)
/-- The checks of 07 R142 steps 2 to 6 on a pointer, then those of R144, R388 and R32. -/
def reach (x : Ctx) (v : Word) (off : Int) (n align : Nat) (read write : Bool) : Reach :=
  let fa := ptrAdd v off
  match checkPtr x.core x.st v off n align with
  | .error (c, p) => .fault c p 0
  | .ok (.priv o) => .priv o
  | .ok (.scratch b o) => .scratch b o
  | .ok (.cluster c o) => if (x.owner.stride .mesh).isNone then classUnused .mesh fa else .chip c o
  | .ok (.global va) => reachGlobal x.chip x.core x.slot x.st x.owner va n read write fa
/-- A TLB miss: the strand stalls while a walker serves it (07 R144). -/
def missStall (x : Ctx) (page : Nat) (write : Bool) : Effect :=
  .stall (.tlbMiss page) (startWalk x.chip x.core x.slot x.st.place.owner page write)

/-! ### LDX and STX -/

/-- Bytes and signedness of a load size. -/
def ldBytes : LdSize → Nat × Bool
  | .s8 => (1, true) | .s16 => (2, true) | .s32 => (4, true) | .s64 => (8, true)
  | .n8 => (1, false) | .n16 => (2, false) | .n32 => (4, false)
/-- Bytes of a store size. -/
def stBytes : StSize → Nat
  | .s8 => 1 | .s16 => 2 | .s32 => 4 | .s64 => 8
/-- A loaded value, extended. -/
def loaded (n : Nat) (signed : Bool) (l : List Byte) : Word := if signed then sextN (8 * n) (leNat l) else BitVec.ofNat 64 (leNat l)
/-- A load due n beats after issue, its promise register holding that τ untagged (07 R143). -/
def fixedLoad (x : Ctx) (st : Strand) (n : Nat) (xd xb : Reg) (v : Word) (poison : Bool) : Effect :=
  let pr := BitVec.ofNat 64 (x.tau + n)
  x.done ((st.laterX x.q n xd v none poison).laterX x.q 1 xb pr)
/-- LDX and LDX.S (07 R143 to R145). -/
def loadWord (s : State) (h : Head) (opc : BitVec 8) (ok spec : Bool) (size : LdSize) (xd xa xb : Reg) (off : BitVec 48) : Outcome :=
  issue s h (memInfo opc ok) noOperands (fun x =>
    let v := x.rx xa
    let o := off.toInt
    let (n, sgn) := ldBytes size
    if x.px xa then .fault .poisonConsumed (ptrAdd v o) 0
    else
      match reach x v o n n true false with
      | .fault c fa tv =>
        if spec then
          let st := (x.st.later x.q 1 [.xKeep x.q (x.st.regNo x.q xd)]).laterX x.q 1 xb (BitVec.ofNat 64 (x.tau + 1))
          .go { chip := dropWalks (x.chip.setStrand x.core x.slot st) x.core x.slot, writes := [] } .next .none
        else .fault c fa tv
      | .miss p wr => missStall x p wr
      | .priv a =>
        -- an uncorrectable error of the register space is consumed (08 R176; 10 R240)
        if x.chip.sramBadAt (windowBase x.core x.st + a) n then
          x.done ((consumeNow x.st x.q .sramUncorrected (ptrAdd v o)).laterX x.q 1 xb (BitVec.ofNat 64 (x.tau + 3)))
        else fixedLoad x x.st 3 xd xb (loaded n sgn (x.mem.readBytes (windowBase x.core x.st + a) n)) (x.st.poisonedRange a n)
      | .scratch b a =>
        let home := scratchAddr x.core b a
        match x.chip.errorAt home n with
        | some c => x.done ((consumeNow x.st x.q c (ptrAdd v o)).laterX x.q 1 xb (BitVec.ofNat 64 (x.tau + 6)))
        | none => fixedLoad x x.st 6 xd xb (loaded n sgn (x.mem.readBytes home n)) false
      | .chip c a => promised x xd xb n sgn (abufAddr c + a) [] c (ptrAdd v o)
      | .global home ents => promised x xd xb n sgn home ents x.core (ptrAdd v o))
where
  /-- A promised load: xb receives the promise, tagged. -/
  promised (x : Ctx) (xd xb : Reg) (n : Nat) (sgn : Bool) (home : Nat) (ents : List TlbEntry) (hc : Nat) (fa : Word) : Effect :=
    let (ch, w, pr) := startAccess x (.load n sgn (x.st.regNo x.q xd)) home ents hc true fa
    .go { chip := ch.setStrand x.core x.slot (x.st.laterX x.q 1 xb (BitVec.ofNat 64 pr) (some w)), writes := [] } .next .none

/-- LDX (07 R143, R144). -/
def execLdx (h : Head) (size : LdSize) (xd xa xb : Reg) (off : BitVec 48) (s : State) : Outcome :=
  loadWord s h 0x20 (Instr.wf (.ldx h size xd xa xb off)) false size xd xa xb off
/-- LDX.S (07 R145): the faults of R142 steps 2 to 6 set xd's poison bit and start no access. DESIGN CHOICE (log 80):
CAPACITY_RELEASED is deferred with them. -/
def execLdxS (h : Head) (size : LdSize) (xd xa xb : Reg) (off : BitVec 48) (s : State) : Outcome :=
  loadWord s h 0x22 (Instr.wf (.ldxS h size xd xa xb off)) true size xd xa xb off
/-- STX (07 R143): to the window and the buffers at τ+1, elsewhere by promise. -/
def execStx (h : Head) (size : StSize) (xd xa xb : Reg) (off : BitVec 48) (s : State) : Outcome :=
  issue s h (memInfo 0x21) noOperands (fun x =>
    let v := x.rx xa
    let o := off.toInt
    let n := stBytes size
    let data := leBytes n (x.rx xb).toNat
    let promised (home : Nat) (ents : List TlbEntry) (hc : Nat) : Effect :=
      let (ch, w, pr) := startAccess x (.store data) home ents hc true (ptrAdd v o)
      .go { chip := ch.setStrand x.core x.slot (x.st.laterX x.q 1 xd (BitVec.ofNat 64 pr) (some w)), writes := [] } .next .none
    let xdLand := Land.x x.q (x.st.regNo x.q xd) (BitVec.ofNat 64 (x.tau + 1)) none false
    if x.px xa then .fault .poisonConsumed (ptrAdd v o) 0
    else if x.px xb then .fault .poisonStore (ptrAdd v o) 0
    else
      match reach x v o n n false true with
      | .fault c fa tv => .fault c fa tv
      | .miss p wr => missStall x p wr
      | .priv a => x.done (x.st.later x.q 1 [.reg a data, xdLand])
      | .scratch b a => x.done (x.st.later x.q 1 [.bytes (scratchAddr x.core b a) data, xdLand])
      | .chip c a => promised (abufAddr c + a) [] c
      | .global home ents => promised home ents x.core)

/-! ### CHK, SPTEST, SPCAST -/

/-- CHK (07 R147). -/
def execChk (h : Head) (xa : Reg) (s : State) : Outcome :=
  issue s h (memInfo 0x23) noOperands (fun x => if x.px xa then .fault .poisonConsumed 0 0 else x.nothing)
/-- CHK.G: any poisoned granule of the kilobyte. -/
def execChkG (h : Head) (spec : Spec) (s : State) : Outcome :=
  issue s h (memInfo 0x23) (operands [vsrc spec]) (fun x =>
    if x.st.poisonedRange (x.st.opAddr spec) 1024 then .fault .poisonConsumed 0 0 else x.nothing)
/-- The space code of a pointer (07 R148). -/
def spaceCode (core : Nat) (st : Strand) (v : Word) : Nat :=
  match ptrOf v with
  | .bad => 7
  | .global _ => 0
  | .cluster _ _ => 1
  | .scratch c _ _ => if c = core then 2 else 3
  | .priv c w o =>
    if c = core ∧ w = st.place.owner then (if o < st.place.winkb * 1024 then 4 else 7) else 5
/-- SPTEST. -/
def execSptest (h : Head) (xd xa : Reg) (s : State) : Outcome :=
  issue s h (memInfo 0x24) noOperands (fun x => x.writeX 1 xd (BitVec.ofNat 64 (spaceCode x.core x.st (x.rx xa))) (x.px xa))
/-- Window code of a pointer space (07 R141). -/
def winCode : Win → Nat | .global => 0x00 | .cluster => 0xC0 | .scratch => 0xD0 | .priv => 0xE0
/-- SPCAST's result and predicate (07 R149). -/
def spCast (core : Nat) (st : Strand) (v : Word) (w : Win) : Word × Bool :=
  let code := spaceCode core st v
  if code ≠ 7 ∧ bitsOf v 56 8 = winCode w then (v, true)
  else
    match code, ptrOf v, w with
    | 2, .scratch _ 1 o, .cluster => (BitVec.ofNat 64 (0xC0 * 2 ^ 56 + inCluster core * 2 ^ 20 + o), true)
    | 1, .cluster k o, .scratch =>
      if k = inCluster core then (BitVec.ofNat 64 (0xD0 * 2 ^ 56 + core * 2 ^ 32 + 2 ^ 20 + o), true)
      else (0xFF00000000000000, false)
    | _, _, _ => (0xFF00000000000000, false)
/-- SPCAST: xd and pN at τ+1. -/
def execSpcast (h : Head) (xd xa : Reg) (win : Win) (p : BitVec 3) (s : State) : Outcome :=
  issue s h (memInfo 0x25) noOperands (fun x =>
    let r := spCast x.core x.st (x.rx xa) win
    x.done (x.st.later x.q 1 [.x x.q (x.st.regNo x.q xd) r.1 none (x.px xa), .pred x.q p.toNat r.2]))

/-! ### Atomics (07 R150, R151) -/

/-- Bytes of an atomic. -/
def amoBytes : AmoSize → Nat | .w32 => 4 | .w64 => 8
/-- An atomic through a cluster-shared or global pointer; `poisons` are its operand registers. -/
def atomicWord (s : State) (h : Head) (opc : BitVec 8) (ok : Bool) (size : AmoSize) (xa xp : Reg) (poisons : List Reg)
    (acc : Ctx → Access) : Outcome :=
  issue s h (memInfo opc ok) noOperands (fun x =>
    let v := x.rx xa
    let n := amoBytes size
    let started (home : Nat) (ents : List TlbEntry) (hc : Nat) : Effect :=
      let (ch, w, pr) := startAccess x (acc x) home ents hc true v
      .go { chip := ch.setStrand x.core x.slot (x.st.laterX x.q 1 xp (BitVec.ofNat 64 pr) (some w)), writes := [] } .next .none
    if x.px xa then .fault .poisonConsumed v 0
    else if poisons.any x.px then .fault .poisonStore v 0
    else
      match ptrOf v with
      | .scratch _ _ _ | .priv _ _ _ | .bad => .fault .windowInvalid v 0
      | _ =>
        match reach x v 0 n n true true with
        | .fault c fa tv => .fault c fa tv
        | .miss p wr => missStall x p wr
        | .chip c a => started (abufAddr c + a) [] c
        | .global home ents => started home ents x.core
        | _ => .fault .windowInvalid v 0)
/-- AMO.op (07 R150). -/
def execAmo (h : Head) (op : AmoOp) (size : AmoSize) (xd xa xb xp : Reg) (s : State) : Outcome :=
  atomicWord s h 0x26 (Instr.wf (.amo h op size xd xa xb xp)) size xa xp [xb]
    (fun x => .amo op (amoBytes size) (x.rx xb) (x.st.regNo x.q xd))
/-- CAS (07 R151): xd holds the value expected. -/
def execCas (h : Head) (size : AmoSize) (xd xa xb xp : Reg) (s : State) : Outcome :=
  atomicWord s h 0x27 (Instr.wf (.cas h size xd xa xb xp)) size xa xp [xb, xd]
    (fun x => .cas (amoBytes size) (x.rx xd) (x.rx xb) (x.st.regNo x.q xd))

/-! ### Fences (06 R110) -/

/-- Whether an access has acted: a load is performed once it has read, an atomic once it has written (06 R106). -/
def Work.acted (k : Work) : Bool :=
  match k.kind with
  | .access (.load _ _ _) _ _ | .access (.vload _ _) _ _ =>
    k.steps.all (fun p => match p.act with | .mesh _ | .link _ | .delivered _ | .portAnswer _ | .answerLands => true | _ => false)
  | .access (.amo _ _ _ _) _ _ | .access (.cas _ _ _ _) _ _ =>
    k.steps.all (fun p => match p.act with | .mesh _ | .link _ | .answerLands => true | _ => false)
  | _ => false
/-- Whether a piece of work is performed at a scope: it has acted or is complete, and its stores are applied that far. -/
def performedAt (ch : Chip) (w : Nat) (sc : Scope) : Bool :=
  match ch.work? w with
  | none => true
  | some k => (k.acted || k.seenDone ch.gts) && k.stores.all (fun i => storePerformed ch i sc)
/-- The predecessor set at the first head beat: work of a letter in the set, not yet performed at the scope. -/
def predecessors (x : Ctx) (sel : Work → Bool) (sc : Scope) : List Nat :=
  ((x.chip.worksOf x.core x.slot).filter (fun e => sel e.2 && !performedAt x.chip e.1 sc)).map (·.1)
/-- What accesses of the letters in P issued before a τ have shown; bit 6 of P stands for lane stores (06 R110, R116). -/
def Strand.shown (st : Strand) (tauH : Nat) (p : BitVec 7) : List Nat :=
  let early := (List.range 7).foldl (fun c i => if p.getLsbD i then clockMax c (st.vseen.getD i [0, 0, 0, 0]) else c) [0, 0, 0, 0]
  st.vlate.foldl (fun c e => if e.1 < tauH ∧ p.getLsbD e.2.1 = true then clockMax c e.2.2 else c) early
/-- What a fence orders: accesses of the letters in S carry what its predecessors, those in P before its first head beat,
have shown (06 R110, R112). -/
def Strand.fenced (st : Strand) (q : SeqId) (tauH : Nat) (p : BitVec 7) (s : BitVec 6) : Strand :=
  let seen := st.shown tauH p
  let st := { st with vclock := st.vclock.mapIdx (fun i c => if s.getLsbD i then clockMax c seen else c) }
  -- with no other fence waiting, what was kept apart joins the rest
  let other := match (st.seq (if q = .ct then .st else .ct)).wait with | .fence _ _ => true | _ => false
  if other then st else { st with vseen := st.vlate.foldl (fun v e => seeClock v e.2.1 e.2.2) st.vseen, vlate := [] }
/-- A fence: it does not issue until its predecessors are performed; its token actions come when it issues. None of its
blocked slots falls under the limit (07 R152; 11 R258). -/
def fenceBody (x : Ctx) (h : Head) (sel : Work → Bool) (sc : Scope) (p : BitVec 7) (s : BitVec 6) : Effect :=
  let (tauH, preds) := match x.sq.wait with | .fence t l => (t, l) | _ => (x.tau, predecessors x sel sc)
  let left := preds.filter (fun w => !performedAt x.chip w sc)
  if left ≠ [] then .block none (.fence tauH left) x.chip
  else if !x.st.sh.rings.ready x.q h then .block none (.fence tauH []) x.chip
  else x.done (x.st.fenced x.q tauH p s)
/-- FENCE.scope P, S (07 R152; 06 R110). -/
def execFence (h : Head) (pred succ : BitVec 6) (scope : Scope) (s : State) : Outcome :=
  issue s h { ctInfo 0x28 14 (Instr.wf (.fence h pred succ scope)) with late := true } noOperands (fun x =>
    fenceBody x h (fun k => k.letters.bits &&& pred != 0#6) scope (pred.setWidth 7) succ)

/-! ### Monitors (07 R153, R154) -/

/-- Whether work writes memory when it acts. -/
def Work.writes (k : Work) : Bool := match k.kind with | .access a _ _ => a.stores | .secld _ _ _ _ _ => false | _ => true
/-- MARM: arms a monitor on a line; a fifth disarms the oldest. What earlier words of the sequencer write to the line comes
before the arm; what they read does not hold it up (06 R107). -/
def execMarm (h : Head) (xa : Reg) (s : State) : Outcome :=
  issue s h (memInfo 0x29) noOperands (fun x =>
    let v := x.rx xa
    let arm (home : Nat) : Effect :=
      let ms := x.st.monitors ++ [{ line := home / 64, fired := false, restored := false, after := (earlierOverlaps x [(home / 64 * 64, 64)]).filter (fun w => ((x.chip.work? w).map Work.writes).getD false) }]
      x.done ({ x.st with monitors := ms.drop (ms.length - 4) }.learn x.tau 0 (knownAt x.chip x.core (home / 64 * 64) 64))
    if x.px xa then .fault .poisonConsumed v 0
    else
      match checkPtr x.core x.st v 0 1 1 with
      | .error (c, p) => if c = .scratchForeign ∨ c = .privateForeign ∨ c = .enginePort then .fault .windowInvalid p 0 else .fault c p 0
      | .ok (.priv _) | .ok (.scratch _ _) => .fault .windowInvalid v 0
      | .ok (.cluster c o) => arm (abufAddr c + o)
      | .ok (.global va) =>
        match translate x.chip x.core x.slot x.st.place.owner va 1 false with
        | .fault c => .fault c v 0
        | .miss p => missStall x p false
        | .hit l =>
          match l with
          | (a, _, e) :: _ => if x.chip.releasedAt a then .fault .capacityReleased v 0 else arm (storePlace e a)
          | [] => x.nothing)
/-- What MWAIT writes when it returns (07 R154). DESIGN CHOICE (log 59): the index is the place in the order of arming, so that
after a fifth MARM the monitors are numbered anew. -/
def mwaitStatus (ms : List Monitor) : Word :=
  let ix := (ms.findIdx? (fun m => m.fired || m.restored)).getD 0
  if ms = [] then 3
  else if ms.any (·.restored) then BitVec.ofNat 64 (1 + ix * 2 ^ 8)
  else if ms.any (·.fired) then BitVec.ofNat 64 (ix * 2 ^ 8)
  else 2
/-- MWAIT: returns when a monitor has fired, when none is armed, or after 1,048,576 strand beats. -/
def execMwait (h : Head) (xd : Reg) (s : State) : Outcome :=
  issue s h (memInfo 0x2A) noOperands (fun x =>
    let ms := x.st.monitors
    let now := if x.st.run.h then x.st.run.hclk else x.tau
    let first := match x.sq.wait with | .mwait t => t | _ => now
    if ms = [] ∨ ms.any (fun m => m.fired || m.restored) = true ∨ first + Config.mwaitLimit ≤ now then
      x.done ({ x.st with monitors := [] }.laterX x.q 1 xd (mwaitStatus ms))
    else .block none (.mwait first) x.chip)
/-- MWAIT_TIMEOUT (07 R154): the MWAIT at the head of CT returns once its limit has passed. -/
def execMwaitTimeout (core slot : Nat) (s : State) : Outcome :=
  match s.chip.strand? core slot with
  | none => .next s
  | some st =>
    match decode (wordAt s.mem core st.place st.ct.pc.toNat), st.ct.wait with
    | some (.mwait h xd), .mwait t =>
      if t + Config.mwaitLimit ≤ (if st.run.h then st.run.hclk else st.run.tau) then execMwait h xd (s.keep { s.chip with cur := ⟨core, slot, .ct⟩ }) else .next s
    | _, _ => .next s

/-! ### Transaction barriers (07 R155, R156) -/

/-- Where a barrier pointer leads: the core whose ABUF holds it, the address, and whether it is reached as the
own ABUF by a scratchpad pointer (07 R155). -/
def barrierPtr (core : Nat) (v : Word) : Except Cause (Nat × Nat × Bool) :=
  match ptrOf v with
  | .scratch c 1 o =>
    if c ≠ core then .error .scratchForeign
    else if o % 16 ≠ 0 then .error .align else .ok (core, abufAddr core + o, true)
  | .cluster k o =>
    if o % 16 ≠ 0 then .error .align else .ok (clusterCore core k, abufAddr (clusterCore core k) + o, false)
  | _ => .error .windowInvalid
/-- A barrier access starts: by a scratchpad pointer it acts at τ+1, by a cluster-shared one when its request
ejects. Answers the strand's chip and the work. -/
def startBarrier (x : Ctx) (a : Access) (home hc : Nat) (direct : Bool) (fa : Word) : Chip × Nat :=
  if direct then
    let (ch, w) := x.chip.addWork { x.work (.access a home []) 5 false [] with faddr := fa }
    (ch.setStrand x.core x.slot (x.st.later x.q 1 [.workActs w]), w)
  else
    let (ch, w, _) := startAccess x a home [] hc false fa
    (ch, w)
/-- The checks of a barrier word. -/
def barrierWord (x : Ctx) (xa xb : Reg) (k : Nat → Nat → Bool → Effect) : Effect :=
  let v := x.rx xa
  if x.px xa || x.px xb then .fault .poisonConsumed v 0
  else
    match barrierPtr x.core v with
    | .error c => .fault c v 0
    | .ok (hc, home, direct) =>
      if !direct && (x.owner.stride .mesh).isNone then .fault .classUnused v 1 else k hc home direct
/-- A barrier update. -/
def barrierUpdate (s : State) (h : Head) (xa xb : Reg) (bad : Word → Bool) (a : Word → Access) : Outcome :=
  issue s h (memInfo 0x2B) noOperands (fun x =>
    if !(x.px xa || x.px xb) && bad (x.rx xb) then trapNow .illRsvd
    else barrierWord x xa xb (fun hc home direct =>
      .go { chip := (startBarrier x (a (x.rx xb)) home hc direct (x.rx xa)).1, writes := [] } .next .none))
/-- TXB.INIT: both counts zero are reserved. -/
def execTxbInit (h : Head) (xa xb : Reg) (s : State) : Outcome :=
  barrierUpdate s h xa xb (fun v => bitsOf v 0 48 == 0) (fun v => .txbInit v)
/-- TXB.ARRIVE. -/
def execTxbArrive (h : Head) (xa xb : Reg) (s : State) : Outcome :=
  barrierUpdate s h xa xb (fun _ => false) (fun v => .txbArrive (bitsOf v 0 16))
/-- TXB.EXPECT. -/
def execTxbExpect (h : Head) (xa xb : Reg) (s : State) : Outcome :=
  barrierUpdate s h xa xb (fun _ => false) (fun v => .txbExpect (bitsOf v 0 32))
/-- TXB.WAIT: registers at the home when it first stands at the head, and issues once released. -/
def execTxbWait (h : Head) (xa xb : Reg) (s : State) : Outcome :=
  issue s h (memInfo 0x2B) noOperands (fun x =>
    match x.sq.wait with
    | .txb w =>
      match x.chip.work? w with
      | some k =>
        match k.kind with
        | .access (.txbWait _ _ sent) home _ =>
          -- the own core's release reaches CT in the next beat
          if k.overAt x.now || (sent && k.steps.isEmpty) then
            x.done (x.st.learn x.tau 5 (x.chip.clocks.getD (home / 8) [0, 0, 0, 0]))
          else .block none (.txb w) x.chip
        | _ => .block none (.txb w) x.chip
      | none => x.nothing
    | _ =>
      barrierWord x xa xb (fun hc home direct =>
        let (ch, w) := startBarrier x (.txbWait (bitsOf (x.rx xb) 0 4) false false) home hc direct (x.rx xa)
        .block none (.txb w) ch))

end Sys2Proof.Machine
end

