-- ==== Sys2Proof/Machine/Copy.lean ====
section
/-! DEFINITION. The copy engine (09 R205 to R225) and section loads (07 R163, R164). -/

namespace Sys2Proof.Machine

/-! ### Footprints -/

/-- Row pitch of a copy. -/
def copyPitch (h : Handle) (e0 : Nat) : Nat := pitchOf e0 h.e
/-- Sectors of a footprint. -/
def copySectors (h : Handle) (e0 : Nat) (rows : List (Bool × Nat)) : Nat := copyPitch h e0 * rows.length / 64
/-- The device address that a footprint byte is read from or written to; none out of range (09 R209, R210). -/
def copySource (h : Handle) (o0 e0 : Nat) (rows : List (Bool × Nat)) (b : Nat) : Option Nat :=
  let col := b % copyPitch h e0
  match rows[b / copyPitch h e0]? with
  | some (true, a) => if col < e0 * h.e ∧ o0 + col / h.e < h.dims.getD 0 1 then some (a + o0 * h.e + col) else none
  | _ => none
/-- The in-range byte that stands for an out-of-range one under pad=clamp (09 R210). -/
def copyClamp (h : Handle) (o0 e0 : Nat) (rows : List (Bool × Nat)) (b : Nat) : Nat :=
  let col := b % copyPitch h e0
  let el := min (o0 + min (col / h.e) (e0 - 1)) (h.dims.getD 0 1 - 1)
  match rows[b / copyPitch h e0]? with
  | some (_, a) => a + el * h.e + col % h.e
  | none => 0
/-- F32 bits read as F64, exactly. -/
def f32ToF64Bits (v : BitVec 32) : Nat :=
  let s := v.toNat / 2 ^ 31
  let e := v.toNat / 2 ^ 23 % 2 ^ 8
  let f := v.toNat % 2 ^ 23
  if e = 0xFF then s * 2 ^ 63 + 0x7FF * 2 ^ 52 + f * 2 ^ 29
  else if e ≠ 0 then s * 2 ^ 63 + (e + 896) * 2 ^ 52 + f * 2 ^ 29
  else if f = 0 then s * 2 ^ 63
  else
    let k := Nat.log2 f
    s * 2 ^ 63 + (k + 874) * 2 ^ 52 + (f - 2 ^ k) * 2 ^ (52 - k)
/-- The pad element of a handle (09 R205). -/
def padBytes (h : Handle) : List Byte :=
  if h.e = 8 then
    leBytes 8 (match h.fmt with
      | .f64 => f32ToF64Bits h.padv
      | .i64 => (h.padv.signExtend 64).toNat
      | _ => h.padv.toNat)
  else leBytes h.e h.padv.toNat
/-- A sector's units: the bytes of a footprint sector that one channel holds. `chanKey` names a channel, or the
port of a pool or host address. -/
def chanKey (ilv a : Nat) : Nat :=
  match homeChan ilv a with
  | some (c, _, _) => c
  | none => match portOf a with | some (north, _) => portKey north | none => 9999
/-- The in-range byte addresses of a footprint sector, in order. -/
def sectorSources (h : Handle) (o0 e0 : Nat) (rows : List (Bool × Nat)) (j : Nat) : List Nat :=
  (List.range 64).filterMap (fun i => copySource h o0 e0 rows (64 * j + i))
/-- Consecutive equal keys grouped. -/
def groupRuns : List (Nat × Nat) → List (Nat × List Nat)
  | [] => []
  | (k, a) :: t =>
    match groupRuns t with
    | (k2, l) :: r => if k = k2 then (k2, a :: l) :: r else (k, [a]) :: (k2, l) :: r
    | [] => [(k, [a])]
/-- A unit of a copy: footprint sector, channel key, the memory sectors it covers (as first byte and count);
a sector with no in-range byte has one unit with none, of the channel of the first in-range byte. -/
structure CopyUnit where
  sector : Nat
  key : Nat
  parts : List (Nat × Nat)
deriving DecidableEq, Repr
/-- Address of the first byte of each memory sector among byte addresses, with how many bytes. -/
def memParts (l : List Nat) : List (Nat × Nat) :=
  (groupRuns (l.map (fun a => (a / 64, a)))).map (fun g => (g.2.headD 0, g.2.length))
/-- The first in-range byte of a copy, from a list of sectors. -/
def firstSource (h : Handle) (o0 e0 : Nat) (rows : List (Bool × Nat)) : Option Nat :=
  ((List.range (copySectors h e0 rows)).flatMap (fun j => (sectorSources h o0 e0 rows j).take 1)).head?
/-- The units of a copy in ascending offset. -/
def copyUnits (h : Handle) (o0 e0 : Nat) (rows : List (Bool × Nat)) : List CopyUnit :=
  let pads := chanKey h.ilv ((firstSource h o0 e0 rows).getD h.base)
  (List.range (copySectors h e0 rows)).flatMap (fun j =>
    match sectorSources h o0 e0 rows j with
    | [] => [{ sector := j, key := pads, parts := [] }]
    | l => (groupRuns (l.map (fun a => (chanKey h.ilv a, a)))).map (fun g => { sector := j, key := g.1, parts := memParts g.2 }))
/-- Units in flits: at most two consecutive units of one channel. Answers unit numbers. -/
def unitFlits : Nat → List CopyUnit → List (List Nat)
  | _, [] => []
  | n, [_] => [[n]]
  | n, a :: b :: t => if a.key = b.key then [n, n + 1] :: unitFlits (n + 2) t else [n] :: unitFlits (n + 1) (b :: t)
/-- Where the bytes of a footprint sector come from: their own addresses, and under pad=clamp the elements that stand for
those out of range (09 R210). -/
def sectorNeeds (h : Handle) (o0 e0 : Nat) (rows : List (Bool × Nat)) (pad : Pad) (j : Nat) : List Nat :=
  (List.range 64).filterMap (fun i =>
    match copySource h o0 e0 rows (64 * j + i) with
    | some a => some a
    | none => if pad = .clamp then some (copyClamp h o0 e0 rows (64 * j + i)) else none)
/-- Numbers of a unit's parts among all parts. -/
def partBase (us : List CopyUnit) (u : Nat) : Nat := ((us.take u).map (fun k => k.parts.length)).sum

/-! ### Plans (09 R219) -/

/-- Requests to every channel in a list of first addresses. -/
def planRequests (p : Planner) (o : Owner) (ilv core t : Nat) (addrs : List Nat) : Planner :=
  addrs.foldl (fun p a => p.ask o ilv core t a) p
/-- The steps of a flit's branch to one core, from beat u: those on instances that other branches have taken already, in
`done` with their beats and chains, are shared (09 R215). `off` is the last of these, that the branch leaves from. -/
def planTree (o : Owner) (prev : List (Nat × Nat)) (chain : Nat) : List (Nat × Nat) → Resv → List (Nat × Nat × Nat) → Nat →
    Option (Nat × Nat) → List (Nat × Nat) × Resv × List (Nat × Nat × Nat) × Nat × Option (Nat × Nat)
  | [], r, done, u, off => ([], r, done, u, off)
  | (inst, len) :: rest, r, done, u, off =>
    match done.find? (fun d => d.1 == inst) with
    | some d => planTree o prev chain rest r done (d.2.1 + len) (some (d.2.2, inst))
    | none =>
      let before := match prev.find? (fun d => d.1 == inst) with | some d => d.2 + 1 | none => 0
      let b := planSlot o r .mesh inst (max u before)
      let (l, r2, d2, e, off) := planTree o prev chain rest ((.mesh, inst, b) :: r) ((inst, b, chain) :: done) (b + len) off
      ((inst, b) :: l, r2, d2, e, off)
/-- One flit to several cores, each branch a chain of its own that lands `fin i` in its ejection beat, after the chains
`deps`: the plan, and the beats by instance. -/
def planMulti (p : Planner) (o : Owner) (prev : List (Nat × Nat)) (t : Nat) (deps : List Nat) (paths : List (List (Nat × Nat)))
    (fin : Nat → List Act) : Planner × List (Nat × Nat) :=
  let (p, done) := paths.zipIdx.foldl (fun (acc : Planner × List (Nat × Nat × Nat)) path =>
    let p := acc.1
    let (l, r, done, u, off) := planTree o prev p.chain path.1 p.resv acc.2 t none
    let e := u - 1
    let after : List (Nat × Option Nat) := match off with | some d => [(d.1, some d.2)] | none => deps.map (fun c => (c, none))
    ({ p with resv := r, chain := p.chain + 1, last := max p.last e,
              steps := p.steps ++ PStep.following after (flitSteps p.chain (l.take 1)) ++ flitSteps p.chain (l.drop 1) ++
                (fin path.2).map (fun a => { at_ := e, chain := p.chain, act := a }) }, done)) (p, [])
  (p, done.map (fun d => (d.1, d.2.1)))
/-- Plans the data of an inbound copy: flits from each unit's router to the destinations, where unit u is in at destination i
with `sectorLands` i × (number of units) + u. `ready u` is the beat at which unit u's data is at hand, and the chains that bring
it there. -/
def planInbound (o : Owner) (h : Handle) (us : List CopyUnit) (dests : List Nat) (anyAddr : Nat)
    (ready : Nat → Nat × List Nat) : List (List Nat) → Planner → List (Nat × Nat) → Planner
  | [], p, _ => p
  | f :: rest, p, prev =>
    let a := (f.filterMap (fun u => (us[u]?).bind (fun k => (k.parts.head?).map (·.1)))).headD anyAddr
    let paths := dests.map (fun d => pathFrom h.ilv a d)
    let (p, byInst) := planMulti p o prev (maxOf (f.map (fun u => (ready u).1))) (f.flatMap (fun u => (ready u).2)) paths
      (fun i => f.map (fun u => .sectorLands (i * us.length + u)))
    planInbound o h us dests anyAddr ready rest p byInst
/-- The flits of what is left of a copy, `landed` being the sectors that need not move again (09 R224). -/
def restFlits (us : List CopyUnit) (landed : Nat → Bool) : List (List Nat) :=
  let first := (us.takeWhile (fun u => landed u.sector)).length
  ((unitFlits first (us.drop first)).map (fun f => f.filter (fun n => match us[n]? with | some u => !landed u.sector | none => false))).filter
    (fun f => !f.isEmpty)
/-- What planning the reads of an inbound copy has made: the plan, each unit's beat and chains, and each memory sector read. -/
structure ReadPlan where
  plan : Planner
  rdy : List (Nat × List Nat)
  seen : List (Nat × Nat × Nat)
/-- Plans the reads of one unit's parts, numbered from n; a memory sector is read once. -/
def planUnit (o : Owner) (ilv t n : Nat) (u : CopyUnit) (a : ReadPlan) : ReadPlan :=
  let start := ((a.plan.asked.get? u.key).map (fun c => [c])).getD []
  let (p, d, seen) := u.parts.zipIdx.foldl (fun (b : Planner × (Nat × List Nat) × List (Nat × Nat × Nat)) part =>
    match b.2.2.find? (fun e => e.1 == part.1.1 / 64) with
    | some e => (b.1, (max b.2.1.1 e.2.1, e.2.2 :: b.2.1.2), b.2.2)
    | none =>
      let (q, e) := b.1.read o ilv part.1.1 (n + part.2) t
      (q, (max b.2.1.1 e, b.1.chain :: b.2.1.2), (part.1.1 / 64, e, b.1.chain) :: b.2.2)) (a.plan, (a.plan.ready.getD u.key t, start), a.seen)
  { plan := p, rdy := a.rdy ++ [d], seen := seen }
/-- Plans an inbound copy from memory, but for sectors landed before. Under pad=clamp a unit of a landed sector is read again
for what is still to be filled from it, and the flits of what it fills follow that read (09 R210, R224). -/
def planIn (p : Planner) (o : Owner) (core t : Nat) (h : Handle) (o0 e0 : Nat) (rows : List (Bool × Nat)) (pad : Pad) (dests : List Nat)
    (landed : Nat → Bool) : Planner :=
  let us := copyUnits h o0 e0 rows
  let any := (firstSource h o0 e0 rows).getD h.base
  let fills := if pad = .clamp then ((List.range (copySectors h e0 rows)).filter (fun j => !landed j)).flatMap (sectorNeeds h o0 e0 rows pad) else []
  let reads (u : CopyUnit) : Bool :=
    !landed u.sector || u.parts.any (fun q => fills.any (fun a => decide (q.1 ≤ a) && decide (a < q.1 + q.2)))
  let left := (us.filter reads).flatMap (fun u => u.parts.map (·.1))
  let pads := us.any (fun u => !landed u.sector && u.parts.isEmpty) || us.all (fun u => !landed u.sector)
  let p := planRequests p o h.ilv core t (if left.isEmpty || pads then any :: left else left)
  let a := us.foldl (fun (a : ReadPlan) u =>
    if reads u then planUnit o h.ilv t (partBase us a.rdy.length) u a else { a with rdy := a.rdy ++ [(t, [])] })
    { plan := p, rdy := [], seen := [] }
  -- the units read again that a unit's sector is filled from
  let fillers (u : Nat) : List Nat :=
    if fills.isEmpty then []
    else
      let needs := match us[u]? with | some k => sectorNeeds h o0 e0 rows pad k.sector | none => []
      (us.zipIdx.filter (fun v => landed v.1.sector && v.1.parts.any (fun q => needs.any (fun x => decide (q.1 ≤ x) && decide (x < q.1 + q.2))))).map (·.2)
  let ready (u : Nat) : Nat × List Nat :=
    (fillers u).foldl (fun (r : Nat × List Nat) v => let x := a.rdy.getD v (0, []); (max r.1 x.1, r.2 ++ x.2)) (a.rdy.getD u (0, []))
  planInbound o h us dests any ready (restFlits us landed) a.plan []
/-- Plans an outbound copy: data flits to each channel, write commands after their ejection. -/
def planOut (p : Planner) (o : Owner) (core t : Nat) (h : Handle) (us : List CopyUnit) : List (List Nat) → Planner
  | [] => p
  | f :: rest =>
    let parts := f.flatMap (fun u => match us[u]? with
      | some k => k.parts.mapIdx (fun i a => (partBase us u + i, a.1))
      | none => [])
    match parts with
    | [] => planOut p o core t h us rest
    | (_, a) :: _ =>
      let sent := p.chain
      let (p, e) := p.flit o (pathTo h.ilv core a) t true (f.map (fun u => .takeSource u)) []
      let p := parts.foldl (fun p x => (p.write o h.ilv x.2 x.1 (e + 1) [sent]).1) p
      planOut p o core t h us rest
/-- Plans a cluster-local copy (09 R220): one request, then flits of two sectors; `first` sectors have landed. -/
def planLocal (p : Planner) (o : Owner) (core src t first n : Nat) : Planner :=
  let asked := p.chain
  let (p, e) := p.flit o (route core src) t false [] []
  ((pairsUpTo (n - first)).map (fun f => f.map (· + first))).foldl (fun p f =>
    (p.flit o (route src core) (e + 1) true (f.map (fun i => .takeSource i)) (f.map (fun i => .sectorLands i)) [asked]).1) p

/-! ### The words -/

/-- Bookkeeping of a copy word. -/
def copyInfo (opc : BitVec 8) (ok : Bool := true) : Info := ctInfo opc 13 ok
/-- Consumed work of an engine word: the latest producers of its tokens that are not over. -/
def consumed (x : Ctx) (t : Toks) : List Nat :=
  [t.c0, t.c1, t.c2].filterMap (fun c =>
    if c = 63#6 then none
    else match x.st.sh.tokens.get? c.toNat with | some w => if x.chip.workOver w then none else some w | none => none)
/-- The works that produced the tokens an engine word consumes, over or not. -/
def producers (x : Ctx) (t : Toks) : List Nat :=
  [t.c0, t.c1, t.c2].filterMap (fun c => if c = 63#6 then none else x.st.sh.tokens.get? c.toNat)
/-- What those works carry: their clocks, with what they have read (06 R111, R117). -/
def tokenClock (x : Ctx) (t : Toks) : List Nat :=
  (producers x t).foldl (fun c w => match x.chip.work? w with | some k => clockMax c (clockMax k.clock k.shown) | none => c) clockZero
/-- New engine work after what its tokens name (06 R117). -/
def Ctx.engineWork (x : Ctx) (t : Toks) (kind : WorkKind) (letter : Nat) (promised : Bool) (after : List Nat) : Work :=
  let k := x.work kind letter promised after
  { k with cons := producers x t, clock := clockMax k.clock (tokenClock x t), produces := if t.p = 63#6 then none else some t.p.toNat }
/-- Locks on bytes of a core's storage (06 R119). -/
def lockers (ch : Chip) (core lo hi : Nat) : List Nat :=
  (ch.locks.filter (fun l => l.core == core && decide (l.lo < hi) && decide (lo < l.hi))).map (·.work)
/-- The token an engine word produces names its work. -/
def produce (st : Strand) (t : Toks) (w : Nat) : Strand :=
  if t.p = 63#6 then st else { st with sh := { st.sh with tokens := st.sh.tokens.set t.p.toNat w } }
/-- Whether work is a copy. -/
def Work.isCopy (k : Work) : Bool := match k.kind with | .copy _ _ _ _ _ _ _ _ _ _ => true | _ => false
/-- Incomplete copies of a strand. -/
def openCopies (x : Ctx) : List (Nat × Work) := (x.chip.worksOf x.core x.slot).filter (fun e => e.2.isCopy && e.2.doneBeat.isNone)
/-- The barrier of a copy, from its pointer register: none for x0 (09 R212 step 6). -/
def copyBarrier (x : Ctx) (xb : Reg) : Except (Cause × Word) (Option Nat) :=
  if xb = 0#6 then .ok none
  else match barrierPtr x.core (x.rx xb) with
    | .ok (_, a, _) => .ok (some a)
    | .error c => .error (if c = .scratchForeign then .windowInvalid else c, x.rx xb)
/-- What a copy needs to start. -/
structure CopyPlan where
  kind : WorkKind
  plan : Planner → Nat → Planner
  locks : List (Nat × Nat × Nat)
  /-- Own-core bytes it reads and does not lock: the copy waits for a lock on them (06 R119). -/
  waits : List (Nat × Nat × Nat)
  total : Nat
  counted : Nat
  bar : Option Nat
  fa : Word
/-- A copy as it starts: its work, lock, promise and token. -/
def startedCopy (x : Ctx) (xd : Reg) (t : Toks) (c : CopyPlan) : Res :=
  let o := x.owner
  let after := consumed x t
  let held := (c.locks ++ c.waits).flatMap (fun l => lockers x.chip l.1 l.2.1 l.2.2)
  let p := c.plan (Planner.start x.chip o) (startBeat x.chip o x.core x.st after held)
  let last := max p.last (o.clock x.now)
  let pr := promiseOf x.chip o x.st x.q last
  let k := { x.engineWork t c.kind 2 true (after ++ held) with
    promise := pr, steps := p.steps, barrier := c.bar, total := c.total, faddr := c.fa }
  let (ch, w) := (p.finish x.st.place.owner o).addWork k
  let new : List Lock := c.locks.map (fun l => { work := w, core := l.1, lo := l.2.1, hi := l.2.2 })
  let ch := { ch with locks := ch.locks ++ new }
  let st := produce (x.st.laterX x.q 1 xd (BitVec.ofNat 64 pr) (some w)) t w
  countSectors x.mem { chip := ch.setStrand x.core x.slot st, writes := [] } c.bar c.counted
/-- Issues a copy; a strand has at most 32 that are not complete (09 R212). -/
def startCopy (x : Ctx) (xd : Reg) (t : Toks) (c : CopyPlan) : Effect :=
  if 32 ≤ (openCopies x).length then .block (some .queueImbalance) .none x.chip
  else .go (startedCopy x xd t c) .next .none
/-- The class check of work on a handle (02 R32). -/
def classOf (x : Ctx) (h : Handle) (fa : Word) : Option Effect :=
  if (x.owner.stride .mesh).isNone then some (.fault .classUnused fa 1)
  else if inHbm h.base && (x.owner.stride .chan).isNone then some (.fault .classUnused fa 2) else none
/-- Checks 1 and 2 of R212: poison, then the handle under R207, READ or WRITE allowed. -/
def withHandle (x : Ctx) (xh : Reg) (regs : List Reg) (write : Bool) (k : Handle → Effect) : Effect :=
  if (xh :: regs).any x.px then trapNow .poisonConsumed
  else
    match readHandle x.mem x.chip (x.chip.part x.owner.part) x.st.place.owner (x.rx xh) with
    | none => .fault .handleInvalid (x.rx xh) 0
    | some (h, rd, wr) => if (if write then !wr else !rd) then .fault .handlePerm (x.rx xh) 0 else k h
/-- Coordinate of a row, held to the tensor, and whether it was in range. -/
def clampTo (n i : Nat) : Bool × Nat := (decide (i < n), min i (n - 1))
/-- A footprint row at coordinates of dimensions 1 to 3. -/
def tileRow (h : Handle) (i1 i2 i3 : Nat) : Bool × Nat :=
  let c1 := clampTo (h.dims.getD 1 1) i1
  let c2 := clampTo (h.dims.getD 2 1) i2
  let c3 := clampTo (h.dims.getD 3 1) i3
  (c1.1 && c2.1 && c3.1, h.base + c1.2 * h.strides.getD 0 0 + c2.2 * h.strides.getD 1 0 + c3.2 * h.strides.getD 2 0)
/-- The rows of a tile in row-major order (09 R209). -/
def tileRowList (h : Handle) (o e : List Nat) : List (Bool × Nat) :=
  (List.range (e.getD 3 1)).flatMap (fun k3 => (List.range (e.getD 2 1)).flatMap (fun k2 =>
    (List.range (e.getD 1 1)).map (fun k1 => tileRow h (o.getD 1 0 + k1) (o.getD 2 0 + k2) (o.getD 3 0 + k3))))
/-- Bytes of a footprint. -/
def footprint (h : Handle) (e0 rows : Nat) : Nat := copyPitch h e0 * rows
/-- The plan of CPY.IN, CPY.OUT and CPY.G (09 R213, R214): outbound sectors with no in-range byte are counted at once. -/
def tilePlan (x : Ctx) (op : Nat) (buf : Buf) (pad : Pad) (at64 : BitVec 13) (h : Handle) (o0 e0 : Nat) (rows : List (Bool × Nat))
    (bar : Option Nat) : CopyPlan :=
  let off := at64.toNat * 64
  let n := footprint h e0 rows.length
  let lo := bufAddr buf x.core + off
  let us := copyUnits h o0 e0 rows
  let empty := if op = 1 then (us.filter (fun u => u.parts.isEmpty)).length else 0
  { kind := .copy op h buf off o0 e0 rows pad [x.core] 0
    plan := fun p b => if op = 1 then planOut p x.owner x.core b h us (restFlits us (fun _ => false)) else planIn p x.owner x.core b h o0 e0 rows pad [x.core] (fun _ => false)
    locks := [(x.core, lo, lo + n)], waits := [], total := n / 64 - empty, counted := empty, bar := bar, fa := BitVec.ofNat 64 h.va }
/-- CPY.IN, CPY.OUT and CPY.G once handle and extents have passed: checks 4 to 6, then the classes. -/
def copyTile (x : Ctx) (op : Nat) (xd xh xb : Reg) (t : Toks) (buf : Buf) (pad : Pad) (at64 : BitVec 13) (h : Handle)
    (o0 e0 : Nat) (rows : List (Bool × Nat)) : Effect :=
  let off := at64.toNat * 64
  let n := footprint h e0 rows.length
  if op = 1 ∧ buf = .wbuf then trapNow .enginePort
  else if bufSize buf < off + n then trapNow .windowInvalid
  else
    match copyBarrier x xb with
    | .error (c, fa) => .fault c fa 0
    | .ok bar =>
      match classOf x h (x.rx xh) with
      | some e => e
      | none => startCopy x xd t (tilePlan x op buf pad at64 h o0 e0 rows bar)
/-- CPY.IN and CPY.OUT. -/
def copyWord (s : State) (h : Head) (opc : BitVec 8) (op : Nat) (xd xh xc xs xb : Reg) (t : Toks) (buf : Buf) (pad : Pad)
    (at64 : BitVec 13) : Outcome :=
  issue s h (copyInfo opc) noOperands (fun x =>
    withHandle x xh [xc, xs, xb] (op == 1) (fun hd =>
      let o := fields16 (x.rx xc)
      let e := fields16 (x.rx xs)
      if extentBad hd o e then trapNow .extentInvalid
      else copyTile x op xd xh xb t buf pad at64 hd (o.getD 0 0) (e.getD 0 1) (tileRowList hd o e)))
/-- CPY.IN (09 R213). -/
def execCpyIn (h : Head) (xd xh xc xs xb : Reg) (t : Toks) (buf : Buf) (pad : Pad) (at64 : BitVec 13) (s : State) : Outcome :=
  copyWord s h 0x30 0 xd xh xc xs xb t buf pad at64
/-- CPY.OUT (09 R213). -/
def execCpyOut (h : Head) (xd xh xc xs xb : Reg) (t : Toks) (buf : Buf) (at64 : BitVec 13) (s : State) : Outcome :=
  copyWord s h 0x31 1 xd xh xc xs xb t buf .handle at64
/-- CPY.G (09 R214): rows by index. -/
def execCpyG (h : Head) (xd xh xc xs xb : Reg) (t : Toks) (buf : Buf) (pad : Pad) (at64 : BitVec 13) (s : State) : Outcome :=
  issue s h (copyInfo 0x32 (Instr.wf (.cpyG h xd xh xc xs xb t buf pad at64))) noOperands (fun x =>
    let v := x.rx xs
    let n := bitsOf v 48 8
    -- only the first n indices are read
    withHandle x xh ((List.range (cdiv (min n 32) 4)).map (fun i => xc + BitVec.ofNat 6 i) ++ [xs, xb]) false (fun hd =>
      let o0 := bitsOf v 0 16
      let e0 := bitsOf v 16 16
      let o2 := bitsOf v 32 16
      if n = 0 ∨ 32 < n ∨ bitsOf v 56 8 ≠ 0 ∨ extentBad hd [o0, 0, o2, 0] [e0, 1, 1, 1] = true then trapNow .extentInvalid
      else
        let idx (j : Nat) : Nat := bitsOf (x.rx (xc + BitVec.ofNat 6 (j / 4))) (16 * (j % 4)) 16
        let rows := (List.range n).map (fun j =>
          let r := tileRow hd (idx j) o2 0
          -- under pad=clamp the nearest in-range row is read in its place
          if pad = .clamp then (true, r.2) else r)
        copyTile x 2 xd xh xb t buf pad at64 hd o0 e0 rows))
/-- The destinations of CPY.MC, or none where its masks fail (09 R215). -/
def multicastDests (x : Ctx) (v : Word) : Option (List Nat) :=
  let cols := (List.range 24).filter (fun c => v.getLsbD c)
  let rows := (List.range 16).filter (fun r => v.getLsbD (24 + r))
  let ds := rows.flatMap (fun y => cols.map (fun c => coreAt c y))
  let mine (d : Nat) : Bool := (x.chip.strandsOf x.st.place.owner).any (fun e => e.1 / 4 == d)
  if cols = [] ∨ rows = [] ∨ bitsOf v 40 2 ≠ 0 ∨ bitsOf v 56 7 ≠ 0 ∨ ds.all mine = false then none else some ds
/-- The plan of CPY.MC (09 R215). -/
def multicastPlan (x : Ctx) (buf : Buf) (pad : Pad) (at64 : BitVec 13) (h : Handle) (o0 e0 : Nat) (rows : List (Bool × Nat))
    (ds : List Nat) (bar : Option Nat) : CopyPlan :=
  let off := at64.toNat * 64
  let n := footprint h e0 rows.length
  { kind := .copy 3 h buf off o0 e0 rows pad ds 0
    plan := fun p b => planIn p x.owner x.core b h o0 e0 rows pad ds (fun _ => false)
    locks := ds.map (fun d => (d, bufAddr buf d + off, bufAddr buf d + off + n)), waits := []
    total := n / 64 * ds.length, counted := 0, bar := bar, fa := BitVec.ofNat 64 h.va }
/-- CPY.MC (09 R215). -/
def execCpyMC (h : Head) (xd xh xc xs xb : Reg) (t : Toks) (buf : Buf) (pad : Pad) (at64 : BitVec 13) (s : State) : Outcome :=
  issue s h (copyInfo 0x33) noOperands (fun x =>
    withHandle x xh [xc, xs, xb] false (fun hd =>
      let o := fields16 (x.rx xc)
      let e := fields16 (x.rx xs)
      let v := x.rx xb
      if extentBad hd o e then trapNow .extentInvalid
      else
        let rows := tileRowList hd o e
        let off := at64.toNat * 64
        let n := footprint hd (e.getD 0 1) rows.length
        let bar := if v.getLsbD 63 then some (bitsOf v 42 14 * 16) else none
        if bufSize buf < off + n then trapNow .windowInvalid
        else
          match multicastDests x v with
          | none => .fault .windowInvalid v 0
          | some ds =>
            match classOf x hd (x.rx xh) with
            | some e => e
            | none =>
              startCopy x xd t (multicastPlan x buf pad at64 hd (o.getD 0 0) (e.getD 0 1) rows ds bar)))
/-- A handle that stands for plain bytes, for copies that use none. -/
def plainHandle (n : Nat) : Handle :=
  { fmt := .n8, ndim := 0, base := 0, dims := [n, 1, 1, 1], strides := [0, 0, 0], padv := 0, key := 0, ilv := 0, va := 0 }
/-- The plan of CPY.LL (09 R216, R220) from offset o of core k's ABUF. -/
def localPlan (x : Ctx) (buf : Buf) (at64 : BitVec 13) (v : Word) (k o n : Nat) (bar : Option Nat) : CopyPlan :=
  let hc := clusterCore x.core k
  let lo := bufAddr buf x.core + at64.toNat * 64
  { kind := .copy 4 (plainHandle n) buf (at64.toNat * 64) 0 n [(true, 0)] .zero [x.core] (abufAddr hc + o)
    plan := fun p b => planLocal p x.owner x.core hc b 0 (n / 64)
    locks := [(x.core, lo, lo + n)]
    waits := if hc = x.core then [(hc, abufAddr hc + o, abufAddr hc + o + n)] else []
    total := n / 64, counted := 0, bar := bar, fa := v }
/-- CPY.LL (09 R216). -/
def execCpyLL (h : Head) (xd xh xs xb : Reg) (t : Toks) (buf : Buf) (at64 : BitVec 13) (s : State) : Outcome :=
  issue s h (copyInfo 0x34) noOperands (fun x =>
    if [xh, xs, xb].any x.px then trapNow .poisonConsumed
    else
      let v := x.rx xh
      let n := bitsOf (x.rx xs) 0 19
      match ptrOf v with
      | .cluster k o =>
        if o % 64 ≠ 0 then .fault .align v 0
        else if bitsOf (x.rx xs) 19 45 ≠ 0 ∨ n % 64 ≠ 0 ∨ n < 64 ∨ 262144 < n then trapNow .extentInvalid
        else if 0x40000 < o + n then .fault .windowInvalid v 0
        else if bufSize buf < at64.toNat * 64 + n then trapNow .windowInvalid
        else
          match copyBarrier x xb with
          | .error (c, fa) => .fault c fa 0
          | .ok bar =>
            if (x.owner.stride .mesh).isNone then .fault .classUnused v 1
            else
              startCopy x xd t (localPlan x buf at64 v k o n bar)
      | _ => .fault .windowInvalid v 0)

/-! ### Steps of a copy -/

/-- The barrier address of a copy's destination. -/
def copyBarAt (k : Work) (op dest : Nat) : Option Nat := if op = 3 then k.barrier.map (· + abufAddr dest) else k.barrier
/-- Sectors landed, the least over destinations (09 R218). DESIGN CHOICE (log 108): sectors of a CPY.OUT that hold no in-range
element, counted at issue, are not among them. -/
def landedOf (k : Work) : Nat :=
  match k.kind with
  | .copy _ h _ _ _ e0 rows _ dests _ =>
    let n := copySectors h e0 rows
    (List.range dests.length).foldl (fun m i => min m (k.landed.countP (fun l => l.1 == i))) n
  | _ => k.landed.length
/-- Ends a copy before its last sector: remaining barrier sectors are counted at once (07 R157; 09 R217), an
error's cause is written in the status. -/
def endCopy (m : Memory) (r : Res) (w : Nat) (k : Work) (s : WorkState) : Res :=
  let left (i : Nat) : Nat := match k.kind with
    | .copy 1 _ _ _ _ _ _ _ _ _ => k.total - k.landed.countP (fun l => l.1 == i)
    | .copy _ h _ _ _ e0 rows _ _ _ => copySectors h e0 rows - k.landed.countP (fun l => l.1 == i)
    | _ => 0
  let (op, dests) := match k.kind with | .copy op _ _ _ _ _ _ _ d _ => (op, d) | _ => (0, [])
  let r := (List.range dests.length).foldl (fun r i =>
    match copyBarAt k op (dests.getD i 0) with
    | none => r
    | some a =>
      let r := countSectors m r (some a) (left i)
      match s with | .error c => barrierStep m r a (fun b => b.fail c) | _ => r) r
  { r with chip := finishWork r.chip w k s }
/-- The byte of a footprint that a landing writes. -/
def landByte (k : Work) (h : Handle) (o0 e0 : Nat) (rows : List (Bool × Nat)) (pad : Pad) (b : Nat) : Byte :=
  let find (a : Nat) : Byte :=
    match k.staged.find? (fun p => decide (p.1 ≤ a) && decide (a < p.1 + p.2.1.length)) with
    | some p => p.2.1.getD (a - p.1) 0#8
    | none => 0#8
  match copySource h o0 e0 rows b with
  | some a => find a
  | none =>
    match pad with
    | .handle => (padBytes h).getD (b % copyPitch h e0 % h.e) 0#8
    | .zero => 0#8
    | .clamp => find (copyClamp h o0 e0 rows b)
/-- Budget units charged for a landed sector (09 R225): 64 bytes moved; of CPY.OUT the in-range bytes count, 64 at a time.
DESIGN CHOICE (log 108): what is left of them at the end, fewer than 64, is not charged. -/
def sectorUnits (k : Work) : Nat :=
  match k.kind with
  | .copy 1 h _ _ o0 e0 rows _ _ _ =>
    let n (l : List (Nat × Nat)) : Nat := (l.map (fun e => if e.1 = 0 then (sectorSources h o0 e0 rows e.2).length else 0)).sum
    n k.landed / 64 - n k.landed.dropLast / 64
  | _ => 1
/-- Keeps of a copy's plan what a sector error leaves of it: nothing moves of the sectors beyond the one in error (09 R218). -/
def Work.stopAt (k : Work) (beyond : Act → Bool) : Work :=
  let gone := (k.steps.filter (fun s => beyond s.act)).map (·.chain)
  let kept := (k.steps.filter (fun s => !beyond s.act && (match s.act with | .mesh _ => false | _ => true))).map (·.chain)
  { k with steps := k.steps.filter (fun s => !beyond s.act && (!gone.contains s.chain || kept.contains s.chain)) }
/-- The footprint sector that a `sectorLands` of an inbound copy is about. -/
def WorkKind.landing : WorkKind → Nat → Nat
  | .copy op h _ _ o0 e0 rows _ _ _, n =>
    if op = 4 then n
    else
      let us := copyUnits h o0 e0 rows
      ((us[n % us.length]?).map (·.sector)).getD 0
  | _, n => n
/-- The same for the sectors that land at a core. -/
def Work.stopAfter (k : Work) (j : Nat) : Work :=
  k.stopAt (fun a => match a with | .sectorLands n => decide (j < k.kind.landing n) | _ => false)
/-- Counts a sector that has landed at a destination, on its barrier and in the account (09 R221, R225). One in error ends
the copy once every destination has it (09 R218; 07 R157), otherwise the last one completes it. -/
def sectorDone (m : Memory) (r : Res) (w : Nat) (k : Work) (dest j : Nat) (bar : Option Nat) (bad : Option Cause := none) : Res :=
  let k := { k with landed := k.landed ++ [(dest, j)] }
  let r := countSectors m { r with chip := r.chip.setWork w k } bar 1
  let r := { r with chip := charge r.chip k.owner (sectorUnits k) }
  let dests := match k.kind with | .copy _ _ _ _ _ _ _ _ d _ => d.length | _ => 1
  match bad with
  | some c =>
    if k.landed.countP (fun l => decide (l.1 < 1000) && l.2 == j) < dests then
      { r with chip := r.chip.setWork w (k.stopAfter j) }
    else endCopy m { r with chip := consume r.chip k c } w k (.error c)
  | none => if k.total ≤ k.landed.countP (fun l => decide (l.1 < 1000)) then { r with chip := finishWork r.chip w k .done } else r
/-- Bytes of engine work land in on-chip storage: what it has read is known to who reads them (06 R111, R112). -/
def landBytes (m : Memory) (r : Res) (k : Work) (a : Nat) (l : List Byte) (bad : Bool) : Res :=
  let c := clockMax k.clock k.shown
  let r := writeHome m { r with chip := applyNamed r.chip c } 0 a l
  let ch := stampClock r.chip a l.length c
  { r with chip := if bad then (linesOf a l.length).foldl (fun ch n => ch.setPoison n true) ch else ch }
/-- What a copy has read holds a byte. -/
def stagedHas (p : Nat × List Byte × Option Cause) (a : Nat) : Bool := decide (p.1 ≤ a) && decide (a < p.1 + p.2.1.length)
/-- A unit of an inbound copy is in at a destination (09 R210, R213, R218, R219): its sector lands once all of its units are in
and what fills it has been read, poisoned when a source of it was in error. A unit that has come is kept as (2000 + destination,
unit) until then. -/
def copyLands (m : Memory) (ch : Chip) (w : Nat) (k : Work) (n : Nat) : Res :=
  let r : Res := { chip := ch, writes := [] }
  match k.kind with
  | .copy op h buf off o0 e0 rows pad dests src =>
    if op = 4 then
      match k.staged.find? (fun p => p.1 == src + 64 * n) with
      | none => r
      | some p => sectorDone m (landBytes m r k (bufAddr buf (dests.getD 0 0) + off + 64 * n) p.2.1 p.2.2.isSome) w k 0 n k.barrier p.2.2
    else
      let us := copyUnits h o0 e0 rows
      let i := n / us.length
      let d := dests.getD i 0
      let sector (u : Nat) : Nat := ((us[u]?).map (·.sector)).getD 0
      let k := { k with landed := k.landed ++ [(2000 + i, n % us.length)] }
      let in_ := (k.landed.filter (fun l => l.1 == 2000 + i)).map (·.2)
      let whole (j : Nat) : Bool :=
        us.zipIdx.all (fun v => v.1.sector != j || in_.contains v.2) &&
          (sectorNeeds h o0 e0 rows pad j).all (fun a => k.staged.any (fun p => stagedHas p a))
      (((in_.map sector).eraseDups).filter whole).foldl (fun r j =>
        match r.chip.work? w with
        | none => r
        | some k =>
          if k.doneBeat.isSome || k.landed.contains (i, j) then r
          else
            let k := { k with landed := k.landed.filter (fun l => !(l.1 == 2000 + i && sector l.2 == j)) }
            let srcs := sectorNeeds h o0 e0 rows pad j
            let bad := (k.staged.filter (fun p => srcs.any (stagedHas p))).findSome? (fun p => p.2.2)
            let bytes := (List.range 64).map (fun b => landByte k h o0 e0 rows pad (64 * j + b))
            sectorDone m (landBytes m r k (bufAddr buf d + off + 64 * j) bytes bad.isSome) w k i j (copyBarAt k op d) bad)
        { r with chip := ch.setWork w k }
  | _ => r
/-- The part of a copy that a channel command or port request moves: first address and bytes. -/
def copyPart (h : Handle) (o0 e0 : Nat) (rows : List (Bool × Nat)) (n : Nat) : Option (Nat × Nat) :=
  ((copyUnits h o0 e0 rows).flatMap (·.parts))[n]?
/-- A channel read or port request of a copy reads its memory sector (06 R411). -/
def copyRead (m : Memory) (ch : Chip) (w : Nat) (k : Work) (n : Nat) : Res :=
  let r : Res := { chip := ch, writes := [] }
  match k.kind with
  | .copy _ h _ _ o0 e0 rows _ _ _ =>
    match copyPart h o0 e0 rows n with
    | none => r
    | some (b, _) =>
      let a := b / 64 * 64
      if ch.releasedAt a then endCopy m r w k (.error .capacityReleased)
      else
        let cell := homeAddr h.ilv a
        let data := decrypt ch (keyOf h.key h.ilv) cell (m.readBytes cell 64)
        let k := { k with staged := k.staged ++ [(a, data, ch.errorAt cell 64)] }
        { r with chip := workSees ch w k 2 cell 64 (knownHome ch cell 64) }
  | _ => r
/-- A part of an outbound copy: its unit and footprint sector, first address and bytes. -/
structure OutPart where
  unit : Nat
  sector : Nat
  addr : Nat
  len : Nat
deriving DecidableEq, Repr
/-- The parts of an outbound copy, in the order of their write commands. -/
def outParts (us : List CopyUnit) : List OutPart :=
  us.zipIdx.flatMap (fun u => u.1.parts.map (fun p => { unit := u.2, sector := u.1.sector, addr := p.1, len := p.2 }))
/-- Source bytes leave ABUF with a flit (06 R411): a sector of CPY.LL, or a unit of CPY.OUT. Beyond a sector in error nothing
leaves. -/
def copyTake (m : Memory) (ch : Chip) (w : Nat) (k : Work) (n : Nat) : Chip :=
  match k.kind with
  | .copy 4 _ _ _ _ _ _ _ _ src =>
    let a := src + 64 * n
    workSees ch w { k with staged := k.staged ++ [(a, m.readBytes a 64, ch.errorAt a 64)] } 2 a 64 (knownHome ch a 64)
  | .copy _ h buf off o0 e0 rows _ _ _ =>
    let us := copyUnits h o0 e0 rows
    match us[n]? with
    | none => ch
    | some u =>
      let a := bufAddr buf k.core + off + 64 * u.sector
      let err := ch.errorAt a 64
      let k := { k with staged := k.staged ++ [(n, m.readBytes a 64, err)] }
      let later (i : Nat) : Bool := match (outParts us)[i]? with | some p => decide (u.sector < p.sector) | none => false
      let beyond (a : Act) : Bool :=
        match a with
        | .takeSource v => (match us[v]? with | some e => decide (u.sector < e.sector) | none => false)
        | .chanWrite _ _ i | .portRequest i | .portAnswer i => later i
        | _ => false
      workSees ch w (if err.isSome then k.stopAt beyond else k) 2 a 64 (knownHome ch a 64)
  | _ => ch
/-- Whether two parts share an aligned 8-byte unit of memory (06 R120). -/
def OutPart.shares (p q : OutPart) : Bool :=
  decide (p.addr / 8 ≤ (q.addr + q.len - 1) / 8) && decide (q.addr / 8 ≤ (p.addr + p.len - 1) / 8)
/-- The bytes of a part: address, and place in its footprint sector. -/
def OutPart.bytes (h : Handle) (o0 e0 : Nat) (rows : List (Bool × Nat)) (p : OutPart) : List (Nat × Nat) :=
  (List.range 64).filterMap (fun i =>
    match copySource h o0 e0 rows (64 * p.sector + i) with
    | some b => if p.addr ≤ b ∧ b < p.addr + p.len then some (b, i) else none
    | none => none)
/-- A write command of CPY.OUT is accepted (23 R378; 06 R118). An aligned 8-byte unit that several commands hold bytes of is
written by the last of them (06 R120). A sector whose source was in error lands poisoned (09 R218). -/
def copyWrite (m : Memory) (ch : Chip) (w : Nat) (k : Work) (n : Nat) : Res :=
  let r : Res := { chip := ch, writes := [] }
  match k.kind with
  | .copy _ h _ _ o0 e0 rows _ _ _ =>
    let parts := outParts (copyUnits h o0 e0 rows)
    match parts[n]? with
    | none => r
    | some me =>
      if ch.releasedAt me.addr then endCopy m r w k (.error .capacityReleased)
      else
        let k := { k with landed := k.landed ++ [(1000 + n, me.sector)] }
        let errUnits := (k.staged.filter (fun p => p.2.2.isSome)).map (·.1)
        let stop := (parts.filter (fun p => errUnits.contains p.unit)).map (·.sector)
        -- parts that come to their write: all, or those up to a sector in error
        let live (p : OutPart) : Bool := stop.all (fun j => decide (p.sector ≤ j))
        let made (i : Nat) : Bool := k.landed.any (fun l => l.1 == 1000 + i)
        let whole (u : Nat) : Bool := parts.zipIdx.all (fun p => made p.2 || !live p.1 || decide ((p.1.addr + p.1.len - 1) / 8 < u) || decide (u < p.1.addr / 8))
        let near := parts.zipIdx.filter (fun p => made p.2 && p.1.shares me)
        let mine (u : Nat) : Bool := decide (me.addr / 8 ≤ u) && decide (u ≤ (me.addr + me.len - 1) / 8) && whole u
        let bytes := near.flatMap (fun p =>
          (p.1.bytes h o0 e0 rows).filterMap (fun b =>
            if mine (b.1 / 8) then some (b.1, ((k.staged.find? (fun s => s.1 == p.1.unit)).map (fun s => s.2.1.getD b.2 0#8)).getD 0#8) else none))
        let bad := near.any (fun p => errUnits.contains p.1.unit)
        let c := clockMax k.clock k.shown
        let r := { r with chip := applyNamed ch c }
        let r := (addrRuns (bytes.map (·.1))).foldl (fun r run =>
          let l := (List.range run.2).map (fun i => ((bytes.find? (fun b => b.1 == run.1 + i)).map (·.2)).getD 0#8)
          let a := homeAddr h.ilv run.1
          let r := writeHome m r (keyOf h.key h.ilv) a l
          if bad then { r with chip := r.chip.setPoison (a / 64) true } else r) r
        let r := { r with chip := r.chip.setWork w k }
        -- the sectors all of whose bytes are written now
        let done (j : Nat) : Bool :=
          !k.landed.contains (0, j) && parts.zipIdx.all (fun p => p.1.sector != j ||
            (made p.2 && parts.zipIdx.all (fun q => made q.2 || !live q.1 || !q.1.shares p.1)))
        ((near.map (·.1.sector)).eraseDups.filter done).foldl (fun r j =>
          match r.chip.work? w with
          | some k =>
            if k.doneBeat.isSome then r
            else sectorDone m r w k 0 j k.barrier ((k.staged.filter (fun s => parts.any (fun p => p.sector == j && p.unit == s.1))).findSome? (fun s => s.2.2))
          | none => r) r
  | _ => r

/-! ### CPY.CANCEL and CPY.STAT -/

/-- CPY.CANCEL tkN (09 R217). -/
def execCpyCancel (h : Head) (tok : BitVec 6) (s : State) : Outcome :=
  issue s h (copyInfo 0x35) noOperands (fun x =>
    let due := (openCopies x).filter (fun e =>
      (tok == 63#6 || x.st.sh.tokens.get? tok.toNat == some e.1))
    .go (due.foldl (fun r e => endCopy x.mem r e.1 e.2 .cancelled) { chip := x.chip, writes := [] }) .next .none)
/-- State word of a copy or a collective (09 R218; 19 R347). -/
def statWord (k : Work) (landed : Nat) : Word :=
  match k.state with
  | .running => BitVec.ofNat 64 (1 + landed * 2 ^ 16)
  | .done => BitVec.ofNat 64 (landed * 2 ^ 16)
  | .error c => BitVec.ofNat 64 (2 + causeCode c * 2 ^ 8 + landed * 2 ^ 16)
  | .cancelled => BitVec.ofNat 64 (3 + landed * 2 ^ 16)
/-- The latest work of a kind of the strand that produced a token. -/
def latestProducer (x : Ctx) (sel : Work → Bool) (tok : BitVec 6) : Option Work :=
  (((x.chip.worksOf x.core x.slot).filter (fun e => sel e.2 && e.2.produces == some tok.toNat)).getLast?).map (·.2)
/-- CPY.STAT xd, tkN (09 R218). -/
def execCpyStat (h : Head) (xd : Reg) (tok : BitVec 6) (s : State) : Outcome :=
  issue s h (copyInfo 0x36) noOperands (fun x =>
    let v : Word :=
      if tok = 63#6 then BitVec.ofNat 64 ((openCopies x).length % 64)
      else
        match latestProducer x Work.isCopy tok with
        | some k => statWord k (landedOf k)
        | none => 0
    x.writeX 1 xd v)

/-! ### Section loads (07 R163, R164) -/

/-- A section load as it starts: n positions from d on are no longer resident, and its work is planned. -/
def startedSecld (x : Ctx) (xd : Reg) (v : Word) (home : Nat) (ents : List TlbEntry) (n : Nat) (sec : BitVec 12) (d : Nat) : Res :=
  let o := x.owner
  let runs := (piecesOf home (12 * n) ents).flatMap (fun p => (sectorRuns p.1 p.2.1).map (fun r => readPlace x.core p.2.2 r.1))
  let t := startBeat x.chip o x.core x.st [] []
  let p := runs.foldl (fun p a => p.ask o 0 x.core t a) (Planner.start x.chip o)
  let (p, rdy) := runs.foldl (fun (acc : Planner × List (Nat × Nat)) a =>
    let (q, e) := acc.1.read o 0 a acc.2.length t
    (q, acc.2 ++ [(e, acc.1.chain)])) (p, [])
  let us := runs.map (fun a => ({ sector := 0, key := chanKey 0 a, parts := [] } : CopyUnit))
  let p := (unitFlits 0 us).foldl (fun p f =>
    (p.flit o (pathFrom 0 (runs.getD (f.headD 0) 0) x.core) (maxOf (f.map (fun u => (rdy.getD u (0, 0)).1))) true []
      (f.map (fun u => .sectorLands u)) (f.map (fun u => (rdy.getD u (0, 0)).2))).1) p
  let pr := promiseOf x.chip o x.st x.q p.last
  let k := { x.work (.secld home ents (12 * n) sec.toNat d) 2 true [] with
    promise := pr, steps := p.steps, total := runs.length, faddr := v, letters := { bits := 0, promised := true } }
  let (ch, w) := (p.finish x.st.place.owner o).addWork k
  let inRange (p : Nat) : Bool := decide (d ≤ p) && decide (p < d + n)
  let pl := x.st.place
  let pl := { pl with absent := pl.absent.filter (fun p => !inRange p) ++ (List.range n).map (· + d),
                      hdrs := pl.hdrs.filter (fun p => !inRange p), coming := d :: pl.coming.filter (fun p => !inRange p) }
  { chip := ch.setStrand x.core x.slot (({ x.st with place := pl }).laterX x.q 1 xd (BitVec.ofNat 64 pr) (some w)), writes := [] }
/-- SECLD xd, xa, sec, dst (07 R163). -/
def execSecld (h : Head) (xd xa : Reg) (sec : BitVec 12) (dst : BitVec 14) (s : State) : Outcome :=
  issue s h (copyInfo 0x38) noOperands (fun x =>
    let v := x.rx xa
    if x.px xa then .fault .poisonConsumed v 0
    else
      match ptrOf v with
      | .global va =>
        if va % 4 ≠ 0 then .fault .align v 0
        else
          -- the header, read with the word, says how long the image is
          match translateGlobal x.chip x.core x.slot x.st va 12 true false v with
          | .fault c fa tv => .fault c fa tv
          | .miss p wr => missStall x p wr
          | .global home ents =>
            let hdrBytes := (piecesOf home 12 ents).flatMap (fun p => readAt x.mem x.chip x.core p.2.2 (readPlace x.core p.2.2 p.1) p.2.1)
            let sc := sectionOf dst (wordOfBytes hdrBytes)
            let n := 1 + sc.len.toNat + (if sc.check then 1 else 0)
            let d := dst.toNat
            let inRange (p : Nat) : Bool := decide (d ≤ p) && decide (p < d + n)
            let active := allSeqs.any (fun q => inRange (x.st.seq q).pc.toNat ||
              (match (x.st.seq q).sec with
               | some k => decide (d ≤ k.lastPos + (if k.check then 1 else 0)) && decide (k.hdr.toNat < d + n)
               | none => false))
            if positions x.st.place.iskb < d + n ∨ active = true then .fault .windowInvalid v 0
            else
              match reachGlobal x.chip x.core x.slot x.st x.owner va (12 * n) true false v with
              | .fault c fa tv => .fault c fa tv
              | .miss p wr => missStall x p wr
              | .global home ents =>
                .go (startedSecld x xd v home ents n sec d) .next .none
              | _ => .fault .windowInvalid v 0
          | _ => .fault .windowInvalid v 0
      | _ => .fault .windowInvalid v 0)
/-- The runs of a section image: memory address, bytes, translation, offset in the image. -/
def secRuns (core home len : Nat) (ents : List TlbEntry) : List (Nat × Nat × TlbEntry) :=
  (piecesOf home len ents).flatMap (fun p => (sectorRuns p.1 p.2.1).map (fun r => (readPlace core p.2.2 r.1, r.2, p.2.2)))
/-- Offset of a run in its image. -/
def runOffset (l : List (Nat × Nat × TlbEntry)) (n : Nat) : Nat := ((l.take n).map (fun r => r.2.1)).sum
/-- A channel read or port request of a section load. -/
def secldRead (m : Memory) (ch : Chip) (w : Nat) (k : Work) (n : Nat) : Chip :=
  match k.kind with
  | .secld home ents len _ _ =>
    match (secRuns k.core home len ents)[n]? with
    | some (a, c, e) =>
      ch.setWork w { k with staged := k.staged ++ [(n, readAt m ch k.core e a c, ch.errorAt a c)] }
    | none => ch
  | _ => ch
/-- Whether every byte of position j of an image has landed, of its runs (n, end) in any order (07 R164). -/
def positionLanded (runs : List (Nat × Nat × TlbEntry)) (landed : List (Nat × Nat)) (j : Nat) : Bool :=
  (List.range runs.length).all (fun n =>
    let off := runOffset runs n
    let len := ((runs[n]?).map (·.2.1)).getD 0
    decide (off + len ≤ j * 12) || decide (j * 12 + 12 ≤ off) || landed.any (·.1 == n))
/-- Image bytes land (07 R164): positions whose twelve bytes are in become resident, in whichever order they land. A header
with another number ends the load in error and no position stays resident. DESIGN CHOICE (log 107): after a load that ended in
error `coming` still names its destination, so a transfer there waits as for a header that is on its way. -/
def secldLand (m : Memory) (ch : Chip) (w : Nat) (k : Work) (n : Nat) : Res :=
  let r : Res := { chip := ch, writes := [] }
  match k.kind with
  | .secld home ents len sec dst =>
    match k.staged.find? (fun p => p.1 == n), ch.strand? k.core k.slot with
    | some (_, bytes, bad), some st =>
      let runs := secRuns k.core home len ents
      let off := runOffset runs n
      let base := istoreAddr k.core + (st.place.fbase + dst) * 12
      let k := { k with landed := k.landed ++ [(n, off + bytes.length)] }
      let here (p : Nat) : Bool := decide (dst ≤ p) && decide (p < dst + len / 12) && positionLanded runs k.landed (p - dst)
      let hdrIn := here dst
      let hdr := wordOfBytes ((Memory.write m (base + off) bytes).readBytes base 12)
      if let some c := bad then { r with chip := finishWork (consume ch k c) w k (.error c) }
      else if hdrIn = true ∧ (sectionOf 0 hdr).num.toNat ≠ sec then
        let inRange (p : Nat) : Bool := decide (dst ≤ p) && decide (p < dst + len / 12)
        let pl := { st.place with absent := st.place.absent.filter (fun p => !inRange p) ++ (List.range (len / 12)).map (· + dst) }
        { chip := finishWork (ch.setStrand k.core k.slot { st with place := pl }) w k (.error .missedPromise), writes := [(base + off, bytes)] }
      else
        let pl := st.place
        let pl := { pl with absent := pl.absent.filter (fun p => !here p),
                            hdrs := if hdrIn = true ∧ pl.hdrs.contains dst = false then dst :: pl.hdrs else pl.hdrs,
                            coming := if hdrIn then pl.coming.filter (fun p => p != dst) else pl.coming }
        let ch := charge ((ch.setStrand k.core k.slot { st with place := pl }).setWork w k) k.owner 1
        { chip := if k.total ≤ k.landed.length then finishWork ch w k .done else ch, writes := [(base + off, bytes)] }
    | _, _ => r
  | _ => r

end Sys2Proof.Machine
end

