-- ==== Sys2Proof/Machine/Load.lean ====
section
/-! DEFINITION. The load engine's words (10 R226 to R245). -/

namespace Sys2Proof.Machine

/-- Bookkeeping of an LD word (10 R227). -/
def ldInfo (opc : BitVec 8) (ok : Bool := true) : Info := { grp := .ld, cls := 9, ok := ok, opc := opc }
/-- Poison of the 64-byte sectors of a buffer run. -/
def sectorPoison (ch : Chip) (a n : Nat) : List Bool := (List.range (n / 64)).map (fun i => (ch.errorAt (a + 64 * i) 64).isSome)
/-- A word that reads bytes in error consumes them at its own time (10 R240). -/
def consumeIf (st : Strand) (q : SeqId) (err : Option Cause) (fa : Word) : Strand :=
  match err with | some c => consumeNow st q c fa | none => st
/-- A fixed-time load of buffer bytes into register space (10 R227, R240): the destination's granules take the
poison of what they receive, and uncorrectable data is a consumption. -/
def fixedVector (x : Ctx) (st : Strand) (dst : Nat) (data : List Byte) (poison : List Bool) (err : Option Cause) (fa : Word) : Strand :=
  consumeIf (st.later x.q 6 (regLands dst data poison)) x.q err fa
/-- The uncorrectable error of register space that reading an operand consumes (10 R240). -/
def Ctx.specError (x : Ctx) (s : Spec) (n : Nat) : Option Cause :=
  if x.chip.sramBadAt (windowBase x.core x.st + x.st.opAddr s) n then some .sramUncorrected else none
/-- The address a vector destination names. -/
def dstOf (x : Ctx) (d : Spec) : Nat := x.st.opAddr d

/-- VLD (10 R235). -/
def execVld (h : Head) (d : Spec) (xa : Reg) (off : BitVec 20) (buf : Buf) (s : State) : Outcome :=
  issue s h (ldInfo 0x40) (operands [vdst d]) (fun x =>
    let o := (x.rx xa).toNat + off.toNat
    let fa := BitVec.ofNat 64 o
    if o % 64 ≠ 0 then .fault .align fa 0
    else if bufSize buf < o + 1024 then .fault .windowInvalid fa 0
    else
      let a := bufAddr buf x.core + o
      x.done (fixedVector x x.st (dstOf x d) (x.mem.readBytes a 1024) (sectorPoison x.chip a 1024) (x.chip.errorAt a 1024) fa))
/-- VBRD.T (10 R235): one element to every element position. -/
def execVbrd (h : Head) (ty : Ty) (d : Spec) (xa : Reg) (off : BitVec 20) (buf : Buf) (s : State) : Outcome :=
  issue s h (ldInfo 0x48 (Instr.wf (.vbrd h ty d xa off buf))) (operands [vdst d]) (fun x =>
    let o := (x.rx xa).toNat + off.toNat
    let e := tySize ty
    let fa := BitVec.ofNat 64 o
    if o % e ≠ 0 then .fault .align fa 0
    else if bufSize buf < o + e then .fault .windowInvalid fa 0
    else
      let a := bufAddr buf x.core + o
      let data := (List.replicate (1024 / e) (x.mem.readBytes a e)).flatten
      let err := x.chip.errorAt a e
      x.done (fixedVector x x.st (dstOf x d) data (List.replicate 16 err.isSome) err fa))
/-- VLDS (10 R236): at the stream's position, which advances by RSTRIDE. -/
def execVlds (h : Head) (d : Spec) (sn : BitVec 4) (s : State) : Outcome :=
  issue s h (ldInfo 0x41) (operands [vdst d]) (fun x =>
    let sr := x.st.stream sn.toNat
    match checkRuns (bufSize sr.buffer) [(sr.at0, 1024)] with
    | some (c, fa) => .fault c fa 0
    | none =>
      let a := bufAddr sr.buffer x.core + sr.at0
      let st := fixedVector x x.st (dstOf x d) (x.mem.readBytes a 1024) (sectorPoison x.chip a 1024) (x.chip.errorAt a 1024)
        (BitVec.ofNat 64 sr.at0)
      x.done (st.later x.q 1 [.posAdd sn.toNat sr.rstride.toNat]))
/-- Incomplete promised loads of LD (10 R237), without those that a kill has cancelled (10 R240): those whose bytes have not landed, which they do at the promised τ or, when
the answer is late, with it. -/
def openLoads (x : Ctx) : Nat :=
  ((x.chip.worksOf x.core x.slot).filter (fun e => e.2.q == .ld && e.2.letters.promised &&
    e.2.state != .cancelled && (e.2.doneBeat.isNone || decide (x.tau < e.2.promise)))).length
/-- VLDP and VLD.S (10 R237, R238). -/
def vloadWord (s : State) (h : Head) (opc : BitVec 8) (spec : Bool) (d : Spec) (xa xb : Reg) (off : BitVec 32) : Outcome :=
  issue s h (ldInfo opc) (operands [vdst d]) (fun x =>
    let v := x.rx xa
    let o := off.toInt
    let fa := ptrAdd v o
    let dst := dstOf x d
    let xbAt (st : Strand) (n : Nat) : Strand := st.laterX x.q 1 xb (BitVec.ofNat 64 (x.tau + n))
    let poisonAll : Effect :=
      .go { chip := dropWalks (x.chip.setStrand x.core x.slot
              (xbAt (x.st.later x.q 6 [.granules (dst / 64) (List.replicate 16 true)]) 6)) x.core x.slot, writes := [] } .next .none
    let promised (home : Nat) (ents : List TlbEntry) (hc : Nat) : Effect :=
      if 16 ≤ openLoads x then .block (some .queueImbalance) .none x.chip
      else
        let (ch, w, pr) := startAccess x (.vload dst spec) home ents hc true fa
        .go { chip := ch.setStrand x.core x.slot (x.st.laterX x.q 1 xb (BitVec.ofNat 64 pr) (some w)), writes := [] } .next .none
    match reach x v o 1024 64 true false with
    | .fault c fa tv => if spec then poisonAll else .fault c fa tv
    | .miss p wr => missStall x p wr
    | .priv a =>
      let err := if x.chip.sramBadAt (windowBase x.core x.st + a) 1024 then some Cause.sramUncorrected else none
      let bits := x.st.granuleBits a 1024
      if spec && (bits.any id || err.isSome) then poisonAll
      else x.done (xbAt (consumeIf (x.st.later x.q 1 (regLands dst (x.mem.readBytes (windowBase x.core x.st + a) 1024) bits)) x.q err fa) 1)
    | .scratch b a =>
      let home := scratchAddr x.core b a
      let bits := sectorPoison x.chip home 1024
      if spec && bits.any id then poisonAll
      else x.done (xbAt (fixedVector x x.st dst (x.mem.readBytes home 1024) bits (x.chip.errorAt home 1024) fa) 6)
    | .chip c a => promised (abufAddr c + a) [] c
    | .global home ents => promised home ents x.core)
/-- VLDP (10 R237). -/
def execVldp (h : Head) (d : Spec) (xa xb : Reg) (off : BitVec 32) (s : State) : Outcome := vloadWord s h 0x42 false d xa xb off
/-- VLD.S (10 R238). -/
def execVldS (h : Head) (d : Spec) (xa xb : Reg) (off : BitVec 32) (s : State) : Outcome := vloadWord s h 0x43 true d xa xb off
/-- The sixteen indices of a 32-byte element (10 R239; 11 R254). -/
def indices16 (l : List Byte) : List Nat := (List.range 16).map (fun k => elem l k 2)
/-- VGATH (10 R239). -/
def execVgath (h : Head) (d i : Spec) (sn : BitVec 4) (s : State) : Outcome :=
  issue s h (ldInfo 0x44) (operands [vdst d, esrc i 5]) (fun x =>
    let sr := x.st.stream sn.toNat
    let starts := (indices16 (x.readOp i 32)).map sr.row
    if x.st.poisonedRange (x.st.opAddr i) 32 then trapNow .poisonConsumed
    else if sr.buffer = .wbuf then trapNow .enginePort
    else
      match checkRuns (bufSize .abuf) (starts.map (fun a => (a, 64))) with
      | some (c, fa) => .fault c fa 0
      | none =>
        let at_ := starts.map (fun a => abufAddr x.core + a)
        x.done (fixedVector x x.st (dstOf x d) (at_.flatMap (fun a => x.mem.readBytes a 64)) (at_.map (fun a => (x.chip.errorAt a 64).isSome))
          ((x.specError i 32).or (at_.findSome? (fun a => x.chip.errorAt a 64)))
          (if (x.specError i 32).isSome then noAddr .sramUncorrected else BitVec.ofNat 64 ((starts.find? (fun a => (x.chip.errorAt (abufAddr x.core + a) 64).isSome)).getD 0))))
/-- QIX (10 R241). -/
def execQix (h : Head) (i : Spec) (s : State) : Outcome :=
  issue s h (ldInfo 0x45) (operands [esrc i 6]) (fun x =>
    if x.st.poisonedRange (x.st.opAddr i) 64 then trapNow .poisonConsumed
    else if 8 ≤ x.st.sh.q0.length then .block (some .queueImbalance) .none x.chip
    else
      let l := x.readOp i 64
      x.done (consumeIf (x.st.later x.q 1 [.push0 ((List.range 32).map (fun k => BitVec.ofNat 16 (elem l k 2)))]) x.q
        (x.specError i 64) (noAddr .sramUncorrected)))
/-- SCL.A and SCL.B (10 R242). -/
def sclWord (s : State) (h : Head) (opc : BitVec 8) (ok isB : Bool) (xa : Reg) (sl : BitVec 4) (n : BitVec 6) (g c : BitVec 16) : Outcome :=
  issue s h (ldInfo opc ok) noOperands (fun x =>
    let v := x.rx xa
    let (g, c) := if xa = 0#6 then (g.toNat, c.toNat) else (bitsOf v 16 16, bitsOf v 0 16)
    let sr := x.st.stream sl.toNat
    let a := sr.sbase.toNat + g * sr.sstride.toNat + c
    let fa := BitVec.ofNat 64 a
    let held := if isB then x.st.sh.q2.length + x.st.sh.q2out.sum else x.st.sh.q1.length + x.st.sh.q1out.sum
    let home := bufAddr sr.buffer x.core + a
    if xa ≠ 0#6 ∧ bitsOf v 32 32 ≠ 0 then trapNow .illRsvd
    else if bufSize sr.buffer < a + n.toNat then .fault .streamRange fa 0
    else if 512 < held + n.toNat then .block (some .queueImbalance) .none x.chip
    else
      let data := x.mem.readBytes home n.toNat
      let sh := x.st.sh
      let sh := if isB then { sh with q2out := sh.q2out ++ [n.toNat] } else { sh with q1out := sh.q1out ++ [n.toNat] }
      let st := { x.st with sh := sh }.later x.q 6 [if isB then .push2 data else .push1 data]
      x.done (consumeIf st x.q (x.chip.errorAt home n.toNat) fa))
/-- SCL.A. -/
def execSclA (h : Head) (xa : Reg) (sl : BitVec 4) (n : BitVec 6) (g c : BitVec 16) (s : State) : Outcome :=
  sclWord s h 0x46 (Instr.wf (.sclA h xa sl n g c)) false xa sl n g c
/-- SCL.B. -/
def execSclB (h : Head) (xa : Reg) (sl : BitVec 4) (n : BitVec 6) (g c : BitVec 16) (s : State) : Outcome :=
  sclWord s h 0x47 (Instr.wf (.sclB h xa sl n g c)) true xa sl n g c

end Sys2Proof.Machine
end

