-- ==== Sys2Proof/Machine/Store.lean ====
section
/-! DEFINITION. The store engine's words and the write lane (11 R246 to R261; 06 R116). -/

namespace Sys2Proof.Machine

/-- Bookkeeping of a register-space store, and of a lane word (08 R202). -/
def stInfo (opc : BitVec 8) (ok : Bool := true) : Info := { grp := .st, cls := 9, ok := ok, opc := opc }
def laneInfo (opc : BitVec 8) (ok : Bool := true) : Info := { grp := .st, cls := 13, ok := ok, opc := opc }

/-! ### Direct stores -/

/-- VST (11 R252). -/
def execVst (h : Head) (a : Spec) (xb : Reg) (off : BitVec 20) (buf : Buf) (s : State) : Outcome :=
  issue s h (stInfo 0x50) (operands [vsrc a]) (fun x =>
    let o := (x.rx xb).toNat + off.toNat
    let fa := BitVec.ofNat 64 o
    if x.st.poisonedRange (x.st.opAddr a) 1024 then trapNow .poisonStore
    else if buf = .wbuf then trapNow .enginePort
    else if o % 64 ≠ 0 then .fault .align fa 0
    else if bufSize .abuf < o + 1024 then .fault .windowInvalid fa 0
    else x.done (x.st.later x.q 1 [.bytes (abufAddr x.core + o) (x.readOp a 1024)]))
/-- VSCAT (11 R254): when pieces overlap the higher one stands. -/
def execVscat (h : Head) (sn : BitVec 4) (a i : Spec) (s : State) : Outcome :=
  issue s h (stInfo 0x52) (operands [vsrc a, esrc i 5]) (fun x =>
    let sr := x.st.stream sn.toNat
    let starts := (indices16 (x.readOp i 32)).map sr.row
    if x.st.poisonedRange (x.st.opAddr a) 1024 || x.st.poisonedRange (x.st.opAddr i) 32 then trapNow .poisonStore
    else if sr.buffer = .wbuf then trapNow .enginePort
    else
      match checkRuns (bufSize .abuf) (starts.map (fun b => (b, 64))) with
      | some (c, fa) => .fault c fa 0
      | none =>
        let src := x.readOp a 1024
        x.done (x.st.later x.q 1 (starts.mapIdx (fun k b => .bytes (abufAddr x.core + b) (chunk src k 64)))))

/-! ### The lane's tests (11 R248, R249) -/

/-- BUDGET of a strand: 0 where the owner holds no WLANE slots (11 R249). -/
def laneBudget (o : Owner) (l : Lane) : Nat := if (o.stride .wlane).isNone then 0 else l.lanebud.toNat % 2 ^ 32
/-- LOGW, BPWAIT and BUDTRAP. -/
def laneLogw (l : Lane) : Nat := bitsOf l.lanebud 32 5
def laneBpwait (l : Lane) : Nat := bitsOf l.lanebud 40 16
def laneBudtrap (l : Lane) : Bool := l.lanebud.getLsbD 56
/-- The budget test, then the queue test, for a store of n staged bytes; none when both pass. -/
def laneTest (x : Ctx) (n : Nat) : Option Effect :=
  let l := x.st.lane
  let c := cdiv n 32
  let (fullTaken, budgetTaken) := match x.sq.wait with | .laneRetry f b _ => (f, b) | _ => (false, false)
  let full := decide (16 ≤ l.queue.length) || decide (16384 < l.queue.foldl (fun t e => t + e.staged) 0 + n)
  if l.brem < c then
    if laneBudget x.owner l < c then some (trapNow .wlaneBudget)
    else if laneBudtrap l && !budgetTaken then some (trapNow .wlaneBudget)
    else some (.block none x.sq.wait x.chip)
  else if full then
    if fullTaken then some (.block none x.sq.wait x.chip)
    else
      let since := match x.sq.wait with | .laneFull t | .laneRetry _ _ (some t) => t | _ => x.tau
      if since + laneBpwait l ≤ x.tau then some (trapNow .wlaneBackpressure)
      else some (.block none (if budgetTaken then .laneRetry false true (some since) else .laneFull since) x.chip)
  else none

/-! ### Flits of a lane store (11 R247) -/

/-- The translation of the page that a byte of a pointer's store lies on. -/
def entryAt (ents : List TlbEntry) (a : Nat) : Option TlbEntry := ents.find? (fun e => decide (e.frame ≤ a) && decide (a < e.frame + 65536))
/-- Where a byte of a lane store is sent: on a replicated page to the replica of its sequencer die (06 R114). -/
def lanePlace (ents : List TlbEntry) (a : Nat) : Nat := match entryAt ents a with | some e => storePlace e a | none => a
/-- Bytes of a store in flits: at most 128 bytes of the footprint, of one channel by `key`; answers the ends. -/
def laneCuts (key : Nat → Nat) : List (Option Nat × Byte) → Nat → Nat → Option Nat → List Nat
  | [], i, n, _ => if n = 0 then [] else [i]
  | (a, _) :: t, i, n, ch =>
    let k := a.map key
    if n = 128 then i :: laneCuts key t (i + 1) 1 k
    else
      match ch, k with
      | some c, some k => if c = k then laneCuts key t (i + 1) (n + 1) ch else i :: laneCuts key t (i + 1) 1 (some k)
      | some _, none => laneCuts key t (i + 1) (n + 1) ch
      | none, _ => laneCuts key t (i + 1) (n + 1) k
/-- The flits as ranges of footprint bytes. -/
def laneFlits (ilv : Nat) (ents : List TlbEntry) (bs : List (Option Nat × Byte)) : List (Nat × Nat) :=
  let ends := laneCuts (fun a => chanKey ilv (lanePlace ents a)) bs 0 0 none
  List.zipWith (fun a b => (a, b)) (0 :: ends) ends
/-- The in-range bytes of a flit. -/
def flitBytes (bs : List (Option Nat × Byte)) (f : Nat × Nat) : List (Nat × Byte) :=
  ((bs.drop f.1).take (f.2 - f.1)).filterMap (fun e => e.1.map (fun a => (a, e.2)))
/-- The memory sectors of a flit: first address, and the bytes with their addresses. -/
def flitParts (l : List (Nat × Byte)) : List (Nat × List (Nat × Byte)) :=
  (groupRuns (l.mapIdx (fun i e => (e.1 / 64, i)))).map (fun g =>
    let es := g.2.filterMap (fun i => l[i]?)
    ((es.head?.map (·.1)).getD 0, es))
/-- Every part of a store, with its flit. -/
def laneParts (ilv : Nat) (ents : List TlbEntry) (onChip : Bool) (bs : List (Option Nat × Byte)) : List (Nat × Nat × List (Nat × Byte)) :=
  ((laneFlits ilv ents bs).mapIdx (fun i f =>
    let l := flitBytes bs f
    if l.isEmpty then [] else if onChip then [(i, (l.head?.map (·.1)).getD 0, l)] else (flitParts l).map (fun p => (i, p.1, p.2)))).flatten

/-! ### Issuing a lane store -/

/-- The work of a lane store, with the number it takes: it follows earlier accesses to the same bytes (06 R107). -/
def Ctx.laneWork (x : Ctx) (bs : List (Option Nat × Byte)) (ilv key : Nat) (ents : List TlbEntry) (onChip : Bool) (fa : Word) : Work :=
  let k := x.work (.laneStore (x.st.lane.wissued + 1) bs ilv key ents onChip) 1 false []
  { k with faddr := fa, after := earlierOverlaps x k.runs, total := (laneParts ilv ents onChip bs).length }
/-- A lane store of n staged bytes takes its number and its place in the queue (11 R247, R256). -/
def laneIssue (x : Ctx) (xd : Reg) (n : Nat) (k : Work) : Strand × Chip × Nat :=
  let l := x.st.lane
  let num := l.wissued + 1
  let (ch, w) := x.chip.addWork k
  let e : LaneStore := { num := num, work := w, staged := n, beats := cdiv n 32, sent := 0, notBefore := x.owner.clock x.now + 1 }
  let st := { x.st with lane := { l with wissued := num, brem := l.brem - cdiv n 32, queue := l.queue ++ [e] } }
  (st.laterX x.q 1 xd (BitVec.ofNat 64 num), ch, w)
/-- A lane store as it starts. -/
def startedLane (x : Ctx) (xd : Reg) (n : Nat) (bs : List (Option Nat × Byte)) (ilv key : Nat) (ents : List TlbEntry) (onChip : Bool)
    (fa : Word) : Res :=
  let (st, ch, _) := laneIssue x xd n (x.laneWork bs ilv key ents onChip fa)
  { chip := ch.setStrand x.core x.slot st, writes := [] }
/-- A lane store of a strand's own word, after its tests. -/
def laneGo (x : Ctx) (xd : Reg) (n : Nat) (bs : List (Option Nat × Byte)) (ilv key : Nat) (ents : List TlbEntry) (onChip : Bool)
    (fa : Word) : Effect :=
  .go (startedLane x xd n bs ilv key ents onChip fa) .next .none
/-- Addresses of the bytes of a run at a home. -/
def runBytes (home : Nat) (ents : List TlbEntry) (l : List Byte) : List (Option Nat × Byte) :=
  match ents with
  | [] => l.mapIdx (fun i b => (some (home + i), b))
  | _ =>
    let addrs := (piecesOf home l.length ents).flatMap (fun p => (List.range p.2.1).map (· + p.1))
    List.zipWith (fun a b => (some a, b)) addrs l
/-- A lane store through a cluster-shared or global pointer: lane tests, translation, the store. -/
def lanePointer (x : Ctx) (xd : Reg) (fa : Word) (t : Target) (data : List Byte) : Effect :=
  match laneTest x data.length with
  | some e => e
  | none =>
    match t with
    | .cluster c o =>
      if (x.owner.stride .mesh).isNone then .fault .classUnused fa 1
      else laneGo x xd data.length (runBytes (abufAddr c + o) [] data) 0 0 [] true fa
    | .global va =>
      match reachGlobal x.chip x.core x.slot x.st x.owner va data.length false true fa with
      | .global home ents => laneGo x xd data.length (runBytes home ents data) 0 0 ents false fa
      | .miss p wr => missStall x p wr
      | .fault c f tv => .fault c f tv
      | _ => .fault .windowInvalid fa 0
    | _ => .fault .windowInvalid fa 0
/-- VSTP (11 R253). -/
def execVstp (h : Head) (xd : Reg) (a : Spec) (xb : Reg) (off : BitVec 32) (s : State) : Outcome :=
  issue s h (stInfo 0x51) (operands [vsrc a]) (fun x =>
    let v := x.rx xb
    let o := off.toInt
    let fa := ptrAdd v o
    let data := x.readOp a 1024
    let num := Land.x x.q (x.st.regNo x.q xd) (BitVec.ofNat 64 x.st.lane.wissued) none false
    if x.st.poisonedRange (x.st.opAddr a) 1024 then trapNow .poisonStore
    else
      match checkPtr x.core x.st v o 1024 64 true with
      | .error (c, p) => .fault c p 0
      | .ok (.priv a) => x.done (x.st.later x.q 1 (regLands a data (List.replicate 16 false) ++ [num]))
      | .ok (.scratch _ a) => x.done (x.st.later x.q 1 [.bytes (abufAddr x.core + a) data, num])
      | .ok t => lanePointer x xd fa t data)
/-- WST.G (11 R255, R256). -/
def execWstG (h : Head) (xd xh xs : Reg) (src : Spec) (s : State) : Outcome :=
  issue s h (laneInfo 0x53) (operands [vsrc src]) (fun x =>
    let v := x.rx xh
    let f := bitsOf (x.rx xs) 0 11
    -- the windows the word admits, then steps 2 and 5 of R142
    let own : Bool := match ptrOf v with | .cluster _ _ | .global _ => false | _ => true
    if own then .fault .windowInvalid v 0 else
    match checkPtr x.core x.st v 0 (max 64 (min f 1024)) 64 with
    | .error (c, p) => .fault c p 0
    | .ok t =>
      if bitsOf (x.rx xs) 11 53 ≠ 0 ∨ f < 64 ∨ 1024 < f ∨ f % 64 ≠ 0 then trapNow .extentInvalid
      else if x.st.poisonedRange (x.st.opAddr src) f then trapNow .poisonStore
      else lanePointer x xd v t (x.readOp src f))
/-- Checks 1 of R256 on a handle, WRITE required. -/
def laneHandle (x : Ctx) (xh : Reg) (k : Handle → Effect) : Effect :=
  match readHandle x.mem x.chip (x.chip.part x.owner.part) x.st.place.owner (x.rx xh) with
  | none => .fault .handleInvalid (x.rx xh) 0
  | some (h, _, wr) => if !wr then .fault .handlePerm (x.rx xh) 0 else k h
/-- WST to a handle tile (11 R256). -/
def execWst (h : Head) (xd xh xc xs : Reg) (src : Spec) (s : State) : Outcome :=
  issue s h (laneInfo 0x53) (operands [vsrc src]) (fun x =>
    laneHandle x xh (fun hd =>
      let o := fields16 (x.rx xc)
      let e := fields16 (x.rx xs)
      let n := footprint hd (e.getD 0 1) (e.getD 1 1 * e.getD 2 1 * e.getD 3 1)
      if extentBad hd o e || decide (1024 < n) then trapNow .extentInvalid
      else if x.st.poisonedRange (x.st.opAddr src) n then trapNow .poisonStore
      else
        match laneTest x n with
        | some e => e
        | none =>
          match classOf x hd (x.rx xh) with
          | some e => e
          | none =>
            let rows := tileRowList hd o e
            let data := x.readOp src n
            let bs := data.mapIdx (fun i b => (copySource hd (o.getD 0 0) (e.getD 0 1) rows i, b))
            laneGo x xd n bs hd.ilv hd.key [] false (BitVec.ofNat 64 hd.va)))
/-- Element size of a WSTC destination. -/
def wstcSize (ty : Ty) : Nat := tySize ty
/-- The matrix-engine checks of 14 R294. -/
def matrixPort (x : Ctx) (tiles : List (BitVec 6)) : Option Effect :=
  if x.st.place.ctmask = 0#32 then some (trapNow .enginePort)
  else if tiles.all (fun c => x.st.place.ctmask.getLsbD c.toNat) then none else some (trapNow .windowInvalid)
/-- t_d as planned at issue (11 R257; 14 R310): `total` 1 in the work says it stands; otherwise it is fixed in the
beat after every consumed token's work is complete. -/
def drainDue (x : Ctx) (after : List Nat) (nochk : Bool) : Nat :=
  (after.map (fun w => match x.chip.work? w with | some k => k.freeTau | none => 0)).foldl max x.tau + (if nochk then 16 else 20)
/-- A WSTC as it starts: its lane store takes its number, after earlier stores to its footprint and with what its tokens
carry (06 R107, R117), and its drain is planned. -/
def startedWstc (x : Ctx) (xd : Reg) (t : Toks) (c : BitVec 6) (ty : Ty) (rnd : Rnd) (ovf : Ovf) (nochk : Bool) (hd : Handle)
    (o : List Nat) : Res :=
  let after := consumed x t
  let drain := { x.engineWork t (.wstc 0 c.toNat hd o ty rnd ovf nochk x.st.csr.frm) 3 false after with
    faddr := BitVec.ofNat 64 hd.va, promise := drainDue x after nochk, total := if after.isEmpty then 1 else 0 }
  let lane := { x.laneWork [] hd.ilv hd.key [] false (BitVec.ofNat 64 hd.va) with after := earlierOverlaps x drain.runs }
  let (st, ch, lw) := laneIssue x xd (1024 * wstcSize ty) { lane with cons := producers x t, clock := clockMax lane.clock (tokenClock x t) }
  let k := { drain with kind := .wstc lw c.toNat hd o ty rnd ovf nochk x.st.csr.frm }
  let (ch, w) := ch.addWork k
  { chip := ch.setStrand x.core x.slot (produce st t w), writes := [] }
/-- The rest of a word's checks and its effect, once its ring tokens are there (04 R70 step 6; 14 R294). -/
def Ctx.afterRings (x : Ctx) (h : Head) (e : Effect) : Effect :=
  if x.st.sh.rings.ready x.q h then e else .block (some .tokenOverflow) x.sq.wait x.chip
/-- WSTC (11 R257): numbered at issue; its tile is read at the drain beat (event WSTC_DRAIN). -/
def execWstc (h : Head) (xd xh xc : Reg) (t : Toks) (c : BitVec 6) (ty : Ty) (rnd : Rnd) (ovf : Ovf) (nochk : Bool) (s : State) : Outcome :=
  issue s h { laneInfo 0x54 (Instr.wf (.wstc h xd xh xc t c ty rnd ovf nochk)) with late := true } noOperands (fun x =>
    match matrixPort x [c] with
    | some e => e
    | none =>
      x.afterRings h (laneHandle x xh (fun hd =>
        let o := fields16 (x.rx xc)
        if hd.fmt ≠ ty then .fault .handleInvalid (x.rx xh) 0
        else if extentBad hd o [32, 32, 1, 1] then trapNow .extentInvalid
        else
          match laneTest x (1024 * wstcSize ty) with
          | some e => e
          | none =>
            match classOf x hd (x.rx xh) with
            | some e => e
            | none =>
              .go (startedWstc x xd t c ty rnd ovf nochk hd o) .next .none)))
/-- WDRAIN xa (11 R258). -/
def execWdrain (h : Head) (xa : Reg) (s : State) : Outcome :=
  issue s h (laneInfo 0x55) noOperands (fun x =>
    let v := (x.rx xa).toNat
    if x.st.lane.wissued < v then trapNow .queueImbalance
    else if v ≤ x.st.lane.wdone then x.nothing else .block none .none x.chip)
/-- WBUD xd (11 R258). -/
def execWbud (h : Head) (xd : Reg) (s : State) : Outcome :=
  issue s h (laneInfo 0x56) noOperands (fun x =>
    x.writeX 1 xd (BitVec.ofNat 64 (x.st.lane.brem + (16 - x.st.lane.queue.length) * 2 ^ 32)))
/-- Whether work is a lane store. -/
def Work.isLane (k : Work) : Bool := match k.kind with | .laneStore _ _ _ _ _ _ => true | _ => false
/-- WFENCE.scope (11 R258; 06 R116). -/
def execWfence (h : Head) (scope : Scope) (s : State) : Outcome :=
  issue s h { laneInfo 0x57 with late := true } noOperands (fun x => fenceBody x h Work.isLane scope 0x40#7 0x3F#6)

/-! ### The lane at run time -/

/-- A lane store performed at lane scope; WDONE follows in number order (06 R116). -/
def lanePerformed (ch : Chip) (w : Nat) (k : Work) : Chip :=
  match k.kind with
  | .laneStore num _ _ _ _ _ =>
    (finishWork ch w k .done).onStrand k.core k.slot (fun st => { st with lane := { st.lane with performed := num :: st.lane.performed } })
  | _ => ch
/-- WDONE after what has been performed: the highest number with every lower one performed. -/
def Lane.settle (l : Lane) : Lane :=
  let d := (List.range l.performed.length).foldl (fun d _ => if l.performed.contains (d + 1) then d + 1 else d) l.wdone
  { l with wdone := d, performed := l.performed.filter (fun n => decide (d < n)) }
/-- Stores at the head of the queue that have sent all their beats leave it. -/
def dropSent : List LaneStore → List LaneStore
  | [] => []
  | e :: t => if e.sent = e.beats then dropSent t else e :: t
/-- Completes a lane store when its home has accepted its last byte; one with no byte in range when its beats are sent. -/
def laneCheck (ch : Chip) (w : Nat) : Chip :=
  match ch.work? w with
  | none => ch
  | some k =>
    let queued := match ch.strand? k.core k.slot with | some st => st.lane.queue.any (fun e => e.work == w) | none => false
    if (!queued || decide (0 < k.total)) && k.doneBeat.isNone && decide (k.total ≤ k.landed.length) then lanePerformed ch w k else ch
/-- Plans a flit whose last lane beat is sent: its mesh steps and its write commands. -/
def planLaneFlit (ch : Chip) (w : Nat) (k : Work) (fi : Nat) : Chip :=
  match k.kind with
  | .laneStore _ bs ilv _ ents onChip =>
    let o := ch.owner k.owner
    let parts := (laneParts ilv ents onChip bs).mapIdx (fun i p => (i, p))
    let mine := parts.filter (fun p => p.2.1 == fi)
    match mine with
    | [] => ch
    | (i0, (_, a, _)) :: _ =>
      let sent := 1000 * (fi + 1)
      let p0 := { Planner.start ch o with chain := sent }
      let t := o.clock ch.gts + 1
      let p := if onChip then (p0.flit o (route k.core ((a - 2 ^ 48) / 2 ^ 21)) t false [] [.sectorLands i0]).1
        else
          let (p, e) := p0.flit o (pathTo ilv k.core (lanePlace ents a)) t false [] []
          mine.foldl (fun p x => (p.write o ilv (lanePlace ents x.2.2.1) x.1 (e + 1) [sent]).1) p
      (p.finish k.owner o).setWork w { k with steps := k.steps ++ p.steps }
  | _ => ch
/-- LANE_BEAT (11 R247): the store at the head of a strand's queue sends one 32-byte beat in an owned WLANE
slot; flits whose last beat it was are planned. -/
def execLaneBeat (core slot : Nat) (s : State) : Outcome :=
  match s.chip.strand? core slot with
  | none => .next s
  | some st =>
    let o := s.chip.owner st.place.owner
    let now := o.clock s.chip.gts
    match st.lane.queue with
    | e :: rest =>
      match s.chip.work? e.work with
      | some k =>
        match k.kind with
        | .laneStore _ bs ilv _ ents _ =>
          if o.frozenAt s.chip.gts || !o.ownsAt .wlane now || decide (now < e.notBefore) || bs.isEmpty then .next s
          else
            let e2 := { e with sent := e.sent + 1 }
            let q := dropSent (e2 :: rest)
            let ch := s.chip.setStrand core slot { st with lane := { st.lane with queue := q } }
            let upto := min (32 * e2.sent) bs.length
            let due := (laneFlits ilv ents bs).zipIdx.filter (fun f => decide (32 * e.sent < f.1.2) && decide (f.1.2 ≤ upto))
            let ch := due.foldl (fun ch f => match ch.work? e.work with | some k => planLaneFlit ch e.work k f.2 | none => ch) ch
            .next (s.keep (laneCheck ch e.work))
        | _ => .next s
      | none => .next s
    | [] => .next s
/-- The bytes that the acceptance of part n of a lane store writes, after parts accepted before it, in runs: an aligned 8-byte
unit that several parts hold bytes of is written by the last of them (06 R120). -/
def acceptedRuns (parts : List (Nat × Nat × List (Nat × Byte))) (accepted : Nat → Bool) (n : Nat) : List (Nat × List Byte) :=
  match parts[n]? with
  | none => []
  | some (_, _, l) =>
    let holds (u : Nat) (p : Nat × Nat × List (Nat × Byte)) : Bool := p.2.2.any (fun b => b.1 / 8 == u)
    let whole (u : Nat) : Bool := parts.zipIdx.all (fun p => p.2 == n || accepted p.2 || !holds u p.1)
    let mine (u : Nat) : Bool := l.any (fun b => b.1 / 8 == u) && whole u
    let bytes := (parts.zipIdx.filter (fun p => p.2 == n || accepted p.2)).flatMap (fun p =>
      p.1.2.2.filter (fun b => mine (b.1 / 8)))
    (addrRuns (bytes.map (·.1))).map (fun r =>
      (r.1, (List.range r.2).map (fun i => ((bytes.find? (fun b => b.1 == r.1 + i)).map (·.2)).getD 0)))
/-- A part of a lane store accepted at its home (11 R247). -/
def laneAccept (m : Memory) (ch : Chip) (w : Nat) (k : Work) (n : Nat) : Res :=
  let r : Res := { chip := ch, writes := [] }
  match k.kind with
  | .laneStore _ bs ilv key ents onChip =>
    let parts := laneParts ilv ents onChip bs
    let plain : TlbEntry := { owner := k.owner, page := 0, frame := 0, r := true, w := true, repl := false, mig := false, peer := false, key := keyOf key ilv, leaf := 0 }
    let (r, k) := (acceptedRuns parts (fun i => k.landed.contains (0, i)) n).foldl (fun (acc : Res × Work) run =>
      let ent : Option TlbEntry := if onChip then none else some ((entryAt ents run.1).getD plain)
      let r := match ent with
        | some e => if ents.isEmpty then acc.1 else { acc.1 with chip := countHot acc.1.chip k.core e (storePlace e run.1) }
        | none => acc.1
      -- what reaches a released extent is not written, and the cause is raised once (23 R388)
      if !onChip && r.chip.releasedAt run.1 then
        ({ r with chip := r.chip.onStrand k.core k.slot (fun st =>
            let t := workTrap k .capacityReleased k.faddr 0
            if st.traps.contains t then st else { st with traps := st.traps ++ [t] }) }, acc.2)
      else performStore m r acc.2 ent (if onChip then run.1 else homeAddr ilv run.1) run.2) (r, k)
    let bytes (ls : List (Nat × Nat)) : Nat := (ls.map (fun e => ((parts[e.2]?).map (fun p => p.2.2.length)).getD 0)).sum
    let k2 := { k with landed := k.landed ++ [(0, n)] }
    -- the account is charged for each 64 lane bytes performed
    { r with chip := laneCheck (charge (r.chip.setWork w k2) k.owner (bytes k2.landed / 64 - bytes k.landed / 64)) w }
  | _ => r
/-- B_rem := BUDGET as the strand beat starts, so that WLQ reports it too (11 R249, R250). -/
def refillLane (o : Owner) (st : Strand) : Strand :=
  let b := laneBudget o st.lane
  { st with lane := { st.lane with brem := b, wlq := BitVec.ofNat 64 (st.lane.wlq.toNat % 2 ^ 32 + b * 2 ^ 32) } }
/-- LANE_BUDGET_REFILL (11 R249): B_rem := BUDGET at a τ that is a multiple of 2^LOGW. -/
def execLaneBudgetRefill (core slot : Nat) (s : State) : Outcome :=
  match s.chip.strand? core slot with
  | none => .next s
  | some st =>
    if s.chip.runs st && st.run.tau % 2 ^ laneLogw st.lane == 0 then
      .next (s.keep (s.chip.setStrand core slot (refillLane (s.chip.owner st.place.owner) st)))
    else .next s
/-- WLANE_BACKPRESSURE (11 R248): a lane word has been blocked on a full queue for BPWAIT strand beats. -/
def execWlaneBackpressure (core slot : Nat) (s : State) : Outcome :=
  match s.chip.strand? core slot with
  | none => .next s
  | some st =>
    match st.st.wait with
    | .laneFull t | .laneRetry false true (some t) =>
      if t + laneBpwait st.lane ≤ st.run.tau then headTrap s core slot .st .wlaneBackpressure (noAddr .wlaneBackpressure) 0 else .next s
    | _ => .next s

end Sys2Proof.Machine
end

