-- ==== Sys2Proof/Machine/Flags.lean ====
section
/-! DEFINITION. Number formats, rounding and flags (05 R82 to R96): values are read exactly, operations are
formed exactly, and each result is rounded once with its flags. -/

namespace Sys2Proof.Machine

/-! ### Flags (05 R91) -/

/-- FFLAGS bits. -/
def fInvalid : BitVec 6 := 1
def fDivzero : BitVec 6 := 2
def fOverflow : BitVec 6 := 4
def fUnderflow : BitVec 6 := 8
def fInexact : BitVec 6 := 16
def fIov : BitVec 6 := 32

/-- A result of one operation: its bits, its flags, and whether OVF_POLICY_TRAP arises. -/
structure Num1 where
  bits : Nat
  flags : BitVec 6
  trap : Bool
deriving DecidableEq, Repr
/-- A result that raises nothing. -/
def Num1.plain (v : Nat) : Num1 := ⟨v, 0, false⟩

/-- The rounding mode of a word: RDYN takes FRM as it stands (05 R90). -/
def modeOf (r : Rnd) (frm : BitVec 3) : Rnd :=
  match r with
  | .rdyn => (match frm.toNat with | 1 => .rz | 2 => .rd | 3 => .rp | 4 => .ra | _ => .rn)
  | r => r

/-! ### Formats (05 R89) -/

/-- A binary format: exponent and fraction bits. -/
structure Fmt where
  eb : Nat
  fb : Nat
deriving DecidableEq, Repr
def fmtF64 : Fmt := ⟨11, 52⟩
def fmtF32 : Fmt := ⟨8, 23⟩
def fmtF16 : Fmt := ⟨5, 10⟩
def fmtBf16 : Fmt := ⟨8, 7⟩
/-- The format of a float type; F32 for the rest, from which TF8 converts (13 R278). -/
def fmtOf : Ty → Fmt
  | .f64 => fmtF64 | .f16 => fmtF16 | .bf16 => fmtBf16 | _ => fmtF32
/-- Exponent bias. -/
def Fmt.bias (f : Fmt) : Nat := 2 ^ (f.eb - 1) - 1
/-- Exponent of the smallest normal. -/
def Fmt.emin (f : Fmt) : Int := 1 - (f.bias : Int)
/-- Exponent of the largest finite. -/
def Fmt.emax (f : Fmt) : Int := f.bias
/-- Infinity without sign. -/
def Fmt.inf (f : Fmt) : Nat := (2 ^ f.eb - 1) * 2 ^ f.fb
/-- Largest finite without sign. -/
def Fmt.big (f : Fmt) : Nat := f.inf - 1
/-- Default NaN. -/
def Fmt.nan (f : Fmt) : Nat := f.inf + 2 ^ (f.fb - 1)
/-- The sign bit. -/
def Fmt.sign (f : Fmt) (neg : Bool) : Nat := if neg then 2 ^ (f.eb + f.fb) else 0

/-- A value read exactly: a finite one is (−1)^neg × m × 2^e, with m = 0 a signed zero. -/
inductive Val where
  | nan (neg quiet : Bool) (frac : Nat)
  | inf (neg : Bool)
  | fin (neg : Bool) (m : Nat) (e : Int)
deriving DecidableEq, Repr

/-- Reads a value of a binary format. -/
def Fmt.read (f : Fmt) (bits : Nat) : Val :=
  let frac := bits % 2 ^ f.fb
  let ex := bits / 2 ^ f.fb % 2 ^ f.eb
  let neg := bits / 2 ^ (f.eb + f.fb) % 2 == 1
  if ex = 2 ^ f.eb - 1 then (if frac = 0 then .inf neg else .nan neg (frac / 2 ^ (f.fb - 1) % 2 == 1) frac)
  else if ex = 0 then .fin neg frac (f.emin - f.fb)
  else .fin neg (2 ^ f.fb + frac) ((ex : Int) - f.bias - f.fb)
/-- NaN tests. -/
def Val.isNan : Val → Bool | .nan _ _ _ => true | _ => false
def Val.isSnan : Val → Bool | .nan _ q _ => !q | _ => false
/-- A value with its sign set by a function. -/
def Val.mapSign (g : Bool → Bool) : Val → Val
  | .nan n q f => .nan n q f
  | .inf n => .inf (g n)
  | .fin n m e => .fin (g n) m e
/-- The sign of a value. -/
def Val.neg : Val → Bool
  | .nan n _ _ | .inf n | .fin n _ _ => n
/-- Whether a value is an exact zero. -/
def Val.isZero : Val → Bool | .fin _ 0 _ => true | _ => false

/-! ### Rounding (05 R90, R92, R95) -/

/-- Whether a remainder r of 2^sh rounds the magnitude up, its last kept bit being odd or not. -/
def roundsUp (mode : Rnd) (neg odd : Bool) (r sh : Nat) : Bool :=
  match mode with
  | .rn | .rdyn => decide (2 ^ sh < 2 * r) || (2 * r == 2 ^ sh && odd)
  | .rz => false
  | .rd => neg && r != 0
  | .rp => !neg && r != 0
  | .ra => decide (2 ^ sh ≤ 2 * r)
/-- Rounds m × 2^e to a multiple of 2^q: the multiple and whether it differs. A shift beyond the magnitude is
cut to one that decides alike. -/
def roundTo (mode : Rnd) (neg : Bool) (m : Nat) (e q : Int) : Nat × Bool :=
  if q ≤ e then (m * 2 ^ (e - q).toNat, false)
  else
    let sh := min (q - e).toNat (Nat.log2 m + 3)
    let n := m / 2 ^ sh
    let r := m % 2 ^ sh
    (if roundsUp mode neg (n % 2 == 1) r sh then n + 1 else n, r != 0)
/-- A finite result that overflows (05 R95). -/
def overflowed (f : Fmt) (mode : Rnd) (ovf : Ovf) (neg : Bool) : Num1 :=
  let fl := fOverflow ||| fInexact
  match ovf with
  | .inf =>
    let toBig := match mode with | .rz => true | .rd => !neg | .rp => neg | _ => false
    ⟨f.sign neg + (if toBig then f.big else f.inf), fl, false⟩
  | .sat => ⟨f.sign neg + f.big, fl, false⟩
  | .nan => ⟨f.nan, fl, false⟩
  | .trap => ⟨0, fl, true⟩
/-- round((−1)^neg × m × 2^e, T, RND) and R95. Tininess is detected after rounding. -/
def roundVal (f : Fmt) (mode : Rnd) (ovf : Ovf) (neg : Bool) (m : Nat) (e : Int) : Num1 :=
  if m = 0 then .plain (f.sign neg)
  else
    let ex := (Nat.log2 m : Int) + e
    if f.emax < ex then overflowed f mode ovf neg
    else
      let q := max (ex - f.fb) (f.emin - f.fb)
      let (n, inexact) := roundTo mode neg m e q
      let bits := (q - (f.emin - f.fb)).toNat * 2 ^ f.fb + n
      if f.inf ≤ bits then overflowed f mode ovf neg
      else
        let tiny := decide (ex < f.emin) &&
          !(decide (ex = f.emin - 1) && (roundTo mode neg m e (ex - f.fb)).1 == 2 ^ (f.fb + 1))
        ⟨f.sign neg + bits, (if inexact then fInexact else 0) ||| (if tiny && inexact then fUnderflow else 0), false⟩
/-- A value delivered in a format, finite or not; NaNs are the caller's. -/
def deliver (f : Fmt) (mode : Rnd) (ovf : Ovf) : Val → Num1
  | .fin n m e => roundVal f mode ovf n m e
  | .inf n => .plain (f.sign n + f.inf)
  | .nan n _ _ => .plain (f.sign n + f.nan)

/-! ### NaN results (05 R93) -/

/-- The default NaN of an invalid operation. -/
def invalidOp (f : Fmt) : Num1 := ⟨f.nan, fInvalid, false⟩
/-- NaN operands, in the order a, b, d: a signalling one makes the operation invalid, otherwise the first is
returned quieted. -/
def nanOf (f : Fmt) (ops : List Nat) : Option Num1 :=
  if ops.any (fun b => (f.read b).isSnan) then some (invalidOp f)
  else (ops.find? (fun b => (f.read b).isNan)).map (fun b => .plain (b ||| 2 ^ (f.fb - 1)))

/-! ### Exact operations -/

/-- Sum of two finite values: sign, magnitude, exponent. An exact zero of unlike signs is +0, under RD −0. -/
def sumFin (mode : Rnd) (n1 : Bool) (m1 : Nat) (e1 : Int) (n2 : Bool) (m2 : Nat) (e2 : Int) : Bool × Nat × Int :=
  let e := if m1 = 0 then e2 else if m2 = 0 then e1 else min e1 e2
  let a : Int := (if m1 = 0 then 0 else m1 * 2 ^ (e1 - e).toNat : Nat)
  let b : Int := (if m2 = 0 then 0 else m2 * 2 ^ (e2 - e).toNat : Nat)
  let s := (if n1 then -a else a) + (if n2 then -b else b)
  if s = 0 then ((if n1 = n2 then n1 else mode == .rd), 0, e) else (decide (s < 0), s.natAbs, e)
/-- The sum of two values that are no NaNs; `none` for ∞ − ∞. -/
def sumVal (mode : Rnd) : Val → Val → Option Val
  | .inf a, .inf b => if a = b then some (.inf a) else none
  | .inf a, _ => some (.inf a)
  | _, .inf b => some (.inf b)
  | .fin n1 m1 e1, .fin n2 m2 e2 => let (n, m, e) := sumFin mode n1 m1 e1 n2 m2 e2; some (.fin n m e)
  | _, _ => none
/-- The product; `none` for 0 × ∞. -/
def mulVal : Val → Val → Option Val
  | .inf a, .inf b => some (.inf (a.xor b))
  | .inf a, .fin n m _ | .fin n m _, .inf a => if m = 0 then none else some (.inf (a.xor n))
  | .fin n1 m1 e1, .fin n2 m2 e2 => some (.fin (n1.xor n2) (m1 * m2) (e1 + e2))
  | _, _ => none
/-- An operation's value delivered, or the default NaN when it is invalid. -/
def deliverOp (f : Fmt) (mode : Rnd) (ovf : Ovf) : Option Val → Num1
  | some v => deliver f mode ovf v
  | none => invalidOp f

/-- a + b, with b's sign as told. -/
def fAdd (f : Fmt) (mode : Rnd) (ovf : Ovf) (sub : Bool) (a b : Nat) : Num1 :=
  match nanOf f [a, b] with
  | some r => r
  | none => deliverOp f mode ovf (sumVal mode (f.read a) ((f.read b).mapSign (fun n => n.xor sub)))
/-- a × b. -/
def fMul (f : Fmt) (mode : Rnd) (ovf : Ovf) (a b : Nat) : Num1 :=
  match nanOf f [a, b] with
  | some r => r
  | none => deliverOp f mode ovf (mulVal (f.read a) (f.read b))
/-- ±(a × b) ± d in one rounding (13 R272). 0 × ∞ with a quiet NaN addend raises INVALID and returns it (05 R93). -/
def fFma (f : Fmt) (mode : Rnd) (ovf : Ovf) (negProd negAdd : Bool) (a b d : Nat) : Num1 :=
  let va := f.read a
  let vb := f.read b
  let vd := f.read d
  let zeroInf := !va.isNan && !vb.isNan && (mulVal va vb).isNone
  match nanOf f [a, b, d] with
  | some r => if zeroInf then { r with flags := r.flags ||| fInvalid } else r
  | none =>
    match mulVal va vb with
    | none => invalidOp f
    | some p => deliverOp f mode ovf (sumVal mode (p.mapSign (fun n => n.xor negProd)) (vd.mapSign (fun n => n.xor negAdd)))

/-- Square root, bit by bit from 2^k down. -/
def isqrtFrom (n : Nat) : Nat → Nat → Nat
  | 0, r => r
  | k + 1, r => isqrtFrom n k (if (r + 2 ^ k) * (r + 2 ^ k) ≤ n then r + 2 ^ k else r)
/-- The integer part of a square root. -/
def isqrt (n : Nat) : Nat := isqrtFrom n (Nat.log2 n / 2 + 1) 0
/-- A quotient bit below the integer part stands for what was cut off: exact or not, it rounds alike. -/
def withSticky (m : Nat) (exact : Bool) : Nat := 2 * m + (if exact then 0 else 1)
/-- Quotient m1/m2 × 2^e with enough bits for one rounding. -/
def quotVal (f : Fmt) (neg : Bool) (m1 : Nat) (e1 : Int) (m2 : Nat) (e2 : Int) : Val :=
  let k := f.fb + 4 + Nat.log2 m2
  let n := m1 * 2 ^ k
  .fin neg (withSticky (n / m2) (n % m2 == 0)) (e1 - e2 - k - 1)
/-- a / b (13 R273). -/
def fDiv (f : Fmt) (mode : Rnd) (ovf : Ovf) (a b : Nat) : Num1 :=
  match nanOf f [a, b] with
  | some r => r
  | none =>
    match f.read a, f.read b with
    | .inf n1, .fin n2 _ _ => deliver f mode ovf (.inf (n1.xor n2))
    | .fin n1 _ _, .inf n2 => deliver f mode ovf (.fin (n1.xor n2) 0 0)
    | .fin n1 m1 e1, .fin n2 m2 e2 =>
      if m2 = 0 then
        if m1 = 0 then invalidOp f
        else { deliver f mode ovf (.inf (n1.xor n2)) with flags := fDivzero }
      else if m1 = 0 then deliver f mode ovf (.fin (n1.xor n2) 0 0)
      else deliver f mode ovf (quotVal f (n1.xor n2) m1 e1 m2 e2)
    | _, _ => invalidOp f
/-- 1 / a. -/
def fRcp (f : Fmt) (mode : Rnd) (ovf : Ovf) (a : Nat) : Num1 :=
  match nanOf f [a] with
  | some r => r
  | none =>
    match f.read a with
    | .inf n => .plain (f.sign n)
    | .fin n m e =>
      if m = 0 then { deliver f mode ovf (.inf n) with flags := fDivzero }
      else deliver f mode ovf (quotVal f n 1 0 m e)
    | .nan _ _ _ => invalidOp f
/-- √a. -/
def fSqrt (f : Fmt) (mode : Rnd) (ovf : Ovf) (a : Nat) : Num1 :=
  match nanOf f [a] with
  | some r => r
  | none =>
    match f.read a with
    | .inf n => if n then invalidOp f else .plain f.inf
    | .fin n m e =>
      if m = 0 then .plain (f.sign n)
      else if n then invalidOp f
      else
        -- an even exponent, and enough bits below it
        let s := 2 * (f.fb + 4) + (if e % 2 = 0 then 0 else 1)
        let v := m * 2 ^ s
        let r := isqrt v
        deliver f mode ovf (.fin false (withSticky r (r * r == v)) ((e - s) / 2 - 1))
    | .nan _ _ _ => invalidOp f
/-- 1 / √a. -/
def fRsq (f : Fmt) (mode : Rnd) (ovf : Ovf) (a : Nat) : Num1 :=
  match nanOf f [a] with
  | some r => r
  | none =>
    match f.read a with
    | .inf n => if n then invalidOp f else .plain 0
    | .fin n m e =>
      if m = 0 then { deliver f mode ovf (.inf n) with flags := fDivzero }
      else if n then invalidOp f
      else
        -- 1/√(m 2^e) = √(2^s / m) × 2^(−(e+s)/2), s with the parity of e
        let s0 := 2 * (f.fb + 4) + 2 * Nat.log2 m + 2
        let s := s0 + (if e % 2 = 0 then 0 else 1)
        let v := 2 ^ s / m
        let r := isqrt v
        deliver f mode ovf (.fin false (withSticky r (r * r * m == 2 ^ s)) (-(e + s) / 2 - 1))
    | .nan _ _ _ => invalidOp f

/-! ### 2^a and log₂ a (13 R273): enclosures refined until both ends round alike (log 15) -/

/-- Bounds of ln 2 × 2^w: the series Σ 1/(k 2^k). -/
def ln2Sum (w : Nat) : Nat → Nat
  | 0 => 0
  | k + 1 => ln2Sum w k + 2 ^ w / ((k + 1) * 2 ^ (k + 1))
/-- Lower and upper bound of ln 2 at w bits. -/
def ln2Bounds (w : Nat) : Nat × Nat := let s := ln2Sum w w; (s, s + w + 2)
/-- Partial sums of the exponential series at w bits, rounding each term down or up. -/
def expSum (w y : Nat) (up : Bool) : Nat → Nat → Nat → Nat → Nat
  | 0, _, _, acc => acc
  | n + 1, k, term, acc =>
    let p := term * y
    let d := 2 ^ w * k
    let t := if up then cdiv p d else p / d
    expSum w y up n (k + 1) t (acc + t)
/-- Bounds of 2^(num/2^den) × 2^w, the fraction below 1; clipped to 1 and 2. -/
def exp2Bounds (w num den : Nat) : Nat × Nat :=
  let (l, h) := ln2Bounds w
  let lo := expSum w (num * l / 2 ^ den) false w 1 (2 ^ w) (2 ^ w)
  let hi := expSum w (num * h / 2 ^ den + 1) true w 1 (2 ^ w) (2 ^ w) + 2
  (max lo (2 ^ w), min hi (2 ^ (w + 1)))
/-- Sums of z^(2j+1)/(2j+1) at w bits. -/
def atanhSum (w z2 : Nat) (up : Bool) : Nat → Nat → Nat → Nat → Nat
  | 0, _, _, acc => acc
  | n + 1, j, pow, acc =>
    let t := if up then cdiv pow (2 * j + 1) else pow / (2 * j + 1)
    let p := if up then cdiv (pow * z2) (2 ^ w) else pow * z2 / 2 ^ w
    atanhSum w z2 up n (j + 1) p (acc + t)
/-- Bounds of log₂(m / 2^l) × 2^w for 2^l < m < 2^(l+1). -/
def log2Bounds (w m l : Nat) : Nat × Nat :=
  let (ll, lh) := ln2Bounds w
  let a := m - 2 ^ l
  let b := m + 2 ^ l
  let zl := a * 2 ^ w / b
  let zh := zl + 1
  let lo := atanhSum w (zl * zl / 2 ^ w) false w 0 zl 0
  let hi := atanhSum w (cdiv (zh * zh) (2 ^ w)) true w 0 zh 0 + 2
  (2 * lo * 2 ^ w / lh, 2 * hi * 2 ^ w / ll + 1)
/-- Rounds a value that is not a multiple of 2^e and lies between lo × 2^e and hi × 2^e, if both ends round alike. -/
def roundBetween (f : Fmt) (mode : Rnd) (ovf : Ovf) (neg : Bool) (lo hi : Nat) (e : Int) : Option Num1 :=
  let a := roundVal f mode ovf neg (2 * lo + 1) (e - 1)
  let b := roundVal f mode ovf neg (2 * (hi - 1) + 1) (e - 1)
  if a = b then some a else none
/-- 2^(k + num/2^den), refined at growing widths. -/
def exp2Refine (f : Fmt) (mode : Rnd) (ovf : Ovf) (k : Int) (num den : Nat) : Nat → Nat → Num1
  | 0, w => roundVal f mode ovf false (2 * (exp2Bounds w num den).1 + 1) (k - w - 1)
  | n + 1, w =>
    let (lo, hi) := exp2Bounds w num den
    match roundBetween f mode ovf false lo hi (k - w) with
    | some r => r
    | none => exp2Refine f mode ovf k num den n (2 * w)
/-- log₂ of 2^k × m/2^l, refined. -/
def log2Refine (f : Fmt) (mode : Rnd) (ovf : Ovf) (k : Int) (m l : Nat) : Nat → Nat → Num1
  | 0, w =>
    let v := k * 2 ^ w + (log2Bounds w m l).1
    roundVal f mode ovf (decide (v < 0)) (2 * v.natAbs + 1) (-(w : Int) - 1)
  | n + 1, w =>
    let (lo, hi) := log2Bounds w m l
    let a : Int := k * 2 ^ w + lo
    let b : Int := k * 2 ^ w + hi
    let r := if 0 ≤ a then roundBetween f mode ovf false a.natAbs b.natAbs (-w)
      else if b ≤ 0 then roundBetween f mode ovf true b.natAbs a.natAbs (-w) else none
    match r with
    | some v => v
    | none => log2Refine f mode ovf k m l n (2 * w)
/-- 2^a. -/
def fExp2 (f : Fmt) (mode : Rnd) (ovf : Ovf) (a : Nat) : Num1 :=
  match nanOf f [a] with
  | some r => r
  | none =>
    match f.read a with
    | .inf n => .plain (if n then 0 else f.inf)
    | .fin n m e =>
      if m = 0 then .plain (f.bias * 2 ^ f.fb)
      else
        let sh := (-e).toNat
        let v : Int := if n then -(m * 2 ^ e.toNat : Nat) else (m * 2 ^ e.toNat : Nat)
        let k := v / 2 ^ sh
        let r := (v % 2 ^ sh).toNat
        if r = 0 then roundVal f mode ovf false 1 k
        else exp2Refine f mode ovf k r sh 6 (3 * f.fb + 64)
    | .nan _ _ _ => invalidOp f
/-- log₂ a. -/
def fLog2 (f : Fmt) (mode : Rnd) (ovf : Ovf) (a : Nat) : Num1 :=
  match nanOf f [a] with
  | some r => r
  | none =>
    match f.read a with
    | .inf n => if n then invalidOp f else .plain f.inf
    | .fin n m e =>
      if m = 0 then ⟨f.sign true + f.inf, fDivzero, false⟩
      else if n then invalidOp f
      else
        let l := Nat.log2 m
        let k := (l : Int) + e
        if m = 2 ^ l then roundVal f mode ovf (decide (k < 0)) k.natAbs 0
        else log2Refine f mode ovf k m l 6 (3 * f.fb + 64)
    | .nan _ _ _ => invalidOp f

/-! ### Order, minimum and maximum (13 R274, R275) -/

/-- A finite value as an integer over a common exponent. -/
def scaledInt (n : Bool) (m : Nat) (e lo : Int) : Int :=
  let v : Int := (m * 2 ^ (e - lo).toNat : Nat)
  if n then -v else v
/-- a < b for values that are no NaNs. -/
def ltVal : Val → Val → Bool
  | .inf a, .inf b => a && !b
  | .inf a, _ => a
  | _, .inf b => !b
  | .fin n1 m1 e1, .fin n2 m2 e2 => decide (scaledInt n1 m1 e1 (min e1 e2) < scaledInt n2 m2 e2 (min e1 e2))
  | _, _ => false
/-- IEEE 754-2019 minimum or maximum: −0 is below +0. -/
def fMinMax (f : Fmt) (isMax : Bool) (a b : Nat) : Num1 :=
  match nanOf f [a, b] with
  | some r => r
  | none =>
    let va := f.read a
    let vb := f.read b
    let aBelow := ltVal va vb || (!ltVal vb va && va.neg && !vb.neg)
    let bBelow := ltVal vb va || (!ltVal va vb && vb.neg && !va.neg)
    .plain (if isMax then (if aBelow then b else a) else (if bBelow then b else a))
/-- A float comparison (13 R275) and its flags. -/
def fCmp (f : Fmt) (c : VCond) (a b : Nat) : Bool × BitVec 6 :=
  let va := f.read a
  let vb := f.read b
  let un := va.isNan || vb.isNan
  let sig := va.isSnan || vb.isSnan
  let eq := !un && !ltVal va vb && !ltVal vb va
  let quiet : BitVec 6 := if sig then fInvalid else 0
  let loud : BitVec 6 := if un then fInvalid else 0
  match c with
  | .eq => (eq, quiet)
  | .ne => (!eq, quiet)
  | .un => (un, quiet)
  | .lt => (!un && ltVal va vb, loud)
  | .le => (!un && (ltVal va vb || eq), loud)

/-! ### Integers (13 R270; 05 R96) -/

/-- Bits of a type. -/
def tyBits (t : Ty) : Nat := 8 * tySize t
/-- An element of an integer type. -/
def readInt (t : Ty) (bits : Nat) : Int := if tyIsSigned t then toSigned (tyBits t) bits else (bits : Int)
/-- Range of an integer type. -/
def leastOf (t : Ty) : Int := if tyIsSigned t then -(2 : Int) ^ (tyBits t - 1) else 0
def mostOf (t : Ty) : Int := if tyIsSigned t then 2 ^ (tyBits t - 1) - 1 else 2 ^ tyBits t - 1
/-- An integer result under R270. Out of range it sets IOV alone (log 34). -/
def intResult (t : Ty) (ovf : Ovf) (v : Int) : Num1 :=
  let n := tyBits t
  if leastOf t ≤ v ∧ v ≤ mostOf t then .plain (wrapBits n v)
  else
    match ovf with
    | .sat => ⟨wrapBits n (if v < leastOf t then leastOf t else mostOf t), fIov, false⟩
    | .inf => ⟨wrapBits n v, fIov, false⟩
    | .nan => ⟨wrapBits n (leastOf t), fIov, false⟩
    | .trap => ⟨0, fIov, true⟩
/-- A conversion result that an integer type does not hold (R96): `v` none is a NaN, `big` tells which end. -/
def intPolicy (t : Ty) (ovf : Ovf) (isNan big : Bool) (fl : BitVec 6) : Num1 :=
  let n := tyBits t
  match ovf with
  | .sat => ⟨wrapBits n (if isNan then 0 else if big then mostOf t else leastOf t), fl, false⟩
  | .inf | .nan => ⟨wrapBits n (leastOf t), fl, false⟩
  | .trap => ⟨0, fl, true⟩
/-- A conversion to an integer type; the source is an integer or a float value (R96). -/
def toInt (t : Ty) (mode : Rnd) (ovf : Ovf) (fromInt : Bool) : Val → Num1
  | .nan _ _ _ => intPolicy t ovf true false fInvalid
  | .inf n => intPolicy t ovf false (!n) fInvalid
  | .fin n m e =>
    let (k, inexact) := roundTo mode n m e 0
    let v : Int := if n then -(k : Int) else k
    if leastOf t ≤ v ∧ v ≤ mostOf t then ⟨wrapBits (tyBits t) v, if inexact then fInexact else 0, false⟩
    else intPolicy t ovf false (!n) (if fromInt then fIov else fInvalid)

/-! ### Tapered formats (05 R82 to R86) -/

/-- Length of the run of bits equal to `one` from bit n − 1 down. -/
def runLen (one : Bool) (v : Nat) : Nat → Nat
  | 0 => 0
  | n + 1 => if v.testBit n = one then runLen one v n + 1 else 0
/-- Decodes a tapered value whose magnitude field has n bits; `none` is NaR. -/
def readTapered (n : Nat) (bits : Nat) : Option Val :=
  let neg := bits / 2 ^ n % 2 == 1
  let v := bits % 2 ^ n
  if v = 0 then (if neg then none else some (.fin false 0 0))
  else
    let one := v.testBit (n - 1)
    let m := runLen one v n
    let k : Int := if one then (m : Int) - 1 else -(m : Int)
    let left := n - m - 1
    let e := if 0 < left then v / 2 ^ (left - 1) % 2 else 0
    let fbits := left - 1
    some (.fin neg (2 ^ fbits + v % 2 ^ fbits) (2 * k + e - fbits))
/-- TF8 and TF6. -/
def readTf8 (b : Nat) : Option Val := readTapered 7 b
def readTf6 (b : Nat) : Option Val := readTapered 5 b
/-- The string of a positive value after its sign (R85 step 1), as a number of `len` bits: regime, terminator,
exponent bit and the fraction of m. -/
def taperedString (m : Nat) (e : Int) : Nat × Nat :=
  let l := Nat.log2 m
  let ex := (l : Int) + e
  let k := ex / 2
  let eb := (ex % 2).toNat
  let run := if 0 ≤ k then k.toNat + 1 else (-k).toNat
  -- ones then 0, or zeros then 1
  let head := if 0 ≤ k then 2 * (2 ^ run - 1) else 1
  ((head * 2 + eb) * 2 ^ l + m % 2 ^ l, run + 1 + 1 + l)
/-- Encodes into a tapered format with an n-bit magnitude (R85). `v` finite. -/
def encodeTapered (n : Nat) (ovf : Ovf) (v : Val) : Num1 :=
  let past (neg : Bool) : Num1 :=
    let fl := fOverflow ||| fInexact
    match ovf with
    | .sat => ⟨(if neg then 2 ^ n else 0) + (2 ^ n - 1), fl, false⟩
    | .inf | .nan => ⟨2 ^ n, fl, false⟩
    | .trap => ⟨0, fl, true⟩
  match v with
  | .nan _ _ _ => ⟨2 ^ n, fInvalid, false⟩
  | .inf neg => past neg
  | .fin neg m e =>
    let ex := (Nat.log2 m : Int) + e
    let sg := if neg then 2 ^ n else 0
    if m = 0 then .plain 0
    else if 2 * (n : Int) ≤ ex then past neg
    -- below the half of minpos and further down, all the kept bits are zero
    else if ex < -(2 * (n : Int) + 2) then ⟨sg + 1, fInexact, false⟩
    else
      let (s, len) := taperedString m e
      -- the string is brought to at least n bits
      let (s, len) := if len < n then (s * 2 ^ (n - len), n) else (s, len)
      let d := len - n
      let kept := s / 2 ^ d
      let r := s % 2 ^ d
      let up := decide (2 ^ d < 2 * r) || (d != 0 && 2 * r == 2 ^ d && kept % 2 == 1)
      let mag := if up then kept + 1 else kept
      let mag := if mag = 0 then 1 else mag
      let exact := match readTapered n mag with
        | some (.fin _ m2 e2) => scaledInt false m e (min e e2) == scaledInt false m2 e2 (min e e2)
        | _ => false
      ⟨sg + mag, if exact then 0 else fInexact, false⟩
/-- TF8. -/
def encodeTf8 (ovf : Ovf) (v : Val) : Num1 := encodeTapered 7 ovf v

/-! ### Conversion (13 R278) -/

/-- A NaN carried into another format: sign and the high fraction bits (05 R93). -/
def carryNan (f g : Fmt) (neg : Bool) (frac : Nat) : Nat :=
  g.sign neg + g.inf + (if f.fb ≤ g.fb then frac * 2 ^ (g.fb - f.fb) else frac / 2 ^ (f.fb - g.fb))
/-- An element as an exact value, with the flags of reading it: NaR reads as the default quiet NaN and raises
INVALID (05 R86). -/
def readElem (t : Ty) (bits : Nat) : Val × BitVec 6 :=
  if tyIsInt t then
    let v := readInt t bits
    (.fin (decide (v < 0)) v.natAbs 0, 0)
  else
    match t with
    | .tf8 => (match readTf8 bits with | some v => (v, 0) | none => (.nan false true (2 ^ 22), fInvalid))
    | _ => ((fmtOf t).read bits, 0)
/-- VCVT's value (13 R278). -/
def convert (td ts : Ty) (mode : Rnd) (ovf : Ovf) (bits : Nat) : Num1 :=
  let (v, fl) := readElem ts bits
  let r : Num1 :=
    if tyIsInt td then toInt td mode ovf (tyIsInt ts) v
    else
      match td with
      | .tf8 => encodeTf8 ovf v
      | _ =>
        match v with
        | .nan n q fr => if q then .plain (carryNan (fmtOf ts) (fmtOf td) n fr) else invalidOp (fmtOf td)
        | v => deliver (fmtOf td) mode ovf v
  { r with flags := r.flags ||| fl }

/-! ### Traps of flags (05 R94) -/

/-- The first cause of R94 among raised flags, with the flag that the cause reports; `none` for OVF_POLICY_TRAP. -/
def flagCause (trap : Bool) (fl : BitVec 6) (en : BitVec 6) : Option (Cause × Option (BitVec 6)) :=
  let hit (f : BitVec 6) : Bool := (fl &&& en &&& f) != 0
  if trap then some (.ovfTrap, none)
  else if hit fInvalid then some (.fpInvalid, some fInvalid)
  else if hit fDivzero then some (.fpDivzero, some fDivzero)
  else if hit fOverflow then some (.fpOverflow, some fOverflow)
  else if hit fUnderflow then some (.fpUnderflow, some fUnderflow)
  else if hit fInexact then some (.fpInexact, some fInexact)
  else none
/-- FTRAPEN's bits 0 to 4: bit 5 there is SNAN, no trap enable of IOV. -/
def trapEnables (ftrapen : BitVec 6) : BitVec 6 := ftrapen &&& 0x1F#6
/-- Flags raised by a word, lane by lane: lane, flags, OVF_POLICY_TRAP. -/
abbrev Raised := List (Nat × BitVec 6 × Bool)
/-- Their OR. -/
def Raised.flags (r : Raised) : BitVec 6 := r.foldl (fun a e => a ||| e.2.1) 0
/-- The trap a word raises at its due τ: cause and the lowest lane that raised what is reported (08 R183). -/
def Raised.trap (r : Raised) (ftrapen : BitVec 6) : Option (Cause × Nat) :=
  match flagCause (r.any (fun e => e.2.2)) r.flags (trapEnables ftrapen) with
  | none => none
  | some (c, f) =>
    let there := r.filter (fun e => match f with | none => e.2.2 | some b => (e.2.1 &&& b) != 0)
    some (c, there.foldl (fun m e => min m e.1) ((there.head?.map (·.1)).getD 0))

end Sys2Proof.Machine
end

