-- ==== Sys2Proof/Machine/Tiles.lean ====
section
/-! DEFINITION. What the matrix engine computes on a C tile (14 R299 to R309) and Telltale's check vectors and
compare (15 R316 to R324), on tiles as values. -/

namespace Sys2Proof.Machine

/-- A C tile: its 1,024 words, row by row, and its Telltale data. -/
structure CTile where
  words : List Nat
  tel : Tile
deriving DecidableEq, Repr

/-- Zeroed checks with tag 0, as at admission and after MCLR. -/
def Tile.clear : Tile := { tag := 0, row := List.replicate 32 0, col := List.replicate 32 0 }
/-- Row i and column j of a tile's words. -/
def CTile.rowOf (t : CTile) (i : Nat) : List Nat := (t.words.drop (32 * i)).take 32
def CTile.colOf (t : CTile) (j : Nat) : List Nat := (List.range 32).map (fun i => t.words.getD (32 * i + j) 0)
/-- A tag of kind I32 (15 R316). -/
def tagInt (tag : BitVec 3) : Bool := tag == 4#3

/-! ### Exact sums (05 R97) -/

/-- The bits of a value rounded to F32 under RN; a NaN keeps its sign and fraction, quieted. -/
def toF32 : Val → Num1
  | .nan n _ fr => .plain (fmtF32.sign n + fmtF32.inf + (fr ||| 2 ^ 22))
  | v => deliver fmtF32 .rn .inf v
/-- An exact sum: the first NaN, the default NaN for infinities of both signs, one infinity, or the sum of the
finite terms. A zero sum is +0 unless every term is −0. -/
def sumExact (l : List Val) : Val × BitVec 6 :=
  match l.find? (·.isNan) with
  | some v => (v, 0)
  | none =>
    let infs := l.filterMap (fun v => match v with | .inf n => some n | _ => none)
    match infs with
    | n :: rest => if rest.all (· == n) then (.inf n, 0) else (.nan false true (2 ^ 22), fInvalid)
    | [] =>
      let lo := l.foldl (fun a v => match v with | .fin _ m e => if m = 0 then a else min a e | _ => a) (0 : Int)
      let s := l.foldl (fun a v => match v with | .fin n m e => if m = 0 then a else a + scaledInt n m e lo | _ => a) (0 : Int)
      if s = 0 then (.fin (!l.isEmpty && l.all (·.neg)) 0 0, 0) else (.fin (decide (s < 0)) s.natAbs lo, 0)
/-- round of an exact sum of F32 words. -/
def sumF32 (l : List Nat) : Nat := (toF32 (sumExact (l.map fmtF32.read)).1).bits
/-- A check of a line of words under a kind (15 R318). -/
def lineCheck (int : Bool) (l : List Nat) : BitVec 32 := BitVec.ofNat 32 (if int then l.sum else sumF32 l)
/-- Both check vectors from a tile's words. -/
def rowChecks (int : Bool) (t : CTile) : List (BitVec 32) := (List.range 32).map (fun i => lineCheck int (t.rowOf i))
def colChecks (int : Bool) (t : CTile) : List (BitVec 32) := (List.range 32).map (fun j => lineCheck int (t.colOf j))
/-- Checks recomputed under a kind; the tag says so (15 R318). -/
def CTile.recompute (t : CTile) (int : Bool) : CTile :=
  { t with tel := { tag := if int then 4 else 0, row := rowChecks int t, col := colChecks int t } }

/-! ### Operand rows (05 R84, R86, R88; 14 R295) -/

/-- Elements of a row by their bits: packed types unpacked, TF6 rejoined from its 128-byte high plane and its
64-byte low plane. -/
def rowElems (t : Ty) (row : List Byte) : List Nat :=
  match t with
  | .bf16 | .f16 => (chunksOf 2 (row.length / 2) row).map leNat
  | .i4 | .c4 => row.flatMap (fun b => [b.toNat % 16, b.toNat / 16])
  | .tf6 =>
    let hi := (row.take 128).flatMap (fun b => [b.toNat % 16, b.toNat / 16])
    let lo := (row.drop 128).flatMap (fun b => [b.toNat % 4, b.toNat / 4 % 4, b.toNat / 16 % 4, b.toNat / 64])
    List.zipWith (fun h l => h * 4 + l) hi lo
  | _ => row.map (·.toNat)
/-- A NaN of a 16-bit format with its fraction widened to F32's. -/
def widenNan (f : Fmt) : Val → Val
  | .nan n q fr => .nan n q (fr * 2 ^ (23 - f.fb))
  | v => v
/-- dec of an element (14 R299): its value and the flags of reading it. -/
def decElem (t : Ty) (code : List (BitVec 16)) (bits : Nat) : Val × BitVec 6 :=
  match t with
  | .tf8 => (match readTf8 bits with | some v => (v, 0) | none => (.nan false true (2 ^ 22), fInvalid))
  | .tf6 => (match readTf6 bits with | some v => (v, 0) | none => (.nan false true (2 ^ 22), fInvalid))
  | .f16 => (widenNan fmtF16 (fmtF16.read bits), 0)
  | .bf16 => (widenNan fmtBf16 (fmtBf16.read bits), 0)
  | .c4 => (widenNan fmtBf16 (fmtBf16.read (code.getD bits 0).toNat), 0)
  | .i4 => (let v := toSigned 4 bits; (.fin (decide (v < 0)) v.natAbs 0, 0))
  | _ => (let v := toSigned 8 bits; (.fin (decide (v < 0)) v.natAbs 0, 0))
/-- One product, exact, with its flags (05 R97). -/
def prodVal (a b : Val × BitVec 6) : Val × BitVec 6 :=
  let fl := a.2 ||| b.2
  if a.1.isSnan || b.1.isSnan then (.nan false true (2 ^ 22), fl ||| fInvalid)
  else if a.1.isNan then (a.1, fl)
  else if b.1.isNan then (b.1, fl)
  else
    match mulVal a.1 b.1 with
    | some v => (v, fl)
    | none => (.nan false true (2 ^ 22), fl ||| fInvalid)
/-- A value times 2^k. -/
def scaleVal (k : Int) : Val → Val
  | .fin n m e => .fin n m (e + k)
  | v => v
/-- The exact block sum of products under a scale, with flags. -/
def blockSum (k : Int) (ps : List (Val × BitVec 6)) : Val × BitVec 6 :=
  let (v, fl) := sumExact (ps.map (·.1))
  (scaleVal k v, ps.foldl (fun f p => f ||| p.2) fl)

/-- A signed 8-bit block scale (05 R87). -/
def scaleOf (b : Byte) : Int := b.toInt
/-- A block one of whose scales is −128 is skipped. -/
def blockLive (sca scb : List Byte) (blk : Nat) : Bool := scaleOf (sca.getD blk 0) != -128 && scaleOf (scb.getD blk 0) != -128

/-- The operands of an MMA, decoded: rows of values. -/
structure MmaOps where
  k : Nat
  sparse : Bool
  a : List (List (Val × BitVec 6))
  b : List (List (Val × BitVec 6))
  x : List (List Byte)
  sca : List Byte
  scb : List Byte

/-- Products of element (i, j) in block blk: all 32, or the sixteen kept ones of an MMAS (14 R299, R305). -/
def MmaOps.products (o : MmaOps) (ra rb : List (Val × BitVec 6)) (md : List Byte) (blk : Nat) : List (Val × BitVec 6) :=
  if o.sparse then
    let a := (ra.drop (32 * blk)).take 32
    let b := (rb.drop (16 * blk)).take 16
    let m := elem md blk 4
    b.mapIdx (fun p v => prodVal (a.getD (4 * (p / 2) + m / 2 ^ (2 * p) % 4) (.fin false 0 0, 0)) v)
  else List.zipWith prodVal ((ra.drop (32 * blk)).take 32) ((rb.drop (32 * blk)).take 32)
/-- Block sums of all elements in one block. -/
def MmaOps.block (o : MmaOps) (blk : Nat) : List (Val × BitVec 6) :=
  let k := scaleOf (o.sca.getD blk 0) + scaleOf (o.scb.getD blk 0)
  o.a.flatMap (fun ra => (List.zip o.b (if o.sparse then o.x else o.b.map (fun _ => []))).map (fun rb =>
    blockSum k (o.products ra rb.1 rb.2 blk)))

/-- The group tag of an MMA's types (15 R317). -/
def groupTag (ta : Ty) : BitVec 3 :=
  match ta with
  | .tf8 | .tf6 => 1
  | .bf16 | .f16 => 2
  | .c4 => 3
  | _ => 4
/-- Sign changed under acc=sub; a NaN stays as it is. -/
def subSign (acc : Acc) (v : Val) : Val := if acc = .sub then v.mapSign (!·) else v

/-- One live block of a floating MMA on a tile: C, then the checks (14 R299; 15 R317). -/
def floatBlock (t : CTile) (sums : List Val) : CTile × BitVec 6 :=
  let steps := List.zipWith (fun c s => let r := toF32 s; let z := fAdd fmtF32 .rn .inf false c r.bits; (z.bits, r.flags ||| z.flags)) t.words sums
  let line (old : BitVec 32) (l : List Val) : BitVec 32 :=
    BitVec.ofNat 32 (fAdd fmtF32 .rn .inf false old.toNat (toF32 (sumExact l).1).bits).bits
  let rows := t.tel.row.mapIdx (fun i v => line v ((sums.drop (32 * i)).take 32))
  let cols := t.tel.col.mapIdx (fun j v => line v ((List.range 32).map (fun i => sums.getD (32 * i + j) (.fin false 0 0))))
  ({ words := steps.map (·.1), tel := { t.tel with row := rows, col := cols } }, steps.foldl (fun f s => f ||| s.2) 0)
/-- All live blocks in ascending order. -/
def floatBlocks (o : MmaOps) (acc : Acc) : List Nat → CTile → CTile × BitVec 6
  | [], t => (t, 0)
  | blk :: rest, t =>
    if blockLive o.sca o.scb blk then
      let l := o.block blk
      let (t1, f1) := floatBlock t (l.map (fun v => subSign acc v.1))
      let (t2, f2) := floatBlocks o acc rest t1
      (t2, l.foldl (fun f v => f ||| v.2) (f1 ||| f2))
    else floatBlocks o acc rest t
/-- A finite value of an integer product. -/
def intOf : Val → Int
  | .fin n m e => scaledInt n m e 0
  | _ => 0
/-- An integer MMA on a tile (14 R300; 15 R317). -/
def intUpdate (o : MmaOps) (acc : Acc) (t : CTile) : CTile × BitVec 6 :=
  let blocks := (List.range (o.k / 32)).map (fun blk => (o.block blk).map (fun v => intOf v.1))
  let s := blocks.foldl (fun a b => List.zipWith (· + ·) a b) (List.replicate 1024 (0 : Int))
  let s := if acc = .sub then s.map (fun v => -v) else s
  let exact := List.zipWith (fun c v => toSigned 32 c + v) t.words s
  let fl : BitVec 6 := if exact.all (fun v => decide (-(2 : Int) ^ 31 ≤ v) && decide (v < 2 ^ 31)) then 0 else fIov
  let line (old : BitVec 32) (l : List Int) : BitVec 32 := BitVec.ofInt 32 (old.toNat + l.sum)
  ({ words := exact.map (wrapBits 32),
     tel := { t.tel with row := t.tel.row.mapIdx (fun i v => line v ((s.drop (32 * i)).take 32)),
                         col := t.tel.col.mapIdx (fun j v => line v ((List.range 32).map (fun i => s.getD (32 * i + j) 0))) } }, fl)
/-- One bit of one word inverted (15 R328). -/
def flipWord (t : CTile) (i j b : Nat) : CTile := { t with words := t.words.set (32 * i + j) ((t.words.getD (32 * i + j) 0) ^^^ 2 ^ b) }
/-- An armed TT_INJECT acts. -/
def injectFlip (t : CTile) (w : Word) : CTile :=
  let i := bitsOf w 8 5
  let t1 := flipWord t i (bitsOf w 16 5) (bitsOf w 32 5)
  if w.getLsbD 62 && bitsOf w 24 5 != bitsOf w 16 5 then flipWord t1 i (bitsOf w 24 5) (bitsOf w 32 5) else t1
/-- The update of a tile by an MMA in its due beat (14 R296, R299, R300; 15 R317). -/
def mmaUpdate (t : CTile) (ta tb : Ty) (acc : Acc) (sparse : Bool) (a b x : List (List Byte)) (sca scb : List Byte)
    (code : List (BitVec 16)) (flip : Option Word) : CTile × BitVec 6 :=
  let g := groupTag ta
  let changed := tagInt t.tel.tag != tagInt g
  let t0 : CTile :=
    if acc = .set then { words := List.replicate 1024 0, tel := { Tile.clear with tag := t.tel.tag } }
    else if changed then t.recompute (tagInt g) else t
  let dec (ty : Ty) (rows : List (List Byte)) := rows.map (fun r => (rowElems ty r).map (decElem ty code))
  let da := dec ta a
  let o : MmaOps := { k := (da.headD []).length, sparse := sparse, a := da, b := dec tb b, x := x, sca := sca, scb := scb }
  let (t1, fl) := if tagInt g then intUpdate o acc t0 else floatBlocks o acc (List.range (o.k / 32)) t0
  let tag := if acc = .set ∨ changed = true ∨ t.tel.tag = 0#3 ∨ t.tel.tag = g then g else 5#3
  let t2 := { t1 with tel := { t1.tel with tag := tag } }
  (match flip with | some w => injectFlip t2 w | none => t2, fl)

/-! ### The compare (15 R319) -/

/-- A finite F32 word in units of 2^−149. -/
def f32Int (v : Nat) : Option Int :=
  match fmtF32.read v with
  | .fin n m e => some (scaledInt n m e (-149))
  | _ => none
/-- rel and abs of a tag, in units of 2^−149; none for I32, which compares exactly. -/
def tolOf (k : Csrs) (tag : BitVec 3) : Option (Int × Int) :=
  let half (w : Word) (hi : Bool) : Int := (f32Int (if hi then bitsOf w 32 32 else bitsOf w 0 32)).getD 0
  match tag.toNat with
  | 4 => none
  | 0 => some (0, 0)
  | 1 => some (half k.ttTol8 false, half k.ttTol8 true)
  | 2 => some (half k.ttTol16 false, half k.ttTol16 true)
  | 3 => some (half k.ttTolC4 false, half k.ttTolC4 true)
  | _ => some (max (half k.ttTol8 false) (max (half k.ttTol16 false) (half k.ttTolC4 false)),
               max (half k.ttTol8 true) (max (half k.ttTol16 true) (half k.ttTolC4 true)))
/-- pass(a, b). -/
def checkPass (tol : Option (Int × Int)) (a b : BitVec 32) : Bool :=
  match tol with
  | none => a == b
  | some (rel, ab) =>
    match f32Int a.toNat, f32Int b.toNat with
    | some x, some y => decide ((x - y).natAbs * 2 ^ 149 ≤ rel * max (x.natAbs : Int) y.natAbs + ab * 2 ^ 149)
    | none, none => true
    | _, _ => false
/-- A mask of the positions at which two vectors do not pass. -/
def failMask (tol : Option (Int × Int)) (a b : List (BitVec 32)) : Nat :=
  ((List.zipWith (checkPass tol) a b).mapIdx (fun i ok => if ok then 0 else 2 ^ i)).sum
/-- TTMASK of a compare: failing columns low, failing rows high. -/
def compareMask (k : Csrs) (t : CTile) : Word :=
  let int := tagInt t.tel.tag
  let tol := tolOf k t.tel.tag
  BitVec.ofNat 64 (failMask tol (colChecks int t) t.tel.col + failMask tol (rowChecks int t) t.tel.row * 2 ^ 32)

/-! ### Locating (15 R323) -/

/-- Positions of ones below 32. -/
def onesBelow32 (v : Nat) : List Nat := (List.range 32).filter (fun i => v.testBit i)
/-- A check less the other elements of its line. -/
def missing (int : Bool) (chk : BitVec 32) (others : List Nat) : BitVec 32 :=
  if int then BitVec.ofInt 32 (chk.toNat - (others.sum : Int))
  else BitVec.ofNat 32 (toF32 (sumExact (fmtF32.read chk.toNat :: others.map (fun v => (fmtF32.read v).mapSign (!·)))).1).bits
/-- A line without one of its places. -/
def without (l : List Nat) (n : Nat) : List Nat := l.take n ++ l.drop (n + 1)
/-- What TT.LOC finds: class, i, j, v_r. -/
structure Located where
  cls : Nat
  i : Nat
  j : Nat
  vr : BitVec 32
deriving DecidableEq, Repr
/-- The class of R323, with the syndrome as it stands. Class values the list does not reach are free (log 24). -/
def locate (k : Csrs) (n : Nat) (t : CTile) : Located :=
  let valid := k.ttsyn.getLsbD 5
  if !valid || bitsOf k.ttsyn 0 5 != n then { cls := 0, i := 0, j := 0, vr := 0 }
  else
    let cols := onesBelow32 (bitsOf k.ttmask 0 32)
    let rows := onesBelow32 (bitsOf k.ttmask 32 32)
    let i := rows.headD 0
    let j := cols.headD 0
    let int := tagInt t.tel.tag
    let vr := missing int (t.tel.row.getD i 0) (without (t.rowOf i) j)
    let vc := missing int (t.tel.col.getD j 0) (without (t.colOf j) i)
    let nr := rows.length
    let nc := cols.length
    let cls :=
      if nr = 1 ∧ nc = 1 then (if checkPass (tolOf k t.tel.tag) vr vc then 1 else 6)
      else if nr = 1 ∧ nc = 0 then 2
      else if nr = 0 ∧ nc = 1 then 3
      else if (nr = 1 ∧ 2 ≤ nc) ∨ (nc = 1 ∧ 2 ≤ nr) then 4
      else if 2 ≤ nr ∧ 2 ≤ nc then 5
      else (Config.locClass nr nc).toNat
    { cls := cls, i := i, j := j, vr := vr }
/-- xd of TT.LOC. -/
def Located.word (l : Located) (ovr : Bool) : Word :=
  BitVec.ofNat 64 (l.cls + (if ovr then 8 else 0) + l.i * 2 ^ 8 + l.j * 2 ^ 16 +
    (if l.cls = 1 ∨ l.cls = 6 then l.vr.toNat * 2 ^ 32 else 0))

/-! ### Compression and scales (14 R306, R307) -/

/-- Rank of a word by magnitude: NaNs above every number and alike; ±0 alike. -/
def magnitude (int : Bool) (v : Nat) : Int :=
  if int then (toSigned 32 v).natAbs
  else match fmtF32.read v with
    | .nan _ _ _ => (2 : Int) ^ 400
    | .inf _ => (2 : Int) ^ 399
    | .fin _ m e => scaledInt false m e (-149)
/-- The two positions of four that rank highest, rising; of equal ranks the lower index. -/
def keepTwo (int : Bool) (g : List Nat) : Nat × Nat :=
  let r := g.map (magnitude int)
  let beats (a b : Nat) : Bool := decide (r.getD b 0 < r.getD a 0) || (r.getD a 0 == r.getD b 0 && decide (a < b))
  let kept := (List.range 4).filter (fun a => decide (((List.range 4).countP (fun b => b != a && beats b a)) < 2))
  (kept.getD 0 0, kept.getD 1 1)
/-- A row compressed to 2:4: sixteen kept values, their positions, zeros. -/
def compressRow (int : Bool) (row : List Nat) : List Nat :=
  let gs := (List.range 8).map (fun g => (row.drop (4 * g)).take 4)
  let ks := gs.map (keepTwo int)
  let vals := (List.zip gs ks).flatMap (fun p => [p.1.getD p.2.1 0, p.1.getD p.2.2 0])
  let md := ((ks.flatMap (fun k => [k.1, k.2])).mapIdx (fun p v => v * 2 ^ (2 * p))).sum
  vals ++ [md] ++ List.replicate 15 0
/-- G of R307. -/
def scaleBias : Ty → Int | .tf8 => 11 | .tf6 => 7 | .f16 => 14 | _ => 0
/-- σ of a tile and whether it holds a NaN or an infinity (14 R307). -/
def tileScale (t : Ty) (words : List Nat) : Int × Bool :=
  let vs := words.map fmtF32.read
  let exps := vs.filterMap (fun v => match v with | .fin _ m e => if m = 0 then none else some ((Nat.log2 m : Int) + e) | _ => none)
  let bad := vs.any (fun v => match v with | .fin _ _ _ => false | _ => true)
  match exps with
  | [] => (-128, bad)
  | e :: r => (max (-127) (min 127 (r.foldl max e - scaleBias t)), bad)

end Sys2Proof.Machine
end

