-- ==== Sys2Proof/Machine/Vector.lean ====
section
/-! DEFINITION. The vector engine's words (13 R264 to R293). Operands are read at issue, results, flags and
traps land at the latency of R268. -/

namespace Sys2Proof.Machine

/-! ### Shared parts -/

/-- Bookkeeping of a vector word. -/
def vecInfo (opc : BitVec 8) (cls : Nat) (ok : Bool) : Info := { grp := .cp, cls := cls, ok := ok, opc := opc }
/-- Energy class of arithmetic on a type (08 R202). -/
def arithCls (t : Ty) : Nat := if tyIsInt t then 4 else if t = .f64 then 6 else 5
/-- Latency of arithmetic on a type (13 R268). -/
def arithLat (t : Ty) : Nat := if tyIsInt t then 2 else if t = .f64 then 6 else 4
/-- log₂ of an element size. -/
def logSize (t : Ty) : Nat := match tySize t with | 1 => 0 | 2 => 1 | 4 => 2 | _ => 3
/-- Lane i of elements of w bytes is active (13 R265): its mask bit as it stands at issue. -/
def laneOn (x : Ctx) (ln : Lanes) (w i : Nat) : Bool :=
  match ln with
  | .all => true
  | .mk k => (x.st.sh.masks.getD k.toNat 0).getLsbD (i * w)
/-- The elements of a vector operand. -/
def elemsOf (x : Ctx) (s : Spec) (e : Nat) : List Nat := (chunksOf e (1024 / e) (x.readOp s 1024)).map leNat
/-- An element operand of 2^n bytes. -/
def elemOf (x : Ctx) (s : Spec) (n : Nat) : Nat := leNat (x.readOp s (2 ^ n))
/-- Rounding mode at issue (05 R90). -/
def modeAt (x : Ctx) (r : Rnd) : Rnd := modeOf r x.st.csr.frm

/-- Contiguous runs of what active lanes write. -/
def runsOf (e : Nat) : Nat → List (Option (List Byte)) → List (Nat × List Byte)
  | _, [] => []
  | o, none :: t => runsOf e (o + e) t
  | o, some b :: t =>
    match runsOf e (o + e) t with
    | (p, l) :: r => if p = o + e then (o, b ++ l) :: r else (o, b) :: (p, l) :: r
    | [] => [(o, b)]
/-- The landing of lanes of e bytes from an offset: inactive lanes write nothing. -/
def laneLands (off e : Nat) (vals : List (Option Nat)) : List Land :=
  (runsOf e off (vals.map (fun v => v.map (leBytes e)))).map (fun r => .reg r.1 r.2)
/-- Granules that lanes of e bytes from an offset write, each with its new poison (13 R271). -/
def poisonLands (off e : Nat) (written : List Bool) (bad : Nat → Bool) : List Land :=
  let gs := (List.range written.length).filterMap (fun i => if written.getD i false then some ((off + i * e) / 64) else none)
  gs.eraseDups.map (fun g => .granules g [bad g])
/-- Whether any granule of a 1 KiB operand is poisoned. -/
def vecPoison (x : Ctx) (s : Spec) : Bool := x.st.poisonedRange (x.st.opAddr s) 1024
/-- Poison of lane-wise results: granule g of the destination takes that of the same granule of the sources. -/
def sameGranule (x : Ctx) (d : Spec) (srcs : List Spec) (g : Nat) : Bool :=
  srcs.any (fun s => x.st.sh.granules.getLsbD (x.st.opAddr s / 64 + (g - x.st.opAddr d / 64)))

/-- The lowest active lane that reads a signalling NaN, where FTRAPEN.SNAN is set (05 R94; 13 R269). -/
def snanLane (x : Ctx) (t : Ty) (on : Nat → Bool) (srcs : List (List Nat)) : Option Nat :=
  if tyIsFloat t && x.st.csr.ftrapen.getLsbD 5 then
    (List.range (1024 / tySize t)).find? (fun i => on i && srcs.any (fun l => ((fmtOf t).read (l.getD i 0)).isSnan))
  else none
/-- FP_SNAN, precise at issue. -/
def snanFault (lane : Nat) : Effect := .fault .fpSnan (noAddr .fpSnan) (BitVec.ofNat 64 lane)

/-- Results, flags and a trap of a vector word, due n beats after issue (05 R92, R94): a trapped word writes
no destination, and its flags land all the same. -/
def vecLater (x : Ctx) (n : Nat) (lands : List Land) (r : Raised) : Strand :=
  match r.trap x.st.csr.ftrapen with
  | some (c, lane) => x.st.later x.q n [.flags r.flags] (some (x.st.mkTrap x.q c (noAddr c) (BitVec.ofNat 64 lane)))
  | none => x.st.later x.q n (lands ++ [.flags r.flags])
/-- The lanes that raise something. -/
def raisedBy (rs : List (Option Num1)) : Raised :=
  (List.zip (List.range rs.length) rs).filterMap (fun e =>
    match e.2 with
    | some r => if r.flags = 0#6 ∧ r.trap = false then none else some (e.1, r.flags, r.trap)
    | none => none)

/-- A lane-wise word (13 R272): `srcs` are the operands whose elements f takes, the first two from a and b;
`snan` says whether it reads floats for R94. -/
def laneWise (s : State) (h : Head) (i : Info) (ops : List Opnd) (lat : Nat) (t : Ty) (d : Spec) (srcs : List Spec)
    (ln : Lanes) (snan : Bool) (f : Ctx → Nat → Nat → Nat → Num1) : Outcome :=
  issue s h i (operands ops) (fun x =>
    let e := tySize t
    let on := laneOn x ln e
    let vals := srcs.map (fun sp => elemsOf x sp e)
    match if snan then snanLane x t on vals else none with
    | some l => snanFault l
    | none =>
      let a := vals.getD 0 []
      let b := vals.getD 1 a
      let c := vals.getD 2 a
      let idx := List.range (1024 / e)
      let rs := (List.zip idx (List.zip a (List.zip b c))).map (fun p =>
        if on p.1 then some (f x p.2.1 p.2.2.1 p.2.2.2) else none)
      let off := x.st.opAddr d
      x.done (vecLater x lat (laneLands off e (rs.map (fun r => r.map (·.bits))) ++
        poisonLands off e (rs.map (·.isSome)) (sameGranule x d srcs)) (raisedBy rs)))

/-- A lane-wise word of two sources. -/
def lane2 (s : State) (h : Head) (i : Info) (lat : Nat) (t : Ty) (d a b : Spec) (ln : Lanes) (snan : Bool)
    (f : Ctx → Nat → Nat → Num1) : Outcome :=
  laneWise s h i [vsrc a, vsrc b, vdst d] lat t d [a, b] ln snan (fun x u v _ => f x u v)
/-- A lane-wise word of one source. -/
def lane1 (s : State) (h : Head) (i : Info) (lat : Nat) (t : Ty) (d a : Spec) (ln : Lanes) (snan : Bool)
    (f : Ctx → Nat → Num1) : Outcome :=
  laneWise s h i [vsrc a, vdst d] lat t d [a] ln snan (fun x u _ _ => f x u)
/-- A fused word: d is read as well, and is no source for R68. -/
def fused (s : State) (h : Head) (i : Info) (t : Ty) (d a b : Spec) (ln : Lanes) (f : Ctx → Nat → Nat → Nat → Num1) : Outcome :=
  laneWise s h i [vsrc a, vsrc b, vdst d] (arithLat t) t d [a, b, d] ln true f

/-! ### Arithmetic (13 R272 to R274) -/

/-- Sum or difference of one lane. -/
def addLane (t : Ty) (mode : Rnd) (ovf : Ovf) (sub : Bool) (a b : Nat) : Num1 :=
  if tyIsInt t then intResult t ovf (if sub then readInt t a - readInt t b else readInt t a + readInt t b)
  else fAdd (fmtOf t) mode ovf sub a b
/-- Product of one lane. -/
def mulLane (t : Ty) (mode : Rnd) (ovf : Ovf) (a b : Nat) : Num1 :=
  if tyIsInt t then intResult t ovf (readInt t a * readInt t b) else fMul (fmtOf t) mode ovf a b
/-- Minimum or maximum of one lane (13 R274). -/
def minMaxLane (t : Ty) (isMax : Bool) (a b : Nat) : Num1 :=
  if tyIsInt t then
    .plain (if (if isMax then decide (readInt t a < readInt t b) else decide (readInt t b < readInt t a)) then b else a)
  else fMinMax (fmtOf t) isMax a b
/-- Absolute value of one lane: on N types it is the element. -/
def absLane (t : Ty) (ovf : Ovf) (a : Nat) : Num1 :=
  if tyIsInt t then (if tyIsSigned t then intResult t ovf (readInt t a).natAbs else .plain a)
  else .plain (a % 2 ^ (tyBits t - 1))
/-- Negation of one lane. -/
def negLane (t : Ty) (ovf : Ovf) (a : Nat) : Num1 :=
  if tyIsInt t then intResult t ovf (0 - readInt t a) else .plain (a ^^^ 2 ^ (tyBits t - 1))

/-- VADD. -/
def execVadd (h : Head) (ty : Ty) (rnd : Rnd) (ovf : Ovf) (d a b : Spec) (ln : Lanes) (s : State) : Outcome :=
  lane2 s h (vecInfo 0x60 (arithCls ty) (Instr.wf (.vadd h ty rnd ovf d a b ln))) (arithLat ty) ty d a b ln true
    (fun x u v => addLane ty (modeAt x rnd) ovf false u v)
/-- VSUB. -/
def execVsub (h : Head) (ty : Ty) (rnd : Rnd) (ovf : Ovf) (d a b : Spec) (ln : Lanes) (s : State) : Outcome :=
  lane2 s h (vecInfo 0x61 (arithCls ty) (Instr.wf (.vsub h ty rnd ovf d a b ln))) (arithLat ty) ty d a b ln true
    (fun x u v => addLane ty (modeAt x rnd) ovf true u v)
/-- VMUL. -/
def execVmul (h : Head) (ty : Ty) (rnd : Rnd) (ovf : Ovf) (d a b : Spec) (ln : Lanes) (s : State) : Outcome :=
  lane2 s h (vecInfo 0x62 (arithCls ty) (Instr.wf (.vmul h ty rnd ovf d a b ln))) (arithLat ty) ty d a b ln true
    (fun x u v => mulLane ty (modeAt x rnd) ovf u v)
/-- VFMA. -/
def execVfma (h : Head) (ty : Ty) (rnd : Rnd) (ovf : Ovf) (d a b : Spec) (ln : Lanes) (s : State) : Outcome :=
  fused s h (vecInfo 0x63 (arithCls ty) (Instr.wf (.vfma h ty rnd ovf d a b ln))) ty d a b ln
    (fun x u v w => fFma (fmtOf ty) (modeAt x rnd) ovf false false u v w)
/-- VFMS. -/
def execVfms (h : Head) (ty : Ty) (rnd : Rnd) (ovf : Ovf) (d a b : Spec) (ln : Lanes) (s : State) : Outcome :=
  fused s h (vecInfo 0x64 (arithCls ty) (Instr.wf (.vfms h ty rnd ovf d a b ln))) ty d a b ln
    (fun x u v w => fFma (fmtOf ty) (modeAt x rnd) ovf false true u v w)
/-- VFNMA. -/
def execVfnma (h : Head) (ty : Ty) (rnd : Rnd) (ovf : Ovf) (d a b : Spec) (ln : Lanes) (s : State) : Outcome :=
  fused s h (vecInfo 0x65 (arithCls ty) (Instr.wf (.vfnma h ty rnd ovf d a b ln))) ty d a b ln
    (fun x u v w => fFma (fmtOf ty) (modeAt x rnd) ovf true false u v w)

/-- Latency of the division family. -/
def divLat (t : Ty) : Nat := if t = .f64 then 24 else 16
/-- VDIV. -/
def execVdiv (h : Head) (ty : Ty) (rnd : Rnd) (ovf : Ovf) (d a b : Spec) (ln : Lanes) (s : State) : Outcome :=
  lane2 s h (vecInfo 0x66 7 (Instr.wf (.vdiv h ty rnd ovf d a b ln))) (divLat ty) ty d a b ln true
    (fun x u v => fDiv (fmtOf ty) (modeAt x rnd) ovf u v)
/-- VSQRT. -/
def execVsqrt (h : Head) (ty : Ty) (rnd : Rnd) (ovf : Ovf) (d a : Spec) (ln : Lanes) (s : State) : Outcome :=
  lane1 s h (vecInfo 0x67 7 (Instr.wf (.vsqrt h ty rnd ovf d a ln))) (divLat ty) ty d a ln true
    (fun x u => fSqrt (fmtOf ty) (modeAt x rnd) ovf u)
/-- VRCP. -/
def execVrcp (h : Head) (ty : Ty) (rnd : Rnd) (ovf : Ovf) (d a : Spec) (ln : Lanes) (s : State) : Outcome :=
  lane1 s h (vecInfo 0x68 7 (Instr.wf (.vrcp h ty rnd ovf d a ln))) (divLat ty) ty d a ln true
    (fun x u => fRcp (fmtOf ty) (modeAt x rnd) ovf u)
/-- VRSQ. -/
def execVrsq (h : Head) (ty : Ty) (rnd : Rnd) (ovf : Ovf) (d a : Spec) (ln : Lanes) (s : State) : Outcome :=
  lane1 s h (vecInfo 0x69 7 (Instr.wf (.vrsq h ty rnd ovf d a ln))) (divLat ty) ty d a ln true
    (fun x u => fRsq (fmtOf ty) (modeAt x rnd) ovf u)
/-- VEXP2. -/
def execVexp2 (h : Head) (ty : Ty) (rnd : Rnd) (ovf : Ovf) (d a : Spec) (ln : Lanes) (s : State) : Outcome :=
  lane1 s h (vecInfo 0x80 7 (Instr.wf (.vexp2 h ty rnd ovf d a ln))) (divLat ty) ty d a ln true
    (fun x u => fExp2 (fmtOf ty) (modeAt x rnd) ovf u)
/-- VLOG2. -/
def execVlog2 (h : Head) (ty : Ty) (rnd : Rnd) (ovf : Ovf) (d a : Spec) (ln : Lanes) (s : State) : Outcome :=
  lane1 s h (vecInfo 0x81 7 (Instr.wf (.vlog2 h ty rnd ovf d a ln))) (divLat ty) ty d a ln true
    (fun x u => fLog2 (fmtOf ty) (modeAt x rnd) ovf u)
/-- VMIN. -/
def execVmin (h : Head) (ty : Ty) (d a b : Spec) (ln : Lanes) (s : State) : Outcome :=
  lane2 s h (vecInfo 0x6A (arithCls ty) (Instr.wf (.vmin h ty d a b ln))) (arithLat ty) ty d a b ln true
    (fun _ u v => minMaxLane ty false u v)
/-- VMAX. -/
def execVmax (h : Head) (ty : Ty) (d a b : Spec) (ln : Lanes) (s : State) : Outcome :=
  lane2 s h (vecInfo 0x6B (arithCls ty) (Instr.wf (.vmax h ty d a b ln))) (arithLat ty) ty d a b ln true
    (fun _ u v => minMaxLane ty true u v)
/-- Latency of VABS and VNEG. -/
def signLat (t : Ty) : Nat := if tyIsInt t then 2 else 1
/-- VABS: on floats it moves bits (13 R269). -/
def execVabs (h : Head) (ty : Ty) (ovf : Ovf) (d a : Spec) (ln : Lanes) (s : State) : Outcome :=
  lane1 s h (vecInfo 0x6C (arithCls ty) (Instr.wf (.vabs h ty ovf d a ln))) (signLat ty) ty d a ln false
    (fun _ u => absLane ty ovf u)
/-- VNEG. -/
def execVneg (h : Head) (ty : Ty) (ovf : Ovf) (d a : Spec) (ln : Lanes) (s : State) : Outcome :=
  lane1 s h (vecInfo 0x6D (arithCls ty) (Instr.wf (.vneg h ty ovf d a ln))) (signLat ty) ty d a ln false
    (fun _ u => negLane ty ovf u)

/-! ### Compare and select (13 R275, R276) -/

/-- A comparison of one lane. -/
def cmpLane (t : Ty) (c : VCond) (a b : Nat) : Bool × BitVec 6 :=
  if tyIsInt t then
    ((match c with
      | .eq => a == b
      | .ne => a != b
      | .lt => decide (readInt t a < readInt t b)
      | .le => decide (readInt t a ≤ readInt t b)
      | .un => false), 0)
  else fCmp (fmtOf t) c a b
/-- Writes the e mask bits of each active lane. -/
def maskWrite (e : Nat) (old : BitVec 1024) (bits : List (Nat × Bool)) : BitVec 1024 :=
  bits.foldl (fun m p =>
    let ones : BitVec 1024 := BitVec.ofNat 1024 ((2 ^ e - 1) * 2 ^ (p.1 * e))
    if p.2 then m ||| ones else m &&& ~~~ ones) old
/-- Which bits of a mask the active lanes write. -/
def maskLanes (e : Nat) (lanes : List Nat) : BitVec 1024 :=
  lanes.foldl (fun m i => m ||| BitVec.ofNat 1024 ((2 ^ e - 1) * 2 ^ (i * e))) 0
/-- VCMP: inactive lanes leave their mask bits; a poisoned granule that an active lane reads is consumed
(13 R271). -/
def execVcmp (h : Head) (c : VCond) (ty : Ty) (m : BitVec 2) (a b : Spec) (ln : Lanes) (s : State) : Outcome :=
  issue s h (vecInfo 0x6E 4 (Instr.wf (.vcmp h c ty m a b ln))) (operands [vsrc a, vsrc b]) (fun x =>
    let e := tySize ty
    let on := laneOn x ln e
    let va := elemsOf x a e
    let vb := elemsOf x b e
    let lanes := (List.range (1024 / e)).filter on
    match snanLane x ty on [va, vb] with
    | some l => snanFault l
    | none =>
      if lanes.any (fun i => x.st.poisonedRange (x.st.opAddr a + i * e) e || x.st.poisonedRange (x.st.opAddr b + i * e) e) then
        trapNow .poisonConsumed
      else
        let rs := (List.zip (List.range (1024 / e)) (List.zip va vb)).filterMap (fun p =>
          if on p.1 then some (p.1, cmpLane ty c p.2.1 p.2.2) else none)
        let raised : Raised := rs.filterMap (fun r => if r.2.2 = 0#6 then none else some (r.1, r.2.2, false))
        x.done (vecLater x (arithLat ty)
          [.mask m.toNat (maskLanes e lanes) (maskWrite e 0 (rs.map (fun r => (r.1, r.2.1))))] raised))
/-- VSEL: every lane is written. -/
def execVsel (h : Head) (ty : Ty) (d a b : Spec) (m : BitVec 2) (s : State) : Outcome :=
  issue s h (vecInfo 0x6F 4 (Instr.wf (.vsel h ty d a b m))) (operands [vsrc a, vsrc b, vdst d]) (fun x =>
    let e := tySize ty
    let rs := (List.zip (List.range (1024 / e)) (List.zip (elemsOf x a e) (elemsOf x b e))).map (fun p =>
      some (if laneOn x (.mk m) e p.1 then p.2.1 else p.2.2))
    let off := x.st.opAddr d
    x.done (vecLater x 1 (laneLands off e rs ++ poisonLands off e (rs.map (·.isSome)) (sameGranule x d [a, b])) []))

/-! ### Bitwise and shifts (13 R277) -/

/-- VAND. -/
def execVand (h : Head) (ty : Ty) (d a b : Spec) (ln : Lanes) (s : State) : Outcome :=
  lane2 s h (vecInfo 0x70 4 (Instr.wf (.vand h ty d a b ln))) 1 ty d a b ln false (fun _ u v => .plain (u &&& v))
/-- VOR. -/
def execVor (h : Head) (ty : Ty) (d a b : Spec) (ln : Lanes) (s : State) : Outcome :=
  lane2 s h (vecInfo 0x71 4 (Instr.wf (.vor h ty d a b ln))) 1 ty d a b ln false (fun _ u v => .plain (u ||| v))
/-- VXOR. -/
def execVxor (h : Head) (ty : Ty) (d a b : Spec) (ln : Lanes) (s : State) : Outcome :=
  lane2 s h (vecInfo 0x72 4 (Instr.wf (.vxor h ty d a b ln))) 1 ty d a b ln false (fun _ u v => .plain (u ^^^ v))
/-- VSHL. -/
def execVshl (h : Head) (ty : Ty) (d a b : Spec) (ln : Lanes) (s : State) : Outcome :=
  lane2 s h (vecInfo 0x73 4 (Instr.wf (.vshl h ty d a b ln))) 2 ty d a b ln false
    (fun _ u v => .plain (u * 2 ^ (v % tyBits ty) % 2 ^ tyBits ty))
/-- VSHR. -/
def execVshr (h : Head) (ty : Ty) (d a b : Spec) (ln : Lanes) (s : State) : Outcome :=
  lane2 s h (vecInfo 0x74 4 (Instr.wf (.vshr h ty d a b ln))) 2 ty d a b ln false
    (fun _ u v => .plain (u / 2 ^ (v % tyBits ty)))
/-- VSRA: sign fill. -/
def execVsra (h : Head) (ty : Ty) (d a b : Spec) (ln : Lanes) (s : State) : Outcome :=
  lane2 s h (vecInfo 0x75 4 (Instr.wf (.vsra h ty d a b ln))) 2 ty d a b ln false
    (fun _ u v => .plain (wrapBits (tyBits ty) (toSigned (tyBits ty) u / 2 ^ (v % tyBits ty))))

/-! ### Conversion (13 R278) -/

/-- VCVT: the narrower operand uses part p of its kilobyte. -/
def execVcvt (h : Head) (td ts : Ty) (rnd : Rnd) (ovf : Ovf) (d a : Spec) (part : BitVec 3) (ln : Lanes) (s : State) : Outcome :=
  issue s h (vecInfo 0x76 8 (Instr.wf (.vcvt h td ts rnd ovf d a part ln))) (operands [vsrc a, vdst d]) (fun x =>
    let es := tySize ts
    let ed := tySize td
    let w := max es ed
    let n := 1024 / w
    let on := laneOn x ln w
    let so := if es < w then part.toNat * n * es else 0
    let off := x.st.opAddr d + (if ed < w then part.toNat * n * ed else 0)
    let src := (chunksOf es n ((x.readOp a 1024).drop so)).map leNat
    match snanLane x ts (fun i => decide (i < n) && on i) [src] with
    | some l => snanFault l
    | none =>
      let rs := (List.zip (List.range n) src).map (fun p =>
        if on p.1 then some (convert td ts (modeAt x rnd) ovf p.2) else none)
      let bad (g : Nat) : Bool := (List.range n).any (fun i =>
        on i && decide ((off + i * ed) / 64 = g) && x.st.poisonedRange (x.st.opAddr a + so + i * es) es)
      x.done (vecLater x 3 (laneLands off ed (rs.map (fun r => r.map (·.bits))) ++
        poisonLands off ed (rs.map (·.isSome)) bad) (raisedBy rs)))

/-! ### Reductions, scans and movement (13 R279 to R287) -/

/-- The identity of a reduction (13 R279). -/
def identityOf (op : RedOp) (t : Ty) : Nat :=
  let f := fmtOf t
  match op with
  | .add | .or | .xor => 0
  | .and => 2 ^ tyBits t - 1
  | .min => if tyIsInt t then wrapBits (tyBits t) (mostOf t) else f.inf
  | .max => if tyIsInt t then wrapBits (tyBits t) (leastOf t) else f.sign true + f.inf
/-- One pairing (13 R279). -/
def pairOp (op : RedOp) (t : Ty) (mode : Rnd) (ovf : Ovf) (a b : Nat) : Num1 :=
  match op with
  | .add => addLane t mode ovf false a b
  | .min => minMaxLane t false a b
  | .max => minMaxLane t true a b
  | .and => .plain (a &&& b)
  | .or => .plain (a ||| b)
  | .xor => .plain (a ^^^ b)
/-- One level of the tree (05 R99): a node is a value and its lowest present leaf. DESIGN CHOICE (log 74): a pairing that
overflows under OVF=.TRAP has no result (05 R95); it hands bits 0 on to the pairings above, whose flags are ORed too. -/
def treeLevel (f : Nat → Nat → Num1) : List (Option (Nat × Nat)) → List (Option (Nat × Nat)) × Raised
  | a :: b :: t =>
    let (l, r) := treeLevel f t
    match a, b with
    | some (v, i), some (w, _) =>
      let z := f v w
      (some (z.bits, i) :: l, if z.flags = 0#6 ∧ z.trap = false then r else (i, z.flags, z.trap) :: r)
    | some v, none => (some v :: l, r)
    | none, o => (o :: l, r)
  | [a] => ([a], [])
  | [] => ([], [])
/-- The whole tree, level by level. -/
def treeFold (f : Nat → Nat → Num1) : Nat → List (Option (Nat × Nat)) → Option Nat × Raised
  | 0, l => ((l.headD none).map (·.1), [])
  | n + 1, l =>
    match l with
    | [] => (none, [])
    | [a] => (a.map (·.1), [])
    | l =>
      let (l2, r) := treeLevel f l
      let (v, r2) := treeFold f n l2
      (v, r ++ r2)
/-- VRED. -/
def execVred (h : Head) (op : RedOp) (ty : Ty) (rnd : Rnd) (ovf : Ovf) (d a : Spec) (ln : Lanes) (s : State) : Outcome :=
  issue s h (vecInfo 0x77 8 (Instr.wf (.vred h op ty rnd ovf d a ln))) (operands [vsrc a, edst d (logSize ty)]) (fun x =>
    let e := tySize ty
    let on := laneOn x ln e
    let va := elemsOf x a e
    match snanLane x ty on [va] with
    | some l => snanFault l
    | none =>
      let leaves := (List.zip (List.range (1024 / e)) va).map (fun p => if on p.1 then some (p.2, p.1) else none)
      let (v, raised) := treeFold (pairOp op ty (modeAt x rnd) ovf) 11 leaves
      let off := x.st.opAddr d
      x.done (vecLater x 8 (laneLands off e [some (v.getD (identityOf op ty))] ++
        poisonLands off e [true] (fun _ => vecPoison x a)) raised))
/-- VSCAN's operation as a reduction's. -/
def scanRed : ScanOp → RedOp | .add => .add | .min => .min | .max => .max
/-- The inclusive prefix (13 R280). -/
def scanFrom (f : Nat → Nat → Num1) (ident : Nat) : Option Nat → List (Nat × Option Nat) → List Nat × Raised
  | _, [] => ([], [])
  | acc, (_, none) :: t =>
    let (l, r) := scanFrom f ident acc t
    (acc.getD ident :: l, r)
  | none, (_, some v) :: t =>
    let (l, r) := scanFrom f ident (some v) t
    (v :: l, r)
  | some w, (i, some v) :: t =>
    let z := f w v
    let (l, r) := scanFrom f ident (some z.bits) t
    (z.bits :: l, if z.flags = 0#6 ∧ z.trap = false then r else (i, z.flags, z.trap) :: r)
/-- A word whose every destination granule takes poison from any source granule, writing these elements. -/
def wholeWrite (x : Ctx) (lat : Nat) (d : Spec) (e : Nat) (vals : List (Option Nat)) (bad : Bool) (raised : Raised) : Effect :=
  let off := x.st.opAddr d
  x.done (vecLater x lat (laneLands off e vals ++ poisonLands off e (vals.map (·.isSome)) (fun _ => bad)) raised)
/-- VSCAN: every lane of d is written. -/
def execVscan (h : Head) (op : ScanOp) (ty : Ty) (rnd : Rnd) (ovf : Ovf) (d a : Spec) (ln : Lanes) (s : State) : Outcome :=
  issue s h (vecInfo 0x78 8 (Instr.wf (.vscan h op ty rnd ovf d a ln))) (operands [vsrc a, vdst d]) (fun x =>
    let e := tySize ty
    let on := laneOn x ln e
    let va := elemsOf x a e
    match snanLane x ty on [va] with
    | some l => snanFault l
    | none =>
      let (l, raised) := scanFrom (pairOp (scanRed op) ty (modeAt x rnd) ovf) (identityOf (scanRed op) ty) none
        ((List.zip (List.range (1024 / e)) va).map (fun p => (p.1, if on p.1 then some p.2 else none)))
      wholeWrite x 10 d e (l.map some) (vecPoison x a) raised)
/-- VCOMPACT. -/
def execVcompact (h : Head) (ty : Ty) (d a : Spec) (ln : Lanes) (s : State) : Outcome :=
  issue s h (vecInfo 0x79 8 (Instr.wf (.vcompact h ty d a ln))) (operands [vsrc a, vdst d]) (fun x =>
    let e := tySize ty
    let n := 1024 / e
    let kept := (List.zip (List.range n) (elemsOf x a e)).filterMap (fun p => if laneOn x ln e p.1 then some p.2 else none)
    wholeWrite x 10 d e ((kept ++ List.replicate (n - kept.length) 0).map some) (vecPoison x a) [])
/-- VPERM. -/
def execVperm (h : Head) (ty : Ty) (d a b : Spec) (ln : Lanes) (s : State) : Outcome :=
  issue s h (vecInfo 0x7A 8 (Instr.wf (.vperm h ty d a b ln))) (operands [vsrc a, vsrc b, vdst d]) (fun x =>
    let e := tySize ty
    let va := elemsOf x a e
    let rs := (List.zip (List.range (1024 / e)) (elemsOf x b e)).map (fun p =>
      if laneOn x ln e p.1 then some (va.getD p.2 0) else none)
    wholeWrite x 4 d e rs (vecPoison x a || vecPoison x b) [])
/-- VLUT: b is a table, byte i of a the index of lane i. -/
def execVlut (h : Head) (ty : Ty) (d a b : Spec) (ln : Lanes) (s : State) : Outcome :=
  issue s h (vecInfo 0x7F 8 (Instr.wf (.vlut h ty d a b ln))) (operands [vsrc a, vsrc b, vdst d]) (fun x =>
    let e := tySize ty
    let table := elemsOf x b e
    let rs := (List.zip (List.range (1024 / e)) (x.readOp a 1024)).map (fun p =>
      if laneOn x ln e p.1 then some (table.getD p.2.toNat 0) else none)
    wholeWrite x 3 d e rs (vecPoison x a || vecPoison x b) [])
/-- VMOV. -/
def execVmov (h : Head) (ty : Ty) (d a : Spec) (ln : Lanes) (s : State) : Outcome :=
  lane1 s h (vecInfo 0x7B 4 (Instr.wf (.vmov h ty d a ln))) 1 ty d a ln false (fun _ u => .plain u)
/-- VMOVI's element (13 R284). -/
def immElem (t : Ty) (imm : BitVec 32) : Nat :=
  match t with
  | .i64 => (imm.signExtend 64).toNat
  | .f64 =>
    (match fmtF32.read imm.toNat with
      | .nan n _ fr => carryNan fmtF32 fmtF64 n fr
      | v => (deliver fmtF64 .rn .inf v).bits)
  | t => imm.toNat % 2 ^ tyBits t
/-- VMOVI: every lane is active, the data unpoisoned. -/
def execVmovi (h : Head) (ty : Ty) (d : Spec) (imm : BitVec 32) (s : State) : Outcome :=
  issue s h (vecInfo 0x7C 4 (Instr.wf (.vmovi h ty d imm))) (operands [vdst d]) (fun x =>
    wholeWrite x 1 d (tySize ty) (List.replicate (1024 / tySize ty) (some (immElem ty imm))) false [])
/-- Exclusive prefix counts of lanes. -/
def countFrom (on : Nat → Bool) : Nat → List Nat → List Nat
  | _, [] => []
  | c, i :: t => c :: countFrom on (if on i then c + 1 else c) t
/-- VIOTA: every lane is written. -/
def execViota (h : Head) (ty : Ty) (d : Spec) (ln : Lanes) (s : State) : Outcome :=
  issue s h (vecInfo 0x7D 4 (Instr.wf (.viota h ty d ln))) (operands [vdst d]) (fun x =>
    let e := tySize ty
    let l := countFrom (laneOn x ln e) 0 (List.range (1024 / e))
    wholeWrite x 2 d e (l.map (fun v => some (v % 2 ^ tyBits ty))) false [])
/-- VQPOP: pops q3 at issue, even when no lane is active. -/
def execVqpop (h : Head) (ty : Ty) (d : Spec) (ln : Lanes) (s : State) : Outcome :=
  issue s h (vecInfo 0x7E 4 (Instr.wf (.vqpop h ty d ln))) (operands [vdst d]) (fun x =>
    match x.st.sh.q3 with
    | [] => .block (some .queueImbalance) .none x.chip
    | v :: rest =>
      let e := tySize ty
      let x1 : Ctx := { x with st := { x.st with sh := { x.st.sh with q3 := rest } } }
      let vals := (List.range (1024 / e)).map (fun i => if laneOn x ln e i then some (v.toNat % 2 ^ tyBits ty) else none)
      wholeWrite x1 1 d e vals false [])
/-- The class bit of a value (13 R287). -/
def classBit (f : Fmt) (bits : Nat) : Nat :=
  match f.read bits with
  | .nan _ q _ => if q then 1 else 0
  | .inf n => if n then 2 else 9
  | .fin n m _ =>
    if m = 0 then (if n then 5 else 6)
    else if m < 2 ^ f.fb then (if n then 4 else 7)
    else (if n then 3 else 8)
/-- VCLASS. -/
def execVclass (h : Head) (ty : Ty) (d a : Spec) (ln : Lanes) (s : State) : Outcome :=
  lane1 s h (vecInfo 0x82 8 (Instr.wf (.vclass h ty d a ln))) 1 ty d a ln false (fun _ u => .plain (2 ^ classBit (fmtOf ty) u))

/-! ### FP64 by integer slices (05 R101, R102; 13 R288 to R291) -/

/-- A row is special. -/
def rowSpecial (e : Int) : Bool := decide ((2 : Int) ^ 61 ≤ e)
/-- The exponent a scale word stands for: an empty row is split as −3. -/
def rowExp (e : Int) : Int := if e ≤ -((2 : Int) ^ 61) then -3 else e
/-- Least integer with |x| < 2^e, of a finite nonzero value. -/
def expAbove (m : Nat) (e : Int) : Int := (Nat.log2 m : Int) + 1 + e
/-- The row exponent of the active elements (13 R288). -/
def rowExpOf (vals : List Val) : Int :=
  if vals.any (fun v => match v with | .fin _ _ _ => false | _ => true) then (2 : Int) ^ 62
  else vals.foldl (fun acc v => match v with | .fin _ m e => if m = 0 then acc else max acc (expAbove m e) | _ => acc) (-((2 : Int) ^ 62))
/-- VSPLIT.EXP: the greatest exponent stays in d. INVALID only for a signalling NaN. -/
def execVsplitExp (h : Head) (d a : Spec) (ln : Lanes) (s : State) : Outcome :=
  issue s h (vecInfo 0x83 8 true) (operands [vsrc a, edst d 3]) (fun x =>
    let on := laneOn x ln 8
    let va := elemsOf x a 8
    match snanLane x .f64 on [va] with
    | some l => snanFault l
    | none =>
      let act := (List.zip (List.range 128) va).filter (fun p => on p.1)
      let e := rowExpOf (act.map (fun p => fmtF64.read p.2))
      let old := toSigned 64 (elemOf x d 3)
      let raised : Raised := act.filterMap (fun p => if (fmtF64.read p.2).isSnan then some (p.1, fInvalid, false) else none)
      wholeWrite x 3 d 8 [some (wrapBits 64 (max old e))] (vecPoison x a || x.st.poisonedRange (x.st.opAddr d) 8) raised)
/-- The slices d[1..s] of m × 2^e under a scale 2^(exp + 3), and whether a residual is left (05 R101): ρ as a
numerator over 2^den. -/
def slicesFrom (num : Int) (den : Nat) : Nat → List Int × Bool
  | 0 => ([], num != 0)
  | n + 1 =>
    let v := num * 128
    let k := v / 2 ^ den
    let r := (v % 2 ^ den).toNat
    let k := if 2 ^ den < 2 * r ∨ (2 * r = 2 ^ den ∧ k % 2 = 1) then k + 1 else k
    let (l, left) := slicesFrom (v - k * 2 ^ den) den n
    (k :: l, left)
/-- Slices of a value below 2^exp in magnitude. A value far below the last slice leaves only a residual. -/
def slicesOf (neg : Bool) (m : Nat) (e exp : Int) (n : Nat) : List Int × Bool :=
  let den := exp + 3 - e
  if m = 0 then (List.replicate n 0, false)
  else if exp - expAbove m e > 7 * n then (List.replicate n 0, true)
  else slicesFrom (if neg then -(m : Int) else m) den.toNat n
/-- What VSPLIT makes of one element: its slices and flags. -/
def splitElem (bits : Nat) (scale : Int) (n : Nat) : List Int × BitVec 6 :=
  match fmtF64.read bits with
  | .fin neg m e =>
    if m ≠ 0 ∧ rowExp scale < expAbove m e then (List.replicate n 0, fInvalid)
    else if rowSpecial scale then (List.replicate n 0, 0)
    else
      let (l, left) := slicesOf neg m e (rowExp scale) n
      (l, if left then (if m < 2 ^ 52 then fInexact ||| fUnderflow else fInexact) else 0)
  | _ => (List.replicate n 0, fInvalid)
/-- VSPLIT: slice t of element k goes to byte 128 (t − 1) + k. -/
def execVsplit (h : Head) (d a b : Spec) (sl : BitVec 4) (ln : Lanes) (s : State) : Outcome :=
  issue s h (vecInfo 0x83 8 (Instr.wf (.vsplit h d a b sl ln))) (operands [vsrc a, esrc b 3, vdst d]) (fun x =>
    let on := laneOn x ln 8
    let va := elemsOf x a 8
    match snanLane x .f64 on [va] with
    | some l => snanFault l
    | none =>
      let scale := toSigned 64 (elemOf x b 3)
      let parts := (List.zip (List.range 128) va).map (fun p =>
        if on p.1 then some (splitElem p.2 scale sl.toNat) else none)
      let vals := (List.range 8).flatMap (fun t => parts.map (fun p => p.map (fun q => wrapBits 8 (q.1.getD t 0))))
      let raised : Raised := (List.zip (List.range 128) parts).filterMap (fun p =>
        match p.2 with | some q => if q.2 = 0#6 then none else some (p.1, q.2, false) | none => none)
      wholeWrite x 3 d 1 vals (vecPoison x a || x.st.poisonedRange (x.st.opAddr b) 8) raised)
/-- VCOMB.ACC: one slice product into the 128-bit accumulators. -/
def execVcombAcc (h : Head) (d a : Spec) (w : BitVec 4) (q : BitVec 2) (clr : Bool) (ln : Lanes) (s : State) : Outcome :=
  issue s h (vecInfo 0x84 8 (Instr.wf (.vcombAcc h d a w q clr ln))) (operands [vsrc a, vdst d]) (fun x =>
    let on := laneOn x ln 16
    let acc := elemsOf x d 16
    let p := (elemsOf x a 4).drop (64 * q.toNat)
    let rs := (List.zip (List.range 64) (List.zip acc p)).map (fun v =>
      if on v.1 then
        let n := (if clr then 0 else toSigned 128 v.2.1) + toSigned 32 v.2.2 * 2 ^ (63 - 7 * w.toNat)
        let fl : BitVec 6 := if -(2 : Int) ^ 127 ≤ n ∧ n < 2 ^ 127 then 0 else fIov
        some (⟨wrapBits 128 n, fl, false⟩ : Num1)
      else none)
    wholeWrite x 2 d 16 (rs.map (fun r => r.map (·.bits))) (vecPoison x a || (!clr && vecPoison x d)) (raisedBy rs))
/-- VCOMB.FIN: one rounding of each accumulator under its row's and column's scale. -/
def execVcombFin (h : Head) (rnd : Rnd) (ovf : Ovf) (d a b : Spec) (r : BitVec 4) (hh : Bool) (ln : Lanes) (s : State) : Outcome :=
  issue s h (vecInfo 0x84 8 (Instr.wf (.vcombFin h rnd ovf d a b r hh ln))) (operands [vsrc a, vsrc b, vdst d]) (fun x =>
    let on := laneOn x ln 16
    let scales := (elemsOf x b 8).map (toSigned 64)
    let rs := (List.zip (List.range 64) (elemsOf x a 16)).map (fun v =>
      if on v.1 then
        let e := scales.getD (32 + 2 * r.toNat + v.1 / 32) 0
        let f := scales.getD (v.1 % 32) 0
        let n := toSigned 128 v.2
        some (if rowSpecial e || rowSpecial f then invalidOp fmtF64
          else roundVal fmtF64 (modeAt x rnd) ovf (decide (n < 0)) n.natAbs (rowExp e + rowExp f + 6 - 63))
      else none)
    let off := x.st.opAddr d + (if hh then 512 else 0)
    x.done (vecLater x 6 (laneLands off 8 (rs.map (fun v => v.map (·.bits))) ++
      poisonLands off 8 (rs.map (·.isSome)) (fun _ => vecPoison x a || vecPoison x b)) (raisedBy rs)))

end Sys2Proof.Machine
end

