-- ==== Sys2Proof/Machine/Matrix.lean ====
section
/-! DEFINITION. The matrix engine's words (14 R294 to R313), Telltale's words (15 R323 to R327), and what of
them lands later. -/

namespace Sys2Proof.Machine

/-! ### Tiles in CBUF -/

/-- Telltale data of a tile. -/
def Core.tile (k : Core) (c : Nat) : Tile := k.tiles.getD c Tile.clear
/-- Address of a tile. -/
def tileAddr (core c : Nat) : Nat := cbufAddr core + 4096 * c
/-- A tile as it stands. -/
def readTile (m : Memory) (ch : Chip) (core c : Nat) : CTile :=
  { words := (chunksOf 4 1024 (m.readBytes (tileAddr core c) 4096)).map leNat, tel := (ch.core core).tile c }
/-- A tile written whole. -/
def writeTile (r : Res) (core c : Nat) (t : CTile) : Res :=
  let k := r.chip.core core
  { chip := r.chip.setCore core { k with tiles := k.tiles.set c t.tel },
    writes := r.writes ++ [(tileAddr core c, t.words.flatMap (leBytes 4))] }

/-! ### MMA and MMAS (14 R295 to R305) -/

/-- Bookkeeping of a matrix word. -/
def matInfo (opc : BitVec 8) (cls : Nat) (ok : Bool) (late : Bool := false) : Info :=
  { grp := .cp, cls := cls, ok := ok, opc := opc, late := late }
/-- A run to be checked: buffer size, start, bytes. -/
abbrev Run3 := Nat × Nat × Nat
/-- R230 over runs of several streams together. -/
def checkRuns3 (runs : List Run3) : Option (Cause × Word) :=
  match runs.find? (fun r => r.2.1 % 64 != 0) with
  | some r => some (.align, BitVec.ofNat 64 r.2.1)
  | none =>
    match runs.find? (fun r => decide (r.1 < r.2.1 + r.2.2)) with
    | some r => some (.streamRange, BitVec.ofNat 64 (max r.2.1 r.1))
    | none => none
/-- Extents of an operand row of a type (10 R229). -/
def rowExtents (t : Ty) (s : Stream) (n a : Nat) : List (Nat × Nat) :=
  if t = .tf6 then [(a, 128), (a + s.lpoff.toNat, 64)] else [(a, n)]
/-- Bytes of block blk of a row whose elements of a block take n bytes. -/
def blockRuns (t : Ty) (s : Stream) (n a blk : Nat) : List (Nat × Nat) :=
  if t = .tf6 then [(a + 16 * blk, 16), (a + s.lpoff.toNat + 8 * blk, 8)] else [(a + n * blk, n)]
/-- An operand row as bytes. -/
def readRow (m : Memory) (base : Nat) (ext : List (Nat × Nat)) : List Byte := ext.flatMap (fun e => m.readBytes (base + e.1) e.2)
/-- K, scales of each queue, and bytes of a block in a row (14 R295). -/
def groupOf (ta : Ty) (sparse : Bool) : Nat × Nat × Nat :=
  if sparse then (512, if ta = .tf8 then 16 else 0, 32)
  else
    match ta with
    | .tf8 | .tf6 => (256, 8, 32)
    | .bf16 | .f16 => (128, 4, 64)
    | .c4 => (512, 16, 16)
    | .i4 => (512, 0, 16)
    | _ => (256, 0, 32)

/-- One step of the live nest (10 R231, R232): the nest after it and each stream's advance. -/
def nestNext (counts : List Nat) : Nat → List Nat → List Nat × Bool
  | 0, i => (i, true)
  | l + 1, i => if i.getD l 0 + 1 = counts.getD l 1 then nestNext counts l (i.set l 0) else (i.set l (i.getD l 0 + 1), false)
/-- The step: a nest that wraps ends, level 0 standing at its count for the advance. -/
def nestStep (n : Nest) : Nest × List (Nat × Int) :=
  match n.live with
  | none => (n, [])
  | some lv =>
    let (i2, ended) := nestNext (lv.map (·.count)) 6 n.iter
    let i3 := if ended then i2.set 0 ((lv.map (·.count)).getD 0 1) else i2
    let adv (s : Nat) : Int := ((lv.mapIdx (fun l k => ((i3.getD l 0 : Int) - (n.iter.getD l 0 : Int)) * k.step.getD s 0)).sum)
    ({ n with live := if ended then none else some lv, iter := i3 }, (List.range 16).filterMap (fun s => if adv s = 0 then none else some (s, adv s)))

/-- The streams and fields of an MMA or MMAS. -/
structure MmaArgs where
  sparse : Bool
  c : BitVec 6
  ra : Stream
  rb : Stream
  rx : Stream
  ta : Ty
  tb : Ty
  acc : Acc
  breuse : Bool
  t : Toks
/-- Its arguments at issue. -/
def mmaArgs (x : Ctx) (sparse : Bool) (c : BitVec 6) (sa sb sx : BitVec 4) (ta tb : Ty) (acc : Acc) (breuse : Bool) (t : Toks) : MmaArgs :=
  { breuse := breuse, sparse := sparse, c := c, ra := x.st.stream sa.toNat, rb := x.st.stream sb.toNat, rx := x.st.stream sx.toNat, ta := ta, tb := tb, acc := acc, t := t }
/-- Bytes of an A row. -/
def MmaArgs.aLen (g : MmaArgs) : Nat := if g.sparse then 512 else 256
/-- Whether A is gathered through q0. -/
def MmaArgs.gather (g : MmaArgs) : Bool := g.ra.gather == 1#1
/-- Scales taken from each queue. -/
def MmaArgs.scales (g : MmaArgs) : Nat := (groupOf g.ta g.sparse).2.1
/-- Starts of the A rows: by index of the q0 entry when gathered. -/
def MmaArgs.starts (g : MmaArgs) (sh : Shared) : List Nat :=
  if g.gather then (sh.q0.headD []).map (fun i => g.ra.row i.toNat) else (List.range 32).map g.ra.row
/-- Starts of the B and metadata rows. -/
def MmaArgs.bStarts (g : MmaArgs) : List Nat := (List.range 32).map g.rb.row
def MmaArgs.xStarts (g : MmaArgs) : List Nat := if g.sparse then (List.range 32).map g.rx.row else []
/-- Runs to be checked of A rows, and of B and metadata rows. -/
def MmaArgs.aRuns (g : MmaArgs) (starts : List Nat) : List Run3 :=
  starts.flatMap (fun a => (rowExtents g.ta g.ra g.aLen a).map (fun e => (bufSize .abuf, e.1, e.2)))
def MmaArgs.bxRuns (g : MmaArgs) : List Run3 :=
  g.bStarts.flatMap (fun a => (rowExtents g.tb g.rb 256 a).map (fun e => (bufSize .wbuf, e.1, e.2))) ++
    g.xStarts.map (fun a => (bufSize .wbuf, a, 64))
/-- What stops an MMA by its fields and streams (14 R296). -/
def MmaArgs.refused (g : MmaArgs) : Option Cause :=
  if g.ra.fmt ≠ tyCode g.ta ∨ g.rb.fmt ≠ tyCode g.tb then some .illRsvd
  else if g.rb.gather = 1#1 then some .illRsvd
  else if g.ra.axis ≠ 0#1 ∨ g.rb.axis ≠ 0#1 then some .blockAxis
  else if g.ra.buffer ≠ .abuf ∨ g.rb.buffer ≠ .wbuf ∨ (g.sparse = true ∧ g.rx.buffer ≠ .wbuf) then some .enginePort
  else none
/-- The live blocks of a row, by the scales at the heads of the queues. -/
def MmaArgs.live (g : MmaArgs) (sh : Shared) : List Nat :=
  (List.range ((groupOf g.ta g.sparse).1 / 32)).filter (fun b => g.scales == 0 || blockLive (sh.q1.take g.scales) (sh.q2.take g.scales) b)
/-- Bytes of ABUF, and of WBUF, that the instruction reads. -/
def MmaArgs.aRead (g : MmaArgs) (sh : Shared) : List (Nat × Nat) :=
  (g.starts sh).flatMap (fun a => (g.live sh).flatMap (blockRuns g.ta g.ra (groupOf g.ta g.sparse).2.2 a))
def MmaArgs.bRead (g : MmaArgs) (sh : Shared) : List (Nat × Nat) :=
  g.bStarts.flatMap (fun a => (g.live sh).flatMap (blockRuns g.tb g.rb (if g.sparse then 16 else (groupOf g.ta g.sparse).2.2) a))
def MmaArgs.xRead (g : MmaArgs) (sh : Shared) : List (Nat × Nat) := g.xStarts.flatMap (fun a => (g.live sh).map (fun b => (a + 4 * b, 4)))
/-- The B rows that it leaves in the engine (14 R302). -/
def MmaArgs.rowsHeld (g : MmaArgs) (x : Ctx) : BRows :=
  { runs := g.bStarts.flatMap (fun a => (rowExtents g.tb g.rb 256 a).map (fun e => (wbufAddr x.core + e.1, e.2))), ty := g.tb, sparse := g.sparse,
    gen := x.st.csr.ctabgen }
/-- Whether it takes its B rows from the engine, not from WBUF (14 R302). -/
def MmaArgs.reuses (g : MmaArgs) (x : Ctx) : Bool := g.breuse && x.st.bLatch == some (g.rowsHeld x)
/-- Whether a byte it reads is locked (06 R119). -/
def MmaArgs.held (g : MmaArgs) (x : Ctx) : Bool :=
  (g.aRead x.st.sh).any (fun e => !(lockers x.chip x.core (abufAddr x.core + e.1) (abufAddr x.core + e.1 + e.2)).isEmpty) ||
    (g.bRead x.st.sh ++ g.xRead x.st.sh).any (fun e => !(lockers x.chip x.core (wbufAddr x.core + e.1) (wbufAddr x.core + e.1 + e.2)).isEmpty)
/-- A scale queue too short for the instruction: nothing on its way to it is an imbalance (14 R296). -/
def scaleShort (x : Ctx) (n : Nat) (q : List Byte) (out : List Nat) : Option Effect :=
  if n ≤ q.length then none
  else if out = [] then some (trapNow .queueImbalance) else some (.block (some .queueImbalance) .none x.chip)
/-- The update of an MMA, with its operands as they stand at issue. -/
def MmaArgs.land (g : MmaArgs) (x : Ctx) (inj : Option Word) : Land :=
  let rows (base : Nat) (ty : Ty) (sr : Stream) (n : Nat) (l : List Nat) : List (List Byte) :=
    l.map (fun a => readRow x.mem base (rowExtents ty sr n a))
  .mma g.c.toNat g.ta g.tb g.acc g.sparse (rows (abufAddr x.core) g.ta g.ra g.aLen (g.starts x.st.sh))
    (rows (wbufAddr x.core) g.tb g.rb 256 g.bStarts) (g.xStarts.map (fun a => x.mem.readBytes (wbufAddr x.core + a) 64))
    (x.st.sh.q1.take g.scales) (x.st.sh.q2.take g.scales) x.st.sh.codes inj
/-- An MMA as it starts: queues popped, the nest stepped, the engine occupied for 8 beats, the update due at τ + 14. It keeps its
B rows, but for those that an error was found in (14 R302; DESIGN CHOICE, log 71). -/
def startedMma (x : Ctx) (g : MmaArgs) : Res :=
  let sh := x.st.sh
  let err (base : Nat) (e : Nat × Nat) : Option (Nat × Cause) := (x.chip.errorAt (base + e.1) e.2).map (fun c => (e.1, c))
  let badB := if g.reuses x then none else (g.bRead sh).findSome? (err (wbufAddr x.core))
  let bad := ((g.aRead sh).findSome? (err (abufAddr x.core))).or badB
  let inj := x.st.csr.ttInject
  let armed := inj.getLsbD 63 && bitsOf inj 0 5 == g.c.toNat
  let land := g.land x (if armed then some inj else none)
  let (nest, advs) := nestStep sh.nest
  let work := { x.engineWork g.t (.mma g.c.toNat) 3 false [] with letters := { bits := 0, promised := false }, promise := x.tau + 14 }
  let (ch, w) := x.chip.addWork work
  let sh := { sh with q1 := sh.q1.drop g.scales, q2 := sh.q2.drop g.scales, q0 := if g.gather then sh.q0.tail else sh.q0, nest := nest }
  let st := { x.st with sh := sh, run := { x.st.run with mmaUntil := x.tau + 8 }, bLatch := if badB.isSome then none else some (g.rowsHeld x),
                        csr := if armed then { x.st.csr with ttInject := inj &&& 0x7FFFFFFFFFFFFFFF } else x.st.csr }
  let st := match bad with
    | some e => consumeNow st x.q e.2 (BitVec.ofNat 64 e.1)
    | none => st
  let st := (st.later x.q 1 (advs.map (fun a => .posAdd a.1 a.2))).later x.q 14 ((if bad.isSome then [] else [land]) ++ [.workDone w])
  { chip := ch.setStrand x.core x.slot (produce st g.t w), writes := [] }
/-- The checks and the issue of an MMA or MMAS (14 R296, R298). -/
def mmaWord (s : State) (h : Head) (opc : BitVec 8) (ok sparse : Bool) (c : BitVec 6) (sa sb sx : BitVec 4) (ta tb : Ty) (acc : Acc)
    (breuse : Bool) (t : Toks) : Outcome :=
  issue s h (matInfo opc (if ta = .bf16 ∨ ta = .f16 then 11 else 10) ok true) noOperands (fun x =>
    let g := mmaArgs x sparse c sa sb sx ta tb acc breuse t
    let sh := x.st.sh
    match matrixPort x [c] with
    | some e => e
    | none =>
      match g.refused with
      | some f => trapNow f
      | none =>
        match checkRuns3 ((if g.gather then [] else g.aRuns (g.starts sh)) ++ g.bxRuns) with
        | some (f, fa) => .fault f fa 0
        | none =>
          match scaleShort x g.scales sh.q1 sh.q1out, scaleShort x g.scales sh.q2 sh.q2out with
          | some e, _ | none, some e => e
          | none, none =>
            if g.gather ∧ sh.q0 = [] then .block (some .queueImbalance) .none x.chip
            else
              match if g.gather then checkRuns3 (g.aRuns (g.starts sh)) else none with
              | some (f, fa) => .fault f fa 0
              | none =>
                if x.tau < x.st.run.mmaUntil then .block (some .tokenOverflow) .none x.chip
                else if consumed x t ≠ [] ∨ g.held x = true then .block (some .tokenOverflow) .none x.chip
                else .go (startedMma x g) .next .none)
/-- MMA. -/
def execMma (h : Head) (c : BitVec 6) (sa sb : BitVec 4) (ta tb : Ty) (acc : Acc) (breuse : Bool) (t : Toks) (s : State) : Outcome :=
  mmaWord s h 0xA0 (Instr.wf (.mma h c sa sb ta tb acc breuse t)) false c sa sb 0 ta tb acc breuse t
/-- MMAS. -/
def execMmas (h : Head) (c : BitVec 6) (sa sb sx : BitVec 4) (ta tb : Ty) (acc : Acc) (breuse : Bool) (t : Toks) (s : State) : Outcome :=
  mmaWord s h 0xA1 (Instr.wf (.mmas h c sa sb sx ta tb acc breuse t)) true c sa sb sx ta tb acc breuse t

/-! ### The other matrix words (14 R306 to R312) -/

/-- A matrix word on tiles: R294's checks, which come before its ring tokens, then its effect. -/
def tileWord (s : State) (h : Head) (opc : BitVec 8) (ok : Bool) (ops : List Opnd) (tiles : List (BitVec 6)) (body : Ctx → Effect) : Outcome :=
  issue s h (matInfo opc 12 ok true) (operands ops) (fun x =>
    match matrixPort x tiles with | some e => e | none => x.afterRings h (body x))
/-- A word whose effect lands at τ + 1. -/
def Ctx.landsNext (x : Ctx) (lands : List Land) : Effect := x.done (x.st.later x.q 1 lands)
/-- MCLR. -/
def execMclr (h : Head) (c : BitVec 6) (s : State) : Outcome :=
  tileWord s h 0xA2 (Instr.wf (.mclr h c)) [] [c] (fun x =>
    x.landsNext [.tile c.toNat 0 (List.replicate 1024 0) (List.replicate 32 0) (List.replicate 32 0)])
/-- MLDC: the source as it stands at issue. -/
def execMldc (h : Head) (c : BitVec 6) (src : Spec) (q : BitVec 2) (s : State) : Outcome :=
  tileWord s h 0xA3 (Instr.wf (.mldc h c src q)) [vsrc src] [c] (fun x =>
    if vecPoison x src then trapNow .poisonConsumed
    else
      let (ch, w) := x.chip.addWork { x.work (.mldc c.toNat) 3 false [] with promise := x.tau + 1 }
      .go { chip := ch.setStrand x.core x.slot (x.st.later x.q 1 [.mldc c.toNat q.toNat (x.readOp src 1024), .workDone w]), writes := [] }
        .next .none)
/-- MDRAIN: the destination is fixed at issue; the tile is read at t_d (event MDRAIN_DRAIN). -/
def execMdrain (h : Head) (c : BitVec 6) (dst : Spec) (q : BitVec 2) (nochk : Bool) (t : Toks) (s : State) : Outcome :=
  tileWord s h 0xA4 (Instr.wf (.mdrain h c dst q nochk t)) [vdst dst] [c] (fun x =>
    let after := consumed x t
    let k := { x.engineWork t (.mdrain c.toNat (x.st.opAddr dst) q.toNat nochk) 3 false after with
      promise := drainDue x after nochk, total := if after.isEmpty then 1 else 0 }
    let (ch, w) := x.chip.addWork k
    .go { chip := ch.setStrand x.core x.slot (produce x.st t w), writes := [] } .next .none)
/-- MCHK: the compare is made on the tile as it stands at τ + 1. -/
def execMchk (h : Head) (c : BitVec 6) (s : State) : Outcome :=
  tileWord s h 0xA5 (Instr.wf (.mchk h c)) [] [c] (fun x =>
    x.landsNext [.mchk c.toNat (x.st.whereNow x.q).1 (x.st.whereNow x.q).2])
/-- MCOMP: compresses the source as it stands at issue. -/
def execMcomp (h : Head) (cd cs : BitVec 6) (ty : Ty) (s : State) : Outcome :=
  tileWord s h 0xA6 (Instr.wf (.mcomp h cd cs ty)) [] [cd, cs] (fun x =>
    let int := ty = .i32
    let src := readTile x.mem x.chip x.core cs.toNat
    let t : CTile := ({ words := (List.range 32).flatMap (fun i => compressRow int (src.rowOf i)), tel := Tile.clear } : CTile).recompute int
    x.landsNext [.tile cd.toNat t.tel.tag (t.words.map (BitVec.ofNat 32)) t.tel.row t.tel.col])
/-- MBMP: the block scale of a tile as it stands at issue. -/
def execMbmp (h : Head) (cd cs : BitVec 6) (ty : Ty) (col : BitVec 5) (s : State) : Outcome :=
  tileWord s h 0xA7 (Instr.wf (.mbmp h cd cs ty col)) [] [cd, cs] (fun x =>
    let (e, bad) := tileScale ty (readTile x.mem x.chip x.core cs.toNat).words
    x.landsNext [.mbmp cd.toNat col.toNat (BitVec.ofInt 32 e), .flags (if bad then fInvalid else 0)])
/-- CTAB.W: sixteen entries to the shadow table. -/
def execCtabW (h : Head) (src : Spec) (s : State) : Outcome :=
  tileWord s h 0xAB true [esrc src 5] [] (fun x =>
    if x.st.poisonedRange (x.st.opAddr src) 32 then trapNow .poisonConsumed
    else
      let l := x.readOp src 32
      x.landsNext [.ctabW ((List.range 16).map (fun e => BitVec.ofNat 16 (elem l e 2)))])
/-- CTAB.SWAP. -/
def execCtabSwap (h : Head) (s : State) : Outcome := tileWord s h 0xAC true [] [] (fun x => x.landsNext [.ctabSwap])

/-! ### Telltale's words (15 R323 to R326) -/

/-- TT.LOC. -/
def execTtLoc (h : Head) (c : BitVec 6) (xd : Reg) (s : State) : Outcome :=
  tileWord s h 0xA8 (Instr.wf (.ttLoc h c xd)) [] [c] (fun x =>
    let l := locate x.st.csr c.toNat (readTile x.mem x.chip x.core c.toNat)
    x.writeX 1 xd (l.word (x.st.csr.ttsyn.getLsbD 6)))
/-- TT.FIX. -/
def execTtFix (h : Head) (c : BitVec 6) (s : State) : Outcome :=
  tileWord s h 0xA9 (Instr.wf (.ttFix h c)) [] [c] (fun x =>
    let l := locate x.st.csr c.toNat (readTile x.mem x.chip x.core c.toNat)
    let stop : Effect := .fault .ttUncorrectable (noAddr .ttUncorrectable) (BitVec.ofNat 64 c.toNat)
    if x.st.csr.ttsyn.getLsbD 6 then stop
    else match l.cls with
      | 1 => x.landsNext [.word c.toNat l.i l.j l.vr, .clearSyn]
      | 2 => x.landsNext [.fixRow c.toNat l.i, .clearSyn]
      | 3 => x.landsNext [.fixCol c.toNat l.j, .clearSyn]
      | 4 | 5 | 6 => stop
      | _ => x.nothing)
/-- RMAX and MODE. -/
def ttRmax (k : Csrs) : Nat := bitsOf k.ttctl 2 4
def ttMode (k : Csrs) : Nat := bitsOf k.ttctl 0 2
/-- All four replay points are valid. -/
def Replay.armed (r : Replay) : Bool := r.points.all (·.isSome)
/-- TT.REPLAY: a replay stall follows (event REPLAY_STALL). It names no tile. -/
def execTtReplay (h : Head) (s : State) : Outcome :=
  tileWord s h 0xAA true [] [] (fun x =>
    let k := x.st.csr
    let tv : Word := if k.ttsyn.getLsbD 5 then BitVec.ofNat 64 (bitsOf k.ttsyn 0 5) else 0
    if !x.st.replay.armed then .fault .ttUncorrectable (noAddr .ttUncorrectable) tv
    else if x.st.replay.count = ttRmax k then .fault .ttReplayExhausted (noAddr .ttReplayExhausted) tv
    else x.done { x.st with replay := { x.st.replay with asked := true } })

/-! ### A compare and its outcome (15 R319, R321) -/

/-- The syndrome after a failed compare. -/
def Csrs.syndrome (k : Csrs) (c : Nat) (mask : Word) : Csrs :=
  if k.ttsyn.getLsbD 5 then { k with ttsyn := k.ttsyn ||| 0x40 } else { k with ttsyn := BitVec.ofNat 64 (c + 32), ttmask := mask }
/-- A compare of a tile: whether it passed, and the strand with its syndrome and outcome. `trap` gives the trap of
a cause for the word that compared. -/
def compareTile (st : Strand) (t : CTile) (c : Nat) (trap : Cause → Word → PTrap) : Bool × Strand :=
  let mask := compareMask st.csr t
  if mask = 0#64 then (true, st)
  else
    let st := { st with csr := st.csr.syndrome c mask }
    let raise (f : Cause) : Strand := { st with traps := st.traps ++ [trap f (BitVec.ofNat 64 c)] }
    (false,
      match ttMode st.csr with
      | 1 => st
      | 2 =>
        if !st.replay.armed then raise .ttMismatch
        else if st.replay.count < ttRmax st.csr then { st with replay := { st.replay with asked := true } }
        else raise .ttReplayExhausted
      | _ => raise .ttMismatch)

/-- A compare under the control and tolerance CSRs as they land in its beat (15 R320, R330). -/
def compareUnder (st : Strand) (look : Option Strand) (t : CTile) (c : Nat) (trap : Cause → Word → PTrap) : Bool × Strand :=
  let k := st.csr
  let l := (look.map (·.csr)).getD k
  let r := compareTile { st with csr := { k with ttctl := l.ttctl, ttTol8 := l.ttTol8, ttTol16 := l.ttTol16, ttTolC4 := l.ttTolC4 } } t c trap
  (r.1, { r.2 with csr := { r.2.csr with ttctl := k.ttctl, ttTol8 := k.ttTol8, ttTol16 := k.ttTol16, ttTolC4 := k.ttTolC4 } })

/-! ### Drains (14 R310; 11 R257) -/

/-- A drain is made in the running beat whose τ is its t_d. -/
def drainNow (ch : Chip) (st : Strand) (k : Work) : Bool :=
  ch.runs st && k.doneBeat.isNone && k.total == 1 && k.promise == st.run.tau
/-- What a drain writes is due in the beat of the drain, in the order of issue (01 R19). -/
def Strand.dueDrain (st : Strand) (k : Work) (lands : List Land) : Strand :=
  { st with due := st.due ++ [{ due := st.run.tau, hclock := false, tauIssue := k.tau, q := k.q, lands := lands, trap := none }] }
/-- An element of a tile converted by WSTC (11 R257): floats from FP32, integers from I32. -/
def wstcElem (ty : Ty) (mode : Rnd) (ovf : Ovf) (w : Nat) : Num1 :=
  let src : Ty := if tyIsInt ty then .i32 else .f32
  if src = ty then .plain w else convert ty src mode ovf w
/-- The staged bytes of a WSTC and where each goes. -/
def wstcBytes (h : Handle) (o : List Nat) (vals : List Nat) : List (Option Nat × Byte) :=
  let n := 32 * h.e
  let rows := tileRowList h o [32, 32, 1, 1]
  let pitch := pitchOf 32 h.e
  let data := vals.flatMap (leBytes h.e)
  (List.range 32).flatMap (fun i => (List.range n).map (fun b =>
    (copySource h (o.getD 0 0) 32 rows (i * pitch + b), data.getD (i * n + b) 0)))
/-- Puts a queued lane store's data in place, or lets it go with none; then no later store starts before the beat after
(11 R247). -/
def fillLane (st : Strand) (w from_ : Nat) (send : Bool) : Strand :=
  let q := st.lane.queue.map (fun e =>
    if e.work = w then (if send then { e with notBefore := from_ } else { e with beats := 0 })
    else if send then e else { e with notBefore := max e.notBefore from_ })
  { st with lane := { st.lane with queue := dropSent q } }
/-- The lane's side of a drain (11 R257): the staged bytes go to the lane store, or it sends none and is performed. -/
def landFill (ch : Chip) (core slot lane : Nat) (send : Bool) (bs : List (Option Nat × Byte)) : Chip :=
  let ch := ch.onStrand core slot (fun st => fillLane st lane ((ch.owner st.place.owner).clock ch.gts + 1) send)
  match ch.work? lane with
  | none => ch
  | some lk =>
    if send then
      match lk.kind with
      | .laneStore num _ ilv key ents onChip =>
        ch.setWork lane { lk with kind := .laneStore num bs ilv key ents onChip, total := (laneParts ilv ents onChip bs).length }
      | _ => ch
    else lanePerformed ch lane lk
/-! ### Landing on a tile -/

/-- Applies one landing to tiles. `m` is memory with what landed before in the beat; flags go to the strand. -/
def landTile (m : Memory) (r : Res) (core slot : Nat) (q : SeqId) : Land → Res
  | .tile c tag data row col => writeTile r core c { words := data.map (·.toNat), tel := { tag := tag, row := row, col := col } }
  | .word c i j v =>
    let t := readTile m r.chip core c
    writeTile r core c { t with words := t.words.set (32 * i + j) v.toNat }
  | .fixRow c i =>
    let t := readTile m r.chip core c
    writeTile r core c { t with tel := { t.tel with row := t.tel.row.set i (lineCheck (tagInt t.tel.tag) (t.rowOf i)) } }
  | .fixCol c j =>
    let t := readTile m r.chip core c
    writeTile r core c { t with tel := { t.tel with col := t.tel.col.set j (lineCheck (tagInt t.tel.tag) (t.colOf j)) } }
  | .mldc c n data =>
    let t := readTile m r.chip core c
    let ws := (chunksOf 4 256 data).map leNat
    writeTile r core c ({ t with words := t.words.take (256 * n) ++ ws ++ t.words.drop (256 * n + 256) }.recompute (tagInt t.tel.tag))
  | .mbmp c col v =>
    let t := readTile m r.chip core c
    writeTile r core c ({ t with words := t.words.set col v.toNat }.recompute (tagInt t.tel.tag))
  | .mma c ta tb acc sparse a b x sca scb code flip =>
    let (t, fl) := mmaUpdate (readTile m r.chip core c) ta tb acc sparse a b x sca scb code flip
    let r := writeTile r core c t
    { r with chip := r.chip.onStrand core slot (fun st => { st with csr := { st.csr with fflags := st.csr.fflags ||| fl } }) }
  | .mchk c sec ix =>
    let t := readTile m r.chip core c
    { r with chip := r.chip.onStrand core slot (fun st =>
        (compareTile st t c (fun f v => { cause := f, faddr := noAddr f, tval := v, q := q, sec := sec, slot := ix })).2) }
  | _ => r

end Sys2Proof.Machine
end

