-- ==== Sys2Proof/Machine/Collective.lean ====
section
/-! DEFINITION. The collective engine (19 R338 to R350): group entries, CLRED and CLBC in chunks of 4,096
destination bytes, presence, the reduction tree, errors and status. -/

namespace Sys2Proof.Machine

/-! ### Groups (19 R338 to R340) -/

/-- Table key of an entry on a core: owner slot and number. -/
def groupKey (owner g : Nat) : Nat := owner * 16 + g
/-- An entry of an owner's strand on a core. -/
def Chip.group? (ch : Chip) (core owner g : Nat) : Option Group := (ch.core core).groups.get? (groupKey owner g)
/-- The group of a collective, and whether work is one. -/
def Work.collGroup (k : Work) : Option Nat :=
  match k.kind with
  | .clred _ _ _ g _ _ _ _ | .clbc g _ _ _ => some g
  | _ => none
/-- Incomplete collectives of a strand. -/
def openColls (x : Ctx) : List (Nat × Work) :=
  (x.chip.worksOf x.core x.slot).filter (fun e => e.2.collGroup.isSome && e.2.doneBeat.isNone)
/-- Whether a core answers a chunk's request of an owner's group (R340): it carries a strand of the owner that has not halted
and whose entry holds the same tag and members. -/
def Chip.answers (ch : Chip) (core owner g : Nat) (tag : BitVec 32) (members : List (Nat × Nat)) : Bool :=
  (ch.strandsOf owner).any (fun s => s.1 / 4 == core && !s.2.run.halted) &&
    (match ch.group? core owner g with
     | some f => f.tag == tag && f.members == members
     | none => false)
/-- Whether a member answers a chunk's request (R340): it is the issuer, or its core does. `none` for a member on another
device. -/
def memberPresent (ch : Chip) (k : Work) (g : Nat) (e : Group) (m : Nat × Nat) : Option Bool :=
  if m.1 ≠ ch.devnum.toNat then none
  else if m.2 = k.core then some true
  else some (ch.answers m.2 k.owner g e.tag e.members)
/-- Whether traffic to another device can leave: the route's port is aligned (24 R404, R412). -/
def Chip.reachable (ch : Chip) (dev : Nat) : Bool :=
  match ch.host.routes.get? dev with
  | some p => (match ch.host.ports.get? p with | some q => q.aligned | none => false)
  | none => false

/-- Port toward a device; a device with no route is never reached, whatever instance is planned. -/
def Chip.portTo (ch : Chip) (dev : Nat) : Nat := ch.host.routes.getD dev 0
/-- An output. -/
def Chip.emit (ch : Chip) (o : Output) : Chip := { ch with host := { ch.host with out := ch.host.out ++ [o] } }

/-- Bookkeeping of a collective word. -/
def collInfo (opc : BitVec 8) (ok : Bool := true) : Info := ctInfo opc 13 ok
/-- A descriptor's members: the entry, or the status 1 or 2 it fails with (R339). -/
def readGroup (ch : Chip) (core : Nat) (ws : List Nat) : Except Nat Group :=
  let w (i : Nat) : Nat := ws.getD i 0
  let m := w 0 % 32
  let self := w 0 / 2 ^ 8 % 16
  let reserved := w 0 / 2 ^ 5 % 8 != 0 || w 0 / 2 ^ 12 % 16 != 0 || w 0 / 2 ^ 48 != 0 || w 5 != 0 || w 6 != 0 || w 7 != 0
  let es := (List.range 16).map (fun e => w (1 + e / 4) / 2 ^ (16 * (e % 4)) % 2 ^ 16)
  if m = 0 ∨ 16 < m ∨ m ≤ self ∨ reserved = true ∨ (es.drop m).any (· != 0) = true then .error 1
  else
    let ms := (es.take m).map (fun e => (e / 2 ^ 9, e % 2 ^ 9))
    if ms.getD self (0, 0) ≠ (ch.devnum.toNat, core) ∨ ms.eraseDups ≠ ms ∨ ms.any (fun e => decide (Config.cores ≤ e.2)) = true then .error 2
    else .ok { tag := BitVec.ofNat 32 (w 0 / 2 ^ 16), self := self, members := ms }
/-- Whether a group has an incomplete collective of the strand. -/
def groupBusy (x : Ctx) (g : Nat) : Bool := (openColls x).any (fun e => e.2.collGroup == some g)
/-- A status written at τ+1, with the chip it comes with. -/
def Ctx.status (x : Ctx) (ch : Chip) (xd : Reg) (n : Nat) : Effect :=
  .go { chip := ch.setStrand x.core x.slot (x.st.laterX x.q 1 xd (BitVec.ofNat 64 n)), writes := [] } .next .none
/-- Changes an entry of the strand's core. -/
def Ctx.setGroup (x : Ctx) (f : Tab Group → Tab Group) : Chip :=
  let k := x.chip.core x.core
  x.chip.setCore x.core { k with groups := f k.groups }
/-- CLGRP (R339). -/
def execClgrp (h : Head) (xd xa : Reg) (g : BitVec 4) (s : State) : Outcome :=
  issue s h (collInfo 0xC0) noOperands (fun x =>
    let v := x.rx xa
    if x.px xa then .fault .poisonConsumed v 0
    else
      match checkPtr x.core x.st v 0 64 64 with
      | .error (c, p) => .fault (match ptrOf v with | .scratch _ _ _ => c | _ => .windowInvalid) p 0
      | .ok (.scratch b o) =>
        let a := scratchAddr x.core b o
        if let some c := x.chip.errorAt a 64 then x.done (consumeNow x.st x.q c v)
        else
          let ws := (chunksOf 8 8 (x.mem.readBytes a 64)).map leNat
          let n := g.toNat
          match readGroup x.chip x.core ws with
          | .error e => x.status x.chip xd e
          | .ok e =>
            if groupBusy x n then x.status x.chip xd 3
            else if e.members.any (fun m => m.1 != x.chip.devnum.toNat) && (x.owner.stride .link).isNone then x.status x.chip xd 4
            else x.status (x.setGroup (fun t => t.set (groupKey x.st.place.owner n) e)) xd 0
      | .ok _ => .fault .windowInvalid v 0)
/-- CLGRP with RELEASE (R339). -/
def execClgrpRelease (h : Head) (xd : Reg) (g : BitVec 4) (s : State) : Outcome :=
  issue s h (collInfo 0xC0) noOperands (fun x =>
    if groupBusy x g.toNat then x.status x.chip xd 3
    else x.status (x.setGroup (fun t => t.del (groupKey x.st.place.owner g.toNat))) xd 0)

/-! ### Chunks (19 R343) -/

/-- Sizes of a collective: source element, destination element, count of elements or bytes. -/
structure CollSize where
  es : Nat
  ed : Nat
  n : Nat
deriving DecidableEq, Repr
/-- Those of a piece of work. -/
def Work.collSize (k : Work) : CollSize :=
  match k.kind with
  | .clred _ td ts _ _ _ n _ => ⟨tySize ts, tySize td, n⟩
  | .clbc _ _ _ n => ⟨1, 1, n⟩
  | _ => ⟨1, 1, 0⟩
/-- Number of chunks. -/
def CollSize.chunks (z : CollSize) : Nat := cdiv (z.n * z.ed) 4096
/-- Elements of a chunk: the first and how many. -/
def CollSize.elems (z : CollSize) (c : Nat) : Nat × Nat :=
  let per := 4096 / z.ed
  (c * per, min per (z.n - c * per))
/-- Source run of a chunk within the source, and destination run. -/
def CollSize.srcRun (z : CollSize) (c : Nat) : Nat × Nat := ((z.elems c).1 * z.es, (z.elems c).2 * z.es)
def CollSize.dstRun (z : CollSize) (c : Nat) : Nat × Nat := ((z.elems c).1 * z.ed, (z.elems c).2 * z.ed)

/-! ### Plans (19 R346) -/

/-- LINK instances of a port: outbound and inbound. -/
def portOut (port : Nat) : Nat := 2 * port
def portIn (port : Nat) : Nat := 2 * port + 1
/-- LINK slots of one transfer: one on each port of its way, each after the one before it. -/
def planLinks (o : Owner) : List Nat → Resv → Nat → List (Nat × Nat) × Resv
  | [], r, _ => ([], r)
  | inst :: rest, r, t =>
    let u := planSlot o r .link inst t
    let (l, r2) := planLinks o rest ((.link, inst, u) :: r) (u + 1)
    ((inst, u) :: l, r2)
/-- One transfer over Isavik ports from beat t, after the chains `deps`: a chain of its own, and the beat of its end. -/
def Planner.links (p : Planner) (o : Owner) (insts : List Nat) (t : Nat) (deps : List Nat) : Planner × Nat :=
  let (l, r) := planLinks o insts p.resv t
  let e := (l.getLast?.map (·.2)).getD t
  let steps : List PStep := l.map (fun s => { at_ := s.2, chain := p.chain, act := .link s.1 })
  ({ p with resv := r, chain := p.chain + 1, last := max p.last e,
            steps := p.steps ++ PStep.following (deps.map (fun c => (c, none))) (steps.take 1) ++ steps.drop 1 }, e)
/-- n flits along a path, each after the one before it and after chains of its own; answers the beats they end and their
chains. -/
def Planner.flits (p : Planner) (o : Owner) (path : List (Nat × Nat)) (ts : List (Nat × List Nat)) (lead fin : Nat → List Act) :
    Planner × List (Nat × Nat) :=
  ts.zipIdx.foldl (fun (acc : Planner × List (Nat × Nat)) t =>
    let c := acc.1.chain
    let (q, e) := acc.1.flit o path t.1.1 true (lead t.2) (fin t.2) t.1.2
    (q, acc.2 ++ [(e, c)])) ({ p with prev := [] }, [])
/-- The port directions to a device along its route, and back from it (24 R412; log 5). -/
def Chip.wayTo (ch : Chip) (dev : Nat) : List Nat :=
  portOut (ch.portTo dev) :: (Config.linkRoute ch.devnum.toNat dev).map (fun e => remoteInst e.1 e.2)
def Chip.wayFrom (ch : Chip) (dev : Nat) : List Nat :=
  (Config.linkRoute dev ch.devnum.toNat).map (fun e => remoteInst e.1 e.2) ++ [portIn (ch.portTo dev)]
/-- A path through the mesh of another device (02 R47). -/
def remotePath (dev : Nat) (path : List (Nat × Nat)) : List (Nat × Nat) := path.map (fun e => (remoteInst dev e.1, e.2))
/-- Of the pieces that carry a run in order, the beat and chain of the one that holds byte b, `size` bytes to a piece; the
next beat is the first that what follows may take. -/
def pieceAt (l : List (Nat × Nat)) (size b : Nat) : Nat × List Nat :=
  let e := (l[min (b / size) (l.length - 1)]?).getD (0, 0)
  (e.1 + 1, [e.2])
/-- Beats at which the last of the pieces of a run that each next piece needs has come, with its chain. -/
def regroup (l : List (Nat × Nat)) (size n next : Nat) : List (Nat × List Nat) :=
  (List.range (cdiv n next)).map (fun j => pieceAt l size (min n (next * (j + 1)) - 1))
/-- Transfers of 96 bytes over Isavik ports, one for each piece that is at hand (24 R403). -/
def Planner.linkRun (p : Planner) (o : Owner) (insts : List Nat) (ts : List (Nat × List Nat)) : Planner × List (Nat × Nat) :=
  ts.foldl (fun (acc : Planner × List (Nat × Nat)) t =>
    let c := acc.1.chain
    let (q, e) := acc.1.links o insts t.1 t.2
    (q, acc.2 ++ [(e, c)])) (p, [])
/-- The request of a chunk to one member from beat t, after the chain `asked`, and its reply of n bytes: the beat the reply
is whole at IO-S, and the chains that bring it. -/
def planMember (p : Planner) (o : Owner) (ch : Chip) (m : Nat × (Nat × Nat)) (c t n asked : Nat) : Planner × Nat × List Nat :=
  let far := m.2.1 != ch.devnum.toNat
  let place (l : List (Nat × Nat)) : List (Nat × Nat) := if far then remotePath m.2.1 l else l
  let (p, t, asked) := if far then
      let link := p.chain
      let (q, u) := p.links o (ch.wayTo m.2.1) t [asked]
      (q, u + 1, link)
    else (p, t, asked)
  let here := p.chain
  let (p, e) := p.flit o (place (routeFromIo m.2.2 false)) t false [] [.memberRequest m.1 c] [asked]
  let (p, es) := p.flits o (place (routeToIo m.2.2 false)) (List.replicate (cdiv n 128) (e + 1, [here])) (fun _ => []) (fun _ => [])
  let (p, es) := if far then p.linkRun o (ch.wayFrom m.2.1) (regroup es 128 n 96) else (p, es)
  (p, (es.map (·.1)).foldl max e, es.map (·.2))
/-- Where the plan of collective chunks stands: the plan, the first beat of the next chunk, and the chains it follows. A
chunk starts when the one before it has landed (R343). -/
abbrev ChunkPlan := Planner × Nat × List Nat
/-- Chains of chunk c are numbered from 65536 c. -/
def Planner.atChunk (p : Planner) (c : Nat) : Planner := { p with chain := max p.chain (65536 * c), prev := [] }
/-- Plans a CLRED from chunk c0 on. -/
def planReduce (ch : Chip) (o : Owner) (core : Nat) (e : Group) (z : CollSize) (c0 : Nat) (p : Planner) (t : Nat) : Planner :=
  ((List.range (z.chunks - c0)).foldl (fun (acc : ChunkPlan) i =>
    let c := c0 + i
    let p := acc.1.atChunk c
    let asked := p.chain
    let (p, r) := p.flit o (routeToIo core false) acc.2.1 false [] [] acc.2.2
    let (p, whole, got) := e.members.zipIdx.foldl (fun (a : ChunkPlan) m =>
      let (q, w, l) := planMember a.1 o ch (m.2, m.1) c (r + 1) (z.srcRun c).2 asked
      (q, max a.2.1 w, a.2.2 ++ l)) (p, r, [])
    let n := cdiv (z.dstRun c).2 128
    let (p, es) := p.flits o (routeFromIo core false) (List.replicate n (whole + 1, got)) (fun _ => [])
      (fun j => if j + 1 = n then [.chunkLands c] else [])
    (p, (es.map (·.1)).foldl max whole + 1, (es.getLast?.map (·.2)).toList)) (p, t, [])).1
/-- Plans a CLBC from chunk c0 on. `takeSource` n is sector n of the run; `sectorLands` 16 c + m is chunk c whole
at member m. -/
def planBroadcast (ch : Chip) (o : Owner) (core : Nat) (e : Group) (z : CollSize) (c0 : Nat) (p : Planner) (t : Nat) : Planner :=
  ((List.range (z.chunks - c0)).foldl (fun (acc : ChunkPlan) i =>
    let c := c0 + i
    let size := (z.dstRun c).2
    let secs := size / 64
    let n := cdiv secs 2
    let (p, es) := (acc.1.atChunk c).flits o (routeToIo core false) (List.replicate n acc.2)
      (fun j => (List.range (min 2 (secs - 2 * j))).map (fun s => .takeSource (64 * c + 2 * j + s))) (fun _ => [])
    let (p, last, got) := e.members.zipIdx.foldl (fun (a : ChunkPlan) m =>
      let fin (j : Nat) : List Act := (if j = 0 then [.memberRequest m.2 c] else []) ++ (if j + 1 = n then [.sectorLands (16 * c + m.2)] else [])
      let far := m.1.1 != ch.devnum.toNat
      let (q, at_) := if far then
          let (q, ls) := a.1.linkRun o (ch.wayTo m.1.1) (regroup es 128 size 96)
          (q, regroup ls 96 size 128)
        else (a.1, es.map (fun e => (e.1 + 1, [e.2])))
      let path := routeFromIo m.1.2 false
      let (q, fs) := q.flits o (if far then remotePath m.1.1 path else path) at_ (fun _ => []) fin
      (q, (fs.map (·.1)).foldl max a.2.1, a.2.2 ++ (fs.getLast?.map (·.2)).toList)) (p, acc.2.1, [])
    (p, last + 1, got)) (p, t, [])).1

/-! ### The words (19 R341, R342) -/

/-- The barrier of a collective: its ABUF offset, or a reserved bit of xb. -/
def collBarrier (v : Word) : Option (Option Nat) :=
  if bitsOf v 0 42 ≠ 0 ∨ bitsOf v 56 7 ≠ 0 then none else some (if v.getLsbD 63 then some (bitsOf v 42 14 * 16) else none)
/-- A collective as it starts: its work, lock, promise and token (R341, R346). It waits for locks on its own core's source
and destination (06 R119). -/
def startedColl (x : Ctx) (red : Bool) (xd : Reg) (t : Toks) (e : Group) (z : CollSize) (bar : Option Nat) (a b : Nat) (kind : WorkKind)
    (fa : Word) : Res :=
  let o := x.owner
  let src := abufAddr x.core + a
  let lo := abufAddr x.core + b
  let held := lockers x.chip x.core lo (lo + z.n * z.ed) ++ lockers x.chip x.core src (src + z.n * z.es)
  let after := consumed x t
  let p0 := Planner.start x.chip o
  let t0 := startBeat x.chip o x.core x.st after held
  let p := if red then planReduce x.chip o x.core e z 0 p0 t0 else planBroadcast x.chip o x.core e z 0 p0 t0
  let pr := promiseOf x.chip o x.st x.q p.last
  let k := { x.engineWork t kind 4 true (after ++ held) with
    promise := pr, steps := p.steps, barrier := bar, total := z.chunks, faddr := fa }
  let (ch, w) := (p.finish x.st.place.owner o).addWork k
  let mine : Lock := { work := w, core := x.core, lo := lo, hi := lo + z.n * z.ed }
  let ch := { ch with locks := ch.locks ++ [mine] }
  { chip := ch.setStrand x.core x.slot (produce (x.st.laterX x.q 1 xd (BitVec.ofNat 64 pr) (some w)) t w), writes := [] }
/-- CLRED and CLBC after R70 steps 1 to 5: the checks of R342, then the class, then the work. -/
def collWord (s : State) (h : Head) (opc : BitVec 8) (ok red : Bool) (g : Nat) (xd xh xc xs xb : Reg) (t : Toks) (es ed : Nat)
    (kind : Nat → Nat → Nat → WorkKind) : Outcome :=
  issue s h (collInfo opc ok) noOperands (fun x =>
    let src := x.rx xh
    let dst := x.rx xc
    let cnt := x.rx xs
    let z : CollSize := ⟨es, ed, bitsOf cnt 0 20⟩
    let a := bitsOf src 0 20
    let b := bitsOf dst 0 20
    match [xh, xc, xs, xb].find? x.px with
    | some r => .fault .poisonConsumed (x.rx r) 0
    | none =>
      match x.chip.group? x.core x.st.place.owner g with
      | none => .fault .collGroupInvalid (noAddr .collGroupInvalid) 0
      | some e =>
        if src.toNat ≠ a then .fault .windowInvalid src 0
        else if dst.toNat ≠ b then .fault .windowInvalid dst 0
        else if a % 64 ≠ 0 then .fault .align src 0
        else if b % 64 ≠ 0 then .fault .align dst 0
        else if z.n = 0 ∨ cnt.toNat ≠ z.n ∨ z.n * es % 64 ≠ 0 then .fault .extentInvalid cnt 0
        else if 0x40000 < a + z.n * es then .fault .windowInvalid src 0
        else if 0x40000 < b + z.n * ed ∨ meets a (z.n * es) b (z.n * ed) = true then .fault .windowInvalid dst 0
        else
          match collBarrier (x.rx xb) with
          | none => .fault .windowInvalid (x.rx xb) 0
          | some bar =>
            if 8 ≤ (openColls x).length then .block (some .queueImbalance) .none x.chip
            else if (x.owner.stride .mesh).isNone then .fault .classUnused src 1
            else .go (startedColl x red xd t e z bar a b (kind a b z.n) src) .next .none)
/-- CLRED. -/
def execClred (h : Head) (op : CollOp) (td ts : Ty) (g : BitVec 4) (xd xh xc xs xb : Reg) (t : Toks) (s : State) : Outcome :=
  collWord s h 0xC1 (Instr.wf (.clred h op td ts g xd xh xc xs xb t)) true g.toNat xd xh xc xs xb t (tySize ts) (tySize td)
    (fun a b n => .clred op td ts g.toNat a b n [])
/-- CLBC. -/
def execClbc (h : Head) (g : BitVec 4) (xd xh xc xs xb : Reg) (t : Toks) (s : State) : Outcome :=
  collWord s h 0xC2 true false g.toNat xd xh xc xs xb t 1 1 (fun a b n => .clbc g.toNat a b n)
/-- Chunks landed at every destination. -/
def Work.wholeChunks (k : Work) : Nat := k.landed.countP (fun l => l.1 == 16)
/-- The lowest index of the members found absent, all of the chunk that ended the work; 0 when there is none. -/
def Work.lowestAbsent (k : Work) : Nat := (k.absent.map (·.1)).foldl min ((k.absent.head?.map (·.1)).getD 0)
/-- CLSTAT (R347). DESIGN CHOICE (log 109): a poisoned xa is no fault, and its poison goes with the result. -/
def execClstat (h : Head) (xd xa : Reg) (s : State) : Outcome :=
  issue s h (collInfo 0xC3) noOperands (fun x =>
    let tok := (x.rx xa).setWidth 6
    let v : Nat :=
      if tok = 63#6 then (openColls x).length % 16
      else
        match latestProducer x (fun k => k.collGroup.isSome) tok with
        | none => 0
        | some k =>
          let n := k.wholeChunks * 2 ^ 32
          match k.state with
          | .running => 1 + n
          | .done => n
          | .error _ => 2 + causeCode .collPeerAbsent * 2 ^ 8 + k.lowestAbsent * 2 ^ 16 + n
          | .cancelled => 3 + n
    x.writeX 1 xd (BitVec.ofNat 64 v) (x.px xa))

/-! ### The reduction (19 R344; 05 R100) -/

/-- An input element as F32 bits, exactly. DESIGN CHOICE (log 75): a signalling NaN that meets no addition keeps its
signalling bit and raises nothing. -/
def exactF32 (ts : Ty) (bits : Nat) : Nat :=
  match (fmtOf ts).read bits with
  | .nan n _ fr => carryNan (fmtOf ts) fmtF32 n fr
  | v => (deliver fmtF32 .rn .inf v).bits
/-- One addition, minimum or maximum of the tree, on F32. -/
def collPair (op : CollOp) (a b : Nat) : Num1 :=
  match op with
  | .add => fAdd fmtF32 .rn .inf false a b
  | .min => fMinMax fmtF32 false a b
  | .max => fMinMax fmtF32 true a b
/-- One element over the members: its value and flags. -/
def reduceElem (op : CollOp) (td ts : Ty) (ins : List Nat) : Num1 :=
  if ts = .i32 then
    let xs := ins.map (toSigned 32)
    match op with
    | .add => let v := xs.sum; ⟨wrapBits 32 v, if v < -(2 : Int) ^ 31 ∨ (2 : Int) ^ 31 ≤ v then fIov else 0, false⟩
    | .min => ⟨wrapBits 32 (xs.foldl (fun a b => if a ≤ b then a else b) (xs.headD 0)), 0, false⟩
    | .max => ⟨wrapBits 32 (xs.foldl (fun a b => if a ≤ b then b else a) (xs.headD 0)), 0, false⟩
  else
    let (v, raised) := treeFold (collPair op) 5 (ins.map (fun b => some (exactF32 ts b, 0)))
    let r := v.getD 0
    if td = .f32 then ⟨r, raised.flags, false⟩
    else
      let z := convert td .f32 .rn .inf r
      ⟨z.bits, z.flags ||| raised.flags, false⟩
/-- A chunk over its members. -/
def reduceChunk (op : CollOp) (td ts : Ty) (n : Nat) (ins : List (List Byte)) : List Byte × BitVec 6 :=
  let rs := (List.range n).map (fun i => reduceElem op td ts (ins.map (fun l => elem l i (tySize ts))))
  (rs.flatMap (fun r => leBytes (tySize td) r.bits), rs.foldl (fun f r => f ||| r.flags) 0)

/-! ### Steps (19 R343, R345) -/

/-- Completes a collective; its flags land in the completion beat, with what is due in it (05 R92). -/
def finishColl (ch : Chip) (w : Nat) (k : Work) (s : WorkState) : Chip :=
  let ch := finishWork ch w k s
  if k.flags = 0#6 then ch
  else ch.onStrand k.core k.slot (fun st =>
    { st with due := st.due ++ [{ due := if k.inH then st.run.hclk else st.run.tau, hclock := k.inH, tauIssue := k.tau, q := k.q,
                                  lands := [.flags k.flags], trap := none }] })
/-- Sectors counted so far at a member: of a CLRED, its issuer. -/
def collCounted (k : Work) (m : Nat) : Nat :=
  let mark := match k.kind with | .clred _ _ _ _ _ _ _ _ => 16 | _ => m
  ((k.landed.filter (fun l => l.1 == mark)).map (fun l => (k.collSize.dstRun l.2).2 / 64)).sum
/-- The group of a collective under way. -/
def Chip.groupOfWork (ch : Chip) (k : Work) : Option (Nat × Group) :=
  k.collGroup.bind (fun g => (ch.group? k.core k.owner g).map (fun e => (g, e)))
/-- A CLBC that ends before its last chunk says so to the members on other devices that it can reach (R345). -/
def tellEnd (ch : Chip) (k : Work) (failed : Bool) : Chip :=
  match k.kind, ch.groupOfWork k with
  | .clbc _ _ _ n, some (_, e) =>
    let far := e.members.zipIdx.filter (fun m => m.1.1 != ch.devnum.toNat && ch.reachable m.1.1 && !k.absent.contains (m.2, k.wholeChunks))
    far.foldl (fun ch m => ch.emit (.collEnd (ch.portTo m.1.1) m.1.1 m.1.2 k.barrier (n / 64 - collCounted k m.2) failed)) ch
  | _, _ => ch
/-- Ends a collective before its last chunk: what remains is counted on the barriers it can reach, with the cause
of an error in their status. `reach` gives member and core, of those here. -/
def endColl (m : Memory) (r : Res) (w : Nat) (k : Work) (reach : List (Nat × Nat)) (s : WorkState) : Res :=
  let total := k.collSize.n * k.collSize.ed / 64
  let r := match k.barrier with
    | none => r
    | some off => reach.foldl (fun r (d : Nat × Nat) =>
        let a := abufAddr d.2 + off
        let r := countSectors m r (some a) (total - collCounted k d.1)
        match s with | .error c => barrierStep m r a (fun b => b.fail c) | _ => r) r
  { r with chip := finishColl (tellEnd r.chip k (match s with | .error _ => true | _ => false)) w k s }
/-- Members with cores on this device that were found present in a chunk. -/
def Group.present (e : Group) (ch : Chip) (k : Work) (c : Nat) : List (Nat × Nat) :=
  (e.members.zipIdx.filter (fun m => m.1.1 == ch.devnum.toNat && !k.absent.contains (m.2, c))).map (fun m => (m.2, m.1.2))
/-- A chunk's request reaches a member (R340): it answers with its source as it stands, or is absent. The first
flit of a CLBC locks the member's destination. -/
def collRequest (m : Memory) (ch : Chip) (w : Nat) (k : Work) (mem c : Nat) : Chip :=
  match ch.groupOfWork k with
  | none => ch
  | some (g, e) =>
    let who := e.members.getD mem (0, 0)
    let local? := memberPresent ch k g e who
    let here := match local? with | some b => b | none => ch.reachable who.1 && Config.remoteAnswers ch.fresh
    let ch := if local?.isSome then ch else { ch with fresh := ch.fresh + 1 }
    if !here then ch.setWork w { k with absent := k.absent ++ [(mem, c)] }
    else
      match k.kind with
      | .clred op td ts g src dst n leaves =>
        let run := k.collSize.srcRun c
        let a := abufAddr who.2 + src + run.1
        let data := if local?.isSome then m.readBytes a run.2 else (List.range run.2).map (Config.remoteByte ch.fresh)
        let bad := if local?.isSome then ch.errorAt a run.2 else none
        let k := { k with kind := .clred op td ts g src dst n (leaves ++ [(c, mem, data)]),
                          staged := if bad.isSome then k.staged ++ [(c, [], bad)] else k.staged }
        workSees ch w k 4 a run.2 (if local?.isSome then knownHome ch a run.2 else clockZero)
      | .clbc _ _ dst _ =>
        let run := k.collSize.dstRun c
        let a := abufAddr who.2 + dst + run.1
        if local?.isSome && who.2 != k.core then
          { ch with locks := ch.locks ++ [{ work := w, core := who.2, lo := a, hi := a + run.2 }] }
        else ch
      | _ => ch
/-- Bytes a CLBC reads in its own ABUF when a flit leaves. -/
def collTake (m : Memory) (ch : Chip) (w : Nat) (k : Work) (n : Nat) : Chip :=
  match k.kind with
  | .clbc _ src _ _ =>
    let a := abufAddr k.core + src + 64 * n
    workSees ch w { k with staged := k.staged ++ [(n, m.readBytes a 64, ch.errorAt a 64)] } 4 a 64 (knownHome ch a 64)
  | _ => ch
/-- Marks chunk c landed everywhere: it is charged (R349), and with the last one the work is complete. -/
def chunkWhole (r : Res) (w : Nat) (k : Work) (c units : Nat) : Res :=
  let k := { k with landed := k.landed ++ [(16, c)] }
  let ch := charge (r.chip.setWork w k) k.owner units
  { r with chip := if k.total ≤ k.wholeChunks then finishColl ch w k .done else ch }
/-- A CLRED chunk is at the issuer: with every member present it is reduced, written and counted. -/
def reduceLands (m : Memory) (ch : Chip) (w : Nat) (k : Work) (c : Nat) : Res :=
  let r : Res := { chip := ch, writes := [] }
  match k.kind with
  | .clred op td ts g src dst n leaves =>
    match ch.groupOfWork k with
    | none => r
    | some (_, e) =>
      let own := [(e.self, k.core)]
      if k.absent.any (fun a => a.2 == c) then endColl m r w k own (.error .collPeerAbsent)
      else if let some f := (k.staged.filter (fun p => p.1 == c)).findSome? (fun p => p.2.2) then
        endColl m { r with chip := consume ch k f } w k own (.error f)
      else
        let ins := (List.range e.members.length).map (fun i =>
          ((leaves.find? (fun l => l.1 == c && l.2.1 == i)).map (·.2.2)).getD [])
        let run := k.collSize.dstRun c
        let (data, fl) := reduceChunk op td ts (k.collSize.elems c).2 ins
        let r := landBytes m r k (abufAddr k.core + dst + run.1) data false
        let k := { k with kind := .clred op td ts g src dst n (leaves.filter (fun l => l.1 != c)), flags := k.flags ||| fl }
        let r := countSectors m r (k.barrier.map (· + abufAddr k.core)) (run.2 / 64)
        chunkWhole r w k c (e.members.length * ((k.collSize.srcRun c).2 / 64) + run.2 / 64)
  | _ => r
/-- A CLBC chunk is whole at a member: its bytes stand there and count, but for a chunk restarted after a pre-emption, which
had counted (R348). Once it is at every member the chunk has landed, or the lowest absent member ends the work. -/
def broadcastLands (m : Memory) (ch : Chip) (w : Nat) (k : Work) (n : Nat) : Res :=
  let r : Res := { chip := ch, writes := [] }
  let c := n / 16
  let mem := n % 16
  match k.kind, ch.groupOfWork k with
  | .clbc _ _ dst _, some (_, e) =>
    let who := e.members.getD mem (0, 0)
    let run := k.collSize.dstRun c
    let got := ((List.range (run.2 / 64)).map (· + 64 * c)).filterMap (fun i => k.staged.find? (fun p => p.1 == i))
    let data := got.flatMap (fun p => p.2.1)
    let a := abufAddr who.2 + dst + run.1
    let counted := k.landed.contains (mem, c)
    let gone := k.absent.contains (mem, c)
    match got.findSome? (fun p => p.2.2) with
    | some f => endColl m { r with chip := consume ch k f } w k (e.present ch k c) (.error f)
    | none =>
      let k2 := if gone || counted then k else { k with landed := k.landed ++ [(mem, c)] }
      let r : Res :=
        if gone then r
        else if who.1 ≠ ch.devnum.toNat then
          { r with chip := ch.emit (.isavik (ch.portTo who.1) who.1 a data) }
        else
          let r := landBytes m r k a data false
          let ch := if who.2 = k.core then r.chip else
            { r.chip with locks := r.chip.locks.filter (fun l => !(l.work == w && l.core == who.2 && l.lo == a)) }
          if counted then { r with chip := ch } else countSectors m { r with chip := ch } (k.barrier.map (· + abufAddr who.2)) (run.2 / 64)
      let open_ := k.steps.any (fun s => match s.act with | .sectorLands i => i / 16 == c | _ => false)
      if open_ then { r with chip := r.chip.setWork w k2 }
      else if k.absent.any (fun a => a.2 == c) then endColl m r w k2 (e.present ch k c) (.error .collPeerAbsent)
      else chunkWhole r w k2 c (e.members.length * (run.2 / 64))
  | _, _ => r
/-- FADDR and TVAL of COLL_PEER_ABSENT at a WAITT (R345). -/
def collFault (k : Work) : Word × Word :=
  let c := k.wholeChunks
  (BitVec.ofNat 64 (match k.kind with
    | .clred _ _ _ _ _ dst _ _ => dst + 4096 * c
    | .clbc _ src _ _ => src + 4096 * c
    | _ => 0), BitVec.ofNat 64 k.lowestAbsent)

/-- Members of a collective on other devices that are cut off are absent from the chunk under way (R340). -/
def Work.cutFrom (ch : Chip) (k : Work) (gone : Nat → Bool) : Work :=
  match ch.groupOfWork k with
  | none => k
  | some (_, e) =>
    let c := k.wholeChunks
    let cut := e.members.zipIdx.filter (fun m => m.1.1 != ch.devnum.toNat && gone m.1.1 &&
      !k.absent.contains (m.2, c) && !k.landed.contains (m.2, c))
    { k with absent := k.absent ++ cut.map (fun m => (m.2, c)) }
/-- Those whose way goes over a port direction, once the port is lost (24 R404). -/
def Work.cutOff (ch : Chip) (k : Work) (inst : Nat) : Work := k.cutFrom ch (fun d => (ch.wayTo d ++ ch.wayFrom d).contains inst)

/-! ### Other devices' collectives and transfers (19 R340, R343, R345, R346; 24 R412) -/

/-- Strand slot of work that is no strand's here. -/
def foreignSlot : Nat := 2 ^ 20
/-- Work that an owner's slots here do for another device, with its plan. -/
def foreignWork (ch : Chip) (core owner : Nat) (kind : WorkKind) (steps : List PStep) : Work :=
  { core := core, slot := foreignSlot, owner := owner, q := .ct, sec := 0, ix := 0, tau := 0, beat := ch.gts, inH := false, region := none,
    letters := { bits := 0, promised := false }, kind := kind, promise := 0, after := [], produces := none, cons := [], clock := clockZero,
    shown := clockZero, faddr := 0, barrier := none, state := .running, doneBeat := none, steps := steps, total := 0, landed := [], staged := [],
    stores := [], flags := 0, absent := [] }
/-- Whether work is another device's. -/
def WorkKind.foreign : WorkKind → Bool
  | .peer _ | .transit _ _ => true
  | _ => false
/-- The plan of another device's work: it sees what that device has planned here, and nothing of this device's plans (09 R219). -/
def Planner.foreign (ch : Chip) (owner dev : Nat) : Planner :=
  let o := ch.owner owner
  let of (k : Work) : Bool := k.owner == owner && (match k.kind with | .peer q => q.dev == dev | _ => false)
  { Planner.start ch o with resv := ch.works.flatMap (fun e => if of e.2 then e.2.steps.filterMap (fun p =>
      match p.act with | .mesh i => some (.mesh, i, p.at_) | .link i => some (.link, i, p.at_) | _ => none) else []) }
/-- The steps of a member's part in another device's chunk, from the request's LINK slot on (R346): the request or the chunk's
96-byte pieces come in by the port, go on in MESH slots to the core, and a reply goes back the same way. -/
def planPeer (ch : Chip) (q : PeerRequest) : List PStep :=
  let o := ch.owner q.owner
  let t := o.clock ch.gts
  let p := Planner.foreign ch q.owner q.dev
  match q.ask with
  | .read _ n =>
    let (p, u) := p.links o [portIn (ch.portTo q.dev)] t []
    let here := p.chain
    let (p, e) := p.flit o (routeFromIo q.core false) (u + 1) false [] [.memberRequest 0 0] [here - 1]
    let (p, es) := p.flits o (routeToIo q.core false) (List.replicate (cdiv n 128) (e + 1, [here])) (fun _ => []) (fun _ => [])
    let (p, ls) := p.linkRun o [portOut (ch.portTo q.dev)] (regroup es 128 n 96)
    let last := ls.getLastD (e, here)
    p.steps ++ [{ at_ := last.1, chain := last.2, act := .answerLands }]
  | .chunk _ data _ =>
    let (p, ls) := p.linkRun o [portIn (ch.portTo q.dev)] (List.replicate (cdiv data.length 96) (t, []))
    let n := cdiv data.length 128
    (p.flits o (routeFromIo q.core false) (regroup ls 96 data.length 128) (fun _ => [])
      (fun j => (if j = 0 then [.memberRequest 0 0] else []) ++ (if j + 1 = n then [.sectorLands 0] else []))).1.steps
  | .ended _ _ _ => []
/-- Whether a member here answers another device's chunk (R340): never behind a closed boundary (24 R407). -/
def Chip.answersPeer (ch : Chip) (q : PeerRequest) : Bool :=
  !(ch.part (ch.owner q.owner).part).fenced && decide (q.core < Config.cores) && ch.answers q.core q.owner q.group q.tag q.members
/-- The answer of a member here. -/
def Chip.answerPeer (ch : Chip) (q : PeerRequest) (d : Option (List Byte)) : Chip := ch.emit (.collAnswer (ch.portTo q.dev) q.dev q.core d)
/-- Work that is over and leaves no trace: its locks and latches go. -/
def Chip.dropWork (ch : Chip) (w : Nat) : Chip :=
  { ch with works := ch.works.del w, locks := ch.locks.filter (fun l => l.work != w), latches := ch.latches.filter (fun l => l.work != w) }
/-- A request of another device's collective reaches this device: its steps here are planned, or the collective has ended, and
what that leaves is counted on the member's barrier (R345). No owner in the slot: nobody answers. -/
def peerRequest (m : Memory) (ch : Chip) (q : PeerRequest) : Res :=
  let r : Res := { chip := ch, writes := [] }
  match q.ask with
  | .ended bar left failed =>
    let mine (k : Work) : Bool :=
      match k.kind with | .peer p => p.dev == q.dev && p.owner == q.owner && p.group == q.group && p.core == q.core | _ => false
    let r := { r with chip := ((ch.works.filter (fun e => mine e.2)).map (·.1)).foldl Chip.dropWork ch }
    (match bar with
     | none => r
     | some off =>
       if !ch.answersPeer q then r
       else
         let a := abufAddr q.core + off
         let r := countSectors m r (some a) left
         if failed then barrierStep m r a (fun b => b.fail .collPeerAbsent) else r)
  | _ =>
    if (ch.owner q.owner).state = .empty ∨ Config.cores ≤ q.core then { r with chip := ch.answerPeer q none }
    else { r with chip := (ch.addWork (foreignWork ch q.core q.owner (.peer q) (planPeer ch q))).1 }
/-- The request is at the member (R340, R343): the source is read as it stands, or a CLBC's first flit locks the destination; an
absent member does neither. -/
def peerArrives (m : Memory) (ch : Chip) (w : Nat) (k : Work) (q : PeerRequest) : Chip :=
  let absent := ch.setWork w { k with absent := [(0, 0)] }
  match q.ask with
  | .read off n =>
    let a := abufAddr q.core + off
    if ch.answersPeer q && (ch.errorAt a n).isNone then ch.setWork w { k with staged := [(0, m.readBytes a n, none)] } else absent
  | .chunk off data _ =>
    let a := abufAddr q.core + off
    let lock : Lock := { work := w, core := q.core, lo := a, hi := a + data.length }
    if ch.answersPeer q then ({ ch with locks := ch.locks ++ [lock] } : Chip).answerPeer q (some []) else absent.answerPeer q none
  | .ended _ _ _ => ch
/-- The reply of a member leaves this device. -/
def peerReplies (ch : Chip) (w : Nat) (k : Work) (q : PeerRequest) : Chip :=
  (ch.answerPeer q ((k.staged.head?).map (·.2.1))).dropWork w
/-- A chunk is whole at the member: written and counted, unless the member was absent (R343). -/
def peerLands (m : Memory) (ch : Chip) (w : Nat) (k : Work) (q : PeerRequest) : Res :=
  let r : Res := { chip := ch.dropWork w, writes := [] }
  match q.ask with
  | .chunk off data bar =>
    if k.absent.isEmpty then
      countSectors m (landBytes m r k (abufAddr q.core + off) data false) (bar.map (· + abufAddr q.core)) (data.length / 64)
    else r
  | _ => r
/-- A transfer between other devices comes in by a port (24 R412): it takes the owner's LINK slots on that port and on the port the
route table names, and no MESH slot. One for this device, without an owner here, or without a route is none. -/
def transitArrives (ch : Chip) (port owner dest : Nat) (data : List Byte) : Chip :=
  let o := ch.owner owner
  if dest = ch.devnum.toNat ∨ o.state = .empty ∨ ch.reachable dest = false then ch
  else
    let (p, _) := (Planner.start ch o).links o [portIn port, portOut (ch.portTo dest)] (o.clock ch.gts) []
    (p.finish owner o |>.addWork (foreignWork ch 0 owner (.transit dest data) p.steps)).1

end Sys2Proof.Machine
end

