-- ==== Sys2Proof/Machine/Steps.lean ====
section
/-! DEFINITION. The planned steps of engine work as they happen (01 R15; 02 R36; 09 R219; 21 R370; 23 R377 to R379): which
step of a piece of work can happen in the present beat, what it does, and the events that make it. -/

namespace Sys2Proof.Machine

/-! ### Which step -/

/-- Steps that have come due at beat t of the owner's clock, each the first left of its chain, by list index. -/
def dueSteps (t : Nat) : Nat → List Nat → List PStep → List (Nat × PStep)
  | _, _, [] => []
  | i, seen, p :: rest =>
    if p.at_ ≤ t ∧ p.from_ ≤ t ∧ seen.contains p.chain = false then (i, p) :: dueSteps t (i + 1) (p.chain :: seen) rest
    else dueSteps t (i + 1) (p.chain :: seen) rest
/-- The home address of a channel command's sector. -/
def Work.sectorAddr (k : Work) (i : Nat) : Nat :=
  match k.kind with
  | .access a home ents => (((a.sectors k.core home ents)[i]?).map (·.1)).getD home
  | .copy _ h _ _ o0 e0 rows _ _ _ => ((copyPart h o0 e0 rows i).map (fun p => homeAddr h.ilv p.1)).getD 0
  | .secld home ents len _ _ => (((secRuns k.core home len ents)[i]?).map (·.1)).getD home
  | .laneStore _ bs ilv _ ents onChip => (((laneParts ilv ents onChip bs)[i]?).map (fun p => homeAddr ilv (lanePlace ents p.2.1))).getD 0
  | _ => 0
/-- The slot a step takes: class and instance. -/
def Act.slot : Act → Option (SlotClass × Nat)
  | .mesh inst => some (.mesh, inst)
  | .link inst => some (.link, inst)
  | .chanRead c _ _ | .chanWrite c _ _ => some (.chan, c)
  | _ => none
/-- The slot that the plan has kept for a step. -/
def slotOf (p : PStep) : Option (SlotClass × Nat × Nat) := p.act.slot.map (fun s => (s.1, s.2, p.at_))
/-- Steps of later flits of the same work that have kept a flit's slot. -/
def Work.heldBy (k : Work) (p : PStep) (c : SlotClass) (inst t : Nat) : List PStep :=
  if c = .chan then [] else k.steps.filter (fun s => decide (p.chain < s.chain) && slotOf s == some (c, inst, t))
/-- When the command of a piece of work issued: the GTS beat, and the device (09 R219). -/
def Chip.issuedAt (ch : Chip) (k : Work) : Nat × Nat := match k.kind with | .peer q => (q.issued, q.dev) | _ => (k.beat, ch.devnum.toNat)
/-- Whether one piece of work's command issued before another's. -/
def Chip.issuedBefore (ch : Chip) (a b : Work) : Bool :=
  let x := ch.issuedAt a
  let y := ch.issuedAt b
  decide (x.1 < y.1) || (x.1 == y.1 && decide (x.2 < y.2))
/-- Other work of a multi-device owner whose plan claims a slot (09 R219): the plans of several devices do not see each other. -/
def Chip.claims (ch : Chip) (w : Nat) (k : Work) (c : SlotClass) (inst t : Nat) : List (Nat × Work) :=
  if (ch.owner k.owner).ndev ≤ 1 then []
  else ch.works.filter (fun e => e.1 != w && e.2.owner == k.owner && e.2.steps.any (fun s => slotOf s == some (c, inst, t)))
/-- A slot of the owner in the present beat that a step can take: the one its plan kept; for a step that has missed it, one no
plan has claimed, or one of a later flit of its own work, which does not pass it (09 R219; 21 R370). Of the plans that devices
made apart the one whose command issued first has a slot, and the other takes the next that no plan before it claims. -/
def slotFree (ch : Chip) (w : Nat) (k : Work) (p : PStep) (c : SlotClass) (inst t : Nat) : Bool :=
  let o := ch.owner k.owner
  let claims := ch.claims w k c inst t
  o.ownsAt c t && (if p.at_ = t then claims.all (fun e => !ch.issuedBefore e.2 k)
    else !Resv.has o.resv c inst t && claims.isEmpty || !(k.heldBy p c inst t).isEmpty ||
      (!claims.isEmpty && claims.all (fun e => ch.issuedBefore k e.2)))
/-- Flits of one work keep their order on every instance (09 R219). -/
def Work.inOrder (k : Work) (p : PStep) : Bool :=
  k.steps.all (fun s => s.act != p.act || decide (p.chain ≤ s.chain) || decide (p.at_ ≤ s.at_))
/-- The instance of a flit's step. -/
def Act.flitInst : Act → Option Nat
  | .mesh i | .link i => some i
  | _ => none
/-- The steps a flit goes on by after its step on an instance: the next of its chain, and those of branches that leave there. -/
def Work.goesOn (k : Work) (p : PStep) : List PStep :=
  ((k.steps.filter (fun s => s.chain == p.chain && s != p)).head?.toList ++
    k.steps.filter (fun s => s.deps.any (fun d => d.1 == p.chain && d.2 == p.act.flitInst))).filter (fun s => s.act.flitInst.isSome)
/-- The beat in which a flit leaves its latch, as planned, when it has not left it by beat t; none once it has. -/
def Chip.leaves (ch : Chip) (l : Latch) (t : Nat) : Option Nat :=
  (ch.work? l.work).bind (fun j => (j.steps.find? (fun s => s.chain == l.chain && s.act.flitInst == some l.inst)).map (fun s =>
    max (max s.at_ s.from_) (t + 1)))
/-- Beats of a flit's step on an instance. -/
def Act.beats : Act → Nat
  | .mesh i => instBeats i
  | _ => 1
/-- The latches that a flit comes into by a step in beat t hold no other flit of the owner while it is there (21 R370). -/
def Chip.latchFree (ch : Chip) (w : Nat) (k : Work) (p : PStep) (t : Nat) : Bool :=
  let in_ := t + p.act.beats
  (k.goesOn p).all (fun s => ch.latches.all (fun l =>
    l.owner != k.owner || s.act.flitInst != some l.inst || (l.work == w && l.chain == s.chain) ||
    (match ch.leaves l t with | some u => decide (u < in_) || decide (max s.at_ in_ < l.from_) | none => true)))
/-- A flit's step on an instance can be taken. -/
def flitReady (ch : Chip) (w : Nat) (k : Work) (p : PStep) (c : SlotClass) (inst t : Nat) : Bool :=
  slotFree ch w k p c inst t && k.inOrder p && ch.latchFree w k p t
/-- What a step follows in other chains is done. -/
def Work.depsDone (k : Work) (p : PStep) : Bool :=
  p.deps.all (fun d => k.steps.all (fun s => s.chain != d.1 || (match d.2 with | none => false | some inst => s.act != .mesh inst && s.act != .link inst)))
/-- A channel command can issue: the owner's slot, its bank free, no slot yielded, the sector not held by an atomic
between its two commands (07 R150; 23 R377, R378, R381). -/
def commandOk (ch : Chip) (w : Nat) (k : Work) (p : PStep) (chan bank i t : Nat) (write : Bool) : Bool :=
  let c := ch.chan chan
  slotFree ch w k p .chan chan t && decide (c.bankFree.getD bank 0 ≤ ch.gts) && (!write || writeBeat ch.gts) &&
    decide (c.yields.getD k.owner 0 = 0) && c.held.all (fun e => e.2 == w || e.1 != k.sectorAddr i / 64)
/-- The injection that follows a flit's source reads. -/
def Work.injection (k : Work) (chain : Nat) : Option PStep :=
  k.steps.find? (fun s => s.chain == chain && (match s.act with | .mesh _ => true | _ => false))
/-- Its way to the home, which earlier accesses to the same bytes do not hold up: of a request, and of a lane store's flit. -/
def WorkKind.onWay : WorkKind → Act → Bool
  | .access _ _ [], .mesh _ => true
  | .laneStore _ _ _ _ _ _, .mesh _ => true
  | _, _ => false
/-- Whether a due step can happen in the present beat. -/
def stepReady (ch : Chip) (w : Nat) (k : Work) (t : Nat) (p : PStep) : Bool :=
  -- behind a closed boundary no request of the partition leaves by a port (24 R407)
  let fenced := (ch.part (ch.owner k.owner).part).fenced
  (k.kind.onWay p.act || k.after.all ch.workOver) && k.depsDone p &&
    (match p.act with
     | .mesh inst => flitReady ch w k p .mesh inst t
     | .link inst => !fenced && flitReady ch w k p .link inst t
     | .chanRead c b i => commandOk ch w k p c b i t false
     | .chanWrite c b i => commandOk ch w k p c b i t true
     -- a source is read in the beat its flit is injected (06 R411)
     | .takeSource _ =>
       (match k.injection p.chain with
        | some s => (match s.act with | .mesh inst => decide (s.from_ ≤ t) && flitReady ch w k s .mesh inst t | _ => true)
        | none => true)
     | .memberRequest m c =>
       (match k.kind, ch.groupOfWork k with
        | .clbc _ _ dst _, some (_, e) =>
          let who := e.members.getD m (0, 0)
          let run := k.collSize.dstRun c
          let a := abufAddr who.2 + dst + run.1
          -- a lock of work that waits for this one does not hold it up (19 R350)
          let mine (l : Nat) : Bool := l == w || (match ch.work? l with | some j => j.after.contains w | none => false)
          who.1 != ch.devnum.toNat || (lockers ch who.2 a (a + run.2)).all mine
        | .peer q, _ =>
          (match q.ask with
           | .chunk off data _ => let a := abufAddr q.core + off; (lockers ch q.core a (a + data.length)).all (· == w)
           | _ => true)
        | _, _ => true)
     | .sectorLands i =>
       (match k.kind with
        | .laneStore _ bs ilv _ ents true =>
          (match (laneParts ilv ents true bs)[i]? with
           | some (_, a, l) => (lockers ch ((a - 2 ^ 48) / 2 ^ 21) a (a + l.length)).isEmpty
           | none => true)
        | _ => true)
     | .answerLands => k.steps.all (fun s => s.act == .answerLands)
     | .portRequest _ => !fenced
     | _ => true)
/-- Whether work reads through its channel commands and port requests. -/
def WorkKind.reads : WorkKind → Bool
  | .access a _ _ => !a.stores
  | .copy op _ _ _ _ _ _ _ _ _ => op != 1
  | .secld _ _ _ _ _ => true
  | _ => false
/-- Whether a step only moves or reads: of one beat these come before what writes (06 R411). -/
def Work.quiet (k : Work) (p : PStep) : Bool :=
  match p.act with
  | .mesh _ | .link _ | .chanRead _ _ _ | .delivered _ | .takeSource _ | .memberRequest _ _ => true
  | .portRequest _ => k.kind.reads
  | .atHome => (match k.kind with | .access a _ _ => !a.stores | _ => false)
  | _ => false
/-- The beat of the owner's clock that work's steps go by; in COLLECT it runs on from g_f (08 R190). -/
def Chip.workClock (ch : Chip) (k : Work) : Nat :=
  let o := ch.owner k.owner
  o.clock ch.gts + (if o.state = .collect then ch.gts - (o.preempt.map (·.gf)).getD ch.gts else 0)
/-- The port's answer to a write that CPY.OUT has made. -/
def Work.outAnswer (k : Work) (p : PStep) : Bool :=
  match k.kind, p.act with
  | .copy op _ _ _ _ _ _ _ _ _, .portAnswer _ => op == 1
  | _, _ => false
/-- The step of a piece of work that happens next in the present beat: a quiet one before others. No step happens while the
owner is frozen as a whole (02 R36), but that in COLLECT a port still answers writes that CPY.OUT has made (08 R190). -/
def Chip.nextStep (ch : Chip) (w : Nat) (k : Work) : Option (Nat × PStep) :=
  let o := ch.owner k.owner
  if k.doneBeat.isSome then none
  else if o.state = .collect then
    (dueSteps (ch.workClock k) 0 [] k.steps).find? (fun e => k.outAnswer e.2)
  else if !o.live || o.frozenAt ch.gts then none
  else
    let t := o.clock ch.gts
    let l := (dueSteps t 0 [] k.steps).filter (fun e => stepReady ch w k t e.2)
    (l.find? (fun e => k.quiet e.2)).or l.head?
/-- The event that a step is. -/
def eventOf (w : Nat) (k : Work) : Act → Instr
  | .mesh _ | .takeSource _ | .atHome | .answerLands | .replicaCommit => .meshFlitStep w
  | .link _ => .linkFlitStep (.own w)
  | .chanRead _ _ _ => .chanReadCommand w
  | .delivered _ => .chanReadDelivery w false false
  | .chanWrite _ _ _ => .chanWriteCommand w
  | .portRequest _ | .portAnswer _ => .portResponse w
  | .memberRequest _ _ => .collRequestArrives (.own w)
  | .chunkLands _ => .collChunkLands w
  | .sectorLands _ =>
    match k.kind with
    | .copy _ _ _ _ _ _ _ _ _ _ => .copySectorLands w
    | .secld _ _ _ _ _ => .secldLands w
    | .clbc _ _ _ _ | .peer _ => .collChunkLands w
    | _ => .meshFlitStep w

/-! ### What a step does -/

/-- The first beat that what follows a step may take, when the step is made in beat t. -/
def Act.next (a : Act) (t : Nat) : Nat :=
  match a with
  | .mesh inst => t + instBeats inst
  | .takeSource _ | .delivered _ | .portAnswer _ | .portRequest _ => t
  | _ => t + 1
/-- What follows a step made in beat t, `late` beats after its own: steps that take a slot come no earlier than what lies
before them, and those that go with it move with it (02 R36; 09 R220). -/
def follow (p : PStep) (t late : Nat) : Bool → List PStep → List PStep
  | _, [] => []
  | tied, s :: rest =>
    let after := s.deps.any (fun d => d.1 == p.chain && (match d.2 with | none => true | some inst => p.act == .mesh inst || p.act == .link inst))
    let free := match s.act with | .portRequest _ => p.act.next t - 1 | _ => p.act.next t
    if s.chain = p.chain then
      if s.act.slot.isSome then { s with from_ := if tied then max s.from_ (p.act.next t) else s.from_ } :: follow p t late false rest
      else (if tied then { s with at_ := s.at_ + late } else s) :: follow p t late tied rest
    else (if after then { s with from_ := max s.from_ (if s.act.slot.isSome then p.act.next t else free) } else s) :: follow p t late tied rest
/-- The rest of the plan of work after a step made in beat t of the owner's clock, when what it brings is d beats late. -/
def Work.followed (k : Work) (p : PStep) (t d : Nat) : Work := { k with steps := follow p (t + d) (t + d - p.at_) true k.steps }
/-- Takes the slot of a step in beat t: one that a later flit of the work, or a plan of another device, had kept makes that
wait, one that no plan had is claimed. -/
def Chip.takeSlot (ch : Chip) (w : Nat) (k : Work) (p : PStep) (c : SlotClass) (inst t : Nat) : Chip :=
  let put (j : Work) : Work := { j with steps := j.steps.map (fun s => if slotOf s = some (c, inst, t) then { s with from_ := max s.from_ (t + 1) } else s) }
  let ch := (ch.claims w k c inst t).foldl (fun ch e => ch.setWork e.1 (put e.2)) ch
  if p.at_ = t then ch
  else
    let o := ch.owner k.owner
    let held := k.heldBy p c inst t
    if held.isEmpty then ch.setOwner k.owner { o with resv := (c, inst, t) :: o.resv }
    else ch.setWork w { k with steps := k.steps.map (fun s => if held.contains s then { s with from_ := max s.from_ (t + 1) } else s) }
/-- Whether a flit of a chain carries a request: a command, a request or an access follows it, of a collective in the same
chunk. -/
def Work.requests (k : Work) : Nat → Nat → Bool
  | 0, _ => false
  | n + 1, chain =>
    let next := k.steps.filter (fun s => (s.chain == chain || s.deps.any (fun d => d.1 == chain)) && s.chain / 65536 == chain / 65536)
    next.any (fun s => match s.act with | .chanRead _ _ _ | .chanWrite _ _ _ | .portRequest _ | .atHome | .memberRequest _ _ => true | _ => false) ||
      (((next.map (·.chain)).eraseDups.filter (· != chain)).any (Work.requests k n))
/-- A flit leaves its latch in beat t for those of the instances it goes on by (21 R370). -/
def Chip.passLatch (ch : Chip) (w : Nat) (k : Work) (p : PStep) (t : Nat) : Chip :=
  let new := (k.goesOn p).filterMap (fun s => s.act.flitInst.map (fun i =>
    ({ owner := k.owner, inst := i, work := w, chain := s.chain, from_ := t + p.act.beats, request := k.requests 3 s.chain } : Latch)))
  { ch with latches := ch.latches.filter (fun l => !(l.work == w && l.chain == p.chain)) ++ new }
/-- A flit's step on an instance. -/
def Chip.flitStep (ch : Chip) (w : Nat) (k : Work) (p : PStep) (c : SlotClass) (inst t d : Nat) : Chip :=
  let ch := ch.takeSlot w k p c inst t
  let k := ((ch.work? w).getD k).followed p t d
  (ch.setWork w k).passLatch w k p t
/-- A command on a channel: its bank is busy for 32 beats. A write enters the channel's queue, an atomic holds its
sector from its read to its write. -/
def Chip.command (ch : Chip) (w : Nat) (k : Work) (p : PStep) (chan bank i t : Nat) (write : Bool) : Chip :=
  let c := ch.chan chan
  let atomic := match k.kind with | .access a _ _ => a.atomic | _ => false
  let c := { c with
    bankFree := c.bankFree.set bank (ch.gts + Config.bankBusy)
    queue := if write then c.queue ++ [(k.sectorAddr i, [])] else c.queue
    held := if !atomic then c.held else if write then c.held.filter (fun e => e.2 != w) else c.held ++ [(k.sectorAddr i / 64, w)] }
  (ch.setChan chan c).takeSlot w k p .chan chan t
/-- What a read command or port request reads. -/
def readStep (m : Memory) (ch : Chip) (w : Nat) (k : Work) (i : Nat) : Res :=
  match k.kind with
  | .access a home ents => { chip := accessRead m ch w k a home ents i, writes := [] }
  | .copy _ _ _ _ _ _ _ _ _ _ => copyRead m ch w k i
  | .secld _ _ _ _ _ => { chip := secldRead m ch w k i, writes := [] }
  | _ => { chip := ch, writes := [] }
/-- What a write command or a port's acceptance writes. -/
def writeStep (m : Memory) (ch : Chip) (w : Nat) (k : Work) (i : Nat) : Res :=
  match k.kind with
  | .access a home ents => accessWrite m ch w k a home ents
  | .copy _ _ _ _ _ _ _ _ _ _ => copyWrite m ch w k i
  | .laneStore _ _ _ _ _ _ => laneAccept m ch w k i
  | _ => { chip := ch, writes := [] }
/-- A free value has been used. -/
def Chip.freshen (ch : Chip) : Chip := { ch with fresh := ch.fresh + 1 }
/-- The key a read of the work is staged under. -/
def Work.readKey (k : Work) (n : Nat) : Nat :=
  match k.kind with
  | .copy _ h _ _ o0 e0 rows _ _ _ => ((copyPart h o0 e0 rows n).map (fun p => p.1 / 64 * 64)).getD 0
  | _ => n
/-- Read n of the work is in error, when it is. -/
def Work.poisonRead (k : Work) (n : Nat) (bad : Bool) : Work :=
  if bad then { k with staged := k.staged.map (fun e => if e.1 = k.readKey n then (e.1, e.2.1, some .memUncorrected) else e) } else k
/-- What a port's answer does: an atomic acts, a write is accepted, of a read the data may be uncorrectable (09 R218; DESIGN
CHOICE, log 89). -/
def portAnswers (m : Memory) (ch : Chip) (w : Nat) (k : Work) (i : Nat) : Res :=
  let r : Res := { chip := ch, writes := [] }
  match k.kind with
  | .access a home ents =>
    if a.atomic then
      let ch := accessRead m ch w k a home ents i
      (match ch.work? w with | some k => accessWrite m ch w k a home ents | none => { r with chip := ch })
    else if a.stores then accessWrite m ch w k a home ents
    else { r with chip := (ch.setWork w (k.poisonRead i (Config.portPoisons ch.fresh))).freshen }
  | _ =>
    if k.kind.reads then { r with chip := (ch.setWork w (k.poisonRead i (Config.portPoisons ch.fresh))).freshen }
    else writeStep m ch w k i
/-- A source read before an injection takes the injection's slot with it. -/
def Chip.beforeInjection (ch : Chip) (w : Nat) (k : Work) (p : PStep) (t : Nat) : Chip :=
  match k.injection p.chain with
  | none => ch
  | some s =>
    match s.act.slot with
    | none => ch
    | some (c, inst) =>
      let ch := ch.takeSlot w k s c inst t
      let k := (ch.work? w).getD k
      ch.setWork w { k with steps := k.steps.map (fun x => if x.chain == p.chain && x.act == s.act then { x with at_ := t } else x) }
/-- A step over a port of this device that is not aligned carries nothing (24 R404): of a collective the members beyond are cut off,
another device's work ends there. -/
def Chip.overPort (ch : Chip) (w : Nat) (k : Work) (inst : Nat) : Chip :=
  let up := match ch.host.ports.get? (inst / 2) with | some q => q.aligned | none => false
  if 2 * Config.isavikPorts ≤ inst ∨ up = true then ch
  else if k.kind.foreign then ch.dropWork w
  else match ch.work? w with | some k => ch.setWork w (k.cutOff ch inst) | none => ch
/-- A transfer between other devices has taken its slot on the port it leaves by (24 R412). -/
def Chip.transits (ch : Chip) (w : Nat) (k : Work) : Chip :=
  match k.kind, k.steps with
  | .transit dest data, [] => (ch.emit (.forward (ch.portTo dest) dest data)).dropWork w
  | _, _ => ch
/-- One step of a piece of work in beat t of the owner's clock, already taken out of its plan. -/
def runAct (m : Memory) (ch : Chip) (w : Nat) (k : Work) (p : PStep) (t : Nat) : Res :=
  let r : Res := { chip := ch, writes := [] }
  -- the chip with what follows the step moved, and the work in it
  let ch1 := ch.setWork w (k.followed p t 0)
  let k1 := k.followed p t 0
  match p.act with
  | .mesh inst => { r with chip := ch.flitStep w k p .mesh inst t 0 }
  | .link inst => { r with chip := (((ch.flitStep w k p .link inst t (Config.linkRetry ch.fresh)).freshen).transits w k).overPort w k inst }
  | .chanRead c b i => readStep m (ch1.command w k1 p c b i t false) w k1 i
  | .chanWrite c b i => writeStep m (ch1.command w k1 p c b i t true) w k1 i
  | .delivered _ => { r with chip := ch1 }
  | .portRequest i =>
    let k := k.followed p t (Config.portDelay ch.fresh)
    let ch := (ch.setWork w k).freshen
    if k.kind.reads then readStep m ch w k i else { r with chip := ch }
  | .portAnswer i => portAnswers m ch1 w k1 i
  | .takeSource n =>
    let ch := ch1.beforeInjection w k1 p t
    let k := (ch.work? w).getD k1
    { r with chip := match k.kind with | .clbc _ _ _ _ => collTake m ch w k n | _ => copyTake m ch w k n }
  | .sectorLands n =>
    (match k1.kind with
     | .copy _ _ _ _ _ _ _ _ _ _ => copyLands m ch1 w k1 n
     | .secld _ _ _ _ _ => secldLand m ch1 w k1 n
     | .laneStore _ _ _ _ _ _ => laneAccept m ch1 w k1 n
     | .clbc _ _ _ _ => broadcastLands m ch1 w k1 n
     | .peer q => peerLands m ch1 w k1 q
     | _ => r)
  | .atHome => (match k1.kind with | .access a home _ => actAtHome m ch1 w k1 a home | _ => r)
  | .answerLands =>
    (match k1.kind with
     | .access a _ _ => { r with chip := answer ch1 w k1 a }
     | .peer q => { r with chip := peerReplies ch1 w k1 q }
     | _ => r)
  | .memberRequest mem c =>
    { r with chip := match k1.kind with | .peer q => peerArrives m ch1 w k1 q | _ => collRequest m ch1 w k1 mem c }
  | .chunkLands c => reduceLands m ch1 w k1 c
  | .replicaCommit => r
/-- The step that happens next, when it is of the kind an event names. -/
def workEvent (w : Nat) (mine : Instr → Bool) (s : State) : Outcome :=
  match s.chip.work? w with
  | none => .next s
  | some k =>
    match s.chip.nextStep w k with
    | none => .next s
    | some (i, p) =>
      if !mine (eventOf w k p.act) then .next s
      else
        let k := { k with steps := k.steps.eraseIdx i }
        .next (s.commit (runAct s.mem (s.chip.setWork w k) w k p (s.chip.workClock k)))
/-- MESH_FLIT_STEP (01 R15; 21 R370). -/
def execMeshFlitStep (work : Nat) (s : State) : Outcome := workEvent work (· == .meshFlitStep work) s
/-- LINK_FLIT_STEP (24 R412): of work here, or of a transfer between other devices that comes in by a port. -/
def execLinkFlitStep (step : LinkStep) (s : State) : Outcome :=
  match step with
  | .own work => workEvent work (· == .linkFlitStep (.own work)) s
  | .transit port owner dest data => .next (s.keep (transitArrives s.chip port owner dest data))
/-- COPY_SECTOR_LANDS (09 R213, R221). -/
def execCopySectorLands (work : Nat) (s : State) : Outcome := workEvent work (· == .copySectorLands work) s
/-- SECLD_LANDS (07 R164). -/
def execSecldLands (work : Nat) (s : State) : Outcome := workEvent work (· == .secldLands work) s
/-- CHAN_READ_COMMAND (23 R377). -/
def execChanReadCommand (work : Nat) (s : State) : Outcome := workEvent work (· == .chanReadCommand work) s
/-- CHAN_WRITE_COMMAND (23 R378). -/
def execChanWriteCommand (work : Nat) (s : State) : Outcome := workEvent work (· == .chanWriteCommand work) s
/-- PORT_RESPONSE (23 R379). -/
def execPortResponse (work : Nat) (s : State) : Outcome := workEvent work (· == .portResponse work) s
/-- COLL_REQUEST_ARRIVES (19 R340, R343): a chunk's request of work here, or one of another device's collective. -/
def execCollRequestArrives (ask : CollAsk) (s : State) : Outcome :=
  match ask with
  | .own work => workEvent work (· == .collRequestArrives (.own work)) s
  | .peer q => .next (s.commit (peerRequest s.mem s.chip q))
/-- COLL_CHUNK_LANDS (19 R343, R344). -/
def execCollChunkLands (work : Nat) (s : State) : Outcome := workEvent work (· == .collChunkLands work) s

/-- Steps of work that can happen in the present beat, as events; of the quiet ones alone, or of all. -/
def Chip.workEvents (ch : Chip) (all : Bool) : List Instr :=
  ch.works.filterMap (fun e =>
    match ch.nextStep e.1 e.2 with
    | some p => if all || e.2.quiet p.2 then some (eventOf e.1 e.2 p.2.act) else none
    | none => none)
/-- An owner's commands on a channel, when one is planned for a yielded slot, go from it on to its next owned slots, with what
goes with them (23 R381). -/
def Chip.displace (ch : Chip) (chan on : Nat) : Chip :=
  let o := ch.owner on
  let t := o.clock ch.gts
  let d := (o.stride .chan).getD 1
  let here (s : PStep) : Bool :=
    match s.act with | .chanRead c _ _ | .chanWrite c _ _ => c == chan && decide (t ≤ s.at_) | _ => false
  let move (k : Work) : Work :=
    let chains := (k.steps.filter here).map (·.chain)
    { k with steps := k.steps.map (fun s => if here s || (chains.contains s.chain && s.act.slot.isNone) then { s with at_ := s.at_ + d } else s) }
  let resv := o.resv.map (fun e => if e.1 = .chan ∧ e.2.1 = chan ∧ t ≤ e.2.2 then (e.1, e.2.1, e.2.2 + d) else e)
  if ch.works.all (fun e => e.2.owner != on || e.2.steps.all (fun s => !(here s && s.at_ == t))) then ch else
  { ch.setOwner on { o with resv := resv } with works := ch.works.map (fun e => if e.2.owner = on then (e.1, move e.2) else e) }

/-! ### The memory's fault-address queue (23 R390) -/

/-- Global channel of a device address of HBM under the map of pointers, with bank and row (23 R376; log 29). -/
def rowOf (a : Nat) : Option (Nat × Nat × Nat) :=
  match placeOf a with
  | .hbm s off =>
    let n := chanOffset 0 off / 64
    some (s * 32 + chanOf 0 off, n % 32, n / 32 / 16)
  | _ => none
/-- Appends a record, or counts it dropped; events 1 and 2 list the frame as bad. -/
def faqRecord (m : Memory) (r : Res) (stack addr ev : Nat) : Res :=
  let k := r.chip.stk stack
  let len := bitsOf k.faqbase 48 16
  let next := if len = 0 then 0 else (k.faqhead.toNat + 1) % len
  let full := len == 0 || next == k.faqtail.toNat
  let bad := if (ev == 1 || ev == 2) && !k.badPages.contains (addr % 2 ^ 37 / 65536) && decide (k.badPages.length < 256)
    then k.badPages ++ [addr % 2 ^ 37 / 65536] else k.badPages
  let k := { k with badPages := bad }
  if full then
    { r with chip := r.chip.setStk stack { k with faqdrop := if k.faqdrop.toNat + 1 < 2 ^ 32 then k.faqdrop + 1 else k.faqdrop } }
  else
    let at_ := bitsOf k.faqbase 4 44 * 16 + k.faqhead.toNat * 16
    let rec_ := wordBytes (BitVec.ofNat 64 addr) ++ wordBytes (BitVec.ofNat 64 (r.chip.gts % 2 ^ 48 + ev * 2 ^ 48))
    writeOwn m { r with chip := r.chip.setStk stack { k with faqhead := BitVec.ofNat 16 next } } at_ rec_

/-! ### Row errors and spare rows (23 R389) -/

/-- Device address of a row's first sector. -/
def rowAddress (chan bank row : Nat) : Nat :=
  let c := ((row * 16) * 32 + bank) * 64
  chan / 32 * 2 ^ 37 + (c / 2 ^ 16 * 32 + chan % 32) * 2 ^ 16 + c % 2 ^ 16
/-- A spare row of a bank that is not in use, of its sixteen. -/
def Chan.freeSpare (k : Chan) (bank : Nat) : Option Nat :=
  (List.range 16).find? (fun n => k.remap.all (fun e => !(e.1 == bank && e.2.2 == n)))
/-- Starts the copy of the first row that waits, unless one runs; a bank with no spare left is reported. -/
def startRowCopy (m : Memory) (r : Res) (chan : Nat) : Res :=
  let k := r.chip.chan chan
  match k.copy, k.rowQueue with
  | none, (bank, row) :: rest =>
    (match k.freeSpare bank with
     | some n =>
       let copy : RowCopy := { bank := bank, row := row, spare := n, next := 0, since := r.chip.gts }
       { r with chip := r.chip.setChan chan { k with rowQueue := rest, copy := some copy } }
     | none =>
       let r := { r with chip := r.chip.setChan chan { k with rowQueue := rest, rows := k.rows.filter (fun e => !(e.1 == bank && e.2.1 == row)) } }
       faqRecord m r (chan / 32) (rowAddress chan bank row) 2)
  | _, _ => r
/-- Whether a row is copied or waits for it. -/
def Chan.copies (k : Chan) (bank row : Nat) : Bool :=
  k.rowQueue.contains (bank, row) || (match k.copy with | some c => c.bank == bank && c.row == row | none => false)
/-- One corrected error on a row: its count rises; a new row that finds 256 rows replaces the lowest count, among
equals the lowest row address. A row whose count reaches 8 waits for its copy, whatever its count does then. -/
def countError (m : Memory) (r : Res) (chan bank row : Nat) : Res :=
  let k := r.chip.chan chan
  let rows :=
    if k.rows.any (fun e => e.1 == bank && e.2.1 == row) then
      k.rows.map (fun e => if e.1 = bank ∧ e.2.1 = row then (e.1, e.2.1, e.2.2 + 1) else e)
    else
      let low := k.rows.foldl (fun (a : Nat × Nat × Nat) e =>
        if e.2.2 < a.2.2 ∨ (e.2.2 = a.2.2 ∧ rowAddress chan e.1 e.2.1 < rowAddress chan a.1 a.2.1) then e else a) (k.rows.headD (0, 0, 0))
      (if 256 ≤ k.rows.length then k.rows.filter (fun e => e != low) else k.rows) ++ [(bank, row, 1)]
  let full := rows.any (fun e => e.1 == bank && e.2.1 == row && decide (8 ≤ e.2.2)) && !k.copies bank row
  startRowCopy m { r with chip := r.chip.setChan chan { k with rows := rows, rowQueue := if full then k.rowQueue ++ [(bank, row)] else k.rowQueue } } chan
/-- An error found in a sector: a corrected one counts on its row, an uncorrected one poisons the sector and is
recorded. -/
def sectorError (m : Memory) (r : Res) (addr : Nat) (corrected uncorrected : Bool) : Res :=
  match rowOf addr with
  | none => r
  | some (chan, bank, row) =>
    let r := if corrected then countError m r chan bank row else r
    if uncorrected then faqRecord m { r with chip := r.chip.setPoison (addr / 64) true } (chan / 32) (addr / 64 * 64) 1 else r
/-- CHAN_READ_DELIVERY (23 R377): a sector is at its entry router. An uncorrected error found on the way poisons it; a corrected
one makes the channel transfer it again (09 R220), in a beat the manual does not give (DESIGN CHOICE, log 88). -/
def execChanReadDelivery (work : Nat) (corrected uncorrected : Bool) (s : State) : Outcome :=
  match s.chip.work? work with
  | none => .next s
  | some k =>
    match (s.chip.nextStep work k).filter (fun e => match e.2.act with | .delivered _ => true | _ => false) with
    | none => .next s
    | some (i, p) =>
      let n := match p.act with | .delivered n => n | _ => 0
      let t := s.chip.workClock k
      if corrected && !uncorrected then
        let again := { p with at_ := t + 1 + Config.retryBeats s.chip.fresh }
        let ch := (s.chip.setWork work { k with steps := k.steps.set i again }).freshen
        .next (s.commit (sectorError s.mem { chip := ch, writes := [] } (k.sectorAddr n) true false))
      else
        let k2 := ({ k with steps := k.steps.eraseIdx i } : Work).followed p t 0
        .next (s.commit (sectorError s.mem { chip := s.chip.setWork work (k2.poisonRead n uncorrected), writes := [] } (k.sectorAddr n) false uncorrected))

end Sys2Proof.Machine
end

