-- ==== Sys2Proof/Machine/MemSys.lean ====
section
/-! DEFINITION. The memory system's own events (23 R380 to R392; 06 R410): translation walks, maintenance
slots, dirty harvest, hot pages, invalidation, and the memory interfaces. -/

namespace Sys2Proof.Machine

/-! ### Walks (23 R383; 07 R144) -/

/-- The I/O die that serves a core: 0 for IO-N, 1 for IO-S (01 R17). -/
def ioDieOf (core : Nat) : Nat := if coreY core < 8 then 0 else 1
/-- Walks that wait take a free walker; `doneBeat` 0 is a walk that waits. -/
def admitWalks (ch : Chip) : Chip :=
  let go (ch : Chip) (i : Nat) : Chip :=
    match ch.walks[i]? with
    | some w =>
      let busy := ch.walks.countP (fun v => v.result.isNone && decide (v.doneBeat ≠ 0) && ioDieOf v.core == ioDieOf w.core)
      if w.doneBeat = 0 ∧ w.result.isNone = true ∧ busy < Config.walksInFlight then
        { ch with walks := ch.walks.set i { w with doneBeat := ch.gts + 1 + Config.walkBeats ch.fresh }, fresh := ch.fresh + 1 }
      else ch
    | none => ch
  (List.range ch.walks.length).foldl go ch
/-- Puts an entry into a core's TLB of 128; when all are in use one is replaced (log 7). -/
def insertTlb (ch : Chip) (core : Nat) (e : TlbEntry) : Chip :=
  let k := ch.core core
  let l := k.tlb.filter (fun f => !(f.owner == e.owner && f.page == e.page))
  if l.length < Config.tlbEntries then ch.setCore core { k with tlb := l ++ [e] }
  else { ch.setCore core { k with tlb := l.eraseIdx (Config.tlbVictim ch.fresh % l.length) ++ [e] } with fresh := ch.fresh + 1 }
/-- The stall of a strand whose cause clears in the present beat. -/
def clearStall (ch : Chip) (core slot : Nat) (mine : StallKind → Bool) : Chip :=
  let clear (s : Option Stall) : Option Stall :=
    s.map (fun k => if mine k.kind && k.cleared.isNone then { k with cleared := some ch.gts } else k)
  ch.onStrand core slot (fun st => { st with run := { st.run with stall := clear st.run.stall, hstall := clear st.run.hstall } })
/-- The strand that a walk was made for, live or in its record (08 R189), no longer waits. -/
def wakeWalker (ch : Chip) (w : Walk) : Chip :=
  let mine (k : StallKind) : Bool := k == .tlbMiss w.page
  match ch.strand? w.core w.slot with
  | some st => if st.place.owner = w.owner then clearStall ch w.core w.slot mine else saved
  | none => saved
where
  /-- The strand in a saved record. -/
  saved : Chip :=
    let clear (s : Option Stall) : Option Stall :=
      s.map (fun k => if k.kind = .tlbMiss w.page ∧ k.cleared.isNone = true then { k with cleared := some ch.gts } else k)
    let wake (r : SavedStrand) : SavedStrand :=
      if r.key = skey w.core w.slot then
        { r with strand := { r.strand with run := { r.strand.run with stall := clear r.strand.run.stall, hstall := clear r.strand.run.hstall } } }
      else r
    { ch with saved := ch.saved.map (fun (e : Nat × Saved) => if e.2.owner = w.owner then (e.1, { e.2 with strands := e.2.strands.map wake }) else e) }
/-- TLB_WALK_COMPLETE (23 R382 to R384): the entry, or a fault that the retried slot raises. -/
def execTlbWalkComplete (walk : Nat) (s : State) : Outcome :=
  match s.chip.walks[walk]? with
  | none => .next s
  | some w =>
    if w.doneBeat = 0 ∨ s.chip.gts < w.doneBeat ∨ w.result.isSome = true then .next s
    else
      let o := s.chip.owner w.owner
      let wake (ch : Chip) : Chip := wakeWalker ch w
      match translateWalk s.mem (bitsOf (BitVec.ofNat 64 o.s1root) 12 36 * 2 ^ 12) (s.chip.part o.part).s2root w.owner w.page w.write with
      | .ok e => .next (s.keep (wake (insertTlb { s.chip with walks := s.chip.walks.eraseIdx walk } w.core e)))
      | .error c => .next (s.keep (wake { s.chip with walks := s.chip.walks.set walk { w with result := some (c, w.page) } }))

/-! ### Invalidation (23 R383, R392) -/

/-- TLBINV: one page, or all pages, of a partition. A write while an invalidation runs joins it. -/
def execTlbinv (part page : Nat) (all : Bool) (s : State) : Outcome :=
  let p := s.chip.part part
  let done := s.chip.gts + 1 + Config.invBeats s.chip.fresh
  let v : Nat × Bool × Nat := match p.tlbinv with
    | some (q, a, d) => (page, all || a || decide (q ≠ page), max d done)
    | none => (page, all, done)
  .next (s.keep { s.chip.setPart part { p with tlbinv := some v } with fresh := s.chip.fresh + 1 })
/-- Drops TLB entries of a partition's owners. -/
def dropTlb (ch : Chip) (part : Nat) (gone : TlbEntry → Bool) : Chip :=
  { ch with cores := ch.cores.map (fun e =>
      (e.1, { e.2 with tlb := e.2.tlb.filter (fun t => !((ch.owner t.owner).part == part && gone t)) })) }
/-- TLBINV_COMPLETE: TLBINV reads 0. -/
def execTlbinvComplete (part : Nat) (s : State) : Outcome :=
  let p := s.chip.part part
  match p.tlbinv with
  | some (page, all, d) =>
    if s.chip.gts < d then .next s
    else .next (s.keep (dropTlb (s.chip.setPart part { p with tlbinv := none }) part (fun t => all || t.page == page)))
  | none => .next s

/-! ### Maintenance slots (23 R380, R381, R389; 02 R45)

A maintenance command leaves a bank free for owners' commands: refresh and scrub never delay a read (R377), and the
examples of R381 and R389 put commands on one bank at less than 32 beats. -/

/-- A channel's maintenance slot. -/
def maintSlot (b : Nat) : Bool := b % 16 == 15
/-- Whether no maintenance command has been made in the present beat: a slot takes one (R380). -/
def Chan.maintFree (k : Chan) (b : Nat) : Bool := k.maintAt != b + 1
/-- A maintenance command made in the present beat. -/
def Chan.maintUse (k : Chan) (b : Nat) : Chan := { k with maintAt := b + 1 }
/-- Whether an alert's first command waits for a maintenance slot. -/
def Chan.alertFirst (k : Chan) : Bool := k.alert.any (fun e => e.2 == 9)
/-- Beats between the refreshes of a bank. -/
def refreshBeats : Nat := 4096
/-- Refreshes of a bank that are due and not yet made, at a beat; the first is due a whole period after reset
(log 29). -/
def Chan.owed (k : Chan) (bank b : Nat) : Nat := b / refreshBeats - k.refreshDue.getD bank 0
/-- Owners with CHAN slots, in ascending slot. -/
def Chip.chanOwners (ch : Chip) : List Nat :=
  (ch.owners.filter (fun e => e.2.state != .empty && (e.2.stride .chan).isSome && e.2.live)).map (·.1)
/-- The owner whose CHAN slot the present beat is, when it yields it. -/
def yieldingOwner (ch : Chip) (chan : Nat) : Option Nat :=
  ch.chanOwners.find? (fun o =>
    (ch.owner o).ownsAt .chan ((ch.owner o).clock ch.gts) && !(ch.owner o).frozenAt ch.gts && decide (0 < (ch.chan chan).yields.getD o 0))
/-- Shares n commands out among the owners: owner k yields (n + N − 1 − k) div N slots (R381). -/
def shareOut (ch : Chip) (n : Nat) : Tab Nat :=
  let os := ch.chanOwners
  os.zipIdx.map (fun e => (e.1, (n + os.length - 1 - e.2) / os.length))
/-- One yielded slot used. -/
def Chan.useYield (k : Chan) (o : Nat) : Chan := { k with yields := k.yields.set o (k.yields.getD o 0 - 1) }
/-- Whether the present beat is a slot that maintenance of a channel may use: its own, or one yielded. -/
def maintBeat (ch : Chip) (chan : Nat) : Bool := maintSlot ch.gts || (yieldingOwner ch chan).isSome
/-- Marks a yielded slot used, when the beat is no maintenance slot; the owner's commands move on. -/
def spendYield (ch : Chip) (chan : Nat) : Chip :=
  if maintSlot ch.gts then ch
  else match yieldingOwner ch chan with
    | some o => (ch.displace chan o).setChan chan ((ch.chan chan).useYield o)
    | none => ch
/-- ALERT_BACKOFF (R381): it arrives from the memory device; nine commands are to come for a bank whose refreshes are postponed
eight times. It is logged with its GTS under the number of the base die (08 R178). -/
def execAlertBackoff (chan bank : Nat) (s : State) : Outcome :=
  let k := s.chip.chan chan
  if 8 ≤ k.owed bank s.chip.gts ∧ k.alert.all (fun e => e.1 != bank) then
    let d := s.chip.stk (chan / 32)
    .next (s.keep ((s.chip.setChan chan { k with alert := k.alert ++ [(bank, 9)] }).setStk (chan / 32)
      { d with alertLog := d.alertLog ++ [(s.chip.gts, 392 + chan / 32, chan, bank)] }))
  else .next s
/-- The alert whose command the present beat takes: a first command in a maintenance slot, another one in a yielded slot. DESIGN
CHOICE (log 104): with no owner that has a slot to yield, the others take maintenance slots too. -/
def alertNow (ch : Chip) (chan : Nat) : Option (Nat × Nat) :=
  let k := ch.chan chan
  let others := k.alert.find? (fun e => e.2 != 9)
  if maintSlot ch.gts then
    (k.alert.find? (fun e => e.2 == 9)).or (if ch.chanOwners.all (fun o => k.yields.getD o 0 == 0) then others else none)
  else if (yieldingOwner ch chan).isSome then others else none
/-- ALERT_SERVICE_COMMAND: the first takes a maintenance slot, and the owners then yield slots for the rest: eight
refreshes and one refresh management. With the last the slots are the owners' again. -/
def execAlertServiceCommand (chan : Nat) (s : State) : Outcome :=
  match alertNow s.chip chan with
  | none => .next s
  | some (bank, n) =>
    if !(s.chip.chan chan).maintFree s.chip.gts then .next s
    else
      let ch := spendYield s.chip chan
      let k := ch.chan chan
      let left := (k.alert.map (fun e => if e.1 = bank then (e.1, n - 1) else e)).filter (fun e => e.2 != 0)
      let share := shareOut ch 8
      .next (s.keep (ch.setChan chan ({ k with
        alert := left
        refreshDue := if n ≤ 1 then k.refreshDue else k.refreshDue.set bank (k.refreshDue.getD bank 0 + 1)
        yields := if n = 9 then share.map (fun (e : Nat × Nat) => (e.1, e.2 + k.yields.getD e.1 0))
          else if left.isEmpty && k.copy.isNone then [] else k.yields }.maintUse ch.gts)))
/-- The bank a refresh takes: one owed eight first, otherwise one owed, of the banks that are free. -/
def refreshBank (k : Chan) (b : Nat) (least : Nat) : Option Nat :=
  (List.range 32).find? (fun n => decide (least ≤ k.owed n b) && decide (k.bankFree.getD n 0 ≤ b))
/-- The channel whose maintenance slot the next command of a stack's migration takes (23 R391): it reads a sector of the frame,
then writes one of the new frame. -/
def migrationChan (stack : Nat) (g : Migration) : Option Nat :=
  if 2048 ≤ g.next then none
  else if g.next % 2 = 0 then some (stack * 32 + chanOf 0 (g.frame * 65536))
  else match placeOf g.target with | .hbm s off => some (s * 32 + chanOf 0 off) | _ => none
/-- Whether a copy of a row or of a page claims a channel's maintenance slot before refreshes that are due (R380; log 47). -/
def copyClaims (ch : Chip) (chan : Nat) : Bool :=
  (ch.chan chan).copy.isSome || ch.hbm.any (fun (e : Nat × Stack) => (e.2.migration.bind (migrationChan e.1)) == some chan)
/-- REFRESH (R380): one postponed eight times first; one that is due, when no alert and no copy claims the slot. -/
def execRefresh (chan : Nat) (s : State) : Outcome :=
  let ch := s.chip
  let k := ch.chan chan
  if !maintSlot ch.gts || !k.maintFree ch.gts || k.alertFirst then .next s
  else
    match (refreshBank k ch.gts 8).or (if copyClaims ch chan then none else refreshBank k ch.gts 1) with
    | none => .next s
    | some bank =>
      .next (s.keep (ch.setChan chan ({ k with refreshDue := k.refreshDue.set bank (k.refreshDue.getD bank 0 + 1) }.maintUse ch.gts)))
/-- Sectors of a channel: 20 × 2^32 bytes of a stack over 32 channels. -/
def chanSectors : Nat := 20 * 2 ^ 32 / 32 / 64
/-- Device address of a channel's n-th sector. -/
def sectorAddress (chan n : Nat) : Nat :=
  let c := n * 64
  chan / 32 * 2 ^ 37 + (c / 2 ^ 16 * 32 + chan % 32) * 2 ^ 16 + c % 2 ^ 16
/-- Counts fall by one, never below 0, when a patrol pass completes; a row at 0 leaves the table. -/
def passComplete (ch : Chip) (chan : Nat) : Chip :=
  let k := ch.chan chan
  ch.setChan chan { k with scrub := 0, rows := (k.rows.map (fun e => (e.1, e.2.1, e.2.2 - 1))).filter (fun e => e.2.2 != 0) }
/-- PATROL_SCRUB (R380, R389): one sector read; an error found counts or is recorded. -/
def execPatrolScrub (chan : Nat) (corrected uncorrected : Bool) (s : State) : Outcome :=
  let ch := s.chip
  let k := ch.chan chan
  let bank := k.scrub % 32
  if !maintSlot ch.gts || !k.maintFree ch.gts || k.alertFirst || copyClaims ch chan || (refreshBank k ch.gts 1).isSome ||
      decide (ch.gts < k.bankFree.getD bank 0) || decide (chanSectors ≤ k.scrub) then .next s
  else
    let r : Res := { chip := ch.setChan chan ({ k with scrub := k.scrub + 1 }.maintUse ch.gts), writes := [] }
    .next (s.commit (sectorError s.mem r (sectorAddress chan k.scrub) corrected (uncorrected && !ch.poisoned.contains (sectorAddress chan k.scrub / 64))))
/-- PATROL_PASS_COMPLETE (R389). -/
def execPatrolPassComplete (chan : Nat) (s : State) : Outcome :=
  if chanSectors ≤ (s.chip.chan chan).scrub then .next (s.keep (passComplete s.chip chan)) else .next s
/-- SPARE_ROW_COPY (R389): a read or a write of one of the row's sixteen sectors; after the sixteenth write the
spare takes the row's place. An uncorrectable sector, known or met by the copy's read (R393; free, log 89), is written poisoned
and recorded. -/
def execSpareRowCopy (chan : Nat) (s : State) : Outcome :=
  let ch := s.chip
  let k := ch.chan chan
  match k.copy with
  | none => .next s
  | some c =>
    if !maintBeat ch chan || !k.maintFree ch.gts || (alertNow ch chan).isSome || (maintSlot ch.gts && (refreshBank k ch.gts 8).isSome) then .next s
    else
      let ch := spendYield ch chan
      let k := (ch.chan chan).maintUse ch.gts
      let sector := rowAddress chan c.bank c.row + c.next / 2 * 32 * 64
      let r : Res :=
        if c.next + 1 < 32 then { chip := ch.setChan chan { k with copy := some { c with next := c.next + 1 } }, writes := [] }
        else
          let done : Chan :=
            { k with copy := none, yields := if k.alert.isEmpty then [] else k.yields,
                     remap := (c.bank, c.row, c.spare) :: k.remap.filter (fun e => !(e.1 == c.bank && e.2.1 == c.row)),
                     rows := k.rows.filter (fun e => !(e.1 == c.bank && e.2.1 == c.row)) }
          startRowCopy s.mem { chip := ch.setChan chan done, writes := [] } chan
      if c.next % 2 = 0 then
        let bad := ch.poisoned.contains (sector / 64) || Config.copyMeets ch.fresh
        let r := { r with chip := r.chip.freshen }
        .next (s.commit (if bad then faqRecord s.mem { r with chip := r.chip.setPoison (sector / 64) true } (chan / 32) sector 1 else r))
      else .next (s.commit r)
/-- SPARE_COPY_ESCALATION (R380): after 2^16 beats the copy also takes owners' slots, in the share of R381. -/
def execSpareCopyEscalation (chan : Nat) (s : State) : Outcome :=
  let ch := s.chip
  let k := ch.chan chan
  match k.copy with
  | some c =>
    if c.since + 2 ^ 16 ≤ ch.gts ∧ k.yields.all (fun e => e.2 == 0) then
      .next (s.keep (ch.setChan chan { k with yields := shareOut ch (32 - c.next) }))
    else .next s
  | none => .next s
/-- WRITE_QUEUE_DRAIN (23 R378): a sector of the channel's queue goes to the array. -/
def execWriteQueueDrain (chan : Nat) (s : State) : Outcome :=
  let k := s.chip.chan chan
  .next (s.keep (if k.queue.isEmpty then s.chip else s.chip.setChan chan { k with queue := k.queue.tail }))

/-! ### Dirty harvest (23 R386) -/

/-- DHARV: the group's 64 bits to DHBITS, and cleared, of the stack that MSEL names (R392). The upper half of the word written is
reserved, and ignored (00 R7). -/
def execDharv (_high group : BitVec 32) (s : State) : Outcome :=
  let stack := bitsOf s.chip.msel 0 3
  let k := s.chip.stk stack
  let base := group.toNat * 64
  let bits := (List.range 64).foldl (fun (v : BitVec 64) i => setBit v i (k.dirty.contains (base + i))) 0#64
  .next (s.keep (s.chip.setStk stack { k with dhbits := bits, dirty := k.dirty.filter (fun f => !(decide (base ≤ f) && decide (f < base + 64))) }))

/-! ### Hot pages (23 R391) -/

/-- Whether a valid handle of a partition reaches into a frame. -/
def handleOverlaps (m : Memory) (p : Part) (lo : Nat) : Bool :=
  (List.range (bitsOf p.htlen 0 17)).any (fun i =>
    let a := bitsOf p.htbase 6 42 * 64 + i * 64
    let w (j : Nat) : Word := BitVec.ofNat 64 (m.readLe (homeAddr 0 (a + 8 * j)) 8)
    let base := bitsOf (w 0) 0 48
    let dim (j : Nat) : Nat := bitsOf (w 1) (16 * j) 16
    let e := tySize (tyOfCode (BitVec.ofNat 4 (bitsOf (w 0) 48 4)))
    let span := dim 0 * e + ((List.range 3).map (fun j => (dim (j + 1) - 1) * bitsOf (w (2 + j)) 0 48)).sum
    (w 0).getLsbD 63 && decide (base < lo + 65536) && decide (lo < base + span))
/-- The hypervisor's free-frame ring: 8-byte frame addresses, 0 for none (log 35). -/
def ringSlots (k : Stack) : List Nat := (List.range (bitsOf k.hotfq 48 16)).map (fun i => bitsOf k.hotfq 4 44 * 16 + 8 * i)
/-- Mesh distance of a core from the entry router of a frame. -/
def frameHops (stack frame core : Nat) : Nat :=
  let r := entryRouter stack (chanOf 0 (frame * 65536))
  (coreX core - coreX r) + (coreX r - coreX core) + (coreY core - coreY r) + (coreY r - coreY core)
/-- A free frame near a core, on whatever stack, with its ring slot. -/
def takeFrame (m : Memory) (k : Stack) (core : Nat) : Option (Nat × Nat) :=
  ((ringSlots k).map (fun a => (a, m.readLe a 8))).find? (fun e =>
    e.2 != 0 && (match placeOf e.2 with | .hbm s off => decide (frameHops s (off / 65536) core ≤ 2) | _ => false))
/-- Puts a frame back into the first empty place of the ring. -/
def returnFrame (m : Memory) (r : Res) (k : Stack) (addr : Nat) : Res :=
  let now := writeAll m r.writes
  match (ringSlots k).find? (fun a => now.readLe a 8 == 0) with
  | some a => writeOwn now r a (leBytes 8 addr)
  | none => r
/-- The tracker acts on a frame whose count has reached HOTTHR. One frame of a 2 MiB leaf has no leaf of its own to rewrite: it is
counted and stays (DESIGN CHOICE, log 35). -/
def hotAct (m : Memory) (r : Res) (stack : Nat) (c : HotCount) : Res :=
  let ch := r.chip
  let k := ch.stk stack
  let addr := stack * 2 ^ 37 + c.frame * 65536
  let k0 := { k with counts := k.counts.filter (fun e => e.frame != c.frame) }
  if c.peer || handleOverlaps m (ch.part c.part) addr then
    let k1 := { k0 with ineligible := k0.ineligible.set c.frame (ch.gts + 2 ^ 24), hotctl := k0.hotctl + 2 ^ 32 }
    faqRecord m { r with chip := ch.setStk stack k1 } stack addr 3
  else if c.big then { r with chip := ch.setStk stack k0 }
  else
    match takeFrame m k c.core with
    | none => { r with chip := ch.setStk stack k0 }
    | some (slot, f) =>
      let k1 := { k0 with migration := some { frame := c.frame, target := f / 65536 * 65536, leaf := c.leaf, part := c.part, next := 0 } }
      writeOwn m { r with chip := ch.setStk stack k1 } slot (leBytes 8 0)
/-- Frames that have reached HOTTHR, with their most frequent requester. -/
def hotFrames (k : Stack) : List HotCount :=
  let thr := bitsOf k.hotctl 0 16
  if thr = 0 ∨ k.migration.isSome = true then []
  else
    k.counts.filter (fun c =>
      let mine := k.counts.filter (fun e => e.frame == c.frame)
      decide (thr ≤ (mine.map (·.count)).sum) && mine.all (fun e => decide (e.count < c.count) || decide (e.count = c.count ∧ c.core ≤ e.core)) &&
        (k.ineligible.get? c.frame).isNone)
/-- The tracker after a beat. -/
def hotStep (m : Memory) (r : Res) (stack : Nat) : Res :=
  match hotFrames (r.chip.stk stack) with
  | c :: _ => hotAct m r stack c
  | [] => r
/-- HOT_WINDOW_END: a window of 2^20 beats ends. -/
def execHotWindowEnd (stack : Nat) (s : State) : Outcome :=
  if s.chip.gts % 2 ^ 20 = 0 then
    let r := hotStep s.mem { chip := s.chip, writes := [] } stack
    let k := r.chip.stk stack
    .next (s.commit { r with chip := r.chip.setStk stack { k with counts := [] } })
  else .next s
/-- HOT_INELIGIBLE_EXPIRY. -/
def execHotIneligibleExpiry (stack frame : Nat) (s : State) : Outcome :=
  let k := s.chip.stk stack
  match k.ineligible.get? frame with
  | some b => if b ≤ s.chip.gts then .next (s.keep (s.chip.setStk stack { k with ineligible := k.ineligible.del frame })) else .next s
  | none => .next s
/-- HOT_PAGE_MIGRATION_COPY: a read, then a write, of one sector of the frame, each in a maintenance slot of its channel that
nothing of higher priority claims (R380; log 47). -/
def execHotPageMigrationCopy (stack : Nat) (s : State) : Outcome :=
  let ch := s.chip
  let k := ch.stk stack
  match k.migration with
  | none => .next s
  | some g =>
    match migrationChan stack g with
    | none => .next s
    | some chan =>
    let c := ch.chan chan
    let n := g.next / 2
    let a := stack * 2 ^ 37 + g.frame * 65536 + 64 * n
    let b := g.target + 64 * n
    if !maintSlot ch.gts || !c.maintFree ch.gts || (alertNow ch chan).isSome || (refreshBank c ch.gts 8).isSome || c.copy.isSome ||
        ch.heldAt a 64 || ch.heldAt b 64 then .next s
    else
      let ch1 := (ch.setChan chan (c.maintUse ch.gts)).setStk stack { k with migration := some { g with next := g.next + 1 } }
      if g.next % 2 = 0 then .next (s.keep ch1)
      else
        let keys := match ch1.lineKeys.get? (a / 64) with | some e => ch1.lineKeys.set (b / 64) e | none => ch1.lineKeys.del (b / 64)
        let ch2 := written { ch1 with lineKeys := keys } b 64
        .next (s.commit { chip := ch2.setPoison (b / 64) (ch1.poisoned.contains (a / 64)), writes := [(b, s.mem.readBytes a 64)] })
/-- Stores to a frame that some die has not applied, as the new frame's loads find them too (06 R410). -/
def movedStores (ch : Chip) (old new : Nat) : List Store :=
  ch.stores ++ (ch.stores.filter (fun s => decide (old ≤ s.addr) && decide (s.addr < old + 65536))).map (fun s => { s with addr := new + (s.addr - old) })
/-- An address whose frame has moved. -/
def movedAddr (old new a : Nat) : Nat := if old ≤ a ∧ a < old + 65536 then new + (a - old) else a
/-- Work under way through a translation whose frame has moved: what it has still to read or write is in the new frame (06 R107,
R410; 23 R393). Its commands keep the slots their plan has (DEDUCED, log 105). -/
def Work.moved (old new : Nat) (k : Work) : Work :=
  let ent (e : TlbEntry) : TlbEntry := { e with frame := movedAddr old new e.frame }
  { k with kind := match k.kind with
    | .access a home ents => if ents.isEmpty then k.kind else .access a (movedAddr old new home) (ents.map ent)
    | .laneStore num bs ilv key ents onChip =>
      if ents.isEmpty then k.kind else .laneStore num (bs.map (fun b => (b.1.map (movedAddr old new), b.2))) ilv key (ents.map ent) onChip
    | .secld home ents len sec dst => .secld (movedAddr old new home) (ents.map ent) len sec dst
    | kd => kd }
/-- Monitors on lines of a frame that has moved, and what accesses to its bytes have shown, are the new frame's (07 R153). -/
def Strand.moved (old new : Nat) (st : Strand) : Strand :=
  { st with monitors := st.monitors.map (fun k => { k with line := movedAddr old new (k.line * 64) / 64 })
            vbytes := st.vbytes.map (fun e => (e.1, movedAddr old new e.2.1, e.2.2)) }
/-- Everything that names a frame, after it has moved: strands, works, saved contexts, stores not yet applied everywhere. -/
def Chip.moved (old new : Nat) (ch : Chip) : Chip :=
  let works (l : List (Nat × Work)) : List (Nat × Work) := l.map (fun e => (e.1, e.2.moved old new))
  { ch with
    works := works ch.works
    strands := ch.strands.map (fun (e : Nat × Strand) => (e.1, e.2.moved old new))
    saved := ch.saved.map (fun (e : Nat × Saved) =>
      (e.1, { e.2 with works := works e.2.works, strands := e.2.strands.map (fun r => { r with strand := r.strand.moved old new }) }))
    stores := movedStores ch old new }
/-- MIGRATION_COMMIT: no sooner than atomics let go of the frame's sectors, the table is read again; the leaf takes the new frame
and the TLBs drop the page, or the migration is cancelled. -/
def execMigrationCommit (stack : Nat) (s : State) : Outcome :=
  let ch := s.chip
  let k := ch.stk stack
  match k.migration with
  | none => .next s
  | some g =>
    let old := stack * 2 ^ 37 + g.frame * 65536
    let new := g.target
    if g.next < 2048 ∨ ch.heldAt old 65536 = true ∨ ch.heldAt new 65536 = true ∨ ch.heldAt g.leaf 8 = true then .next s
    else
      let k0 := { k with migration := none }
      if handleOverlaps s.mem (ch.part g.part) old then
        .next (s.commit (returnFrame s.mem { chip := ch.setStk stack k0, writes := [] } k new))
      else
        let e := s.mem.readLe (homeAddr 0 g.leaf) 8
        let e2 := e - bitsOf (BitVec.ofNat 64 e) 12 36 * 2 ^ 12 + new
        let ch1 := dropTlb ((ch.setStk stack k0).moved old new) g.part (fun t => t.frame == old)
        let r := writeOwn s.mem { chip := ch1, writes := [] } (homeAddr 0 g.leaf) (leBytes 8 e2)
        .next (s.commit (returnFrame s.mem r k old))

/-! ### Memory interfaces (06 R410, R112) -/

/-- A die's interface can apply a store once every store that its clock names is applied there, and stores to its
bytes that come before it in coherence order. -/
def canApply (ch : Chip) (die : Nat) (st : Store) : Bool :=
  !st.applied.contains die && decide (st.due.getD die 0 ≤ ch.gts) &&
    ch.stores.all (fun e =>
      e.applied.contains die || e.id == st.id ||
        (decide (st.clock.getD e.die 0 < e.seqno) && !(decide (e.id < st.id) && meets e.addr e.old.length st.addr st.old.length)))
/-- MEMORY_INTERFACE_APPLY: the first store in acceptance order that the die can apply. A store applied by every
die is no longer kept once none older of its bytes is. -/
def execMemoryInterfaceApply (die : Nat) (s : State) : Outcome :=
  match s.chip.stores.find? (canApply s.chip die) with
  | none => .next s
  | some st =>
    let l := s.chip.stores.map (fun e => if e.id = st.id then { e with applied := die :: e.applied } else e)
    .next (s.keep { s.chip with stores := l.filter (fun e => decide (e.applied.length < 4)) })

end Sys2Proof.Machine
end

