-- ==== Sys2Proof/Machine/Splicer.lean ====
section
/-! DEFINITION. The Splicer (21 R355 to R371; 02 R42 to R45): slot tables, admission, retirement, re-phase,
freeze, thaw and SPL.QUERY. -/

namespace Sys2Proof.Machine

/-! ### Occupancy (21 R355, R356; 02 R44, R45) -/

/-- The five classes. -/
def allClasses : List SlotClass := [.issue, .mesh, .chan, .wlane, .link]
/-- Whether an owner slot holds phases of the weave. They go at COLLECT's last answer (08 R191). -/
def Owner.holds (o : Owner) : Bool :=
  match o.state with
  | .admitting | .running | .frozen | .window | .collect | .load | .loadHeld | .ready | .halted | .retiring => true
  | .empty | .save | .saveHeld | .saved => false
/-- F as the owner's phases stand: at the start of a freeze of the whole owner that is under way. -/
def Owner.fHeld (o : Owner) (now : Nat) : Nat :=
  match o.freezeAt with | some g => if g ≤ now then o.frozen - (now - g) else o.frozen | none => o.frozen
/-- The step of a re-phase that has been applied: from its beat g_r on the target phases are the owner's (R369). -/
def Owner.stepped (o : Owner) (now : Nat) : Nat :=
  match o.rephase with
  | some r => (match r.release with | some g => if g ≤ now ∧ o.freezeAt.isSome = true then r.delta else 0 | none => 0)
  | none => 0
/-- The beat phase an owner holds in a class. -/
def Owner.heldPhase (o : Owner) (now : Nat) (c : SlotClass) : Nat :=
  match o.stride c with
  | none => 0xF
  | some s =>
    match o.state with
    | .admitting | .load | .loadHeld | .ready => o.placed.getD (className c) 0
    | _ => (o.phase c + o.fHeld now + o.stepped now) % s
/-- Whether a class is held on the owner's cores alone. -/
def perCore (c : SlotClass) : Bool := c == .issue || c == .wlane
/-- The phases of an owner's re-phase target in a class, beside those it holds (R355). -/
def Owner.target (o : Owner) (now : Nat) (c : SlotClass) (s : Nat) : List (Nat × Nat) :=
  match o.rephase with
  | some r => if r.delta % s = 0 ∨ o.stepped now ≠ 0 then [] else [(s, (o.heldPhase now c + r.delta) % s)]
  | none => []
/-- The users of an instance of a class: stride and beat phase. A re-phase target counts; so does the maintenance
slot. `core` says on which core, for the classes held per core. -/
def usersOf (ch : Chip) (skip : Option Nat) (c : SlotClass) (core : Nat) : List (Nat × Nat) :=
  ch.owners.flatMap (fun e =>
    let o := e.2
    match o.stride c with
    | none => []
    | some s =>
      if skip == some e.1 || !o.holds || (perCore c && !o.hdr.cores.contains core) then []
      else
        (s, o.heldPhase ch.gts c) :: o.target ch.gts c s) ++
  (if c = .chan then [(16, 15)] else [])
/-- Collision of two users (R44). -/
def collide (a b : Nat × Nat) : Bool := a.2 % min a.1 b.1 == b.2 % min a.1 b.1
/-- Whether a newcomer with a stride and a beat phase passes R44 beside users. -/
def fits (us : List (Nat × Nat)) (s q : Nat) : Bool :=
  us.all (fun u => !collide u (s, q)) && decide ((us.map (fun u => 16 / u.1)).sum + 16 / s ≤ 16)
/-- Whether it passes on every instance of a class that a header uses. -/
def passes (ch : Chip) (skip : Option Nat) (h : Header) (c : SlotClass) (s q : Nat) : Bool :=
  if perCore c then h.cores.all (fun k => fits (usersOf ch skip c k) s q) else fits (usersOf ch skip c 0) s q
/-- Stride and preferred phase of a class in a header. -/
def Header.stride (h : Header) (c : SlotClass) : Option Nat := (h.strides[className c]?).join
/-- Whether RELOC marks a class. -/
def Header.movable (h : Header) (c : SlotClass) : Bool := h.reloc.getLsbD (className c)
/-- The rotation of a header. -/
def Header.rotation (h : Header) : Nat := h.strides.foldl (fun m s => max m (s.getD 1)) 1
/-- Phases at offset o: for each class the beat phase and P_c, when every instance passes (R358 step 4). -/
def phasesAt (ch : Chip) (skip : Option Nat) (h : Header) (o : Nat) : Option (List (Nat × Nat)) :=
  allClasses.mapM (fun c =>
    let p := h.phases.getD (className c) 0
    match h.stride c with
    | none => some (0xF, p)
    | some s =>
      let js := if h.movable c then List.range s else [0]
      ((js.find? (fun j => passes ch skip h c s ((p + o + j) % s))).map (fun j => ((p + o + j) % s, (p + j) % s))))
/-- The first offset that passes, with beat phases and P_c by class. -/
def searchPhases (ch : Chip) (skip : Option Nat) (h : Header) (ok : Nat → Bool) : Option (Nat × List (Nat × Nat)) :=
  (List.range h.rotation).findSome? (fun o => if ok o then (phasesAt ch skip h o).map (fun l => (o, l)) else none)

/-! ### Images (21 R357; 02 R42, R43) -/

/-- Bytes at a global virtual address through a stage-1 root and a partition's stage 2; none where they cannot be
read. -/
def readThrough (m : Memory) (ch : Chip) (root : Word) (part va n : Nat) : Option (List Byte) :=
  if 2 ^ 48 < va + n then none
  else
    let piece (p : Nat × Nat × Nat) : Option (List Byte) :=
      match translateWalk m (bitsOf root 12 36 * 2 ^ 12) (ch.part part).s2root 0 p.1 false with
      | .ok e => some (decrypt ch e.key (e.frame + p.2.1) (m.readBytes (e.frame + p.2.1) p.2.2))
      | .error _ => none
    ((pagesOf va n).mapM piece).map (·.flatten)
/-- Bytes at a global virtual address through an owner's translation. -/
def readVirtual (m : Memory) (ch : Chip) (on va n : Nat) : Option (List Byte) :=
  readThrough m ch (BitVec.ofNat 64 (ch.owner on).s1root) (ch.owner on).part va n
/-- Stride of a code (02 R42); none for 5 and 6. -/
def strideCode (n : Nat) : Option (Option Nat) :=
  if n ≤ 4 then some (some (2 ^ n)) else if n = 7 then some none else none
/-- A timetable header by its words, with its core list address; none where R43 refuses it. -/
def parseHeader (w : List Nat) : Option (Header × Nat) :=
  let w0 := BitVec.ofNat 64 (w.getD 0 0)
  let w1 := BitVec.ofNat 64 (w.getD 1 0)
  let w2 := BitVec.ofNat 64 (w.getD 2 0)
  let w3 := BitVec.ofNat 64 (w.getD 3 0)
  match (List.range 5).mapM (fun i => strideCode (bitsOf w0 (36 + 3 * i) 3)) with
  | none => none
  | some ss =>
    let ps := (List.range 5).map (fun i => bitsOf w0 (16 + 4 * i) 4)
    let ncore := bitsOf w0 0 16
    let bad := List.zipWith (fun (s : Option Nat) p => match s with | some n => decide (n ≤ p) | none => false) ss ps
    if bitsOf w0 56 8 ≠ 1 ∨ bitsOf w1 32 16 ≠ 0 ∨ bitsOf w2 48 16 ≠ 0 ∨ bitsOf w3 48 16 ≠ 0 ∨ ss.headD none = none ∨
        bad.any id = true ∨ ncore = 0 ∨ 384 < ncore ∨ bitsOf w1 56 8 = 0 ∨ bitsOf w1 48 8 = 0 then none
    else
      some ({ strides := ss, phases := ps, reloc := BitVec.ofNat 5 (bitsOf w0 51 5), ncore := ncore, winkb := bitsOf w1 56 8,
              iskb := bitsOf w1 48 8, ctmask := w1.setWidth 32, cores := [],
              entries := [BitVec.ofNat 12 (bitsOf w3 36 12), BitVec.ofNat 12 (bitsOf w3 24 12), BitVec.ofNat 12 (bitsOf w3 12 12),
                BitVec.ofNat 12 (bitsOf w3 0 12)], entryPos := [] }, bitsOf w2 0 48)
/-- Positions of section headers, each found from the one before it (04 R72). -/
def chainHeaders (foot : List Byte) (n : Nat) : Nat → Nat → List Nat
  | 0, _ => []
  | fuel + 1, p =>
    if n ≤ p then []
    else
      let w := wordOfBytes (chunk foot p 12)
      if headerReserved w then []
      else
        let sc := sectionOf (BitVec.ofNat 14 p) w
        p :: chainHeaders foot n fuel (p + 1 + sc.len.toNat + (if sc.check then 1 else 0))
/-- An image as read: header, footprint bytes, header positions; or the status that refuses it. -/
structure Image where
  hdr : Header
  foot : List Byte
  hdrs : List Nat
/-- Whether an address can head an image: a global pointer, 64-byte aligned (R360, R361). -/
def imagePtr (v : Word) : Option Nat := match ptrOf v with | .global va => if va % 64 = 0 then some va else none | _ => none
/-- Reads and checks an image (R358 step 1); `read` is how its bytes are found, and a launch gives the core list
(24 R399). -/
def readImage (read : Nat → Nat → Option (List Byte)) (inPart : Nat → Bool) (va : Nat) (picks : Option (List Nat)) : Except Nat Image :=
  match read va 64 with
  | none => .error 1
  | some b =>
    match parseHeader ((chunksOf 8 4 b).map leNat) with
    | none => .error 2
    | some (h, list) =>
      if picks.isNone && list % 2 != 0 then .error 1
      else
        let listed := match picks with
          | some l => some l
          | none => (read list (2 * h.ncore)).map (fun lb => (List.range h.ncore).map (fun i => elem lb i 2))
        match listed, read (va + 64) (h.iskb * 1024) with
        | some cs, some foot =>
          let pos := (List.range 4).map (fun i => leNat ((b.drop (32 + 2 * i)).take 2))
          let n := positions h.iskb
          let entryBad := (List.range 4).any (fun i =>
            let p := pos.getD i 0
            let w := wordOfBytes (chunk foot p 12)
            decide (n ≤ p) || headerReserved w || (sectionOf 0 w).num != h.entries.getD i 0)
          let rising := (List.zipWith (fun (a : Nat) c => decide (a < c)) cs cs.tail).all id
          if cs.length != h.ncore || !rising || cs.any (fun c => decide (Config.cores ≤ c)) || !cs.all inPart || entryBad then .error 2
          else
            .ok { hdr := { h with cores := cs, entryPos := pos.map (BitVec.ofNat 14) }, foot := foot,
                  hdrs := (pos.flatMap (chainHeaders foot n n)).eraseDups }
        | _, _ => .error 1

/-! ### Room on a core (21 R358 step 2) -/

/-- The strands on a core. -/
def Chip.onCore (ch : Chip) (core : Nat) : List (Nat × Strand) := ch.strands.filter (fun e => e.1 / 4 == core)
/-- Bytes of a window: WINKB KiB, rounded up to 2 KiB. -/
def windowLen (winkb : Nat) : Nat := cdiv winkb 2 * 2048
/-- The lowest free window base. -/
def freeWindow (l : List Strand) (winkb : Nat) : Option Nat :=
  ((List.range 32).map (· * 2048)).find? (fun b => decide (b + windowLen winkb ≤ 65536) &&
    l.all (fun st => decide (b + windowLen winkb ≤ st.place.wbase) || decide (st.place.wbase + windowLen st.place.winkb ≤ b)))
/-- The lowest free footprint base: 0 or the end of another footprint. -/
def freeFoot (l : List Strand) (iskb : Nat) : Option Nat :=
  let ends := 0 :: l.map (fun st => st.place.fbase + positions st.place.iskb)
  let ok := ends.filter (fun b => decide (b + positions iskb ≤ 10922) &&
    l.all (fun st => decide (b + positions iskb ≤ st.place.fbase) || decide (st.place.fbase + positions st.place.iskb ≤ b)))
  match ok with | [] => none | a :: t => some (t.foldl min a)
/-- Strand slot, window base and footprint base on a core, or the status that refuses it. A core's matrix engine serves one
strand (14 R294). -/
def roomOn (ch : Chip) (h : Header) (core : Nat) : Except Nat (Nat × Nat × Nat) :=
  let l := (ch.onCore core).map (·.2)
  match (List.range 4).find? (fun sl => (ch.strand? core sl).isNone) with
  | none => .error 4
  | some sl =>
    match freeWindow l h.winkb, freeFoot l h.iskb with
    | some w, some f => if h.ctmask == 0#32 || l.all (fun st => st.place.ctmask == 0#32) then .ok (sl, w, f) else .error 3
    | _, _ => .error 3
/-- Rooms on every listed core. -/
def roomsFor (ch : Chip) (h : Header) : Except Nat (List (Nat × Nat × Nat)) := h.cores.mapM (roomOn ch h)

/-! ### Weaving (21 R358 step 5) -/

/-- Zero bytes over a range, in pieces. -/
def zeroRange (a n : Nat) : List (Nat × List Byte) := (List.range (n / 4096)).map (fun i => (a + 4096 * i, zeros 4096)) ++ [(a + n / 4096 * 4096, zeros (n % 4096))]
/-- Tiles of a mask. -/
def tilesOf (mask : BitVec 32) : List Nat := (List.range 32).filter (fun t => mask.getLsbD t)
/-- Clears what a placed strand starts from: its window, its tiles and their checks, and the buffers of a core that
carries no other owner's strand. -/
def cleanCore (r : Res) (h : Header) (core wbase : Nat) : Res :=
  let alone := (r.chip.onCore core).isEmpty
  let ts := tilesOf h.ctmask
  let zs := zeroRange (rsAddr core + wbase) (windowLen h.winkb) ++ ts.flatMap (fun t => zeroRange (cbufAddr core + 4096 * t) 4096) ++
    (if alone then zeroRange (wbufAddr core) 0x80000 ++ zeroRange (abufAddr core) 0x40000 else [])
  let k := r.chip.core core
  let ch := r.chip.setCore core { k with tiles := ts.foldl (fun t c => t.del c) k.tiles }
  let ch := if alone then { ch with poisoned := ch.poisoned.filter (fun s => !(decide (wbufAddr core ≤ s * 64) && decide (s * 64 < abufAddr core + 0x40000))) } else ch
  { chip := ch, writes := r.writes ++ zs }
/-- The place of a strand. -/
def placeFor (on : Nat) (sup : Bool) (h : Header) (hdrs : List Nat) (index : Nat) (room : Nat × Nat × Nat) : Place :=
  { owner := on, index := index, taskId := BitVec.ofNat 16 index, sup := sup, winkb := h.winkb, wbase := room.2.1, iskb := h.iskb, fbase := room.2.2,
    mx := h.ctmask != 0#32, ctmask := h.ctmask, entries := h.entries, hdrs := hdrs, absent := [], coming := [] }
/-- The room of a core of a list. -/
def roomAt (l : List (Nat × Nat × Nat)) (i : Nat) : Nat × Nat × Nat := l.getD i (0, 0, 0)
/-- Weaves a new owner: windows, tiles and buffers cleared, the footprint copied, every strand at admission. -/
def weave (ch : Chip) (on : Nat) (o : Owner) (img : Image) (rooms : List (Nat × Nat × Nat)) : Res :=
  let n := positions img.hdr.iskb * 12
  img.hdr.cores.zipIdx.foldl (fun r e =>
    let room := roomAt rooms e.2
    let r := cleanCore r img.hdr e.1 room.2.1
    let st := Strand.atAdmission (placeFor on o.sup img.hdr img.hdrs e.2 room) img.hdr.entryPos
    { chip := r.chip.setStrand e.1 room.1 st, writes := r.writes ++ [(istoreAddr e.1 + room.2.2 * 12, img.foot.take n)] })
    { chip := ch.setOwner on o, writes := [] }
/-- The lowest free owner slot. -/
def freeOwner (ch : Chip) : Option Nat := (List.range 8).find? (fun o => (ch.owner o).state == .empty)
/-- The first beat at or after b that is o modulo L. -/
def firstBeat (b l o : Nat) : Nat := b + (o % l + l - b % l) % l
/-- Everything that decides an admission before the phases: image and rooms and slot. -/
def admitRoom (ch : Chip) (img : Except Nat Image) : Except Nat (Image × List (Nat × Nat × Nat) × Nat) :=
  match img with
  | .error e => .error e
  | .ok i =>
    match roomsFor ch i.hdr with
    | .error e => .error e
    | .ok rooms => match freeOwner ch with | none => .error 5 | some on => .ok (i, rooms, on)
/-- ADMISSION (R358, R359): the status, the owner slot, and the machine with the owner woven. `pass` is which
phase offsets other devices allow. A power brake refuses every admission (24 R409), before anything else is tested. -/
def admission (ch : Chip) (img : Except Nat Image) (sup : Bool) (part ndev grp : Nat) (pass : Nat → Bool) : Nat × Nat × Res :=
  let no (e : Nat) : Nat × Nat × Res := (e, 0, { chip := ch, writes := [] })
  if ch.host.brake then no 6
  else
    match admitRoom ch img with
    | .error e => no e
    | .ok (i, rooms, on) =>
      match searchPhases ch none i.hdr pass with
      | none => no 6
      | some (o, l) =>
        let copied := ch.gts + 1 + Config.copyBeats ch.fresh
        let b0 := firstBeat (if ndev = 1 then copied + 1 else copied + 256) i.hdr.rotation o
        let own : Owner := { Owner.empty with
          state := .admitting, hdr := { i.hdr with phases := l.map (·.2) }, sup := sup, part := part, origin := b0, ndev := ndev, grp := grp,
          placed := l.map (·.1), resvBeat := some ch.gts, s1root := (ch.owner on).s1root }
        (0, on, weave { ch with fresh := ch.fresh + 1 } on own i rooms)

/-! ### Freeing an owner (21 R363; 08 R197) -/

/-- Frees an owner's strands, phases, group entries, latches, TLB entries, works and slot. Its S1ROOT register stays. -/
def freeSlot (ch : Chip) (on : Nat) : Chip :=
  let kept := (ch.saved.filter (fun (e : Nat × Saved) => e.2.owner == on)).flatMap (fun (e : Nat × Saved) => e.2.works)
  let gone := ((ch.works.filter (fun e => e.2.owner == on)) ++ kept).map (·.1)
  let forget (p : Preempt) : Preempt := { p with issuer := p.issuer.filter (fun w => w.1 != on) }
  let ch := { ch with owners := ch.owners.map (fun (e : Nat × Owner) => (e.1, { e.2 with preempt := e.2.preempt.map forget })) }
  { ch with
    strands := ch.strands.filter (fun e => e.2.place.owner != on)
    works := ch.works.filter (fun e => e.2.owner != on)
    locks := ch.locks.filter (fun l => !gone.contains l.work)
    latches := ch.latches.filter (fun l => l.owner != on)
    walks := ch.walks.filter (fun w => w.owner != on)
    chans := ch.chans.map (fun e => (e.1, { e.2 with held := e.2.held.filter (fun k => !gone.contains k.2), yields := e.2.yields.del on }))
    cores := ch.cores.map (fun e =>
      (e.1, { e.2 with tlb := e.2.tlb.filter (fun t => t.owner != on), groups := e.2.groups.filter (fun g => g.1 / 16 != on) }))
    owners := ch.owners.set on { Owner.empty with s1root := (ch.owner on).s1root } }
/-- Writes an account back when the last owner that charges it goes (08 R204). -/
def releaseAccount (r : Res) (on : Nat) : Res :=
  let ch := r.chip
  match (ch.owner on).acct with
  | none => r
  | some a =>
    let ch0 := ch.setOwner on { ch.owner on with acct := none }
    if ch0.owners.any (fun e => e.2.acct == some a) then { r with chip := ch0 }
    else { chip := written { ch0 with accounts := ch0.accounts.del a } a 8, writes := r.writes ++ [(a, leBytes 8 (ch.accounts.getD a 0))] }
/-- Owners retired in a beat are freed at its end. -/
def freeRetired (r : Res) : Res :=
  (r.chip.owners.filter (fun e => e.2.state == .retiring)).foldl (fun r e =>
    let r := releaseAccount r e.1
    { r with chip := freeSlot r.chip e.1 }) r

/-! ### The words (21 R360 to R367) -/

/-- Bookkeeping of a privileged word of 0xE0 to 0xEF. -/
def supInfo (opc : BitVec 8) (ok : Bool := true) : Info :=
  { grp := .ct, cls := 14, ok := ok, opc := opc, denied := fun st => !st.place.sup }
/-- An SPL word's result: status in 7:0, owner slot in 10:8. -/
def splWord (st on : Nat) : Word := BitVec.ofNat 64 (st + on * 2 ^ 8)
/-- The places of the strands, by key. -/
def Chip.places (ch : Chip) : Tab Place := ch.strands.map (fun e => (e.1, e.2.place))
/-- A machine that a word has changed: it keeps how owners and places stood before the first such word of the beat (R367). -/
def Chip.remember (old new : Chip) : Chip :=
  if new.before.any (fun b => b.1 == old.gts) then new else { new with before := some (old.gts, old.owners, old.places) }
/-- The word issues with a chip and its result. -/
def Ctx.spl (x : Ctx) (r : Res) (xd : Reg) (st on : Nat) : Effect :=
  let r := { r with chip := x.chip.remember r.chip }
  match r.chip.strand? x.core x.slot with
  | some me => .go { r with chip := r.chip.setStrand x.core x.slot (me.laterX x.q 1 xd (splWord st on)) } .next .none
  | none => .go r .next .none
/-- Whether a core is in a partition's set and not disabled (24 R402, R408). -/
def coreInPart (ch : Chip) (part core : Nat) : Bool :=
  ((ch.part part).pcore.getD (core / 64) 0).getLsbD (core % 64) && !(ch.core core).disabled
/-- Whether this device reaches the timing master (24 R404). -/
def Chip.timed (ch : Chip) : Bool := ch.devnum == 0#7 || ch.reachable 0
/-- SPL.ADMIT. One of several devices blocks while the others have not issued theirs; whether they have by now, and when the
first did, are free values (R359; log 5). -/
def execSplAdmit (h : Head) (xd xa : Reg) (sup : Bool) (ndev : BitVec 7) (grp : BitVec 16) (s : State) : Outcome :=
  issue s h (supInfo 0xE0 (Instr.wf (.splAdmit h xd xa sup ndev grp))) noOperands (fun x =>
    let ch := x.chip
    let on := x.st.place.owner
    let part := x.owner.part
    let img := match imagePtr (x.rx xa) with
      | none => .error 1
      | some va => readImage (readVirtual x.mem ch on) (coreInPart ch part) va none
    let decide_ (ch : Chip) (pass : Nat → Bool) : Effect :=
      let (st, on2, r) := admission ch img sup part ndev.toNat grp.toNat pass
      x.spl r xd st on2
    if x.px xa then .fault .poisonConsumed (x.rx xa) 0
    else if ndev = 1#7 ∨ ch.host.brake = true then decide_ ch (fun _ => true)
    else
      match x.sq.wait with
      | .admitWait _ _ (some st) => x.spl { chip := ch, writes := [] } xd st 0
      | w =>
        match admitRoom ch img with
        | .error e => x.spl { chip := ch, writes := [] } xd e 0
        | .ok _ =>
          let ch1 := { ch with fresh := ch.fresh + 1 }
          let since := match w with | .admitWait _ t _ => t | _ => ch.gts - Config.firstIssue ch.fresh
          if !ch.timed then x.spl { chip := ch, writes := [] } xd 10 0
          else if Config.peersIssue ch.fresh then decide_ ch1 (Config.peersPass ch.fresh)
          else .block none (.admitWait grp.toNat since none) ch1)
/-- ADMIT_TIMEOUT (R359): 2^24 beats after the first, every device gets status 10. -/
def execAdmitTimeout (grp : Nat) (s : State) : Outcome :=
  .next (s.keep { s.chip with strands := s.chip.strands.map (fun e =>
    match e.2.ct.wait with
    | .admitWait g t none => if g = grp ∧ t + 2 ^ 24 ≤ s.chip.gts then (e.1, { e.2 with ct := { e.2.ct with wait := .admitWait g t (some 10) } }) else e
    | _ => e) })
/-- A word that names an owner slot: reserved bits of xa and the own slot give status 7. -/
def ownerWord (s : State) (h : Head) (ok : Bool) (xd xa : Reg) (mask : Word) (f : Ctx → Nat → Owner → Nat × Chip) : Outcome :=
  issue s h (supInfo 0xE0 ok) noOperands (fun x =>
    let v := x.rx xa
    let on := bitsOf v 0 3
    if x.px xa then .fault .poisonConsumed v 0
    else if v &&& ~~~mask ≠ 0#64 ∨ on = x.st.place.owner then x.spl { chip := x.chip, writes := [] } xd 7 on
    else
      let (st, ch) := f x on (x.chip.owner on)
      x.spl { chip := ch, writes := [] } xd st on)
/-- SPL.RETIRE (R363): freed in the next beat. -/
def execSplRetire (h : Head) (xd xa : Reg) (s : State) : Outcome :=
  ownerWord s h true xd xa 7 (fun x on o =>
    if o.state = .halted ∨ o.state = .retiring then (0, x.chip.setOwner on { o with state := .retiring }) else (8, x.chip))
/-- Applies a change to every strand of an owner. -/
def Chip.mapStrands (ch : Chip) (on : Nat) (f : Strand → Strand) : Chip :=
  { ch with strands := ch.strands.map (fun e => if e.2.place.owner = on then (e.1, f e.2) else e) }
/-- A re-phase asked of an owner: the status, and the machine with it pending (R364). `elsewhere` is whether its targets pass on
the other devices that it lies on. -/
def beginRephase (ch : Chip) (on d wait : Nat) (elsewhere : Bool) : Nat × Chip :=
  let o := ch.owner on
  let clear := elsewhere && allClasses.all (fun c =>
    match o.stride c with | none => true | some s => passes ch (some on) o.hdr c s ((o.heldPhase ch.gts c + d) % s))
  if o.state ≠ .running then (8, ch)
  else if o.rotation ≤ d ∨ o.rephase.isSome = true ∨ clear = false then (9, ch)
  else
    let r : Rephase := { delta := d, limit := if wait = 0 then none else some (ch.gts + wait), release := none }
    (0, (ch.setOwner on { o with rephase := some r, resvBeat := some ch.gts }).mapStrands on (fun st => { st with run := { st.run with arrived := none } }))
/-- SPL.REPHASE (R364). What the devices of a multi-device owner answer is a free value (log 5). -/
def execSplRephase (h : Head) (xd xa : Reg) (delta : BitVec 4) (wait : BitVec 24) (s : State) : Outcome :=
  ownerWord s h (Instr.wf (.splRephase h xd xa delta wait)) xd xa 7 (fun x on o =>
    if o.ndev ≤ 1 then beginRephase x.chip on delta.toNat wait.toNat true
    else beginRephase x.chip.freshen on delta.toNat wait.toNat (Config.peersPass x.chip.fresh delta.toNat))
/-- The first beat a freeze or thaw may take: the next, or 256 on for several devices. -/
def Owner.lead (o : Owner) (now : Nat) : Nat := if o.ndev ≤ 1 then now + 1 else now + 256
/-- A freeze asked of an owner from beat g (R365). One that is to come already stands; an owner is running until it does. -/
def beginFreeze (ch : Chip) (on g : Nat) : Nat × Chip :=
  let o := ch.owner on
  if o.state ≠ .running ∨ o.rephase.isSome = true then (8, ch)
  else (0, if o.freezeAt.isSome then ch else ch.setOwner on { o with freezeAt := some g, thawAt := none })
/-- SPL.FREEZE (R365). -/
def execSplFreeze (h : Head) (xd xa : Reg) (s : State) : Outcome :=
  ownerWord s h true xd xa 7 (fun x on o => beginFreeze x.chip on (o.lead x.now))
/-- P_c of a class so that the owner's beat phase is q when F is f. -/
def phaseFor (s q f : Nat) : Nat := (q + s - f % s) % s
/-- A thaw asked of an owner, in the first beat at or after `from_` that its phases admit (R366). One that is to come already
stands. -/
def beginThaw (ch : Chip) (on ctx from_ : Nat) : Nat × Chip :=
  let o := ch.owner on
  let l := o.rotation
  let g := o.freezeAt.getD 0
  match o.state with
  | .frozen =>
    if ctx ≠ 0 then (8, ch)
    else (0, if o.thawAt.isSome then ch else ch.setOwner on { o with thawAt := some (firstBeat (max from_ (g + 1)) l (g % l)) })
  | .ready =>
    if (o.preempt.map (·.ctx)) ≠ some ctx then (8, ch)
    else if o.thawAt.isSome then (0, ch)
    else
      let fg := o.fHeld ch.gts
      let good (t : Nat) : Bool := allClasses.all (fun c =>
        match o.stride c with
        | none => true
        | some s => o.hdr.movable c || (o.phase c + fg + t - g) % s == o.placed.getD (className c) 0)
      match (List.range l).find? (fun i => good (from_ + i)) with
      | none => (8, ch)
      | some i =>
        let t := from_ + i
        let ps := allClasses.map (fun c =>
          match o.stride c with
          | none => o.phase c
          | some s => if o.hdr.movable c then phaseFor s (o.placed.getD (className c) 0) (fg + t - g) else o.phase c)
        (0, ch.setOwner on { o with thawAt := some t, hdr := { o.hdr with phases := ps } })
  | _ => (8, ch)
/-- SPL.THAW (R366): of a frozen owner, or of a READY one with its context number. -/
def execSplThaw (h : Head) (xd xa : Reg) (s : State) : Outcome :=
  ownerWord s h true xd xa 0xFF07 (fun x on o => beginThaw x.chip on (bitsOf (x.rx xa) 8 8) (o.lead x.now))

/-! ### SPL.QUERY (21 R367) -/

/-- STATE of the owner word. -/
def ownerState (o : Owner) : Nat :=
  match o.state with
  | .empty => 0
  | .admitting => 1
  | .running => if o.rephase.isSome then 3 else 2
  | .frozen => 4
  | .window | .collect | .save | .saveHeld => 5
  | .saved => 6
  | .load | .loadHeld | .ready => 7
  | .halted | .retiring => 8
/-- The owner word. -/
def ownerQuery (ch : Chip) (on : Nat) : Nat :=
  let o := ch.owner on
  if o.state = .empty then 0
  else
    ownerState o + o.last * 2 ^ 4 + o.rotation * 2 ^ 8 + (o.hdr.ncore - 1) * 2 ^ 16 +
      (allClasses.map (fun c => o.heldPhase ch.gts c * 2 ^ (40 + 4 * className c))).sum
/-- The strand word. -/
def strandQuery (p : Place) : Nat :=
  1 + p.owner * 2 + (if p.sup then 2 ^ 4 else 0) + (if p.mx then 2 ^ 5 else 0) + p.winkb * 2 ^ 8 + p.wbase / 2048 * 2 ^ 16 +
    p.iskb * 2 ^ 24 + p.fbase * 2 ^ 32
/-- The occupancy mask of users and their shares in sixteenths (R356). -/
def maskWord (us : List (Nat × Nat)) : Nat :=
  ((List.range 16).map (fun k => if us.any (fun u => k % u.1 == u.2 % u.1) then 2 ^ k else 0)).sum + (us.map (fun u => 16 / u.1)).sum * 2 ^ 16
/-- The class and core of an instance; none where it names nothing. -/
def instanceOf (c i : Nat) : Option (SlotClass × Nat) :=
  match c with
  | 0 => if i < Config.cores then some (.issue, i) else none
  | 1 => if i < Config.cores * 4 ∧ ¬(i % 4 = 1 ∧ coreX (i / 4) = 23) ∧ ¬(i % 4 = 3 ∧ coreX (i / 4) = 0) then some (.mesh, 0) else none
  | 2 => if i < 256 then some (.chan, 0) else none
  | 3 => if i < Config.cores then some (.wlane, i) else none
  | 4 => if i < 2 * Config.isavikPorts then some (.link, 0) else none
  | _ => none
/-- An owner without a reservation made in the present beat. -/
def Owner.atIssue (o : Owner) (now : Nat) : Owner :=
  if o.resvBeat = some now then
    match o.state with
    | .admitting => { Owner.empty with s1root := o.s1root }
    | .load => { o with state := .saved }
    | _ => { o with rephase := none }
  else o
/-- Owners and places as they stood before any word of the present beat changed an owner. -/
def Chip.beforeWords (ch : Chip) : Tab Owner × Tab Place :=
  match ch.before with
  | some (b, os, ps) => if b = ch.gts then (os, ps) else (ch.owners, ch.places)
  | none => (ch.owners, ch.places)
/-- The machine as SPL.QUERY sees it: without what words of the present beat have changed, and without the reservations made in it
(R367, R371). -/
def Chip.atIssue (ch : Chip) : Chip := { ch with owners := ch.beforeWords.1.map (fun e => (e.1, e.2.atIssue ch.gts)) }
/-- The places of strands as it sees them. -/
def Chip.placesAtIssue (ch : Chip) : Tab Place :=
  let new (on : Nat) : Bool :=
    match ch.beforeWords.1.get? on with
    | some o => o.resvBeat == some ch.gts && (o.state == .admitting || o.state == .load)
    | none => false
  ch.beforeWords.2.filter (fun e => !new e.2.owner)
/-- SPL.QUERY: from the Splicer's state at issue. -/
def execSplQuery (h : Head) (xd xa : Reg) (sel : BitVec 4) (s : State) : Outcome :=
  issue s h (supInfo 0xE0 (Instr.wf (.splQuery h xd xa sel))) noOperands (fun x =>
    let v := x.rx xa
    let ch := x.chip.atIssue
    let r : Nat := match sel.toNat with
      | 0 => ownerQuery ch (bitsOf v 0 3)
      | 1 => (match x.chip.placesAtIssue.get? (skey (bitsOf v 0 9) (bitsOf v 16 2)) with | some p => strandQuery p | none => 0)
      | 2 => (match instanceOf (bitsOf v 0 3) (bitsOf v 8 24) with | some (c, k) => maskWord (usersOf ch none c k) | none => 0)
      | _ => if (ch.owner (bitsOf v 0 3)).state = .empty then 0 else (ch.owner (bitsOf v 0 3)).origin
    x.writeX 1 xd (BitVec.ofNat 64 r) (x.px xa))

/-! ### The Splicer's events -/

/-- OWNER_ORIGIN (02 R33): in beat b₀ the owner runs, F being b₀. -/
def execOwnerOrigin (owner : Nat) (s : State) : Outcome :=
  let o := s.chip.owner owner
  if o.state = .admitting ∧ o.origin = s.chip.gts then .next (s.keep (s.chip.setOwner owner { o with state := .running, frozen := o.origin }))
  else .next s
/-- A freeze of the whole owner that is to come, or under way, and is no re-phase's. -/
def Owner.stops (o : Owner) : Bool := o.freezeAt.isSome && (o.rephase.all (fun r => r.release.isNone))
/-- Holds of a re-phase in the present beat (R369 step 2): a strand whose CT ended its REPHASE section in an earlier
beat holds from its first running beat with τ ≡ 0 (mod L). -/
def beginHolds (ch : Chip) (on : Nat) : Chip :=
  let o := ch.owner on
  match o.rephase with
  | none => ch
  | some _ =>
    ch.mapStrands on (fun st =>
      match st.run.arrived with
      | some e =>
        -- a trap or a replay stall taken in the slot comes first (08 R180; 15 R327)
        let first := o.ownsAt .issue (o.clock ch.gts) && (st.replay.asked || !st.traps.isEmpty)
        if e < ch.gts ∧ first = false ∧ ch.runs st = true ∧ st.run.stall.isNone = true ∧ st.run.halted = false ∧ st.run.tau % o.rotation = 0 then
          { st with run := { st.run with stall := some { kind := .rephaseHold, bs := ch.gts, cleared := none } } }
        else st
      | none => st)
/-- The release beat once every strand that has not halted holds (R369 step 3): of a multi-device owner 256 beats after the last
strand on any device, which is a free value (log 5); the wait limit may pass before. While the owner is frozen none is chosen. -/
def settleRelease (ch : Chip) (on : Nat) : Chip :=
  let o := ch.owner on
  match o.rephase with
  | some r =>
    let held (st : Strand) : Bool := st.run.halted || (match st.run.stall with | some k => k.kind == .rephaseHold && k.cleared.isNone | none => false)
    if r.release.isSome || o.resvBeat == some ch.gts || o.stops || !(ch.strandsOf on).all (fun e => held e.2) then ch
    else
      let a := r.arrived.getD (if o.ndev ≤ 1 then ch.gts else ch.gts + Config.peersHold ch.fresh)
      let from_ := max a ch.gts + (if o.ndev ≤ 1 then 0 else 256)
      let g := if ch.gts < a then none else some (firstBeat from_ o.rotation (o.frozen % o.rotation))
      (if r.arrived.isSome then ch else ch.freshen).setOwner on { o with rephase := some { r with arrived := some a, release := g } }
  | none => ch
/-- REPHASE_RELEASE (R369): every strand freezes for Δ beats; the holds end. -/
def execRephaseRelease (owner : Nat) (s : State) : Outcome :=
  let o := s.chip.owner owner
  match o.rephase with
  | some r =>
    if r.release = some s.chip.gts ∧ o.freezeAt.isNone = true then
      let ch := s.chip.setOwner owner { o with freezeAt := some s.chip.gts, thawAt := some (s.chip.gts + r.delta), last := 0 }
      .next (s.keep (ch.mapStrands owner (fun st =>
        match st.run.stall with
        | some k => if k.kind = .rephaseHold then { st with run := { st.run with stall := none } } else st
        | none => st)))
    else .next s
  | none => .next s
/-- REPHASE_RESUME (R369): the owner resumes at its new phases. -/
def execRephaseResume (owner : Nat) (s : State) : Outcome :=
  let o := s.chip.owner owner
  if o.rephase.any (fun r => r.release.isSome) = true ∧ o.thawAt = some s.chip.gts then
    let ch := s.chip.setOwner owner { o with rephase := none, freezeAt := none, thawAt := none, last := 0 }
    .next (s.keep (ch.mapStrands owner (fun st => { st with run := { st.run with arrived := none } })))
  else .next s
/-- Abandons a re-phase: holds end under R38 (R369 step 4). -/
def abandonRephase (ch : Chip) (on : Nat) : Chip :=
  let o := ch.owner on
  match o.rephase with
  | none => ch
  | some _ =>
    -- one that has been applied runs to its end
    if o.stepped ch.gts ≠ 0 then ch
    else
      (ch.setOwner on { o with rephase := none, last := 11 }).mapStrands on (fun st =>
        { st with run := { st.run with arrived := none,
                                       stall := st.run.stall.map (fun k => if k.kind = .rephaseHold ∧ k.cleared.isNone = true then { k with cleared := some ch.gts } else k) } })
/-- REPHASE_ABANDON: the wait limit has passed before every strand arrived. -/
def execRephaseAbandon (owner : Nat) (s : State) : Outcome :=
  match (s.chip.owner owner).rephase with
  | some r =>
    match r.limit, r.release with
    | some t, none => if t ≤ s.chip.gts then .next (s.keep (abandonRephase s.chip owner)) else .next s
    | _, _ => .next s
  | none => .next s
/-- HALT_REPORTED (07 R173): a halted strand whose engine work and lane stores are done reports; with its last
strand the owner is halted, be it frozen. -/
def execHaltReported (core slot : Nat) (s : State) : Outcome :=
  match s.chip.strand? core slot with
  | none => .next s
  | some st =>
    let ch := s.chip
    let busy := (ch.worksOf core slot).any (fun e => !e.2.seenDone ch.gts) || !st.lane.queue.isEmpty || decide (st.lane.wdone < st.lane.wissued)
    if !st.run.halted || st.run.reported || busy then .next s
    else
      let ch := ch.setStrand core slot { st with run := { st.run with reported := true } }
      let on := st.place.owner
      let o := ch.owner on
      if !(ch.strandsOf on).all (fun e => e.2.run.reported) then .next (s.keep ch)
      else
        match o.state with
        | .running => .next (s.keep (ch.setOwner on { o with state := .halted }))
        | .frozen => .next (s.keep (ch.setOwner on { o with state := .halted, freezeAt := none, thawAt := none }))
        | _ => .next (s.keep ch)

end Sys2Proof.Machine
end

