-- ==== Sys2Proof/Machine/Context.lean ====
section
/-! DEFINITION. The context engine (08 R177 to R200): pending traps, the end of a stall, replay stalls, containment,
records and their answers, pre-emption, saving and restoring, and the context and key words. -/

namespace Sys2Proof.Machine

/-! ### Stalls and traps (02 R38; 08 R179, R180) -/

/-- A strand whose owned ISSUE slot the present beat is and that runs in it: where pending traps and replay stalls
are taken. -/
def Chip.slotRuns (ch : Chip) (st : Strand) : Bool := ch.runs st && ch.ownsIssue st && !st.run.halted
/-- Whether a stall ends in the present beat: at or after the beat in which its cause cleared, a positive multiple of
L after it began. -/
def Stall.endsAt (k : Stall) (b l : Nat) : Bool :=
  match k.cleared with | some c => decide (c ≤ b) && decide (k.bs < b) && (b - k.bs) % l == 0 | none => false
/-- STALL_END. A record answered while H = 1 leaves the strand to its handler. -/
def execStallEnd (core slot : Nat) (s : State) : Outcome :=
  match s.chip.strand? core slot with
  | none => .next s
  | some st =>
    let o := s.chip.owner st.place.owner
    if !o.live || o.frozenAt s.chip.gts then .next s
    else
      let over_ (k : Option Stall) : Bool := match k with | some k => k.endsAt s.chip.gts o.rotation | none => false
      let after : Option Stall := match st.run.stall with
        | some k => if st.run.h then some { kind := .trap, bs := k.bs, cleared := none } else none
        | none => none
      .next (s.keep (s.chip.setStrand core slot
        { st with run := { st.run with stall := if over_ st.run.stall then after else st.run.stall,
                                       hstall := if over_ st.run.hstall then none else st.run.hstall } }))

/-! ### Containment (08 R188) -/

/-- Regions killed with region n: it and those opened inside it. -/
def killedRegions (st : Strand) (n : Nat) : List Nat := (st.regions.takeWhile (fun r => r.num != n)).map (·.num) ++ [n]
/-- Whether a kind of work is cancelled; a matrix word whose occupancy has begun completes, and numbered lane stores
are performed. -/
def WorkKind.cancels : WorkKind → Bool
  | .access _ _ _ | .copy _ _ _ _ _ _ _ _ _ _ | .mdrain _ _ _ _ | .secld _ _ _ _ _ | .clred _ _ _ _ _ _ _ _ | .clbc _ _ _ _ | .peer _
  | .transit _ _ => true
  | .laneStore _ _ _ _ _ _ | .wstc _ _ _ _ _ _ _ _ _ | .mma _ | .mldc _ => false
/-- Whether work brings an answer to a register or to register space. -/
def WorkKind.answers : WorkKind → Bool
  | .access a _ _ => a.answers
  | _ => false
/-- Cancels a piece of work: a copy at a sector, a collective at a chunk; what its barrier waits for is counted. -/
def cancelWork (m : Memory) (r : Res) (w : Nat) (k : Work) : Res :=
  match k.kind with
  | .copy _ _ _ _ _ _ _ _ _ _ => endCopy m r w k .cancelled
  | .clred _ _ _ _ _ _ _ _ =>
    (match r.chip.groupOfWork k with
     | some (_, e) => endColl m r w k [(e.self, k.core)] .cancelled
     | none => { r with chip := finishWork r.chip w k .cancelled })
  | .clbc _ _ _ _ =>
    (match r.chip.groupOfWork k with
     | some (_, e) => endColl m r w k (e.present r.chip k k.wholeChunks) .cancelled
     | none => { r with chip := finishWork r.chip w k .cancelled })
  | _ => { r with chip := finishWork r.chip w k .cancelled }
/-- Cancels works in order, on the memory that each leaves. -/
def cancelAll (m : Memory) (r : Res) (ws : List (Nat × Work)) : Res :=
  ws.foldl (fun r e => cancelWork (writeAll m r.writes) r e.1 e.2) r
/-- What a containment kill and a replay stall empty: ring tokens, q0 to q3, their entries on the way (10 R244), the live nest and the
pending shadow, the loop stacks. -/
def Strand.emptied (st : Strand) : Strand :=
  let none4 : Rings := { fwd := [0, 0, 0, 0], back := [0, 0, 0, 0], dfwd := [0, 0, 0, 0], dback := [0, 0, 0, 0] }
  let scl (l : Land) : Bool := match l with | .push0 _ | .push1 _ | .push2 _ => true | _ => false
  { st with
    ct := { st.ct with loops := [] }, ld := { st.ld with loops := [] }, cp := { st.cp with loops := [] }, st := { st.st with loops := [] },
    due := st.due.map (fun d => { d with lands := d.lands.filter (fun l => !scl l) }),
    sh := { st.sh with rings := none4, q0 := [], q1 := [], q2 := [], q3 := [], q1out := [], q2out := [],
                       nest := { st.sh.nest with pendingShadow := false, live := none, iter := [] } } }
/-- A region is killed and its handler entered. -/
def unwind (m : Memory) (ch : Chip) (core slot : Nat) (st : Strand) (n : Nat) (t : PTrap) : Res :=
  match st.regions.find? (fun r => r.num == n) with
  | none => { chip := ch.setStrand core slot st, writes := [] }
  | some reg =>
    let gone := killedRegions st n
    -- further errors of the killed regions go with them
    let st := { st with traps := st.traps.filter (fun t => !(t.cause == .containmentUnwind && gone.contains (bitsOf t.tval 0 3))) }
    let mine := (ch.worksOf core slot).filter (fun e =>
      e.2.doneBeat.isNone && e.2.kind.cancels && (match e.2.region with | some k => gone.contains k | none => false))
    let r := cancelAll m { chip := ch.setStrand core slot st, writes := [] } mine
    match r.chip.strand? core slot with
    | none => r
    | some st =>
      -- so that they no longer count as open
      let uncounted (e : Nat × Work) : Nat × Work :=
        if e.2.core == core && e.2.slot == slot && e.2.kind.answers && e.2.state == WorkState.done && decide (st.run.tau < e.2.promise) &&
          (match e.2.region with | some k => gone.contains k | none => false) then (e.1, { e.2 with state := .cancelled }) else e
      let r : Res := { r with chip := { r.chip with works := r.chip.works.map uncounted } }
      let st := st.emptied
      -- an answered load or atomic of a killed region whose result has not landed is cancelled too (10 R240)
      let st := { st with due := st.due.filter (fun d => match d.region with | some k => !gone.contains k | none => true) }
      let st := { st with regions := (st.regions.dropWhile (fun (g : Region) => g.num != n)).drop 1,
                          csr := { st.csr with tcause := tcauseOf t, faddr := t.faddr, tval := t.tval } }
      { r with chip := enterHandler m r.chip core slot st (some reg.handler) }
/-- The strand's first pending trap is taken: of a killed region, or under R179. -/
def trapEntry (m : Memory) (ch : Chip) (core slot : Nat) (st : Strand) : Res :=
  match st.traps with
  | [] => { chip := ch, writes := [] }
  | t :: rest =>
    let st := { st with traps := rest }
    -- a TRAP word's trap names CT's next slot, where it is taken (07 R171)
    let t := if t.cause = .swTrap then { t with sec := (st.whereNow t.q).1, slot := (st.whereNow t.q).2 } else t
    if t.cause = .containmentUnwind then unwind m ch core slot st (bitsOf t.tval 0 3) t
    else { chip := takeTrap m (ch.setStrand core slot st) core slot t, writes := [] }
/-- TRAP_ENTRY (08 R179, R180): in an owned ISSUE slot in which the strand runs. -/
def execTrapEntry (core slot : Nat) (s : State) : Outcome :=
  match s.chip.strand? core slot with
  | none => .next s
  | some st =>
    -- a TRAP of the handler, and what else arose in it, is a second cause (07 R171; 08 R185)
    if st.run.h && st.run.htrap.isSome then
      .next (s.keep { doubleTrap s.chip core slot { st with run := { st.run with htrap := none } }
        (causeCode (st.run.htrap.getD .swTrap)) with verdict := .trapped })
    else if !s.chip.slotRuns st || st.traps.isEmpty then .next s
    else
      let r := trapEntry s.mem s.chip core slot st
      .next (s.commit { r with chip := { r.chip with verdict := .trapped } })
/-- CONTAINMENT_UNWIND: an uncorrectable error with a cause code is consumed by tagged work of a region. -/
def execContainmentUnwind (core slot region cause : Nat) (s : State) : Outcome :=
  match s.chip.strand? core slot with
  | none => .next s
  | some st =>
    if !s.chip.slotRuns st || st.regions.all (fun r => r.num != region) then .next s
    else
      let inner := match st.regions with | r :: _ => r.num != region | [] => false
      let tv := BitVec.ofNat 64 (region + cause % 128 * 2 ^ 8 + (if inner then 2 ^ 16 else 0))
      let r := unwind s.mem s.chip core slot st region (st.mkTrap .ct .containmentUnwind (noAddr .containmentUnwind) tv)
      .next (s.commit { r with chip := { r.chip with verdict := .trapped } })

/-! ### Replay stalls (15 R327, R328) -/

/-- A sequencer at its point. -/
def Seq.toPoint (m : Memory) (core : Nat) (pl : Place) (sq : Seq) (p : Option (BitVec 14)) : Seq :=
  match p with
  | none => sq
  | some h =>
    let num := (sectionOf h (wordAt m core pl h.toNat)).num
    { sq with pc := h, ret := BitVec.ofNat 12 ((num.toNat + 4094) % 4095), retNext := none, loops := [], pending := none, delay := false, sec := none,
              atHdr := true, blockFrom := none, wait := .none }
/-- The replay stall of a strand begins in the present beat. COUNT is a field of four bits and wraps (15 R322; DEDUCED, log 96). -/
def replayStart (m : Memory) (ch : Chip) (core slot : Nat) (st : Strand) : Chip :=
  let at_ (q : SeqId) : Seq := (st.seq q).toPoint m core st.place (st.replay.points.getD (seqNum q) none)
  let st := { st with ct := at_ .ct, ld := at_ .ld, cp := at_ .cp, st := at_ .st }.emptied
  let k := st.csr
  let st := { st with
    replay := { st.replay with count := (st.replay.count + 1) % 16, asked := false, noRecord := allSeqs },
    csr := { k with ttsyn := 0, ttmask := 0, ttInject := k.ttInject &&& ~~~ (BitVec.twoPow 64 63) },
    run := { st.run with stall := some { kind := .replay, bs := ch.gts, cleared := some (ch.gts + 1) } } }
  ch.setStrand core slot st
/-- REPLAY_STALL. -/
def execReplayStall (core slot : Nat) (s : State) : Outcome :=
  match s.chip.strand? core slot with
  | none => .next s
  | some st =>
    if !s.chip.slotRuns st || !st.replay.asked then .next s
    else .next (s.keep { replayStart s.mem s.chip core slot st with verdict := .stalled })

/-! ### Pre-emption (08 R189 to R191) -/

/-- Whether a context number is in use: by a record, or by a save under way. -/
def Chip.ctxUsed (ch : Chip) (ctx : Nat) : Bool :=
  (ch.saved.get? ctx).isSome || ch.owners.any (fun e => match e.2.preempt with | some p => p.ctx == ctx | none => false)
/-- Whether an operation of another owner on a context is under way (R199). -/
def Chip.ctxBusy (ch : Chip) (on ctx : Nat) : Bool :=
  ch.owners.any (fun (e : Nat × Owner) => e.1 != on && (match e.2.preempt with | some p => p.ctx == ctx | none => false) &&
    (match e.2.state with | .window | .collect | .save | .saveHeld | .load | .loadHeld => true | _ => false))
/-- The lowest context number not in use (log 27). -/
def Chip.freeCtx (ch : Chip) : Option Nat := (List.range 256).find? (fun c => !ch.ctxUsed c)
/-- Whether a pre-emption of an owner can be asked for. A halted owner can be saved as one that runs (log 38). -/
def Owner.canPreempt (o : Owner) : Bool := o.state == .running || o.state == .frozen || o.state == .halted
/-- A request in the present beat (R189): g is the next beat. A frozen owner's window is empty (21 R371). Of a multi-device
owner it is the same, and the other devices freeze in that beat (02 R47; DEDUCED, log 93). -/
def requestPreempt (ch : Chip) (on ctx wait : Nat) (issuer : Option (Nat × Nat)) : Chip :=
  let ch := abandonRephase ch on
  let o := ch.owner on
  let g := ch.gts + 1
  let wait := if o.state = .frozen then 0 else wait
  let p : Preempt :=
    { ctx := ctx, g := g, windowEnd := g + wait, gf := 0, unit := 0, unitDue := 0, since := 0, issuer := issuer }
  (ch.setOwner on { o with state := .window, preempt := some p, thawAt := if o.state = .frozen then none else o.thawAt }).mapStrands on
    (fun st => { st with run := { st.run with preptMask := none } })
/-- A request that names no context (YIELD, a switch-out): with SAVEBASE not set, or no number free, it has no effect
(log 27). Answers whether it was made. -/
def requestAny (ch : Chip) (on wait : Nat) : Chip × Bool :=
  let o := ch.owner on
  match ch.freeCtx with
  | some c => if o.canPreempt && bitsOf (ch.part o.part).savebase 12 36 != 0 then (requestPreempt ch on c wait none, true) else (ch, false)
  | none => (ch, false)
/-- What the Splicer of another device begins for an owner that lies on both (02 R47; 21 R359, R365, R366, R369). -/
def peerOrder (ch : Chip) (on : Nat) (q : PeerOrder) : Chip :=
  let o := ch.owner on
  if o.ndev ≤ 1 then ch
  else
    match q with
    | .freeze g => if ch.gts < g then (beginFreeze ch on g).2 else ch
    | .thaw g => if ch.gts < g then (beginThaw ch on (if o.state = .ready then (o.preempt.map (·.ctx)).getD 0 else 0) g).2 else ch
    | .rephase delta wait => (beginRephase ch on delta wait true).2
    | .abandon => abandonRephase ch on
    | .prept ctx g =>
      match o.state, o.preempt with
      | .window, some p => if ch.gts < g then ch.setOwner on { o with preempt := some { p with windowEnd := g } } else ch
      | _, _ =>
        if o.canPreempt && !ch.ctxUsed ctx && decide (ch.gts < g) then
          let ch := requestPreempt ch on ctx 0 none
          ch.setOwner on { ch.owner on with preempt := (ch.owner on).preempt.map (fun p => { p with windowEnd := g }) }
        else ch
/-- FREEZE_BEGIN (21 R365): in its beat g the owner is frozen; or another device's Splicer acts on an owner that lies on
both. -/
def execFreezeBegin (ask : FreezeAsk) (s : State) : Outcome :=
  match ask with
  | .peer owner q => .next (s.keep (peerOrder s.chip owner q))
  | .own owner =>
    let o := s.chip.owner owner
    if o.state = .running ∧ o.freezeAt = some s.chip.gts ∧ o.stops = true then .next (s.keep (s.chip.setOwner owner { o with state := .frozen }))
    else .next s
/-- YIELD (07 R175): in a handler the stall is long-service, and the owner is switched out. -/
def execYield (h : Head) (s : State) : Outcome :=
  issue s h (ctInfo 0xD5 14) noOperands (fun x =>
    if !x.st.run.h then x.nothing
    else
      let (ch, made) := requestAny x.chip x.st.place.owner (bitsOf x.st.csr.preptWait 0 21)
      if !made then x.nothing
      else
        let wait : Stall := { kind := .longService, bs := x.now + 1, cleared := none }
        .go { chip := ch.onStrand x.core x.slot (fun st => { st with run := { st.run with hstall := some wait } }), writes := [] } .next .none)
/-- The most beats that the engines holding an owner's work take to answer the collector (R190; 14 R314): sequencers,
collectives and Telltale none, the matrix engine 16, the others the collector's 2,048. -/
def answerBound (ch : Chip) (on : Nat) : Nat :=
  (ch.works.filter (fun e => e.2.owner == on && e.2.doneBeat.isNone)).foldl (fun b e =>
    max b (match e.2.kind with
      | .clred _ _ _ _ _ _ _ _ | .clbc _ _ _ _ => 0
      | .mma _ | .mldc _ | .mdrain _ _ _ _ => 16
      | _ => 2048)) 0
/-- PREPT_WINDOW_EXPIRY (R189): the freeze g_f, once every strand has recorded its mask or the window has run; of a
multi-device owner whether the strands on other devices have recorded theirs is free (log 5). COLLECT lasts until the sums of an
MMA whose occupancy is under way are latched (14 R314). The Telltale injection is disarmed
(15 R328). -/
def execPreptWindowExpiry (owner : Nat) (s : State) : Outcome :=
  let ch := s.chip
  let o := ch.owner owner
  match o.state, o.preempt with
  | .window, some p =>
    let all := (decide (o.ndev ≤ 1) || Config.peersPrept ch.gts) && (ch.strandsOf owner).all (fun e => e.2.run.preptMask.isSome)
    if ch.gts < p.g ∨ (ch.gts < p.windowEnd ∧ all = false) then .next s
    else
      let from_ := match o.freezeAt with | some g => if g ≤ ch.gts then g else ch.gts | none => ch.gts
      let busy := (ch.strandsOf owner).foldl (fun n (e : Nat × Strand) => max n (e.2.run.mmaUntil - e.2.run.tau)) 0
      let due := ch.gts + max busy (Config.collectBeats ch.fresh % (answerBound ch owner + 1))
      let o := { o with state := .collect, freezeAt := some from_, thawAt := none, preempt := some { p with gf := ch.gts, unitDue := due } }
      .next (s.keep (({ ch with fresh := ch.fresh + 1 }.setOwner owner o).mapStrands owner (fun st =>
        { st with run := { st.run with preptMask := some (st.run.preptMask.getD st.place.ctmask) },
                  csr := { st.csr with ttInject := st.csr.ttInject &&& ~~~ (BitVec.twoPow 64 63) } })))
  | _, _ => .next s
/-- Beats until the next unit of a save or load. -/
def nextUnit (ch : Chip) (on : Nat) (o : Owner) (p : Preempt) (n : Nat) : Chip :=
  { ch with fresh := ch.fresh + 1 }.setOwner on { o with preempt := some { p with unit := n, unitDue := ch.gts + 1 + Config.unitBeats ch.fresh } }
/-! ### The fast-context record (08 R193; 10 R228; 14 R313; 15 R329) -/

/-- Shadow storage of a die in bytes (01 R12; R192). -/
def shadowSize : Nat := 2 ^ 25
/-- Bytes of a result in its due latch (log 19). -/
def Land.size : Land → Nat
  | .reg _ d | .bytes _ d | .mldc _ _ d => d.length
  | .push1 b | .push2 b => b.length
  | .push0 _ => 64
  | .mask _ _ _ => 128
  | .tile _ _ _ _ _ => 4352
  | .mma _ _ _ _ _ _ _ _ _ _ _ _ => 4096
  | .ctabW d => 2 * d.length
  | .laneFill _ _ bs => bs.length
  | _ => 8
/-- A landing that is a result: not the completion of its work, nor the poison that goes with a result. -/
def Land.isResult : Land → Bool
  | .workDone _ | .workActs _ | .granules _ _ => false
  | _ => true
/-- A result's data as it stands in the latch; nothing where the manual gives the latch no layout (log 19). -/
def Land.data : Land → Option (List Byte)
  | .reg _ d | .bytes _ d | .mldc _ _ d | .push1 d | .push2 d => some d
  | .push0 l => some (l.flatMap (fun v => leBytes 2 v.toNat))
  | .mask _ _ v => some (leBytes 128 v.toNat)
  | .tile _ _ d r c => some ((d ++ r ++ c).flatMap (fun v => leBytes 4 v.toNat))
  | .ctabW d => some (d.flatMap (fun v => leBytes 2 v.toNat))
  | .laneFill _ _ bs => some (bs.map (·.2))
  | .x _ _ v _ _ | .view _ v | .stream _ _ v | .csr _ v | .push3 v => some (wordBytes v)
  | _ => none
/-- The results that are due, size and data, the drains that are to come behind them (14 R314). -/
def dueResults (st : Strand) (works : List (Nat × Work)) : List (Nat × Option (List Byte)) :=
  let drains := works.filter (fun e => e.2.doneBeat.isNone && (match e.2.kind with | .mdrain _ _ _ _ => true | _ => false))
  ((st.due.flatMap (·.lands)).filter Land.isResult).map (fun l => (l.size, l.data)) ++ drains.map (fun _ => (1024, none))
/-- DL: a header of 64 bytes and the data of each result. -/
def dueLength (l : List (Nat × Option (List Byte))) : Nat := (l.map (fun e => 64 + 64 * cdiv e.1 64)).sum
/-- A stream register's 128 bits (10 R228). -/
def Stream.word (s : Stream) : Nat :=
  s.buf.toNat + s.base.toNat * 2 ^ 2 + s.fmt.toNat * 2 ^ 22 + s.axis.toNat * 2 ^ 26 + s.gather.toNat * 2 ^ 27 + s.rstride.toNat * 2 ^ 28 +
    s.sbase.toNat * 2 ^ 48 + s.sstride.toNat * 2 ^ 68 + s.pos.toNat * 2 ^ 88 + s.lpoff.toNat * 2 ^ 108
/-- The Telltale field (15 R329), with the tags of the 32 tiles, and the matrix state (14 R313). -/
def telltaleBytes (st : Strand) (tags : List (BitVec 3)) : List Byte :=
  let k := st.csr
  let packed (w : Nat) (l : List Nat) : Nat := (l.mapIdx (fun i v => v * 2 ^ (w * i))).sum
  wordBytes k.ttTol8 ++ wordBytes k.ttTol16 ++ wordBytes k.ttTolC4 ++ wordBytes k.ttmask ++
    leBytes 12 (packed 3 (tags.map (·.toNat))) ++ leBytes 7 (packed 14 (st.replay.points.map (fun p => (p.getD 0).toNat))) ++
    [BitVec.ofNat 8 (k.ttctl.toNat % 64), BitVec.ofNat 8 (k.ttsyn.toNat % 128), (ttrepCsr st.replay).setWidth 8] ++ zeros 2 ++
    leBytes 2 k.ctabgen.toNat ++ zeros 6 ++ (st.sh.codes ++ st.sh.codesShadow).flatMap (fun c => leBytes 2 c.toNat)
/-- The record's header without its CRC (08 R193). -/
def recordHeader (o : Owner) (on ctx key gf dl : Nat) (mask : BitVec 32) (st : Strand) : List Byte :=
  let q := (allClasses.map (fun c => o.heldPhase gf c * 2 ^ (4 * className c))).sum
  [1#8, BitVec.ofNat 8 on, BitVec.ofNat 8 (key % 4), BitVec.ofNat 8 ctx] ++ leBytes 2 (key / 4) ++ [BitVec.ofNat 8 st.place.winkb, 0#8] ++
    leBytes 4 mask.toNat ++ leBytes 4 dl ++ leBytes 8 st.run.tau ++ leBytes 8 (gf - st.run.tau) ++ leBytes 4 q ++ zeros 4 ++
    wordBytes (energyCsr st.run) ++ leBytes 2 st.run.pj ++ zeros 198
/-- Fields that the record holds and the manual does not lay out: bytes lo to hi of a save. -/
def openBytes (save lo hi : Nat) : List Byte := (List.range (hi - lo)).map (fun i => Config.recordByte save (lo + i))
/-- What of the record precedes the due-latch list. -/
def recordBody (save : Nat) (st : Strand) (tags : List (BitVec 3)) : List Byte :=
  let xs (q : SeqId) : List Byte := (List.range 64).flatMap (fun r => wordBytes (if r = 0 then 0 else (st.seq q).x.getD r 0))
  openBytes save 0x100 0x500 ++ allSeqs.flatMap xs ++ (List.range 8).flatMap (fun i => wordBytes (st.bank.getD i 0)) ++ openBytes save 0xD40 0xE00 ++
    (List.range 16).flatMap (fun n => wordBytes (st.sh.views.getD n 0)) ++ (List.range 4).flatMap (fun n => leBytes 128 (st.sh.masks.getD n 0).toNat) ++
    (List.range 16).flatMap (fun n => leBytes 16 (st.stream n).word) ++ openBytes save 0x1180 0x2080 ++ telltaleBytes st tags ++
    leBytes 128 st.sh.granules.toNat ++ openBytes save 0x2180 0x3000
/-- The due-latch list from an offset on: of each result its header, whose fields have no layout, and its data. -/
def dueBytes (save : Nat) : Nat → List (Nat × Option (List Byte)) → List Byte
  | _, [] => []
  | off, (n, d) :: t =>
    let from_ := off + 64
    let upto := from_ + 64 * cdiv n 64
    openBytes save off from_ ++ (match d with | some l => l ++ openBytes save (from_ + l.length) upto | none => openBytes save from_ upto) ++
      dueBytes save upto t
/-- A record with its CRC set (08 R193): it is taken over every byte, its own field as zeros. -/
def withCrc (header rest : List Byte) : List Byte :=
  let all := header ++ zeros 8 ++ rest
  header ++ wordBytes (crcBytes 0 all) ++ rest
/-- Whether a record's CRC holds. -/
def crcHolds (l : List Byte) : Bool := wordBytes (crcBytes 0 (l.take 0xF8 ++ zeros 8 ++ l.drop 0x100)) == (l.drop 0xF8).take 8
/-- A saved tile: its data, row check and column check. -/
def savedTile (e : Nat × Tile × List Byte) : List Byte := e.2.2 ++ (e.2.1.row ++ e.2.1.col).flatMap (fun v => leBytes 4 v.toNat)
/-- Shadow storage of a die in use. -/
def Chip.shadowUsed (ch : Chip) (die : Nat) : Nat :=
  (ch.saved.flatMap (fun e => e.2.strands.map (fun r => if dieOf (r.key / 4) = die then r.record.length - r.spilled else 0))).sum
/-- Bytes staged for the lane stores that a strand has queued (11 R248). -/
def stagedBytes (ch : Chip) (st : Strand) : List Byte :=
  st.lane.queue.flatMap (fun e =>
    match ch.work? e.work with
    | some w => (match w.kind with | .laneStore _ bs _ _ _ _ => bs.map (·.2) | _ => [])
    | none => [])
/-- The record of a strand as the collector takes it. The walk that a strand waits for goes on (R189). Tags are those of the
strand's own tiles. -/
def saveStrand (m : Memory) (ch : Chip) (on ctx gf key : Nat) (st : Strand) : SavedStrand :=
  let core := key / 4
  let mask := st.run.preptMask.getD st.place.ctmask
  let tiles := (tilesOf mask).map (fun t => (t, (ch.core core).tile t, m.readBytes (tileAddr core t) 4096))
  let tags := (List.range 32).map (fun t => if st.place.ctmask.getLsbD t then ((ch.core core).tile t).tag else 0)
  let window := m.readBytes (windowBase core st) (st.place.winkb * 1024)
  let dues := dueResults st (ch.worksOf core (key % 4))
  let dl := dueLength dues
  { key := key,
    strand := { st with run := { st.run with preptMask := none } }
    mask := mask, tiles := tiles, tags := tags, window := window
    foot := m.readBytes (istoreAddr core + st.place.fbase * 12) (positions st.place.iskb * 12)
    record := withCrc (recordHeader (ch.owner on) on ctx key gf dl mask st)
      (recordBody ch.fresh st tags ++ dueBytes ch.fresh 0x3000 dues ++ window ++ tiles.flatMap savedTile)
    spilled := 0, staged := stagedBytes ch st }
/-- Records placed in the shadow storage of their dies: the end of one that does not fit spills to the bulk area (R192, R194;
DESIGN CHOICE, log 94). -/
def spillRecords (ch : Chip) (l : List SavedStrand) : List SavedStrand :=
  (l.foldl (fun (acc : List SavedStrand × List Nat) r =>
    let d := dieOf (r.key / 4)
    let spilled := r.record.length - (shadowSize - acc.2.getD d 0)
    (acc.1 ++ [{ r with spilled := spilled }], acc.2.set d (acc.2.getD d 0 + (r.record.length - spilled)))) ([], (List.range 4).map ch.shadowUsed)).1
/-- Errors found before the freeze that kill a region: its tagged work is cancelled now, the unwind trap is taken after the
thaw (R197). -/
def cancelPending (m : Memory) (r : Res) (on : Nat) : Res :=
  (r.chip.strandsOf on).foldl (fun r e =>
    let gone := (e.2.traps.filter (fun t => t.cause == .containmentUnwind)).flatMap (fun t => killedRegions e.2 (bitsOf t.tval 0 3))
    cancelAll m r ((r.chip.worksOf (e.1 / 4) (e.1 % 4)).filter (fun k =>
      k.2.doneBeat.isNone && k.2.kind.cancels && (match k.2.region with | some n => gone.contains n | none => false)))) r
/-- An answer of a port to CPY.OUT that the collector waits for: the sector is on its way (R190). -/
def outOpen (ch : Chip) (on : Nat) : Bool :=
  ch.works.any (fun e => e.2.owner == on && e.2.doneBeat.isNone && e.2.steps.any (fun p => e.2.outAnswer p &&
    e.2.steps.all (fun s => s.chain != p.chain || s.act == p.act)))
/-- COLLECT_COMPLETE (R190, R191): the last engine has answered, within 2,048 beats of g_f; the owner's slots go back to the
Splicer, and its strands and engine work are in their records. -/
def execCollectComplete (owner : Nat) (s : State) : Outcome :=
  let ch := s.chip
  let o := ch.owner owner
  match o.state, o.preempt with
  | .collect, some p =>
    if ch.gts < p.unitDue ∨ (outOpen ch owner = true ∧ ch.gts < p.gf + 2048) then .next s
    else
      let r := cancelPending s.mem { chip := ch, writes := [] } owner
      let ch := r.chip
      let mine := ch.strandsOf owner
      let sorted := (List.range o.hdr.ncore).filterMap (fun i => mine.find? (fun e => e.2.place.index == i))
      let gone := ch.works.filter (fun e => e.2.owner == owner)
      -- a chunk of another device's collective begins anew after the restore (19 R348)
      let works := gone.filter (fun e => !e.2.kind.foreign)
      let held := ch.locks.filter (fun l => match works.find? (fun e => e.1 == l.work) with
        | some e => (match e.2.kind with | .clbc _ _ _ _ => l.core == e.2.core | _ => true)
        | none => false)
      let records := spillRecords ch (sorted.map (fun e => saveStrand (writeAll s.mem r.writes) ch owner p.ctx p.gf e.1 e.2))
      let rec_ : Saved := { owner := owner, strands := records, works := works, locks := held }
      let fast := Config.fastBeats ch.fresh
      let due := ch.gts + (if records.all (fun r => r.spilled == 0) then fast % 105001 else fast)
      let ch := { ch with
        saved := ch.saved.set p.ctx rec_
        strands := ch.strands.filter (fun e => e.2.place.owner != owner)
        works := ch.works.filter (fun e => e.2.owner != owner)
        locks := ch.locks.filter (fun l => gone.all (fun e => e.1 != l.work))
        latches := ch.latches.filter (fun l => gone.all (fun e => e.1 != l.work || !e.2.kind.foreign))
        fresh := ch.fresh + 1 }
      let o2 : Owner := { o with state := .save, rephase := none, preempt := some { p with unit := 0, unitDue := due, since := s.chip.gts } }
      .next (s.commit { r with chip := ch.setOwner owner o2 })
  | _, _ => .next s

/-! ### Bulk areas (08 R194, R196) -/

/-- Units of a strand: 128 of its WBUF, 64 of its ABUF, 4 KiB each. -/
def unitsEach : Nat := 192
/-- Intermediate address of a unit of a strand of a context. -/
def unitIpa (savebase : Word) (ctx i n : Nat) : Nat :=
  bitsOf savebase 12 36 * 2 ^ 12 + ctx * 2 ^ 30 + i * 2 ^ 20 + (if n < 128 then n * 4096 else 2 ^ 19 + (n - 128) * 4096)
/-- Intermediate address of 4 KiB unit j of the spilled fast context of strand i (R194). -/
def spillIpa (savebase : Word) (ctx i j : Nat) : Nat := bitsOf savebase 12 36 * 2 ^ 12 + ctx * 2 ^ 30 + 384 * 2 ^ 20 + i * 2 ^ 18 + j * 4096
/-- The units of the spilled parts of a context's records: strand and unit. -/
def Saved.spillUnits (v : Saved) : List (Nat × Nat) := v.strands.zipIdx.flatMap (fun r => (List.range (cdiv (r.1.spilled + r.1.staged.length) 4096)).map (fun j => (r.2, j)))
/-- Bytes of a unit of a record's spilled part, with the staged lane bytes behind it (11 R250). -/
def SavedStrand.spillBytes (r : SavedStrand) (j : Nat) : List Byte := chunk (r.record.drop (r.record.length - r.spilled) ++ r.staged) j 4096
/-- A record with a unit of its spilled part as it came back from the bulk area. -/
def SavedStrand.spillBack (r : SavedStrand) (j : Nat) (l : List Byte) : SavedStrand :=
  let at_ := r.record.length - r.spilled + j * 4096
  let all := r.record ++ r.staged
  let all := all.take at_ ++ l ++ all.drop (at_ + l.length)
  { r with record := all.take r.record.length, staged := all.drop r.record.length }
/-- The unit that a save or load is at, beyond those of the buffers. -/
def spillAt (ch : Chip) (p : Preempt) (ncore : Nat) : Option (SavedStrand × Nat × Nat) :=
  (ch.saved.get? p.ctx).bind (fun v => (v.spillUnits[p.unit - unitsEach * ncore]?).bind (fun u => (v.strands[u.1]?).map (fun r => (r, u))))
/-- Units of a save or load. -/
def bulkUnits (ch : Chip) (p : Preempt) (ncore : Nat) : Nat := unitsEach * ncore + ((ch.saved.get? p.ctx).map (fun v => v.spillUnits.length)).getD 0
/-- Address of a unit in a core's buffers. -/
def unitAddr (core n : Nat) : Nat := if n < 128 then wbufAddr core + n * 4096 else abufAddr core + (n - 128) * 4096
/-- A change to the strand of an owner with an index, live or in its record. -/
def Chip.onIssuer (ch : Chip) (who : Nat × Nat) (f : Strand → Strand) : Chip :=
  let mine (st : Strand) : Bool := st.place.owner == who.1 && st.place.index == who.2
  { ch with strands := ch.strands.map (fun (e : Nat × Strand) => if mine e.2 then (e.1, f e.2) else e)
            saved := ch.saved.map (fun (e : Nat × Saved) =>
              (e.1, { e.2 with strands := e.2.strands.map (fun r => if mine r.strand then { r with strand := f r.strand } else r) })) }
/-- A change to CTXSTAT of a context number, where it stands or on its way (R198). -/
def Strand.onCtxstat (st : Strand) (ctx : Nat) (f : Word → Word) : Strand :=
  let mine (v : Word) : Bool := bitsOf v 8 8 == ctx
  let coming := st.due.any (fun d => d.lands.any (fun l => match l with | .csr 0x1801 _ => true | _ => false))
  if coming then
    { st with due := st.due.map (fun d => { d with lands := d.lands.map (fun l =>
        match l with | .csr 0x1801 v => if mine v then .csr 0x1801 (f v) else l | _ => l) }) }
  else if mine st.csr.ctxstat then { st with csr := { st.csr with ctxstat := f st.csr.ctxstat } } else st
/-- CTXSTAT's done bit for the strand that asked, while the operation is its latest. -/
def ctxDone (ch : Chip) (issuer : Option (Nat × Nat)) (ctx : Nat) : Chip :=
  match issuer with
  | none => ch
  | some who => ch.onIssuer who (fun st => st.onCtxstat ctx (fun v => v ||| 0x10))
/-- CTXSTAT after a stage-2 fault: status 6 (R199). -/
def ctxHeld (ch : Chip) (issuer : Option (Nat × Nat)) (ctx : Nat) : Chip :=
  match issuer with
  | none => ch
  | some who => ch.onIssuer who (fun st => st.onCtxstat ctx (fun _ => BitVec.ofNat 64 (6 + ctx * 2 ^ 8)))
/-- TCAUSE, FADDR and TVAL of a strand, live or in its record, for a cause of the context engine (R177). A handler that runs
keeps its first cause (R185; DEDUCED, log 95). -/
def causeOn (ch : Chip) (key : Nat) (c : Cause) (fa : Word) : Chip :=
  let put (st : Strand) : Strand :=
    if st.run.h then st else { st with csr := { st.csr with tcause := BitVec.ofNat 64 (causeCode c), faddr := fa, tval := 0 } }
  match ch.strands.get? key with
  | some st => { ch with strands := ch.strands.set key (put st) }
  | none => { ch with saved := ch.saved.map (fun e =>
      (e.1, { e.2 with strands := e.2.strands.map (fun r => if r.key = key then { r with strand := put r.strand } else r) })) }
/-- A record of the context engine of a core's die about an owner (R178, R186). -/
def engineRecord (ch : Chip) (on core slot : Nat) (c : Cause) (fa : Word) : Chip :=
  (causeOn ch (skey core slot) c fa).addRecord (ch.owner on).part
    { hyper := causeTo c == .hyper, gts := ch.gts, core := core, slot := slot,
      words := [BitVec.ofNat 64 ch.gts,
        BitVec.ofNat 64 (409 + dieOf core + on * 2 ^ 16 + slot * 2 ^ 20 + core * 2 ^ 32 + causeCode c * 2 ^ 56),
        BitVec.ofNat 64 (causeCode c), fa] }
/-- A 4 KiB unit written to the bulk area under a leaf of stage 2. -/
def bulkWrite (m : Memory) (r : Res) (l : Leaf) (ipa : Nat) (bytes : List Byte) : Res :=
  let a := l.addr + ipa % 2 ^ 16
  if l.repl then (List.range 4).foldl (fun r d => writeHome m r l.key (replicaAddr a d) bytes) r else writeHome m r l.key a bytes
/-- Whether an atomic holds a sector of a unit's home (07 R150). -/
def unitHeld (ch : Chip) (l : Leaf) (ipa : Nat) : Bool :=
  let a := l.addr + ipa % 2 ^ 16
  if l.repl then (List.range 4).any (fun d => ch.heldAt (replicaAddr a d) 4096) else ch.heldAt a 4096
/-- A unit read back from there by a core's die. -/
def bulkRead (m : Memory) (ch : Chip) (l : Leaf) (core ipa n : Nat) : List Byte :=
  let a := if l.repl then replicaAddr (l.addr + ipa % 2 ^ 16) (dieOf core) else l.addr + ipa % 2 ^ 16
  decrypt ch l.key a (m.readBytes a n)
/-- CONTEXT_SAVE_UNIT: a 4 KiB unit of the buffers, or of what a record has spilled, goes to the bulk area; after the last the
owner is SAVED and its account is let go (R204). -/
def execContextSaveUnit (owner : Nat) (s : State) : Outcome :=
  let ch := s.chip
  let o := ch.owner owner
  match o.state, o.preempt with
  | .save, some p =>
    if ch.gts < p.unitDue then .next s
    else
      let i := p.unit / unitsEach
      let n := p.unit % unitsEach
      let part := ch.part o.part
      let unit (core ipa : Nat) (bytes : List Byte) : Outcome :=
        match stage2 s.mem part.s2root ipa true with
        | some l =>
          if unitHeld ch l ipa then .next s
          else .next (s.commit (bulkWrite s.mem { chip := nextUnit ch owner o p (p.unit + 1), writes := [] } l ipa bytes))
        | none => held ch o p core ipa
      match o.hdr.cores[i]?, spillAt ch p o.hdr.ncore with
      | some core, _ => unit core (unitIpa part.savebase p.ctx i n) (s.mem.readBytes (unitAddr core n) 4096)
      | none, some (r, i, j) => unit (r.key / 4) (spillIpa part.savebase p.ctx i j) (r.spillBytes j)
      | none, none =>
        let ch := ctxDone (ch.setOwner owner { o with state := .saved, preempt := some p }) p.issuer p.ctx
        .next (s.commit (releaseAccount { chip := ch, writes := [] } owner))
  | _, _ => .next s
where
  /-- HOST_SAVE_XLAT: the save stops at this unit. -/
  held (ch : Chip) (o : Owner) (p : Preempt) (core ipa : Nat) : Outcome :=
    let slot := match (ch.saved.get? p.ctx).bind (fun v => v.strands.find? (fun r => r.key / 4 == core)) with | some r => r.key % 4 | none => 0
    .next (s.keep (engineRecord (ctxHeld (ch.setOwner owner { o with state := .saveHeld }) p.issuer p.ctx) owner core slot .hostSaveXlat (BitVec.ofNat 64 ipa)))

/-! ### Restore (08 R195; 21 R366) -/

/-- Puts a saved strand back on its core, in the room found for it: window, footprint and tiles as saved, tiles not
saved at zero with their checks, the tags of all as they were (15 R329). -/
def restoreStrand (r : Res) (v : SavedStrand) (room : Nat × Nat × Nat) : Res :=
  let core := v.key / 4
  let pl := { v.strand.place with wbase := room.2.1, fbase := room.2.2 }
  let st := { v.strand with place := pl, bLatch := none, csr := { v.strand.csr with ttInject := 0 },
                              lane := { v.strand.lane with lanebud := lanebudReset } }
  let k := r.chip.core core
  let zeroed := (tilesOf (pl.ctmask &&& ~~~ v.mask))
  let blank (c : Nat) : Tile := { tag := v.tags.getD c 0, row := List.replicate 32 0, col := List.replicate 32 0 }
  let tiles := v.tiles.foldl (fun (t : Tab Tile) e => t.set e.1 e.2.1) (zeroed.foldl (fun t c => t.set c (blank c)) k.tiles)
  { chip := (r.chip.setCore core { k with tiles := tiles }).setStrand core room.1 st
    writes := r.writes ++ [(rsAddr core + pl.wbase, v.window), (istoreAddr core + pl.fbase * 12, v.foot)] ++
      v.tiles.map (fun e => (tileAddr core e.1, e.2.2)) ++ zeroed.map (fun c => (tileAddr core c, zeros 4096)) }
/-- Until when a fast context that is loaded now is in place: 105,000 beats at most, counted from the end of a COLLECT whose
save it goes with (R192: 100 µs; 01 R8). -/
def fastDue (ch : Chip) (v : Saved) : Nat :=
  let fits (v : Saved) : Bool := v.strands.all (fun r => r.spilled == 0)
  let saves := (ch.owners.filter (fun e => e.2.state == .save || e.2.state == .saveHeld)).filterMap (fun e => e.2.preempt)
  let ends := (saves.filter (fun p => ((ch.saved.get? p.ctx).map fits).getD false && decide (ch.gts ≤ p.since + 105000))).map (fun p => p.since + 105000)
  let due := ch.gts + Config.fastBeats ch.fresh
  if fits v then min due (ends.foldl min (ch.gts + 105000)) else due
/-- LOAD accepted: the strands are in their rooms, the work is theirs again. -/
def startLoad (ch : Chip) (on ctx : Nat) (v : Saved) (rooms : List (Nat × Nat × Nat)) (placed : List Nat) (issuer : Option (Nat × Nat)) : Res :=
  let o := ch.owner on
  let p : Preempt :=
    { ctx := ctx, g := 0, windowEnd := 0, gf := (o.preempt.map (·.gf)).getD 0, unit := 0, unitDue := fastDue ch v, since := 0, issuer := issuer }
  let ch := { ch with fresh := ch.fresh + 1 }.setOwner on { o with state := .load, placed := placed, resvBeat := some ch.gts, preempt := some p }
  let r := v.strands.zipIdx.foldl (fun r e => restoreStrand r e.1 (roomAt rooms e.2)) { chip := ch, writes := [] }
  let slotOn (core old : Nat) : Nat :=
    match v.strands.findIdx? (fun e => e.key / 4 == core) with | some i => (roomAt rooms i).1 | none => old
  let works := v.works.map (fun e => (e.1, { e.2 with slot := slotOn e.2.core e.2.slot }))
  { r with chip := { r.chip with works := works.foldl (fun (t : Tab Work) e => t.set e.1 e.2) r.chip.works
                                 walks := r.chip.walks.map (fun w => if w.owner = on then { w with slot := slotOn w.core w.slot } else w)
                                 locks := r.chip.locks ++ v.locks } }
/-- Whether a unit of a core's buffers is an owner's to restore: all of them where it is alone on the core. -/
def unitMine (ch : Chip) (on core n : Nat) : Bool :=
  (ch.onCore core).all (fun e => e.2.place.owner == on) || Config.bufferUnit on core n
/-- An owner that is being saved still holds its buffers on a core. -/
def stillSaving (ch : Chip) (on core : Nat) : Bool :=
  ch.owners.any (fun e => e.1 != on && (e.2.state == .save || e.2.state == .saveHeld) && e.2.hdr.cores.contains core)
/-- A record whose CRC fails (R193, R195). -/
def badRecord (ch : Chip) (ctx : Nat) : Option SavedStrand := (ch.saved.get? ctx).bind (fun v => v.strands.find? (fun r => !crcHolds r.record))
/-- The staged bytes of queued lane stores as they came back (11 R250). -/
def restoreStaged (ch : Chip) (ctx : Nat) : Chip :=
  match ch.saved.get? ctx with
  | none => ch
  | some v => v.strands.foldl (fun ch r =>
      (r.strand.lane.queue.foldl (fun (acc : Chip × List Byte) e =>
        match acc.1.work? e.work with
        | some k =>
          (match k.kind with
           | .laneStore num bs ilv key ents onChip =>
             (acc.1.setWork e.work { k with kind := .laneStore num (List.zipWith (fun (b : Option Nat × Byte) v => (b.1, v)) bs acc.2) ilv key ents onChip },
               acc.2.drop bs.length)
           | _ => acc)
        | none => acc) (ch, r.staged)).1) ch
/-- CONTEXT_LOAD_UNIT: a unit comes back, waiting for the save of another owner that shares the core. After the last
the owner is READY, unless a record fails its check: it then stays in LOAD. -/
def execContextLoadUnit (owner : Nat) (s : State) : Outcome :=
  let ch := s.chip
  let o := ch.owner owner
  match o.state, o.preempt with
  | .load, some p =>
    let i := p.unit / unitsEach
    let n := p.unit % unitsEach
    let part := ch.part o.part
    if ch.gts < p.unitDue ∨ bulkUnits ch p o.hdr.ncore < p.unit then .next s
    else
      let unit (core ipa n : Nat) (f : Res → List Byte → Res) : Outcome :=
        match stage2 s.mem part.s2root ipa false with
        | some l =>
          if unitHeld ch l ipa then .next s
          else .next (s.commit (f { chip := nextUnit ch owner o p (p.unit + 1), writes := [] } (bulkRead s.mem ch l core ipa n)))
        | none => held ch o p core ipa
      match o.hdr.cores[i]?, spillAt ch p o.hdr.ncore with
      | some core, _ =>
        if stillSaving ch owner core then .next s
        else
          unit core (unitIpa part.savebase p.ctx i n) 4096
            (fun r bytes => if unitMine ch owner core n then writeHome s.mem r 0 (unitAddr core n) bytes else r)
      | none, some (v, i, j) =>
        unit (v.key / 4) (spillIpa part.savebase p.ctx i j) (v.spillBytes j).length
          (fun r bytes => { r with chip := { r.chip with saved := r.chip.saved.map (fun e =>
            if e.1 = p.ctx then (e.1, { e.2 with strands := e.2.strands.map (fun x => if x.key = v.key then x.spillBack j bytes else x) }) else e) } })
      | none, none =>
        match badRecord ch p.ctx with
        | some v =>
          let core := v.key / 4
          let slot := match (ch.strandsOf owner).find? (fun e => e.1 / 4 == core) with | some e => e.1 % 4 | none => 0
          .next (s.keep (engineRecord (ch.setOwner owner { o with preempt := some { p with unit := p.unit + 1 } }) owner core slot
            .shadowUncorrected (noAddr .shadowUncorrected)))
        | none => .next (s.keep (ctxDone (restoreStaged (ch.setOwner owner { o with state := .ready }) p.ctx) p.issuer p.ctx))
  | _, _ => .next s
where
  /-- HOST_RESTORE_XLAT: the load stops at this unit. -/
  held (ch : Chip) (o : Owner) (p : Preempt) (core ipa : Nat) : Outcome :=
    let slot := match (ch.strandsOf owner).find? (fun e => e.1 / 4 == core) with | some e => e.1 % 4 | none => 0
    .next (s.keep (engineRecord (ctxHeld (ch.setOwner owner { o with state := .loadHeld }) p.issuer p.ctx) owner core slot .hostRestoreXlat (BitVec.ofNat 64 ipa)))

/-- Work as it is kept for planning anew (09 R224; 19 R348): of a copy what has landed, with what it needs to write the rest of
the units it shares; of a collective the chunks landed. -/
def Work.restarted (k : Work) : Work :=
  match k.kind with
  | .copy op _ _ _ _ _ _ _ _ _ =>
    let made (l : Nat × Nat) : Bool := decide (l.1 < 1000) || (op == 1 && k.landed.contains (0, l.2))
    let kept (n : Nat) : Bool := op == 1 && (outParts (match k.kind with | .copy _ h _ _ o0 e0 rows _ _ _ => copyUnits h o0 e0 rows | _ => [])).any
      (fun p => p.unit == n && k.landed.contains (0, p.sector))
    { k with steps := [], landed := k.landed.filter made, staged := k.staged.filter (fun e => kept e.1) }
  | .clred op td ts g a b n _ => { k with steps := [], staged := [], absent := [], kind := .clred op td ts g a b n [] }
  | .clbc _ _ _ _ => { k with steps := [], staged := [], absent := [] }
  | _ => k
/-- Work planned anew from the thaw (09 R224; 19 R348): a copy from its first sector not landed, a collective from its
first chunk not complete. Other work goes on with the steps it has left, in the slots owned now. -/
def replanWork (ch : Chip) (w : Nat) (k : Work) : Chip :=
  match ch.strand? k.core k.slot with
  | none => ch
  | some st =>
    let o := ch.owner k.owner
    let t := startBeat ch o k.core st (k.after.filter (fun a => !ch.workOver a)) []
    let p0 := Planner.start ch o
    let put (p : Planner) : Chip := (p.finish k.owner o).setWork w { k with steps := p.steps }
    match k.kind with
    | .copy op h _ _ o0 e0 rows pad dests src =>
      let landed (j : Nat) : Bool := (List.range dests.length).all (fun i => k.landed.contains (i, j))
      let us := copyUnits h o0 e0 rows
      put (if op = 1 then planOut p0 o k.core t h us (restFlits us landed)
        else if op = 4 then planLocal p0 o k.core ((src - 2 ^ 48) / 2 ^ 21) t (landedOf k) (copySectors h e0 rows)
        else planIn p0 o k.core t h o0 e0 rows pad dests landed)
    | .clred _ _ _ _ _ _ _ _ =>
      (match ch.groupOfWork k with
       | some (_, e) => put (planReduce ch o k.core e k.collSize k.wholeChunks p0 t)
       | none => ch)
    | .clbc _ _ _ _ =>
      (match ch.groupOfWork k with
       | some (_, e) => put (planBroadcast ch o k.core e k.collSize k.wholeChunks p0 t)
       | none => ch)
    | _ => ch
/-- All work of an owner at its thaw: what is planned anew gives up its slots first, what goes on keeps those it has left. -/
def replanAll (ch : Chip) (on : Nat) : Chip :=
  let mine (k : Work) : Bool := k.owner == on && k.doneBeat.isNone
  let again (l : Latch) : Bool := match ch.work? l.work with | some k => mine k && (k.isCopy || k.collGroup.isSome) | none => false
  let works : List (Nat × Work) := ch.works.map (fun e => if mine e.2 then (e.1, e.2.restarted) else e)
  let left : List (Nat × Work) := works.filter (fun e => mine e.2)
  let ch := { ch with works := works, latches := ch.latches.filter (fun l => !again l) }
  let ch := ch.setOwner on { ch.owner on with resv := left.flatMap (fun e => e.2.steps.filterMap slotOf) }
  left.foldl (fun ch e => replanWork ch e.1 e.2) ch
/-- A stall that a pre-emption interrupted (R189): it keeps its start, moved on by the length of the freeze, and a
cause that cleared meanwhile counts from the thaw. A PREPT stall clears at the thaw; one that began with the freeze
is none. -/
def Stall.thawed (k : Stall) (from_ now : Nat) : Option Stall :=
  let bs := k.bs + (now - from_)
  match k.kind with
  | .longService => none
  | .prept => if now ≤ bs then none else some { k with bs := bs, cleared := some now }
  | _ => some { k with bs := bs, cleared := k.cleared.map (fun c => max c now) }
/-- Binds an owner's account to its block again (R204). -/
def bindAccount (m : Memory) (ch : Chip) (on : Nat) : Chip :=
  let o := ch.owner on
  if o.rcb = 0 ∨ o.acct.isSome = true then ch
  else
    let a := accountBlock m 8 o.rcb
    let ch := if (ch.accounts.get? a).isSome then ch else { ch with accounts := ch.accounts.set a (m.readLe (homeAddr 0 a) 8) }
    ch.setOwner on { o with acct := some a }
/-- THAW_RESUME (21 R366; 08 R195): every strand resumes in one beat; after a restore every armed monitor is marked (07 R154). -/
def execThawResume (owner : Nat) (s : State) : Outcome :=
  let ch := s.chip
  let o := ch.owner owner
  if o.thawAt ≠ some ch.gts then .next s
  else
    let ended := (ch.strandsOf owner).all (fun e => e.2.run.reported)
    match o.state with
    | .frozen => .next (s.keep (ch.setOwner owner { o with state := if ended then .halted else .running, freezeAt := none, thawAt := none }))
    | .ready =>
      let from_ := o.freezeAt.getD ch.gts
      let o2 := { o with state := if ended then .halted else .running, freezeAt := none, thawAt := none, preempt := none, placed := [], resv := [] }
      let ch := match o.preempt with | some p => { ch with saved := ch.saved.del p.ctx } | none => ch
      let ch := bindAccount s.mem (ch.setOwner owner o2) owner
      let ch := ch.mapStrands owner (fun st =>
        { st with run := { st.run with stall := st.run.stall.bind (·.thawed from_ ch.gts), hstall := st.run.hstall.bind (·.thawed from_ ch.gts) },
                  monitors := st.monitors.map (fun k => { k with restored := true }) })
      .next (s.keep (replanAll ch owner))
    | _ => .next s

/-! ### CTX words (08 R198, R199) -/

/-- A CTX word issues with a status, a context number and the machine it leaves: xd and CTXSTAT land at τ+1. -/
def Ctx.ctx (x : Ctx) (r : Res) (xd : Reg) (st ctx : Nat) (done : Bool) : Effect :=
  let r := { r with chip := x.chip.remember r.chip }
  match r.chip.strand? x.core x.slot with
  | some me =>
    let stat := BitVec.ofNat 64 (st + (if done then 2 ^ 4 else 0) + ctx * 2 ^ 8)
    let me := me.later x.q 1 [.x x.q (me.regNo x.q xd) (BitVec.ofNat 64 st) none false, .csr 0x1801 stat]
    .go { r with chip := r.chip.setStrand x.core x.slot me } .next .none
  | none => .go r .next .none
/-- The operand of a CTX word: owner slot and context number, with reserved bits refused by status 7. -/
def ctxWord (s : State) (h : Head) (ok : Bool) (xd xa : Reg) (mask : Word) (f : Ctx → Nat → Nat → Nat × Bool × Res) : Outcome :=
  issue s h (supInfo 0xE8 ok) noOperands (fun x =>
    let v := x.rx xa
    let ctx := bitsOf v 8 8
    if x.px xa then .fault .poisonConsumed v 0
    else if v &&& ~~~mask ≠ 0#64 then x.ctx { chip := x.chip, writes := [] } xd 7 ctx false
    else
      let (st, done, r) := f x (bitsOf v 0 3) ctx
      x.ctx r xd st ctx done)
/-- CTX.SAVE. -/
def execCtxSave (h : Head) (xd xa : Reg) (prept : Bool) (s : State) : Outcome :=
  ctxWord s h true xd xa 0xFF07 (fun x on ctx =>
    let ch := x.chip
    let o := ch.owner on
    let no (e : Nat) : Nat × Bool × Res := (e, false, { chip := ch, writes := [] })
    let me := some (x.st.place.owner, x.st.place.index)
    match o.state, o.preempt with
    | .empty, _ => no 1
    | .saveHeld, some p =>
      if p.ctx ≠ ctx then no 2
      else (0, false, { chip := nextUnit ch on { o with state := .save } { p with issuer := me } p.unit, writes := [] })
    | _, _ =>
      if !o.canPreempt then no 2
      else if ch.ctxBusy on ctx then no 2
      else if ch.ctxUsed ctx then no 3
      else if bitsOf (ch.part o.part).savebase 12 36 = 0 then no 4
      else (0, false, { chip := requestPreempt ch on ctx (if prept then bitsOf x.st.csr.preptWait 0 21 else 0) me, writes := [] }))
/-- CTX.LOAD. -/
def execCtxLoad (h : Head) (xd xa : Reg) (s : State) : Outcome :=
  ctxWord s h true xd xa 0xFF07 (fun x on ctx =>
    let ch := x.chip
    let o := ch.owner on
    let no (e : Nat) : Nat × Bool × Res := (e, false, { chip := ch, writes := [] })
    let me := some (x.st.place.owner, x.st.place.index)
    match o.state, o.preempt with
    | .loadHeld, some p =>
      if p.ctx ≠ ctx then no 2
      else (0, false, { chip := nextUnit ch on { o with state := .load } { p with issuer := me } p.unit, writes := [] })
    | .saved, _ =>
      if ch.ctxBusy on ctx then no 2 else
      (match ch.saved.get? ctx with
       | none => no 3
       | some v =>
         if v.owner ≠ on then no 3
         else if bitsOf (ch.part o.part).savebase 12 36 = 0 then no 4
         else
           match roomsFor ch o.hdr, searchPhases ch (some on) o.hdr (fun _ => true) with
           | .ok rooms, some (_, l) => (0, false, startLoad ch on ctx v rooms (l.map (·.1)) me)
           | _, _ => no 5)
    | .window, _ | .collect, _ | .save, _ | .saveHeld, _ | .load, _ | .ready, _ => no 2
    | _, _ => no 1)

/-! ### Killing (08 R188, R197) -/

/-- Lane stores of an owner that are numbered and read are performed at once, in number order (log 37). -/
def performLane (m : Memory) (r : Res) (on : Nat) : Res :=
  let parts (k : Work) : List Nat := match k.kind with
    | .laneStore _ bs ilv _ ents onChip => (List.range (laneParts ilv ents onChip bs).length).filter (fun n => !k.landed.contains (0, n))
    | _ => []
  let lanes := r.chip.works.filter (fun e => e.2.owner == on && e.2.isLane && e.2.doneBeat.isNone)
  (lanes.flatMap (fun e => (parts e.2).map (fun n => (e.1, n)))).foldl (fun r e =>
    match r.chip.work? e.1 with
    | some k =>
      let r2 := laneAccept (writeAll m r.writes) r.chip e.1 k e.2
      { r2 with writes := r.writes ++ r2.writes }
    | none => r) r
/-- Requests that work has made of a port and that are not answered. -/
def Work.asked (k : Work) : Nat := (dueSteps (2 ^ 64) 0 [] k.steps).countP (fun e => match e.2.act with | .portAnswer _ => true | _ => false)
/-- Requests of an owner that an error must answer when it is killed (R197; 21 R370): those made of a port, and those that
flits in its latches carry. -/
def openRequests (ch : Chip) (on : Nat) : Nat :=
  ((ch.works.filter (fun e => e.2.owner == on && e.2.doneBeat.isNone)).map (fun e => e.2.asked)).sum + ch.latches.countP (fun l => l.owner == on && l.request)
/-- Works and locks of an owner whose save is under way, taken out of its record again, to be cancelled (R197). -/
def savedWorksBack (ch : Chip) (on : Nat) : Chip :=
  match (ch.owner on).state, (ch.owner on).preempt.bind (fun p => ch.saved.get? p.ctx) with
  | .save, some v | .saveHeld, some v =>
    { ch with works := v.works.foldl (fun (t : Tab Work) e => t.set e.1 e.2) ch.works, locks := ch.locks ++ v.locks }
  | _, _ => ch
/-- CTX.KILL of an owner in any state: its work is cancelled without unwind, its slots, record and context number are
freed, and requests that are open are answered with errors. -/
def killOwner (m : Memory) (r : Res) (on : Nat) : Res :=
  if (r.chip.owner on).state = .empty then r
  else
    let ch := savedWorksBack (abandonRephase r.chip on) on
    let errors : List Output := List.replicate (openRequests ch on) .errorCompletion
    let r := { r with chip := { ch with host := { ch.host with out := ch.host.out ++ errors } } }
    let r := performLane m r on
    let works := r.chip.works.filter (fun e => e.2.owner == on && e.2.doneBeat.isNone && e.2.kind.cancels)
    let r := cancelAll m r works
    let r := releaseAccount r on
    { r with chip := { freeSlot r.chip on with saved := r.chip.saved.filter (fun e => e.2.owner != on) } }
/-- CTX.KILL. -/
def execCtxKill (h : Head) (xd xa : Reg) (s : State) : Outcome :=
  ctxWord s h true xd xa 7 (fun x on _ =>
    if on = x.st.place.owner then (7, false, { chip := x.chip, writes := [] })
    else if (x.chip.owner on).state = .empty then (1, false, { chip := x.chip, writes := [] })
    else (0, true, killOwner x.mem { chip := x.chip, writes := [] } on))

/-! ### KEY.ROLL (08 R200) -/

/-- Whether a key slot serves a partition with an owner that is not SAVED. -/
def keyBound (ch : Chip) (slot : Nat) : Bool :=
  ch.owners.any (fun e => e.2.state != .empty && e.2.state != .saved && e.2.part == Config.keySlotPart slot)
/-- KEY.ROLL xd, slot: CT blocks for 64 beats, then xd receives the status. -/
def execKeyRoll (h : Head) (xd : Reg) (slot : BitVec 8) (s : State) : Outcome :=
  issue s h (supInfo 0xE9) noOperands (fun x =>
    match x.sq.wait with
    | .keyRoll k e => if e = 0 then x.writeX 1 xd 0 else .block none (.keyRoll k e) x.chip
    | _ =>
      if !Config.keySlotPresent slot.toNat then x.writeX 1 xd 8
      else if keyBound x.chip slot.toNat then x.writeX 1 xd 9
      else .block none (.keyRoll slot.toNat (x.now + Config.keyRollBeats)) x.chip)
/-- A new key of a slot: lines written under the old one no longer read back. -/
def Chip.newKey (ch : Chip) (slot : Nat) : Chip := { ch with keyGen := ch.keyGen.set slot (ch.genOf slot + 1) }
/-- KEY_ROLL_BLOCK_END: the block has lasted 64 beats. -/
def execKeyRollBlockEnd (core slot : Nat) (s : State) : Outcome :=
  match s.chip.strand? core slot with
  | none => .next s
  | some st =>
    let ended (w : HeadWait) : Option Nat := match w with | .keyRoll k e => if e ≠ 0 ∧ e ≤ s.chip.gts then some k else none | _ => none
    match ended st.ct.wait, st.run.saved.bind (fun v => ended v.wait) with
    | some k, _ => .next (s.keep ((s.chip.setStrand core slot { st with ct := { st.ct with wait := .keyRoll k 0 } }).newKey k))
    | none, some k =>
      .next (s.keep ((s.chip.setStrand core slot
        { st with run := { st.run with saved := st.run.saved.map (fun v => { v with wait := .keyRoll k 0 }) } }).newKey k))
    | none, none => .next s

/-! ### Records and their answers (08 R186) -/

/-- Whether a record comes before another: by GTS, then by source (02 R28). -/
def KRecord.before (a b : KRecord) : Bool :=
  decide (a.gts < b.gts) || (a.gts == b.gts && decide (bitsOf (a.words.getD 1 0) 0 16 < bitsOf (b.words.getD 1 0) 0 16))
/-- The next record of a queue. -/
def nextRecord (l : List KRecord) : Option KRecord :=
  l.foldl (fun (a : Option KRecord) r => match a with | some b => if r.before b then some r else a | none => some r) none
/-- KRECORD_APPEND: the first record of a partition's K or H queue is appended when the ring has room. -/
def execKrecordAppend (part : Nat) (hyper : Bool) (s : State) : Outcome :=
  let p := s.chip.part part
  match nextRecord (p.records.filter (fun r => r.hyper == hyper)) with
  | none => .next s
  | some r =>
    let base := if hyper then p.hqbase else p.kqbase
    let head := if hyper then p.hqhead else p.kqhead
    let tail := if hyper then p.hqtail else p.kqtail
    let n := bitsOf base 48 16
    if n ≤ 1 ∨ (head.toNat + 1) % n = tail.toNat then .next s
    else
      let a := bitsOf base 5 43 * 32 + head.toNat * 32
      let next : BitVec 16 := BitVec.ofNat 16 ((head.toNat + 1) % n)
      let p := { p with records := p.records.erase r }
      let p := if hyper then { p with hqhead := next } else { p with kqhead := next }
      if s.chip.heldAt a 32 then .next s
      else .next (s.commit (writeOwn s.mem { chip := s.chip.setPart part p, writes := [] } a (r.words.flatMap wordBytes)))
/-- The cause of the record that a strand waits on, when an answer can act: the record is in its queue and the
owner is running. -/
def awaited (ch : Chip) (core slot : Nat) : Option (Strand × Cause) :=
  match ch.strand? core slot with
  | none => none
  | some st =>
    let o := ch.owner st.place.owner
    let held := (ch.part o.part).records.any (fun r => r.core == core && bitsOf (r.words.getD 1 0) 16 3 == st.place.owner)
    match st.run.stall with
    | some k =>
      (match k.kind with
       | .record c => if (o.state == .running || o.state == .window) && k.cleared.isNone && !held then some (st, c) else none
       | _ => none)
    | none => none
/-- An answered record no longer stalls, by the rounding of ERET, from the next beat on (R184, R186); an answer to
BUDGET_EXHAUSTED lets the owner go on (R203). -/
def answered (ch : Chip) (core slot : Nat) (st : Strand) (c : Cause) : Chip :=
  let ends (s : Option Stall) : Option Stall :=
    s.map (fun k => match k.kind with | .record _ => if k.cleared.isNone then { k with cleared := some (ch.gts + 1) } else k | _ => k)
  let ch := ch.onStrand core slot (fun st => { st with run := { st.run with stall := ends st.run.stall, hstall := ends st.run.hstall } })
  let broke := c = .budgetExhausted ∨ (c = .doubleTrap ∧ bitsOf st.csr.tval 0 7 = causeCode .budgetExhausted)
  if broke then
    let on := st.place.owner
    (ch.setOwner on { ch.owner on with broke := false }).mapStrands on (fun st =>
      let go (s : Option Stall) : Option Stall := s.map (fun k => if k.kind = .budget ∧ k.cleared.isNone = true then { k with cleared := some ch.gts } else k)
      { st with run := { st.run with stall := go st.run.stall, hstall := go st.run.hstall } })
  else ch
/-- A strand's walks that ended in a fault, when Resume acts: whether the page, if it is mapped by now, is in the TLB for
the retried slot is free (22 R372 sets it as a condition; DESIGN CHOICE, log 86). -/
def rewalk (m : Memory) (ch : Chip) (core slot : Nat) : Chip :=
  let failed := ch.walks.filter (fun w => w.core == core && w.slot == slot && w.result.isSome && some w.owner == (ch.strand? core slot).map (·.place.owner))
  (if Config.resumeFinds ch.fresh then failed else []).foldl (fun ch w =>
    let o := ch.owner w.owner
    match translateWalk m (bitsOf (BitVec.ofNat 64 o.s1root) 12 36 * 2 ^ 12) (ch.part o.part).s2root w.owner w.page w.write with
    | .ok e => insertTlb ch core e
    | .error _ => ch) ch.freshen
/-- KANS resume: the stalled slot is retried. -/
def execKansResume (core slot : Nat) (s : State) : Outcome :=
  match awaited s.chip core slot with
  | some (st, c) => .next (s.keep (dropWalks (rewalk s.mem (answered s.chip core slot st c) core slot) core slot))
  | none => .next s
/-- KANS deliver: the cause goes to the strand's handler; without one the answer is ignored. A handler that raised a
second cause starts again at TVEC (log 39). -/
def execKansDeliver (core slot : Nat) (s : State) : Outcome :=
  match awaited s.chip core slot with
  | some (st, c) =>
    if st.csr.tvec = 0#14 then .next s
    else
      let ch := dropWalks (answered s.chip core slot st c) core slot
      let bs := (st.run.stall.map (·.bs)).getD ch.gts
      if st.run.h then
        .next (s.keep (ch.setStrand core slot { st with
          ct := { st.ct with pc := st.csr.tvec, pending := none, delay := false, loops := [], wait := .none, blockFrom := none, atHdr := false },
          run := { st.run with hstall := none, stall := some { kind := .trap, bs := bs, cleared := none } } }))
      else .next (s.keep (enterHandler s.mem ch core slot st none))
  | none => .next s
/-- KANS switch out: the owner is pre-empted from the next beat with no window. -/
def execKansSwitchOut (core slot : Nat) (s : State) : Outcome :=
  match awaited s.chip core slot with
  | some (st, c) =>
    if (s.chip.owner st.place.owner).state = .window then .next s
    else
      let (ch, made) := requestAny s.chip st.place.owner 0
      if made then .next (s.keep (dropWalks (answered ch core slot st c) core slot)) else .next s
  | none => .next s
/-- The block whose DOMAIN an owner is bound under (R204). -/
def domainBlock (m : Memory) : Nat → Nat → Nat
  | 0, a => a
  | n + 1, a =>
    let parent := m.readLe (homeAddr 0 (a + 16)) 8 % 2 ^ 48
    if m.readLe (homeAddr 0 (a + 8)) 8 / 2 ^ 18 % 2 = 1 ∧ parent ≠ 0 then domainBlock m n parent else a
/-- Fault domain of an owner. -/
def domainOf (m : Memory) (o : Owner) : Option Nat :=
  if o.rcb = 0 then none else some (m.readLe (homeAddr 0 (domainBlock m 8 o.rcb + 8)) 8 / 2 ^ 8 % 2 ^ 8)
/-- KANS kill: every owner of the partition bound under the same DOMAIN is killed. -/
def execKansKill (core slot : Nat) (s : State) : Outcome :=
  match awaited s.chip core slot with
  | some (st, _) =>
    let on := st.place.owner
    let o := s.chip.owner on
    let d := domainOf s.mem o
    let all := (s.chip.owners.filter (fun e => e.1 == on ||
      (e.2.state != .empty && e.2.part == o.part && d.isSome && domainOf s.mem e.2 == d))).map (·.1)
    .next (s.commit (all.foldl (fun r n => killOwner (writeAll s.mem r.writes) r n) { chip := s.chip, writes := [] }))
  | none => .next s

end Sys2Proof.Machine
end

