-- ==== Sys2Proof/Machine/Host.lean ====
section
/-! DEFINITION. The host port, launches, the control register block, partitions, Isavik alignment, boot and the
module (24 R394 to R409; 23 R388, R392; 08 R204). Names of the outside world's happenings. -/

namespace Sys2Proof.Machine

/-! ### Region control blocks (08 R204) -/

/-- A word of a block. -/
def rcbWord (m : Memory) (a i : Nat) : Word := BitVec.ofNat 64 (m.readLe (homeAddr 0 (a + 8 * i)) 8)
/-- Whether a block has a reserved bit set. -/
def rcbReserved (m : Memory) (a : Nat) : Bool :=
  bitsOf (rcbWord m a 1) 3 5 != 0 || bitsOf (rcbWord m a 1) 20 44 != 0 || bitsOf (rcbWord m a 2) 48 16 != 0 ||
    bitsOf (rcbWord m a 3) 0 12 != 0 || bitsOf (rcbWord m a 3) 48 16 != 0 || (List.range 4).any (fun i => rcbWord m a (4 + i) != 0#64)
/-- Parent of a block; 0 for a root. -/
def rcbParent (m : Memory) (a : Nat) : Nat := bitsOf (rcbWord m a 2) 0 48
/-- Whether a chain may be bound: at most 8 blocks, no reserved bit, a root that inherits nothing. -/
def rcbChain (m : Memory) : Nat → Nat → Bool
  | 0, _ => false
  | n + 1, a =>
    !rcbReserved m a && (if rcbParent m a = 0 then bitsOf (rcbWord m a 1) 16 4 == 0 else rcbChain m n (rcbParent m a))
/-- The nearest block of a chain whose INHERIT bit is clear. -/
def rcbField (m : Memory) (bit : Nat) : Nat → Nat → Nat
  | 0, a => a
  | n + 1, a => if (rcbWord m a 1).getLsbD bit ∧ rcbParent m a ≠ 0 then rcbField m bit n (rcbParent m a) else a
/-- S1ROOT of a block. -/
def rcbRoot (m : Memory) (a : Nat) : Word := rcbWord m (rcbField m 19 8 a) 3 &&& 0xFFFFFFFFF000
/-- PRIO of a block. -/
def rcbPrio (m : Memory) (a : Nat) : Nat := bitsOf (rcbWord m (rcbField m 17 8 a) 1) 0 3
/-- ACCOUNT of a block: the value held on die, otherwise that in the block. -/
def rcbAccount (m : Memory) (ch : Chip) (a : Nat) : Nat :=
  let b := accountBlock m 8 a
  (ch.accounts.get? b).getD (m.readLe (homeAddr 0 b) 8)
/-- Binds an owner to a block whose chain passes: S1ROOT to its register, the account held. -/
def bindOwner (m : Memory) (r : Res) (on a : Nat) : Res :=
  let r := releaseAccount r on
  let ch := r.chip.setOwner on { r.chip.owner on with rcb := a, s1root := (rcbRoot m a).toNat }
  { r with chip := bindAccount (writeAll m r.writes) ch on }
/-- RCB_BIND: a write of RCBADDR binds a block to the owner that RCBSEL selects. A chain that fails, or a slot that
holds no owner of the partition, is refused. -/
def execRcbBind (part : Nat) (value : BitVec 64) (s : State) : Outcome :=
  let on := bitsOf (s.chip.part part).rcbsel 0 3
  let o := s.chip.owner on
  let a := bitsOf value 6 42 * 64
  if o.state = .empty ∨ o.part ≠ part ∨ rcbChain s.mem 8 a = false then .next s
  else .next (s.commit (bindOwner s.mem { chip := s.chip, writes := [] } on a))

/-! ### Partitions (24 R402, R407) -/

/-- Whether a partition holds an owner. -/
def Chip.holdsOwner (ch : Chip) (part : Nat) : Bool := ch.owners.any (fun e => e.2.state != .empty && e.2.part == part)
/-- Cores of one PCORE register that other partitions hold. -/
def heldCores (ch : Chip) (part m : Nat) : BitVec 64 :=
  ch.parts.foldl (fun v e => if e.1 = part then v else v ||| e.2.pcore.getD m 0) 0#64
/-- PCORE_WRITE: while the partition holds no owner, once the resident kernel runs (R406); cores of other partitions are left
clear. The first partition made closes BAR2 (R396; log 32). -/
def execPcoreWrite (part m : Nat) (value : BitVec 64) (s : State) : Outcome :=
  let ch := s.chip
  if !ch.host.booted || ch.holdsOwner part || decide (6 ≤ m) then .next s
  else
    let p := ch.part part
    let v := value &&& ~~~ (heldCores ch part m)
    let ch := ch.setPart part { p with pcore := p.pcore.set m v }
    .next (s.keep { ch with host := { ch.host with bar2Open := ch.host.bar2Open && v == 0#64 } })
/-- A request outstanding when a boundary closes gets an error (R407; DESIGN CHOICE, log 43): work with a request at a port ends in
error with MEM_UNCORRECTED, a collective has its members on other devices absent, and another device's work here ends. -/
def fenceWork (ch : Chip) (w : Nat) (k : Work) : Chip :=
  match k.kind with
  | .peer q => (ch.answerPeer q none).dropWork w
  | .transit _ _ => ch.dropWork w
  | _ =>
    if k.collGroup.isSome then ch.setWork w (k.cutFrom ch (fun _ => true))
    else if 0 < k.asked then finishWork (consume ch k .memUncorrected) w k (.error .memUncorrected)
    else ch
/-- The same for all that an owner has outstanding. -/
def fenceOwner (ch : Chip) (on : Nat) : Chip :=
  let errors : List Output := List.replicate (openRequests ch on) .errorCompletion
  let ch := { ch with host := { ch.host with out := ch.host.out ++ errors },
                      latches := ch.latches.map (fun (l : Latch) => if l.owner = on then { l with request := false } else l) }
  (ch.works.filter (fun (e : Nat × Work) => e.2.owner == on && e.2.doneBeat.isNone)).foldl (fun ch (e : Nat × Work) => fenceWork ch e.1 e.2) ch
/-- Owner slots of a partition. -/
def Chip.ownersOf (ch : Chip) (part : Nat) : List Nat :=
  (List.range 8).filter (fun o => (ch.owner o).state != .empty && (ch.owner o).part == part)
/-- Behind the closed boundary outstanding requests are answered with errors, and the hypervisor gets SHROUD_FENCED. -/
def fenceClose (ch : Chip) (part : Nat) : Chip :=
  let ch := (ch.ownersOf part).foldl fenceOwner ch
  let p := ch.part part
  (ch.setPart part { p with fencestat := 2 }).addRecord part
    { hyper := true, gts := ch.gts, core := 0, slot := 0,
      words := [BitVec.ofNat 64 ch.gts, BitVec.ofNat 64 (408 + causeCode .shroudFenced * 2 ^ 56), BitVec.ofNat 64 (causeCode .shroudFenced),
        noAddr .shroudFenced] }
/-- The end of a fence: every owner is killed in ascending slot, and the partition's keys are drawn again. -/
def fenceReset (m : Memory) (ch : Chip) (part : Nat) : Res :=
  let r := (ch.ownersOf part).foldl (fun r o => killOwner (writeAll m r.writes) r o) { chip := ch, writes := [] }
  let ks := (List.range 256).filter (fun k => Config.keySlotPresent k && Config.keySlotPart k == part)
  let ch := ks.foldl Chip.newKey r.chip
  { r with chip := ch.setPart part { ch.part part with fencestat := 3 } }
/-- PARTITION_FENCE (R407): the boundary closes as FENCESTAT becomes 1; a beat later what is outstanding is answered, and a beat
after that the owners go and the keys are redrawn (log 43). -/
def execPartitionFence (part : Nat) (s : State) : Outcome :=
  let p := s.chip.part part
  match p.fencestat with
  | 1 => .next (s.keep (fenceClose s.chip part))
  | 2 => .next (s.commit (fenceReset s.mem s.chip part))
  | _ => .next (s.keep (s.chip.setPart part { p with fencestat := 1 }))
/-- Whether the stage-2 tables under a root reach a 64 KiB frame. -/
def mapsFrame (m : Memory) (frame : Nat) : List (Nat × Nat × Nat) → Nat → Bool
  | [], _ => false
  | (level, _, n) :: rest, table =>
    (List.range (2 ^ n)).any (fun i =>
      let e := BitVec.ofNat 64 (m.readLe (homeAddr 0 (table + 8 * i)) 8)
      let oa := bitsOf e 12 36 * 2 ^ 12
      if !e.getLsbD 0 then false
      else if e.getLsbD 1 then decide (oa ≤ frame) && decide (frame < oa + (if level = 2 then 2 ^ 21 else 2 ^ 16))
      else if oa = 0 then false else mapsFrame m frame rest oa)
/-- Whether an address is memory of a partition whose boundary is closed. -/
def Chip.closed (ch : Chip) (m : Memory) (a : Nat) : Bool :=
  ch.parts.any (fun e => e.2.fenced && mapsFrame m (a / 65536 * 65536) levels (bitsOf e.2.s2root 12 36 * 2 ^ 12))

/-! ### Accesses from outside (24 R394, R396, R400) -/

/-- An access from outside that waits for a held sector comes again in the next beat (07 R150), one of BAR2 or Isavik as the
access of HBM that it is. -/
def waitHeld (s : State) (i : Instr) : Outcome := .next (s.keep { s.chip with inputs := s.chip.inputs ++ [(s.chip.gts + 1, i)] })

/-- HOST_MEMORY_ACCESS (R394): a CXL.mem request of the host to the HBM range, by device address. Memory of a fenced
partition and addresses outside the range are answered with an error. -/
def execHostMemoryAccess (write : Bool) (addr : Nat) (data : List Byte) (s : State) : Outcome :=
  let ch := s.chip
  if !inHbm addr || ch.closed s.mem addr then .next (s.keep (ch.emit .errorCompletion))
  else if ch.heldAt addr data.length then waitHeld s (.hostMemoryAccess write addr data)
  else if write then .next (s.commit (writeHome s.mem { chip := ch, writes := [] } 0 addr data))
  else .next (s.keep (ch.emit (.hostData (decrypt ch 0 addr (s.mem.readBytes addr data.length)))))
/-- BAR2_ACCESS (R396): device addresses 0 to 2^32 − 1 until the window is closed; then reads give all ones and writes
are dropped. -/
def execBar2Access (write : Bool) (addr : Nat) (data : List Byte) (s : State) : Outcome :=
  let ch := s.chip
  if !ch.host.bar2Open || decide (2 ^ 32 < addr + data.length) then
    (if write then .next s else .next (s.keep (ch.emit (.hostData (List.replicate data.length 0xFF#8)))))
  else if ch.heldAt addr data.length then waitHeld s (.hostMemoryAccess write addr data)
  else if write then .next (s.commit (writeHome s.mem { chip := ch, writes := [] } 0 addr data))
  else .next (s.keep (ch.emit (.hostData (decrypt ch 0 addr (s.mem.readBytes addr data.length)))))
/-- ISAVIK_WRITE (R400; 23 R382): a peer device writes device memory. Bytes for a buffer of a core are a collective's and come by
COLL_REQUEST_ARRIVES (19 R343). -/
def execIsavikWrite (_dev : Nat) (addr : Nat) (data : List Byte) (s : State) : Outcome :=
  if placeOf addr = .none ∨ s.chip.closed s.mem addr = true then .next (s.keep (s.chip.emit .errorCompletion))
  else if s.chip.heldAt addr data.length then waitHeld s (.hostMemoryAccess true addr data)
  else .next (s.commit (writeHome s.mem { chip := s.chip, writes := [] } 0 addr data))

/-! ### Ethernet (24 R405) and the loader (04 R80; 21 R358) -/

/-- Device address of a byte of a tensor, its bytes taken in rising order of the coordinates, dimension 0 first. -/
def Handle.byteAt (h : Handle) (n : Nat) : Option Nat :=
  let d (i : Nat) : Nat := if i ≤ h.ndim then h.dims.getD i 1 else 1
  let e := n / h.e
  let c3 := e / d 0 / d 1 / d 2
  if c3 < d 3 then (rowAddr h 0 (e / d 0 % d 1) (e / d 0 / d 1 % d 2) c3).map (· + e % d 0 * h.e + n % h.e) else none
/-- The resident kernel moves bytes between a handle's tensor and an Ethernet port, and charges them to the owner's account
(R405; DESIGN CHOICE, log 90). -/
def etherMove (s : State) (port owner : Nat) (handle : Word) (off : Nat) (out : Bool) (data : List Byte) (i : Instr) : Outcome :=
  let ch := s.chip
  let o := ch.owner owner
  match readHandle s.mem ch (ch.part o.part) owner handle with
  | none => .next s
  | some (h, canRead, canWrite) =>
    let at_ := (List.range data.length).filterMap (fun k => (h.byteAt (off + k)).map (homeAddr h.ilv))
    let runs := addrRuns at_
    if 2 ≤ port ∨ o.state = .empty ∨ (ch.part o.part).fenced = true ∨ (if out then canRead else canWrite) = false then .next s
    else if runs.any (fun r => ch.heldAt r.1 r.2) then waitHeld s i
    else
      let units := cdiv at_.length 64
      if out then
        let bytes := runs.flatMap (fun r => decrypt ch (keyOf h.key h.ilv) r.1 (s.mem.readBytes r.1 r.2))
        .next (s.keep (charge (ch.emit (.ethernet port bytes)) owner units))
      else
        let r := (runs.foldl (fun (x : Res × List Byte) r =>
          (writeHome (writeAll s.mem x.1.writes) x.1 (keyOf h.key h.ilv) r.1 (x.2.take r.2), x.2.drop r.2)) ({ chip := ch, writes := [] }, data)).1
        .next (s.commit { r with chip := charge r.chip owner units })
/-- The loader's bytes in the granted tiles of a core, with their check vectors recomputed as MLDC does. -/
def loadTiles (m : Memory) (r : Res) (mask : BitVec 32) (core off : Nat) (data : List Byte) : Res :=
  ((List.range 32).filter (fun c => mask.getLsbD c && meets (4096 * c) 4096 off data.length)).foldl (fun r c =>
    let t := readTile m r.chip core c
    let old := m.readBytes (tileAddr core c) 4096
    let new := overlay (4096 * c) old off data
    writeTile r core c ({ t with words := (chunksOf 4 1024 new).map leNat }.recompute (tagInt t.tel.tag))) r
/-- The loader writes .buffer data before the owner's origin (DESIGN CHOICE, log 92). -/
def loadBuffer (s : State) (owner : Nat) (buf : Option Buf) (off : Nat) (data : List Byte) : Outcome :=
  let o := s.chip.owner owner
  let size := match buf with | some b => bufSize b | none => 0x20000
  if o.state ≠ .admitting ∨ size < off + data.length then .next s
  else
    .next (s.commit (o.hdr.cores.foldl (fun r c =>
      match buf with
      | some b => writeHome s.mem r 0 (bufAddr b c + off) data
      | none => loadTiles s.mem r o.hdr.ctmask c off data) { chip := s.chip, writes := [] }))

/-! ### Launches (24 R397 to R400) -/

/-- A word of a packet. -/
def Packet.w (p : Packet) (i : Nat) : Word := p.words.getD i 0
/-- Fields of a packet. -/
def Packet.prio (p : Packet) : Nat := bitsOf (p.w 0) 8 3
def Packet.tag (p : Packet) : Nat := bitsOf (p.w 0) 24 24
def Packet.src (p : Packet) : Nat := bitsOf (p.w 0) 48 16
def Packet.block (p : Packet) : Nat := bitsOf (p.w 1) 0 48
def Packet.image (p : Packet) : Nat := bitsOf (p.w 2) 0 48
def Packet.ntask (p : Packet) : Nat := bitsOf (p.w 4) 48 16
def Packet.raddr (p : Packet) : Nat := bitsOf (p.w 5) 0 48
/-- Whether a packet's reserved bits are zero, and VER and NTASK are what they must be. -/
def packetOk (ws : List Word) : Bool :=
  let w (i : Nat) : Word := ws.getD i 0
  ws.length == 8 && bitsOf (w 0) 0 8 == 1 && bitsOf (w 0) 11 5 == 0 && bitsOf (w 1) 48 16 == 0 && bitsOf (w 2) 48 16 == 0 &&
    decide (1 ≤ bitsOf (w 4) 48 16) && decide (bitsOf (w 4) 48 16 ≤ 384) && bitsOf (w 5) 48 16 == 0 && w 6 == 0#64 && w 7 == 0#64
/-- A dropped launch write counts in LDROP. -/
def dropLaunch (ch : Chip) (part : Nat) : Chip :=
  let p := ch.part part
  ch.setPart part { p with ldrop := if p.ldrop.toNat + 1 < 2 ^ 32 then p.ldrop + 1 else p.ldrop }
/-- Where the control cluster's SRAM lies in the model: behind the cores' windows (01 R12). -/
def controlSram : Nat := 2 ^ 48 + Config.cores * 2 ^ 21
/-- Where a report is written in storage that the machine holds (R400): host memory, the control cluster's SRAM. -/
def reportAt (k : Packet) : Option Nat :=
  match k.path with
  | .bar0 => if k.raddr < 2 ^ 46 then some (2 ^ 46 + k.raddr) else none
  | .control => if k.raddr + 32 ≤ 2 ^ 24 then some (controlSram + k.raddr) else none
  | _ => none
/-- The residency report of a packet, by its own path; none when RADDR is 0. -/
def reportLaunch (m : Memory) (r : Res) (k : Packet) (status owner origin spl : Nat) : Res :=
  let ws : List Word := [BitVec.ofNat 64 (status + owner * 2 ^ 8 + k.tag * 2 ^ 24), BitVec.ofNat 64 k.arrival,
    BitVec.ofNat 64 origin, BitVec.ofNat 64 spl]
  let port := match k.path with | .isavik d => some (r.chip.portTo d) | _ => none
  if k.raddr = 0 then r
  else
    let r := match reportAt k with
      | some a => writeHome (writeAll m r.writes) r 0 a (ws.flatMap wordBytes)
      | none => r
    { r with chip := r.chip.emit (.report k.path port k.raddr k.tag ws) }
/-- Whether a partition's core set is empty: every launch is refused with status 4 (R402). -/
def Part.coreless (p : Part) : Bool := p.pcore.all (· == 0#64)
/-- LAUNCH_PACKET (R397): queued for its partition, or dropped and counted; a full queue answers status 1. `window` is
the place in the launch window that a write by BAR0 or Isavik names; one beyond the eight is dropped. -/
def execLaunchPacket (path : LaunchPath) (window : Nat) (words : List (BitVec 64)) (s : State) : Outcome :=
  let ch := s.chip
  let byWrite := match path with | .bar0 | .isavik _ => true | _ => false
  let part := bitsOf (words.getD 0 0) 16 8
  if byWrite && decide (8 ≤ window) then .next s
  else if words.length ≠ 8 then .next (s.keep (dropLaunch ch (if byWrite then window else 0)))
  else if 7 < part then .next (s.keep (dropLaunch ch 0))
  else if !packetOk words || (ch.part part).fenced || (byWrite && window != part) then .next (s.keep (dropLaunch ch part))
  else
    let k : Packet := { words := words, path := path, arrival := ch.gts }
    let p := ch.part part
    if 64 ≤ p.launches.length then .next (s.commit (reportLaunch s.mem { chip := ch, writes := [] } k (if p.coreless then 4 else 1) 0 0 0))
    else .next (s.keep (ch.setPart part { p with launches := p.launches ++ [k] }))
/-- Effective priority in a beat (R398). -/
def effective (m : Memory) (b : Nat) (k : Packet) : Nat := min 7 (min k.prio (rcbPrio m k.block) + (b - k.arrival) / 2 ^ 20)
/-- The packet that the resident kernel takes: highest priority, then earliest arrival, then lowest SRC. -/
def nextPacket (m : Memory) (b : Nat) (l : List Packet) : Option Packet :=
  let better (x y : Packet) : Bool :=
    decide (effective m b y < effective m b x) || (effective m b x == effective m b y &&
      (decide (x.arrival < y.arrival) || (x.arrival == y.arrival && decide (x.src < y.src))))
  l.foldl (fun (a : Option Packet) k => match a with | some c => if better k c then some k else a | none => some k) none

/-! ### Placement (24 R399) -/

/-- One round of Philox-4×32 (log 45). -/
def philoxRound (c : Nat × Nat × Nat × Nat) (k : Nat × Nat) : Nat × Nat × Nat × Nat :=
  let p0 := 0xD2511F53 * c.1
  let p1 := 0xCD9E8D57 * c.2.2.1
  (p1 / 2 ^ 32 % 2 ^ 32 ^^^ c.2.1 ^^^ k.1, p1 % 2 ^ 32, p0 / 2 ^ 32 % 2 ^ 32 ^^^ c.2.2.2 ^^^ k.2, p0 % 2 ^ 32)
/-- Rounds, the key bumped after each. -/
def philoxRounds : Nat → (Nat × Nat × Nat × Nat) → (Nat × Nat) → Nat × Nat × Nat × Nat
  | 0, c, _ => c
  | n + 1, c, k => philoxRounds n (philoxRound c k) ((k.1 + 0x9E3779B9) % 2 ^ 32, (k.2 + 0xBB67AE85) % 2 ^ 32)
/-- First output word of Philox-4×32-10 for a task. -/
def philoxPick (seed : Word) (t : Nat) : Nat := (philoxRounds 10 (t, 0, 0, 0) (bitsOf seed 0 32, bitsOf seed 32 32)).1
/-- Mesh hops between two routers. -/
def hopsBetween (a b : Nat) : Nat := (coreX a - coreX b) + (coreX b - coreX a) + (coreY a - coreY b) + (coreY b - coreY a)
/-- The partition's cores in ascending order. -/
def coresOf (ch : Chip) (part : Nat) : List Nat := (List.range Config.cores).filter (coreInPart ch part)
/-- Candidates of a task's data address: the partition's cores of every cluster with a core within two hops of the
channel's entry router. Data that is in no channel has none (log 42). -/
def candidates (ch : Chip) (part : Nat) (a : Option Nat) : List Nat :=
  match a.bind (homeChan 0) with
  | some (_, _, r) => (coresOf ch part).filter (fun c => (List.range 4).any (fun k => decide (hopsBetween (clusterCore c k) r ≤ 2)))
  | none => []
/-- Places one task: the pick, then the next candidates, then all cores from the last candidate. -/
def placeTask (ch : Chip) (part : Nat) (seed : Word) (t : Nat) (data : Option Nat) (taken : List Nat) : Option Nat :=
  let cs := candidates ch part data
  let full (c : Nat) : Bool := taken.contains c || decide (4 ≤ (ch.onCore c).length)
  let from_ := if cs.length = 0 then 0 else philoxPick seed t % cs.length
  let order := cs.drop from_ ++ cs.take from_
  let last := cs.getLast?.getD 0
  let all := coresOf ch part
  (order ++ all.filter (fun c => decide (last < c)) ++ all.filter (fun c => decide (c ≤ last))).find? (fun c => !full c)
/-- The picks of a launch, by task. -/
def placeAll (ch : Chip) (part : Nat) (seed : Word) : Nat → List (Option Nat) → List Nat → Option (List Nat)
  | _, [], taken => some taken
  | t, d :: rest, taken =>
    match placeTask ch part seed t d taken with
    | some c => placeAll ch part seed (t + 1) rest (taken ++ [c])
    | none => none
/-- Insertion into a rising list. -/
def insertUp (c : Nat) : List Nat → List Nat
  | [] => [c]
  | d :: t => if c ≤ d then c :: d :: t else d :: insertUp c t
/-- LAUNCH_DISPATCH (R398 to R400): the kernel takes a packet, places its tasks and admits its timetable; the owner is
bound to the packet's block, and each strand's TASKID is its task's. -/
def execLaunchDispatch (part : Nat) (s : State) : Outcome :=
  let ch := s.chip
  let p := ch.part part
  match nextPacket s.mem ch.gts p.launches with
  | none => .next s
  | some k =>
    let ch := ch.setPart part { p with launches := p.launches.erase k }
    let root := rcbRoot s.mem k.block
    let no (status spl : Nat) : Outcome := .next (s.commit (reportLaunch s.mem { chip := ch, writes := [] } k status 0 0 spl))
    let tasks := readThrough s.mem ch root part (bitsOf (k.w 4) 0 48) (8 * k.ntask)
    let recs := (tasks.getD []).length / 8
    let task (t : Nat) : Word := BitVec.ofNat 64 (elem (tasks.getD []) t 8)
    if !ch.host.booted then .next s
    else if p.coreless then no 4 0
    else if rcbChain s.mem 8 k.block = false then no 3 0
    else if rcbAccount s.mem ch k.block = 0 then no 3 0
    else if tasks.isNone then no 2 1
    else if (List.range recs).any (fun t => bitsOf (task t) 48 16 != 0) then no 5 0
    else
      let where_ (t : Nat) : Option Nat :=
        let va := bitsOf (task t) 0 48
        match translateWalk s.mem (bitsOf root 12 36 * 2 ^ 12) p.s2root 0 (va / 2 ^ 16) false with
        | .ok e => some (e.frame + va % 2 ^ 16)
        | .error _ => none
      match placeAll ch part (k.w 3) 0 ((List.range k.ntask).map where_) [] with
      | none => no 4 0
      | some picks =>
        let list := picks.foldl (fun l c => insertUp c l) []
        let img := match imagePtr (k.w 2) with
          | none => .error 1
          | some va => readImage (readThrough s.mem ch root part) (coreInPart ch part) va (some list)
        match admission ch img false part 1 0 (fun _ => true) with
        | (0, on, r) =>
          let r := bindOwner s.mem r on k.block
          let ch := r.chip.mapStrands on (fun st =>
            let core := list.getD st.place.index 0
            { st with place := { st.place with taskId := BitVec.ofNat 16 (picks.findIdx (· == core)) } })
          .next (s.commit (reportLaunch s.mem { r with chip := ch } k 0 on (ch.owner on).origin 0))
        | (st, _, _) => no 2 st

/-! ### The control register block (24 R401; 23 R392; 09 R206; 08 R199; 11 R250) -/

/-- LANEBUD as written: reserved bits clear, a LOGW outside 10 to 24 ignored. -/
def lanebudWrite (old v : Word) : Word :=
  let logw := bitsOf v 32 5
  let keep : Word := if 10 ≤ logw ∧ logw ≤ 24 then v &&& 0x1F00000000 else old &&& 0x1F00000000
  (v &&& 0x01FFFF00FFFFFFFF) ||| keep
/-- A partition's register block as it reads; a write-only register reads as 0 (00 R6). -/
def blockRead (ch : Chip) (part off : Nat) : Word :=
  let p := ch.part part
  let on := bitsOf p.rcbsel 0 3
  match off with
  | 0x000 => p.kqbase
  | 0x008 => BitVec.ofNat 64 (p.kqhead.toNat + p.kqtail.toNat * 2 ^ 16)
  | 0x010 => p.hqbase
  | 0x018 => BitVec.ofNat 64 (p.hqhead.toNat + p.hqtail.toNat * 2 ^ 16)
  | 0x028 => p.lbsel
  | 0x030 => (match ch.strand? (bitsOf p.lbsel 0 9) (bitsOf p.lbsel 16 2) with | some st => st.lane.lanebud | none => 0)
  | 0x038 => p.ldrop
  | 0x048 => BitVec.ofNat 64 p.fencestat
  | 0x050 => p.savebase
  | 0x058 => p.rcbsel
  | 0x060 => BitVec.ofNat 64 (ch.owner on).rcb
  | 0x068 => (match (ch.owner on).acct with | some a => BitVec.ofNat 64 (ch.accounts.getD a 0) | none => 0)
  | 0x080 => p.pcore.getD 0 0
  | 0x088 => p.pcore.getD 1 0
  | 0x090 => p.pcore.getD 2 0
  | 0x098 => p.pcore.getD 3 0
  | 0x0A0 => p.pcore.getD 4 0
  | 0x0A8 => p.pcore.getD 5 0
  | _ => 0
/-- A base-die register of the stack that MSEL selects, as it reads. -/
def stackRead (ch : Chip) (n : Nat) : Word :=
  let k := ch.stk (bitsOf ch.msel 0 3)
  match n with
  | 0xC53 => k.dhbits
  | 0xC54 => k.faqbase
  | 0xC55 => k.faqhead.setWidth 64
  | 0xC56 => k.faqtail.setWidth 64
  | 0xC57 => k.faqdrop.setWidth 64
  | 0xC58 => BitVec.ofNat 64 (k.badPages.length + k.badPages.getD (bitsOf k.hotctl 16 16) 0 * 2 ^ 16)
  | 0xC59 => k.hotctl
  | 0xC5A => k.hotfq
  | _ => 0
/-- KANS: the answer to a record of a strand of the partition. -/
def kansWrite (part : Nat) (v : Word) (s : State) : Outcome :=
  let core := bitsOf v 0 9
  let slot := bitsOf v 16 2
  match s.chip.strand? core slot with
  | none => .next s
  | some st =>
    if (s.chip.owner st.place.owner).part ≠ part then .next s
    else
      match bitsOf v 24 2 with
      | 0 => execKansResume core slot s
      | 1 => execKansDeliver core slot s
      | 2 => execKansSwitchOut core slot s
      | _ => execKansKill core slot s
/-- A write to an offset of a partition's block. Read-only and reserved offsets ignore it. -/
def blockWrite (part off : Nat) (v : Word) (s : State) : Outcome :=
  let ch := s.chip
  let p := ch.part part
  let on := bitsOf p.rcbsel 0 3
  let put (p : Part) : Outcome := .next (s.keep (ch.setPart part p))
  match off with
  | 0x000 => put { p with kqbase := v &&& 0xFFFFFFFFFFFFFFE0 }
  | 0x008 => put { p with kqtail := v.extractLsb' 16 16 }
  | 0x010 => put { p with hqbase := v &&& 0xFFFFFFFFFFFFFFE0 }
  | 0x018 => put { p with hqtail := v.extractLsb' 16 16 }
  | 0x020 => kansWrite part v s
  | 0x028 => put { p with lbsel := v &&& 0x301FF }
  | 0x030 =>
    let core := bitsOf p.lbsel 0 9
    let slot := bitsOf p.lbsel 16 2
    (match ch.strand? core slot with
     | some st =>
       if (ch.owner st.place.owner).part ≠ part then .next s
       else .next (s.keep (ch.setStrand core slot { st with lane := { st.lane with lanebud := lanebudWrite st.lane.lanebud v } }))
     | none => .next s)
  | 0x040 => if v.getLsbD 0 && !p.fenced then execPartitionFence part s else .next s
  | 0x050 => put { p with savebase := v &&& 0xFFFFFFFFF000 }
  | 0x058 => put { p with rcbsel := v &&& 7 }
  | 0x060 => execRcbBind part v s
  | 0x068 =>
    (match (ch.owner on).acct with
     | some a => if (ch.owner on).part ≠ part then .next s else .next (s.keep { ch with accounts := ch.accounts.set a v.toNat })
     | none => .next s)
  | 0x080 => execPcoreWrite part 0 v s
  | 0x088 => execPcoreWrite part 1 v s
  | 0x090 => execPcoreWrite part 2 v s
  | 0x098 => execPcoreWrite part 3 v s
  | 0x0A0 => execPcoreWrite part 4 v s
  | 0x0A8 => execPcoreWrite part 5 v s
  | _ => .next s
/-- Picojoules of a core's unowned beats up to beat b: each adds ENWT15 (08 R202). -/
def Core.idleUpTo (k : Core) (b : Nat) : Nat := k.idlePj + k.weight 15 * (b - k.idleMark - k.idleOwned)
/-- Counts the unowned beats up to beat b at the weight that has stood. -/
def Core.settleIdle (k : Core) (b : Nat) : Core := { k with idlePj := k.idleUpTo b, idleMark := b, idleOwned := 0 }
/-- IDLEEN, 0xC10 of the control cluster (08 R199): nanojoules in bits 47:0. -/
def idleen (ch : Chip) (core : Nat) : Word := BitVec.ofNat 64 ((ch.core core).idleUpTo ch.gts / 1000 % 2 ^ 48)
/-- A control-cluster CSR as it reads (08 R199; 09 R206; 11 R250; 23 R392), by its number and the core, strand, partition or owner
slot whose it is. One that is none of these reads 0, as the write-only DHARV does (00 R6). -/
def ctlRead (ch : Chip) (at_ n : Nat) : Word :=
  if 0xC00 ≤ n ∧ n < 0xC10 then BitVec.ofNat 64 ((ch.core at_).weight (n - 0xC00))
  else if 0xC48 ≤ n ∧ n < 0xC50 then BitVec.ofNat 64 (ch.owner (n - 0xC48)).s1root
  else if 0xC53 ≤ n ∧ n < 0xC5B then stackRead ch n
  else
    match n with
    | 0xC10 => idleen ch at_
    | 0xC20 => (ch.part at_).htbase
    | 0xC21 => (ch.part at_).htlen
    | 0xC30 => (match ch.strand? (at_ / 4) (at_ % 4) with | some st => st.lane.lanebud | none => 0)
    | 0xC40 => (ch.part at_).s2root
    | 0xC50 => if (ch.part at_).tlbinv.isSome then 1 else 0
    | 0xC51 => ch.msel
    | _ => 0
/-- Whether an offset of BAR0 is that of a partition's register block (R396). -/
def isBlock (off : Nat) : Bool := decide (0x100000 ≤ off) && decide (off < 0x180000) && off % 8 == 0
/-- Eight bytes of BAR0 as they read (R396): reserved offsets give 0, and so, for all but the hypervisor and the control cluster, do
the register blocks (DESIGN CHOICE, log 100). The CXL registers and the launch window read as a free value (log 17). -/
def bar0Read (ch : Chip) (who : Requester) (off : Nat) : Word :=
  if isBlock off then (if who = .host then 0 else blockRead ch ((off - 0x100000) / 65536) (off % 65536))
  else if off < 0x20200 then Config.busWord off ch.fresh
  else 0
/-- A write of eight bytes of BAR0: no whole packet in the launch window (R397), dropped elsewhere but in the blocks. -/
def bar0Write (who : Requester) (off : Nat) (v : Word) (s : State) : Outcome :=
  if isBlock off then (if who = .host then .next s else blockWrite ((off - 0x100000) / 65536) (off % 65536) v s)
  else if 0x20000 ≤ off ∧ off < 0x20200 then .next (s.keep (dropLaunch s.chip ((off - 0x20000) / 64)))
  else .next s
/-- REGISTER_WRITE (00 R6, R7): a control register takes its fields; reserved bits stay clear. DESIGN CHOICE (log 106): HTLEN
ignores a number above 65,536. -/
def execRegisterWrite (reg : CtlReg) (value : BitVec 64) (s : State) : Outcome :=
  let ch := s.chip
  let n := bitsOf ch.msel 0 3
  let k := ch.stk n
  match reg with
  | .enwt c i =>
    if 16 ≤ i then .next s
    else
      let k := (ch.core c).settleIdle ch.gts
      .next (s.keep (ch.setCore c { k with enwt := k.enwt.set i (bitsOf value 0 16) }))
  | .htbase p => .next (s.keep (ch.setPart p { ch.part p with htbase := value &&& 0xFFFFFFFFFFC0 }))
  | .htlen p =>
    if 65536 < bitsOf value 0 17 then .next s else .next (s.keep (ch.setPart p { ch.part p with htlen := value &&& 0x1FFFF }))
  | .s2root p => .next (s.keep (ch.setPart p { ch.part p with s2root := value &&& 0xFFFFFFFFF000 }))
  | .s1root o => .next (s.keep (ch.setOwner o { ch.owner o with s1root := (value &&& 0xFFFFFFFFF000).toNat }))
  | .msel => .next (s.keep { ch with msel := value &&& 7 })
  | .faqbase => .next (s.keep (ch.setStk n { k with faqbase := value &&& 0xFFFFFFFFFFFFFFF0 }))
  | .faqtail => .next (s.keep (ch.setStk n { k with faqtail := value.setWidth 16 }))
  | .hotctl => .next (s.keep (ch.setStk n { k with hotctl := (k.hotctl &&& 0xFFFFFFFF00000000) ||| (value &&& 0xFFFFFFFF) }))
  | .hotfq => .next (s.keep (ch.setStk n { k with hotfq := value &&& 0xFFFFFFFFFFFFFFF0 }))
  | .block p off => blockWrite p off value s
  | .route dev port =>
    if dev = ch.devnum.toNat ∨ Config.isavikPorts ≤ port then .next s
    else .next (s.keep { ch with host := { ch.host with routes := ch.host.routes.set dev port } })
  | .ether port owner handle off out data => etherMove s port owner handle off out data (.registerWrite reg value)
  | .buffer owner buf off data => loadBuffer s owner buf off data
  | .read at_ n => .next (s.keep (ch.emit (.hostData (wordBytes (ctlRead ch at_ n)))).freshen)
  | .bar0 who write off =>
    if write then bar0Write who off value s else .next (s.keep (ch.emit (.hostData (wordBytes (bar0Read ch who off)))).freshen)
  | .sramError addr => if addr < 2 ^ 48 then .next s else .next (s.keep { ch with sramBad := addr / 64 :: ch.sramBad })

/-! ### Isavik alignment (24 R403, R404) -/

/-- A port no word has been exchanged on. -/
def Port.fresh : Port := { good := 0, missed := 0, partner := none, aligned := false }
/-- A port. -/
def HostSt.port (h : HostSt) (n : Nat) : Port := h.ports.getD n Port.fresh
/-- A lost port: every owner that uses LINK gets LINK_DOWN (log 103). -/
def linkLost (ch : Chip) (port : Nat) : Chip :=
  let k := ch.host.port port
  let ch := { ch with host := { ch.host with ports := ch.host.ports.set port { k with aligned := false, good := 0 } } }
  if !k.aligned then ch
  else
    (ch.owners.filter (fun e => e.2.state != .empty && (e.2.stride .link).isSome)).foldl (fun ch e => ch.raiseOn e.1 .linkDown) ch
/-- The step that aligns GTS: of the device farther from the master, by the port that leads there (log 44). -/
def gtsStep (ch : Chip) (port : Nat) (offset : Int) : Chip :=
  if ch.devnum ≠ 0#7 ∧ ch.host.routes.get? 0 = some port then
    { ch with gts := (((ch.gts : Int) + offset) % 2 ^ 64).toNat }
  else ch
/-- ALIGN_EXCHANGE: the offset an exchange finds, with the partner's DEVNUM. -/
def execAlignExchange (port : Nat) (offset : Int) (partner : Nat) (s : State) : Outcome :=
  let ch := s.chip
  let k := ch.host.port port
  let put (ch : Chip) (k : Port) : Chip := { ch with host := { ch.host with ports := ch.host.ports.set port k } }
  if Config.isavikPorts ≤ port then .next s
  else if partner = ch.devnum.toNat then
    .next (s.keep (linkLost (put ch { k with partner := some partner, missed := 0 }) port))
  else if offset = 0 then
    let good := min 1024 (k.good + 1)
    .next (s.keep (put ch { good := good, missed := 0, partner := some partner, aligned := k.aligned || good == 1024 }))
  else .next (s.keep (gtsStep (linkLost (put ch { k with partner := some partner, missed := 0 }) port) port offset))
/-- ALIGN_EXCHANGE_MISSED: a port is lost after 64. -/
def execAlignExchangeMissed (port : Nat) (s : State) : Outcome :=
  let ch := s.chip
  let k := ch.host.port port
  if Config.isavikPorts ≤ port then .next s
  else
    let n := k.missed + 1
    let ch := { ch with host := { ch.host with ports := ch.host.ports.set port { k with missed := min 64 n, good := 0 } } }
    .next (s.keep (if 64 ≤ n then linkLost ch port else ch))

/-! ### Boot, mailbox, attestation (24 R396, R403, R406; 23 R388) -/

/-- Words of a measurement of 384 bits. -/
def measureWords (v : Nat) : List Word := (List.range 6).map (fun i => BitVec.ofNat 64 (v / 2 ^ (64 * i)))
/-- All measurements. -/
def HostSt.measured (h : HostSt) : List Word := h.measurements.flatMap measureWords
/-- LOAD_FIRMWARE_IMAGE: mailbox opcode 0xC001, which the ROM also answers. -/
def execLoadFirmwareImage (image : List Nat) (version : Nat) (s : State) : Outcome :=
  .next (s.keep { s.chip with host := { s.chip.host with firmware := some (image, version) } })
/-- BOOT: the ROM runs an image only when both signatures verify and its version is at or above the rollback
counter; its measurement is recorded. Otherwise it stays in the ROM. -/
def execBoot (s : State) : Outcome :=
  let h := s.chip.host
  match h.firmware with
  | none => .next s
  | some (image, version) =>
    if Config.signaturesVerify image && decide (h.rollback ≤ version) then
      .next (s.keep { s.chip with host := { h with booted := true, measurements := h.measurements ++ [Config.measure image] } })
    else .next s
/-- READ_BOOT_MEASUREMENTS: mailbox opcode 0xC002. -/
def execReadBootMeasurements (s : State) : Outcome := .next (s.keep (s.chip.emit (.mailbox s.chip.host.measured)))
/-- SET_DEVNUM: mailbox opcode 0xC000, before any port has trained; the ROM does not answer it. -/
def execSetDevnum (n : Nat) (s : State) : Outcome :=
  let ch := s.chip
  if !ch.host.booted || decide (128 ≤ n) || ch.host.ports.any (fun e => e.2.good != 0 || e.2.aligned) then .next s
  else .next (s.keep { ch with devnum := BitVec.ofNat 7 n })
/-- An extent in a mailbox payload: base and length in units of 2 MiB. -/
def extentOf (payload : Nat) : Nat × Nat :=
  let a := payload % 2 ^ 32 * 2 ^ 21
  (a, a + payload / 2 ^ 32 % 2 ^ 32 * 2 ^ 21)
/-- Whether an extent lies in one pool port's window. -/
def inPool (e : Nat × Nat) : Bool := decide (e.1 < e.2) && (e.1 / 2 ^ 42 == 1 || e.1 / 2 ^ 42 == 2) && e.1 / 2 ^ 42 == (e.2 - 1) / 2 ^ 42
/-- Runs without the addresses of one run. -/
def cutRuns (l : List (Nat × Nat)) (e : Nat × Nat) : List (Nat × Nat) :=
  (l.flatMap (fun r => [(r.1, min r.2 e.1), (max r.1 e.2, r.2)])).filter (fun r => decide (r.1 < r.2))
/-- An extent is added (23 R388): at most 4 TiB in all. -/
def Chip.addExtent (ch : Chip) (e : Nat × Nat) : Chip :=
  let l := cutRuns ch.extents e ++ [e]
  if inPool e && decide ((l.map (fun r => r.2 - r.1)).sum ≤ 2 ^ 42) then { ch with extents := l, released := cutRuns ch.released e } else ch
/-- An extent is released. -/
def Chip.dropExtent (ch : Chip) (e : Nat × Nat) : Chip :=
  if inPool e then { ch with extents := cutRuns ch.extents e, released := cutRuns ch.released e ++ [e] } else ch
/-- CXL_MAILBOX_COMMAND: a standard command is answered (log 17). The two dynamic-capacity commands of CXL 3.1 add
an extent, 0x4802, or release one, 0x4803 (23 R388). -/
def execCxlMailboxCommand (opcode payload : Nat) (s : State) : Outcome :=
  let ch := s.chip
  let e := extentOf payload
  if !ch.host.booted then .next s
  else
    let ch := ch.emit (.mailbox [Config.mailboxAnswer opcode payload])
    .next (s.keep (match opcode with
      | 0x4802 => ch.addExtent e
      | 0x4803 => ch.dropExtent e
      | _ => ch))
/-- SPDM_REQUEST: IDE keys are set; the measurements are answered with a signature, the identity with its certificate chain. -/
def execSpdmRequest (ask : SpdmAsk) (payload : Nat) (s : State) : Outcome :=
  let h := s.chip.host
  match ask with
  | .keys => .next (s.keep { s.chip with host := { h with ideKeys := h.ideKeys ++ [payload] } })
  | .measurements => .next (s.keep (s.chip.emit (.spdm (h.measured ++ [Config.spdmSignature h.measurements]))))
  | .certificates => .next (s.keep (s.chip.emit (.spdm Config.identityChain)))

/-! ### Power (24 R408, R409) -/

/-- POWER_BRAKE. -/
def execPowerBrake (asserted : Bool) (s : State) : Outcome :=
  .next (s.keep { s.chip with host := { s.chip.host with brake := asserted } })
/-- The next voltage bin in millivolts. -/
def nextBin (b : Nat) : Nat := if b < 350 then 350 else if b < 380 then 380 else if b < 410 then 410 else 450
/-- VOLTAGE_BIN_RAISE: a marginal core that carries no strand moves up a bin and is retested; one that does not pass
is not readmitted, at 450 mV for good. A core of the control cluster, 384 to 391, moves to 1.6 GHz instead. -/
def execVoltageBinRaise (core : Nat) (s : State) : Outcome :=
  let ch := s.chip
  if Config.cores ≤ core ∧ core < Config.cores + 8 then
    .next (s.keep { ch with host := { ch.host with slow := if ch.host.slow.contains core then ch.host.slow else ch.host.slow ++ [core] } })
  else
  let k := ch.core core
  let ch1 := { ch with fresh := ch.fresh + 1 }
  if !(ch.onCore core).isEmpty || decide (Config.cores ≤ core) || (k.disabled && k.bin == 450) || !Config.powerAllows ch.fresh then .next s
  else .next (s.keep (ch1.setCore core { k with bin := nextBin k.bin, disabled := !Config.retestPasses core ch.fresh }))

end Sys2Proof.Machine
end

