-- ==== Sys2Proof/Machine/Beat.lean ====
section
/-! DEFINITION. What a beat does by itself: results landing (02 R35; 01 R19), a pending nest becoming live (07 R161),
the drains, and the end of the beat, which advances GTS (02 R27, R33). -/

namespace Sys2Proof.Machine

/-! ### One landing -/

/-- A landing on the strand alone. -/
def landStrand (st : Strand) : Land → Strand
  | .x q r v tag poison => st.wx q r v tag poison
  | .xKeep q r => st.poisonX q r
  | .pred q n v => st.wp q n v
  | .granules first ps =>
    { st with sh := { st.sh with granules := ps.zipIdx.foldl (fun g e => setBit g (first + e.2) e.1) st.sh.granules } }
  | .mask n which v =>
    { st with sh := { st.sh with masks := st.sh.masks.set n ((st.sh.masks.getD n 0 &&& ~~~which) ||| (v &&& which)) } }
  | .view n v => { st with sh := { st.sh with views := st.sh.views.set n v } }
  | .stream n fld v => { st with sh := { st.sh with streams := st.sh.streams.set n ((st.stream n).setField fld v) } }
  | .posAdd n d =>
    let s := st.stream n
    { st with sh := { st.sh with streams := st.sh.streams.set n { s with pos := BitVec.ofInt 20 ((s.pos.toNat : Int) + d) } } }
  | .csr n v => csrWrite st n v
  | .flags f => { st with csr := { st.csr with fflags := st.csr.fflags ||| f } }
  | .push0 l => { st with sh := { st.sh with q0 := st.sh.q0 ++ [l] } }
  | .push1 b => { st with sh := { st.sh with q1 := st.sh.q1 ++ b, q1out := st.sh.q1out.tail } }
  | .push2 b => { st with sh := { st.sh with q2 := st.sh.q2 ++ b, q2out := st.sh.q2out.tail } }
  | .push3 v => { st with sh := { st.sh with q3 := st.sh.q3 ++ [v] } }
  | .shadowCount lvl v =>
    let sh := st.sh.nest.shadow
    { st with sh := { st.sh with nest := { st.sh.nest with shadow := sh.set lvl { sh.getD lvl NestLevel.unit with count := v } } } }
  | .shadowStep lvl n v =>
    let sh := st.sh.nest.shadow
    let l := sh.getD lvl NestLevel.unit
    { st with sh := { st.sh with nest := { st.sh.nest with shadow := sh.set lvl { l with step := l.step.set n v } } } }
  | .nestGo => { st with sh := { st.sh with nest := { st.sh.nest with pendingShadow := true } } }
  | .clearSyn => { st with csr := { st.csr with ttsyn := 0, ttmask := 0 } }
  | .openRegion n h => { st with regions := { num := n, handler := h } :: st.regions }
  | .closeRegion n => { st with regions := st.regions.filter (fun r => r.num != n) }
  | .ctabW l => { st with sh := { st.sh with codesShadow := l } }
  | .ctabSwap =>
    { st with sh := { st.sh with codes := st.sh.codesShadow, codesShadow := st.sh.codes },
              csr := { st.csr with ctabgen := st.csr.ctabgen + 1 } }
  | .reg _ _ | .bytes _ _ | .tile _ _ _ _ _ | .word _ _ _ _ | .fixRow _ _ | .fixCol _ _ | .mldc _ _ _ | .mbmp _ _ _
  | .mchk _ _ _ | .mma _ _ _ _ _ _ _ _ _ _ _ _ | .workDone _ | .workActs _ | .laneFill _ _ _ => st
/-- One landing, on what landed before it. -/
def landOne (m : Memory) (r : Res) (core slot : Nat) (q : SeqId) (l : Land) : Res :=
  match l with
  | .reg off data =>
    (match r.chip.strand? core slot with
     | some st =>
       { chip := clearSram r.chip (windowBase core st + off) data.length, writes := r.writes ++ [(windowBase core st + off, data)] }
     | none => r)
  | .bytes a data => { chip := written r.chip a data.length, writes := r.writes ++ [(a, data)] }
  | .workDone w =>
    (match r.chip.work? w with
     | some k => if k.doneBeat.isSome then r else { r with chip := finishWork r.chip w k .done }
     | none => r)
  | .workActs w =>
    (match r.chip.work? w with
     | some k =>
       (match k.kind with
        | .access a home _ =>
          if k.doneBeat.isSome then r
          else
            let r2 := actAtHome (writeAll m r.writes) r.chip w k a home
            { r2 with writes := r.writes ++ r2.writes }
        | _ => r)
     | none => r)
  | .laneFill w send bs => { r with chip := landFill r.chip core slot w send bs }
  | .tile _ _ _ _ _ | .word _ _ _ _ | .fixRow _ _ | .fixCol _ _ | .mldc _ _ _ | .mbmp _ _ _ | .mchk _ _ _
  | .mma _ _ _ _ _ _ _ _ _ _ _ _ => landTile (writeAll m r.writes) r core slot q l
  | _ => { r with chip := r.chip.onStrand core slot (fun st => landStrand st l) }

/-! ### What is due (02 R35; 01 R19; 08 R181) -/

/-- Whether a result lands in the present beat: in a running beat at its due τ, a handler's result in an owned ISSUE
slot on the handler's clock. -/
def Chip.dueNow (ch : Chip) (st : Strand) (d : Due) : Bool :=
  if d.hclock then ch.ownsIssue st && decide (d.due ≤ st.run.hclk) else ch.runs st && decide (d.due ≤ st.run.tau)
/-- The order of R19: by issue, within a beat CT, LD, CP, ST. -/
def Due.before (a b : Due) : Bool :=
  decide (a.tauIssue < b.tauIssue) || (a.tauIssue == b.tauIssue && decide (seqNum a.q < seqNum b.q))
/-- Puts a result behind those it does not come before. -/
def insertDue (d : Due) : List Due → List Due
  | [] => [d]
  | e :: t => if d.before e then d :: e :: t else e :: insertDue d t
/-- Results in the order in which they land. -/
def orderDues (l : List Due) : List Due := l.foldl (fun a d => insertDue d a) []
/-- What comes before the rest of a beat's landings: position steps before a write of POS (10 R228), a write of FFLAGS
before landing flags (05 R92). -/
def Land.first : Land → Bool
  | .posAdd _ _ => true
  | .csr n _ => n == 1
  | _ => false
/-- The landings of results, with the sequencer of each, in order. -/
def landsOf (ds : List Due) : List (SeqId × Land) :=
  let all := ds.flatMap (fun d => d.lands.map (fun l => (d.q, l)))
  all.filter (fun e => e.2.first) ++ all.filter (fun e => !e.2.first)
/-- Results due now without a trap land, and leave their latches. -/
def landResults (m : Memory) (r : Res) (core slot : Nat) : Res :=
  match r.chip.strand? core slot with
  | none => r
  | some st =>
    let now := orderDues (st.due.filter (fun d => r.chip.dueNow st d))
    let rest := st.due.filter (fun d => !r.chip.dueNow st d)
    (landsOf now).foldl (fun r e => landOne m r core slot e.1 e.2) { r with chip := r.chip.setStrand core slot { st with due := rest } }
/-- Traps found among what is due (05 R94): the flags of a trapping instruction are ORed in and it writes nothing else;
the earliest issued of a beat is reported. -/
def findTraps (ch : Chip) (core slot : Nat) : Chip :=
  match ch.strand? core slot with
  | none => ch
  | some st =>
    let now := orderDues (st.due.filter (fun d => ch.dueNow st d))
    let bad := now.filter (fun d => d.trap.isSome)
    match bad with
    | [] => ch
    | d :: _ =>
      let fl : BitVec 6 := (bad.flatMap (·.lands)).foldl (fun a l => match l with | .flags f => a ||| f | _ => a) 0
      -- a write of FFLAGS due in the same beat comes first (05 R92)
      let isFf (l : Land) : Bool := match l with | .csr n _ => n == 1 | _ => false
      let st1 := ((now.flatMap (·.lands)).filter isFf).foldl landStrand st
      let due := (st.due.filter (fun e => !(ch.dueNow st e && e.trap.isSome))).map (fun e =>
        if ch.dueNow st e then { e with lands := e.lands.filter (fun l => !isFf l) } else e)
      ch.setStrand core slot { st1 with csr := { st1.csr with fflags := st1.csr.fflags ||| fl }, due := due,
                                        traps := st1.traps ++ d.trap.toList }
/-- The machine as the present beat's landings of a strand would leave it, for what is found in the beat before it is known
whether the slot runs. -/
def lookAhead (m : Memory) (ch : Chip) (core slot : Nat) : Res :=
  landResults m { chip := findTraps ch core slot, writes := [] } core slot
/-- Compares of MCHK due now (14 R311; 15 R321), on the tiles as they stand after what lands with them, under the CSRs
that land with them (15 R320). -/
def findCompares (m : Memory) (ch : Chip) (core slot : Nat) : Chip :=
  match ch.strand? core slot with
  | none => ch
  | some st =>
    let isChk (l : Land) : Bool := match l with | .mchk _ _ _ => true | _ => false
    let now := orderDues (st.due.filter (fun d => ch.dueNow st d))
    let chks := (landsOf now).filter (fun e => isChk e.2)
    if chks.isEmpty then ch
    else
      let due := st.due.map (fun e => if ch.dueNow st e then { e with lands := e.lands.filter (fun l => !isChk l) } else e)
      let ch0 := ch.setStrand core slot { st with due := due }
      let look := lookAhead m ch0 core slot
      chks.foldl (fun ch e =>
        match e.2 with
        | .mchk c sec ix =>
          let t := readTile (writeAll m look.writes) look.chip core c
          ch.onStrand core slot (fun st =>
            (compareUnder st (look.chip.strand? core slot) t c
              (fun f v => { cause := f, faddr := noAddr f, tval := v, q := e.1, sec := sec, slot := ix })).2)
        | _ => ch) ch0
/-! ### Drains (14 R310; 11 R257) -/

/-- MDRAIN_DRAIN (14 R310): rows 8 q to 8 q + 7 go to register space with the landings of the beat; a failed compare writes
them all the same, an uncorrectable error of CBUF writes nothing. -/
def execMdrainDrain (work : Nat) (s : State) : Outcome :=
  match s.chip.work? work with
  | none => .next s
  | some k =>
    match s.chip.strand? k.core k.slot, k.kind with
    | some st, .mdrain c dst q nochk =>
      if !drainNow s.chip st k then .next s
      else if s.chip.sramBadAt (tileAddr k.core c + 1024 * q) 1024 || (!nochk && s.chip.sramBadAt (tileAddr k.core c) 4096) then
        let ch := consume s.chip { k with faddr := noAddr .sramUncorrected } .sramUncorrected
        .next (s.keep (finishWork ch work k (.error .sramUncorrected)))
      else
        let look := lookAhead s.mem s.chip k.core k.slot
        let m := writeAll s.mem look.writes
        let st1 := if nochk then st else
          (compareUnder st (look.chip.strand? k.core k.slot) (readTile m look.chip k.core c) c (fun f v => workTrap k f (noAddr f) v)).2
        let lands := regLands dst (m.readBytes (tileAddr k.core c + 1024 * q) 1024) (List.replicate 16 false) ++ [.workDone work]
        .next (s.keep ((s.chip.setStrand k.core k.slot (st1.dueDrain k lands)).setWork work { k with total := 2 }))
    | _, _ => .next s
/-- WSTC_DRAIN: compare and conversion; the flags and the in-range bytes land in this beat. A store whose compare fails, or
whose tile read meets an uncorrectable error (11 R259), sends nothing and is performed in this beat. -/
def execWstcDrain (work : Nat) (s : State) : Outcome :=
  match s.chip.work? work with
  | none => .next s
  | some k =>
    match s.chip.strand? k.core k.slot, k.kind with
    | some st, .wstc lane c h o ty rnd ovf nochk frm =>
      if !drainNow s.chip st k then .next s
      else if s.chip.sramBadAt (tileAddr k.core c) 4096 then
        let ch := consume s.chip { k with faddr := noAddr .sramUncorrected } .sramUncorrected
        let ch := ch.onStrand k.core k.slot (fun st => st.dueDrain k [.laneFill lane false [], .workDone work])
        .next (s.keep (ch.setWork work { k with total := 2 }))
      else
        let look := lookAhead s.mem s.chip k.core k.slot
        let t := readTile (writeAll s.mem look.writes) look.chip k.core c
        let (ok, st1) := if nochk then (true, st) else
          compareUnder st (look.chip.strand? k.core k.slot) t c (fun f v => workTrap k f (noAddr f) v)
        let rs := t.words.map (wstcElem ty (modeOf rnd frm) ovf)
        let fl := rs.foldl (fun f r => f ||| r.flags) 0
        let bs := if ok then wstcBytes h o (rs.map (·.bits)) else []
        let lands := [.flags fl, .laneFill lane ok bs, .workDone work]
        .next (s.keep ((s.chip.setStrand k.core k.slot (st1.dueDrain k lands)).setWork work { k with total := 2 }))
    | _, _ => .next s

/-! ### Landing -/

/-- Everything of a strand due in the present beat. -/
def landAll (m : Memory) (ch : Chip) (core slot : Nat) : Res :=
  landResults m { chip := findCompares m (findTraps ch core slot) core slot, writes := [] } core slot
/-- DUE_RESULT_LANDS. -/
def execDueResultLands (core slot : Nat) (s : State) : Outcome := .next (s.commit (landAll s.mem s.chip core slot))

/-! ### Nests (07 R161) -/

/-- A pending shadow becomes live when no nest runs. -/
def Nest.settle (n : Nest) : Nest :=
  if n.pendingShadow && n.live.isNone then { n with pendingShadow := false, live := some n.shadow, iter := List.replicate 6 0 } else n
/-- NEST_SHADOW_LIVE: in a strand beat. -/
def execNestShadowLive (core slot : Nat) (s : State) : Outcome :=
  .next (s.keep (s.chip.onStrand core slot (fun st =>
    if s.chip.runs st then { st with sh := { st.sh with nest := st.sh.nest.settle } } else st)))

/-! ### The end of a beat -/

/-- Whether the present beat is an ISSUE slot that the owner holds, running, stalled or frozen by a re-phase or a
supervisor freeze; a pre-empted owner holds none (08 R202). -/
def Owner.chargedSlot (o : Owner) (b : Nat) : Bool :=
  (match o.state with | .running | .frozen | .window | .halted | .retiring => true | _ => false) &&
    (match o.stride .issue with | some s => b % s == o.heldPhase b .issue % s | none => false)
/-- RET takes the value a section's end gave it (04 R74). -/
def Seq.settle (q : Seq) : Seq := { q with ret := q.retNext.getD q.ret, retNext := none }
/-- Whether every sequencer's head is resident (07 R164). -/
def Strand.headsResident (m : Memory) (core : Nat) (st : Strand) : Bool :=
  allSeqs.all (fun q =>
    let s := st.seq q
    let p := s.pc.toNat
    !st.place.absent.contains p && (!s.atHdr || sectionResident st.place p (sectionOf s.pc (wordAt m core st.place p))))
/-- A strand after the beat: ring tokens and RET take effect, WDONE follows what is performed, strand time and the
handler's clock advance, the static share of energy is added (01 R24; 02 R33; 08 R181, R202; 11 R247). -/
def strandTick (m : Memory) (ch : Chip) (core : Nat) (st : Strand) : Strand :=
  let o := ch.owner st.place.owner
  let counts := ch.ownsIssue st && (st.run.h || st.due.any (·.hclock))
  let run := if o.chargedSlot ch.gts then st.run.charge ((ch.core core).weight 15) else st.run
  let here (k : Stall) : Stall :=
    if k.kind = .notResident ∧ k.cleared.isNone = true ∧ st.headsResident m core = true then { k with cleared := some (ch.gts + 1) } else k
  { st with
    ct := st.ct.settle, ld := st.ld.settle, cp := st.cp.settle, st := st.st.settle
    sh := { st.sh with rings := st.sh.rings.settle }
    lane := { st.lane.settle with wlq := wlqCsr st.lane.settle }
    run := { run with tau := if ch.runs st then run.tau + 1 else run.tau, hclk := if counts then run.hclk + 1 else run.hclk
                      stall := run.stall.map here, hstall := run.hstall.map here } }
/-- A registered TXB.WAIT at a barrier whose phase has moved on (07 R156): the own core's is released, another core's
release is a flit; a wait in a saved record keeps the release. -/
def releaseWait (m : Memory) (ch : Chip) (w : Nat) (k : Work) : Chip :=
  match k.kind with
  | .access (.txbWait p true false) home ents =>
    let hc := (home - 2 ^ 48) / 2 ^ 21
    if (barrierOf (m.readLe home 16)).phase = p ∨ k.doneBeat.isSome = true then ch
    else if hc = k.core then finishWork ch w k .done
    else
      let o := ch.owner k.owner
      let k := { k with kind := .access (.txbWait p true true) home ents }
      let (q, _) := (Planner.start ch o).flit o (route hc k.core) (o.clock ch.gts + 1) false [] [.answerLands]
      (q.finish k.owner o).setWork w { k with steps := q.steps }
  | _ => ch
/-- The same for the works of saved records. -/
def Saved.releaseWaits (m : Memory) (v : Saved) : Saved :=
  { v with works := v.works.map (fun e =>
      match e.2.kind with
      | .access (.txbWait p true false) home ents =>
        if (barrierOf (m.readLe home 16)).phase = p then e else (e.1, { e.2 with kind := .access (.txbWait p true true) home ents })
      | _ => e) }
/-- A drain whose consumed tokens have completed gets its beat: t_s is the next beat (14 R310; 11 R257). -/
def fixDrain (ch : Chip) (k : Work) : Work :=
  let at_ (nochk : Bool) : Work :=
    if k.total = 0 ∧ k.doneBeat.isNone = true ∧ k.after.all (fun w => match ch.work? w with | some a => a.doneBeat.isSome | none => true) = true then
      match ch.strand? k.core k.slot with
      | some st => { k with total := 1, promise := (if ch.runs st then st.run.tau + 1 else st.run.tau) + (if nochk then 16 else 20) }
      | none => k
    else k
  match k.kind with
  | .mdrain _ _ _ nochk => at_ nochk
  | .wstc _ _ _ _ _ _ _ nochk _ => at_ nochk
  | _ => k
/-- Budget units of the beat: one for each owned ISSUE slot of a strand (08 R203). -/
def chargeSlots (ch : Chip) : Chip :=
  (ch.strands.filter (fun (e : Nat × Strand) => (ch.owner e.2.place.owner).chargedSlot ch.gts)).foldl (fun ch (e : Nat × Strand) => charge ch e.2.place.owner 1) ch
/-- Busy and idle beats of a strand's owned ISSUE slot (24 R399; DESIGN CHOICE, log 100): the core has a busy beat when a sequencer
issued a word; in that word's section the slot is a busy one, in the section of a sequencer that issued none an idle one. -/
def Core.countSlot (k : Core) (b : Nat) (st : Strand) : Core :=
  let did (q : Seq) : Option (BitVec 12) := match q.worked with | some w => if w.1 = b then some w.2 else none | none => none
  let qs := allSeqs.map st.seq
  let count (t : Tab (Nat × Nat)) (q : Seq) : Tab (Nat × Nat) :=
    match did q, q.sec with
    | some n, _ => let e := t.getD n.toNat (0, 0); t.set n.toNat (e.1 + 1, e.2)
    | none, some s => let e := t.getD s.num.toNat (0, 0); t.set s.num.toNat (e.1, e.2 + 1)
    | none, none => t
  { k with busyBeats := if qs.any (fun q => (did q).isSome) then k.busyBeats + 1 else k.busyBeats, sections := qs.foldl count k.sections }
/-- Owned ISSUE beats are not idle ones (08 R202). -/
def countOwned (ch : Chip) : Chip :=
  (ch.strands.filter (fun (e : Nat × Strand) => (ch.owner e.2.place.owner).chargedSlot ch.gts)).foldl (fun ch (e : Nat × Strand) =>
    let k := ch.core (e.1 / 4)
    ch.setCore (e.1 / 4) ({ k with idleOwned := k.idleOwned + 1 }.countSlot ch.gts e.2)) ch
/-- Releases of every TXB.WAIT. -/
def releaseWaits (m : Memory) (ch : Chip) : Chip :=
  let ch := ch.works.foldl (fun ch (e : Nat × Work) => match ch.work? e.1 with | some k => releaseWait m ch e.1 k | none => ch) ch
  { ch with saved := ch.saved.map (fun (e : Nat × Saved) => (e.1, e.2.releaseWaits m)) }
/-- Releases, and drain beats that can now be fixed. -/
def settleWorks (m : Memory) (ch : Chip) : Chip :=
  let ch := releaseWaits m ch
  { ch with works := ch.works.map (fun (e : Nat × Work) => (e.1, fixDrain ch e.2)) }
/-- An owner after the beat: one more frozen beat when it is frozen as a whole (02 R33). -/
def Owner.tick (o : Owner) (b : Nat) : Owner :=
  match o.state with
  | .empty | .admitting => o
  | _ => if o.frozenAt b then { o with frozen := o.frozen + 1 } else o
/-- Strands and owners after the beat. -/
def tickAll (m : Memory) (ch : Chip) : Chip :=
  { ch with strands := ch.strands.map (fun (e : Nat × Strand) => (e.1, strandTick m ch (e.1 / 4) e.2))
            owners := ch.owners.map (fun (e : Nat × Owner) => (e.1, e.2.tick ch.gts)) }
/-- The hot-page trackers after the beat (23 R391). -/
def hotSteps (m : Memory) (r : Res) : Res :=
  r.chip.hbm.foldl (fun r (e : Nat × Stack) => hotStep (writeAll m r.writes) r e.1) r
/-- GTS_TICK: the end of the beat. -/
def execGtsTick (s : State) : Outcome :=
  let ch := countOwned (chargeSlots (admitWalks (settleWorks s.mem s.chip)))
  let r := settleLate s.mem { chip := ch, writes := [] }
  let r := hotSteps s.mem r
  let r := freeRetired { r with chip := tickAll s.mem r.chip }
  .next (s.commit { r with chip := { r.chip with gts := r.chip.gts + 1 } })

end Sys2Proof.Machine
end

