-- ==== Sys2Proof/Machine/Dispatch.lean ====
section
/-! DEFINITION. One arm per row of the opcode table: the meaning of each word and event. -/

namespace Sys2Proof.Machine

def exec (i : Instr) (s : State) : Host.Outcome State Fault Refusal :=
  match i with
  | .nop h => Sys2Proof.Machine.execNop h s
  | .add h xd xa xb => Sys2Proof.Machine.execAdd h xd xa xb s
  | .sub h xd xa xb => Sys2Proof.Machine.execSub h xd xa xb s
  | .and h xd xa xb => Sys2Proof.Machine.execAnd h xd xa xb s
  | .or h xd xa xb => Sys2Proof.Machine.execOr h xd xa xb s
  | .xor h xd xa xb => Sys2Proof.Machine.execXor h xd xa xb s
  | .andn h xd xa xb => Sys2Proof.Machine.execAndn h xd xa xb s
  | .shl h xd xa xb => Sys2Proof.Machine.execShl h xd xa xb s
  | .shr h xd xa xb => Sys2Proof.Machine.execShr h xd xa xb s
  | .sra h xd xa xb => Sys2Proof.Machine.execSra h xd xa xb s
  | .min h xd xa xb => Sys2Proof.Machine.execMin h xd xa xb s
  | .max h xd xa xb => Sys2Proof.Machine.execMax h xd xa xb s
  | .minn h xd xa xb => Sys2Proof.Machine.execMinn h xd xa xb s
  | .maxn h xd xa xb => Sys2Proof.Machine.execMaxn h xd xa xb s
  | .slt h xd xa xb => Sys2Proof.Machine.execSlt h xd xa xb s
  | .sltn h xd xa xb => Sys2Proof.Machine.execSltn h xd xa xb s
  | .addi h xd xa imm => Sys2Proof.Machine.execAddi h xd xa imm s
  | .mul h xd xa xb => Sys2Proof.Machine.execMul h xd xa xb s
  | .mulh h xd xa xb => Sys2Proof.Machine.execMulh h xd xa xb s
  | .mulhn h xd xa xb => Sys2Proof.Machine.execMulhn h xd xa xb s
  | .div h xd xa xb => Sys2Proof.Machine.execDiv h xd xa xb s
  | .divn h xd xa xb => Sys2Proof.Machine.execDivn h xd xa xb s
  | .rem h xd xa xb => Sys2Proof.Machine.execRem h xd xa xb s
  | .remn h xd xa xb => Sys2Proof.Machine.execRemn h xd xa xb s
  | .li h xd imm => Sys2Proof.Machine.execLi h xd imm s
  | .lih h xd imm => Sys2Proof.Machine.execLih h xd imm s
  | .clz h xd xa => Sys2Proof.Machine.execClz h xd xa s
  | .popc h xd xa => Sys2Proof.Machine.execPopc h xd xa s
  | .sext h xd xa w => Sys2Proof.Machine.execSext h xd xa w s
  | .zext h xd xa w => Sys2Proof.Machine.execZext h xd xa w s
  | .pcmp h pd xa xb cond => Sys2Proof.Machine.execPcmp h pd xa xb cond s
  | .pand h pd pa pb => Sys2Proof.Machine.execPand h pd pa pb s
  | .por h pd pa pb => Sys2Proof.Machine.execPor h pd pa pb s
  | .pxor h pd pa pb => Sys2Proof.Machine.execPxor h pd pa pb s
  | .pnot h pd pa => Sys2Proof.Machine.execPnot h pd pa s
  | .br h cond xa xb off => Sys2Proof.Machine.execBr h cond xa xb off s
  | .brp h p off => Sys2Proof.Machine.execBrp h p off s
  | .brpClr h p off => Sys2Proof.Machine.execBrpClr h p off s
  | .jmp h off => Sys2Proof.Machine.execJmp h off s
  | .jmpx h xa off => Sys2Proof.Machine.execJmpx h xa off s
  | .call h xd off => Sys2Proof.Machine.execCall h xd off s
  | .ret h xa => Sys2Proof.Machine.execRet h xa s
  | .loop h xa len count => Sys2Proof.Machine.execLoop h xa len count s
  | .tick h xd => Sys2Proof.Machine.execTick h xd s
  | .gtsr h xd => Sys2Proof.Machine.execGtsr h xd s
  | .waitt h xa => Sys2Proof.Machine.execWaitt h xa s
  | .waitc h tok => Sys2Proof.Machine.execWaitc h tok s
  | .ldx h size xd xa xb off => Sys2Proof.Machine.execLdx h size xd xa xb off s
  | .stx h size xd xa xb off => Sys2Proof.Machine.execStx h size xd xa xb off s
  | .ldxS h size xd xa xb off => Sys2Proof.Machine.execLdxS h size xd xa xb off s
  | .chk h xa => Sys2Proof.Machine.execChk h xa s
  | .chkG h spec => Sys2Proof.Machine.execChkG h spec s
  | .sptest h xd xa => Sys2Proof.Machine.execSptest h xd xa s
  | .spcast h xd xa win p => Sys2Proof.Machine.execSpcast h xd xa win p s
  | .amo h op size xd xa xb xp => Sys2Proof.Machine.execAmo h op size xd xa xb xp s
  | .cas h size xd xa xb xp => Sys2Proof.Machine.execCas h size xd xa xb xp s
  | .fence h pred succ scope => Sys2Proof.Machine.execFence h pred succ scope s
  | .marm h xa => Sys2Proof.Machine.execMarm h xa s
  | .mwait h xd => Sys2Proof.Machine.execMwait h xd s
  | .mwaitTimeout core slot => Sys2Proof.Machine.execMwaitTimeout core slot s
  | .txbInit h xa xb => Sys2Proof.Machine.execTxbInit h xa xb s
  | .txbArrive h xa xb => Sys2Proof.Machine.execTxbArrive h xa xb s
  | .txbExpect h xa xb => Sys2Proof.Machine.execTxbExpect h xa xb s
  | .txbWait h xa xb => Sys2Proof.Machine.execTxbWait h xa xb s
  | .cpyIn h xd xh xc xs xb t buf pad at64 => Sys2Proof.Machine.execCpyIn h xd xh xc xs xb t buf pad at64 s
  | .cpyOut h xd xh xc xs xb t buf at64 => Sys2Proof.Machine.execCpyOut h xd xh xc xs xb t buf at64 s
  | .cpyG h xd xh xc xs xb t buf pad at64 => Sys2Proof.Machine.execCpyG h xd xh xc xs xb t buf pad at64 s
  | .cpyMC h xd xh xc xs xb t buf pad at64 => Sys2Proof.Machine.execCpyMC h xd xh xc xs xb t buf pad at64 s
  | .cpyLL h xd xh xs xb t buf at64 => Sys2Proof.Machine.execCpyLL h xd xh xs xb t buf at64 s
  | .cpyCancel h tok => Sys2Proof.Machine.execCpyCancel h tok s
  | .cpyStat h xd tok => Sys2Proof.Machine.execCpyStat h xd tok s
  | .secld h xd xa sec dst => Sys2Proof.Machine.execSecld h xd xa sec dst s
  | .secwait h sec q => Sys2Proof.Machine.execSecwait h sec q s
  | .qpush h xa => Sys2Proof.Machine.execQpush h xa s
  | .vld h d xa off buf => Sys2Proof.Machine.execVld h d xa off buf s
  | .vlds h d sn => Sys2Proof.Machine.execVlds h d sn s
  | .vldp h d xa xb off => Sys2Proof.Machine.execVldp h d xa xb off s
  | .vldS h d xa xb off => Sys2Proof.Machine.execVldS h d xa xb off s
  | .vgath h d ix sn => Sys2Proof.Machine.execVgath h d ix sn s
  | .qix h ix => Sys2Proof.Machine.execQix h ix s
  | .sclA h xa sl n g c => Sys2Proof.Machine.execSclA h xa sl n g c s
  | .sclB h xa sl n g c => Sys2Proof.Machine.execSclB h xa sl n g c s
  | .vbrd h ty d xa off buf => Sys2Proof.Machine.execVbrd h ty d xa off buf s
  | .vst h a xb off buf => Sys2Proof.Machine.execVst h a xb off buf s
  | .vstp h xd a xb off => Sys2Proof.Machine.execVstp h xd a xb off s
  | .vscat h sn a ix => Sys2Proof.Machine.execVscat h sn a ix s
  | .wst h xd xh xc xs src => Sys2Proof.Machine.execWst h xd xh xc xs src s
  | .wstG h xd xh xs src => Sys2Proof.Machine.execWstG h xd xh xs src s
  | .wstc h xd xh xc t c ty rnd ovf nochk => Sys2Proof.Machine.execWstc h xd xh xc t c ty rnd ovf nochk s
  | .wdrain h xa => Sys2Proof.Machine.execWdrain h xa s
  | .wbud h xd => Sys2Proof.Machine.execWbud h xd s
  | .wfence h scope => Sys2Proof.Machine.execWfence h scope s
  | .vadd h ty rnd ovf d a b ln => Sys2Proof.Machine.execVadd h ty rnd ovf d a b ln s
  | .vsub h ty rnd ovf d a b ln => Sys2Proof.Machine.execVsub h ty rnd ovf d a b ln s
  | .vmul h ty rnd ovf d a b ln => Sys2Proof.Machine.execVmul h ty rnd ovf d a b ln s
  | .vfma h ty rnd ovf d a b ln => Sys2Proof.Machine.execVfma h ty rnd ovf d a b ln s
  | .vfms h ty rnd ovf d a b ln => Sys2Proof.Machine.execVfms h ty rnd ovf d a b ln s
  | .vfnma h ty rnd ovf d a b ln => Sys2Proof.Machine.execVfnma h ty rnd ovf d a b ln s
  | .vdiv h ty rnd ovf d a b ln => Sys2Proof.Machine.execVdiv h ty rnd ovf d a b ln s
  | .vsqrt h ty rnd ovf d a ln => Sys2Proof.Machine.execVsqrt h ty rnd ovf d a ln s
  | .vrcp h ty rnd ovf d a ln => Sys2Proof.Machine.execVrcp h ty rnd ovf d a ln s
  | .vrsq h ty rnd ovf d a ln => Sys2Proof.Machine.execVrsq h ty rnd ovf d a ln s
  | .vmin h ty d a b ln => Sys2Proof.Machine.execVmin h ty d a b ln s
  | .vmax h ty d a b ln => Sys2Proof.Machine.execVmax h ty d a b ln s
  | .vabs h ty ovf d a ln => Sys2Proof.Machine.execVabs h ty ovf d a ln s
  | .vneg h ty ovf d a ln => Sys2Proof.Machine.execVneg h ty ovf d a ln s
  | .vcmp h cond ty m a b ln => Sys2Proof.Machine.execVcmp h cond ty m a b ln s
  | .vsel h ty d a b m => Sys2Proof.Machine.execVsel h ty d a b m s
  | .vand h ty d a b ln => Sys2Proof.Machine.execVand h ty d a b ln s
  | .vor h ty d a b ln => Sys2Proof.Machine.execVor h ty d a b ln s
  | .vxor h ty d a b ln => Sys2Proof.Machine.execVxor h ty d a b ln s
  | .vshl h ty d a b ln => Sys2Proof.Machine.execVshl h ty d a b ln s
  | .vshr h ty d a b ln => Sys2Proof.Machine.execVshr h ty d a b ln s
  | .vsra h ty d a b ln => Sys2Proof.Machine.execVsra h ty d a b ln s
  | .vcvt h td ts rnd ovf d a part ln => Sys2Proof.Machine.execVcvt h td ts rnd ovf d a part ln s
  | .vred h op ty rnd ovf d a ln => Sys2Proof.Machine.execVred h op ty rnd ovf d a ln s
  | .vscan h op ty rnd ovf d a ln => Sys2Proof.Machine.execVscan h op ty rnd ovf d a ln s
  | .vcompact h ty d a ln => Sys2Proof.Machine.execVcompact h ty d a ln s
  | .vperm h ty d a b ln => Sys2Proof.Machine.execVperm h ty d a b ln s
  | .vmov h ty d a ln => Sys2Proof.Machine.execVmov h ty d a ln s
  | .vmovi h ty d imm => Sys2Proof.Machine.execVmovi h ty d imm s
  | .viota h ty d ln => Sys2Proof.Machine.execViota h ty d ln s
  | .vqpop h ty d ln => Sys2Proof.Machine.execVqpop h ty d ln s
  | .vlut h ty d a b ln => Sys2Proof.Machine.execVlut h ty d a b ln s
  | .vexp2 h ty rnd ovf d a ln => Sys2Proof.Machine.execVexp2 h ty rnd ovf d a ln s
  | .vlog2 h ty rnd ovf d a ln => Sys2Proof.Machine.execVlog2 h ty rnd ovf d a ln s
  | .vclass h ty d a ln => Sys2Proof.Machine.execVclass h ty d a ln s
  | .vsplitExp h d a ln => Sys2Proof.Machine.execVsplitExp h d a ln s
  | .vsplit h d a b sl ln => Sys2Proof.Machine.execVsplit h d a b sl ln s
  | .vcombAcc h d a w q clr ln => Sys2Proof.Machine.execVcombAcc h d a w q clr ln s
  | .vcombFin h rnd ovf d a b r hh ln => Sys2Proof.Machine.execVcombFin h rnd ovf d a b r hh ln s
  | .mma h c sa sb ta tb acc breuse t => Sys2Proof.Machine.execMma h c sa sb ta tb acc breuse t s
  | .mmas h c sa sb sx ta tb acc breuse t => Sys2Proof.Machine.execMmas h c sa sb sx ta tb acc breuse t s
  | .mclr h c => Sys2Proof.Machine.execMclr h c s
  | .mldc h c src q => Sys2Proof.Machine.execMldc h c src q s
  | .mdrain h c dst q nochk t => Sys2Proof.Machine.execMdrain h c dst q nochk t s
  | .mchk h c => Sys2Proof.Machine.execMchk h c s
  | .mcomp h cd cs ty => Sys2Proof.Machine.execMcomp h cd cs ty s
  | .mbmp h cd cs ty col => Sys2Proof.Machine.execMbmp h cd cs ty col s
  | .ttLoc h c xd => Sys2Proof.Machine.execTtLoc h c xd s
  | .ttFix h c => Sys2Proof.Machine.execTtFix h c s
  | .ttReplay h => Sys2Proof.Machine.execTtReplay h s
  | .ctabW h src => Sys2Proof.Machine.execCtabW h src s
  | .ctabSwap h => Sys2Proof.Machine.execCtabSwap h s
  | .clgrp h xd xa g => Sys2Proof.Machine.execClgrp h xd xa g s
  | .clgrpRelease h xd g => Sys2Proof.Machine.execClgrpRelease h xd g s
  | .clred h op td ts g xd xh xc xs xb t => Sys2Proof.Machine.execClred h op td ts g xd xh xc xs xb t s
  | .clbc h g xd xh xc xs xb t => Sys2Proof.Machine.execClbc h g xd xh xc xs xb t s
  | .clstat h xd xa => Sys2Proof.Machine.execClstat h xd xa s
  | .trap h n => Sys2Proof.Machine.execTrap h n s
  | .eret h => Sys2Proof.Machine.execEret h s
  | .csrr h xd csr => Sys2Proof.Machine.execCsrr h xd csr s
  | .csrw h xd xa csr => Sys2Proof.Machine.execCsrw h xd xa csr s
  | .csrs h xd xa csr => Sys2Proof.Machine.execCsrs h xd xa csr s
  | .csrc h xd xa csr => Sys2Proof.Machine.execCsrc h xd xa csr s
  | .halt h => Sys2Proof.Machine.execHalt h s
  | .prept h mask => Sys2Proof.Machine.execPrept h mask s
  | .yield h => Sys2Proof.Machine.execYield h s
  | .cropen h n off => Sys2Proof.Machine.execCropen h n off s
  | .crclose h n => Sys2Proof.Machine.execCrclose h n s
  | .view h xa sl imm => Sys2Proof.Machine.execView h xa sl imm s
  | .scfg h xa sl fld imm => Sys2Proof.Machine.execScfg h xa sl fld imm s
  | .nestSet h xa lvl fld imm => Sys2Proof.Machine.execNestSet h xa lvl fld imm s
  | .nestGo h => Sys2Proof.Machine.execNestGo h s
  | .nestStat h xd => Sys2Proof.Machine.execNestStat h xd s
  | .splAdmit h xd xa sup ndev grp => Sys2Proof.Machine.execSplAdmit h xd xa sup ndev grp s
  | .splRetire h xd xa => Sys2Proof.Machine.execSplRetire h xd xa s
  | .splRephase h xd xa delta wait => Sys2Proof.Machine.execSplRephase h xd xa delta wait s
  | .splFreeze h xd xa => Sys2Proof.Machine.execSplFreeze h xd xa s
  | .splThaw h xd xa => Sys2Proof.Machine.execSplThaw h xd xa s
  | .splQuery h xd xa sel => Sys2Proof.Machine.execSplQuery h xd xa sel s
  | .ctxSave h xd xa prept => Sys2Proof.Machine.execCtxSave h xd xa prept s
  | .ctxLoad h xd xa => Sys2Proof.Machine.execCtxLoad h xd xa s
  | .ctxKill h xd xa => Sys2Proof.Machine.execCtxKill h xd xa s
  | .keyRoll h xd slot => Sys2Proof.Machine.execKeyRoll h xd slot s
  | .keyRollBlockEnd core slot => Sys2Proof.Machine.execKeyRollBlockEnd core slot s
  | .memoryInterfaceApply die => Sys2Proof.Machine.execMemoryInterfaceApply die s
  | .illegalWord core slot q w => Sys2Proof.Machine.execIllegalWord core slot q w s
  | .pcBound core slot q => Sys2Proof.Machine.execPcBound core slot q s
  | .istoreEcc core slot q => Sys2Proof.Machine.execIstoreEcc core slot q s
  | .sectionStart core slot q => Sys2Proof.Machine.execSectionStart core slot q s
  | .blockLimitExpiry core slot q => Sys2Proof.Machine.execBlockLimitExpiry core slot q s
  | .gtsTick => Sys2Proof.Machine.execGtsTick s
  | .dueResultLands core slot => Sys2Proof.Machine.execDueResultLands core slot s
  | .nestShadowLive core slot => Sys2Proof.Machine.execNestShadowLive core slot s
  | .mdrainDrain work => Sys2Proof.Machine.execMdrainDrain work s
  | .wstcDrain work => Sys2Proof.Machine.execWstcDrain work s
  | .trapEntry core slot => Sys2Proof.Machine.execTrapEntry core slot s
  | .stallEnd core slot => Sys2Proof.Machine.execStallEnd core slot s
  | .replayStall core slot => Sys2Proof.Machine.execReplayStall core slot s
  | .containmentUnwind core slot region cause => Sys2Proof.Machine.execContainmentUnwind core slot region cause s
  | .tlbWalkComplete walk => Sys2Proof.Machine.execTlbWalkComplete walk s
  | .meshFlitStep work => Sys2Proof.Machine.execMeshFlitStep work s
  | .linkFlitStep step => Sys2Proof.Machine.execLinkFlitStep step s
  | .copySectorLands work => Sys2Proof.Machine.execCopySectorLands work s
  | .secldLands work => Sys2Proof.Machine.execSecldLands work s
  | .laneBeat core slot => Sys2Proof.Machine.execLaneBeat core slot s
  | .laneBudgetRefill core slot => Sys2Proof.Machine.execLaneBudgetRefill core slot s
  | .wlaneBackpressure core slot => Sys2Proof.Machine.execWlaneBackpressure core slot s
  | .chanReadCommand work => Sys2Proof.Machine.execChanReadCommand work s
  | .chanReadDelivery work corrected uncorrected => Sys2Proof.Machine.execChanReadDelivery work corrected uncorrected s
  | .chanWriteCommand work => Sys2Proof.Machine.execChanWriteCommand work s
  | .writeQueueDrain chan => Sys2Proof.Machine.execWriteQueueDrain chan s
  | .portResponse work => Sys2Proof.Machine.execPortResponse work s
  | .hostMemoryAccess write addr data => Sys2Proof.Machine.execHostMemoryAccess write addr data s
  | .refresh chan => Sys2Proof.Machine.execRefresh chan s
  | .patrolScrub chan corrected uncorrected => Sys2Proof.Machine.execPatrolScrub chan corrected uncorrected s
  | .patrolPassComplete chan => Sys2Proof.Machine.execPatrolPassComplete chan s
  | .alertBackoff chan bank => Sys2Proof.Machine.execAlertBackoff chan bank s
  | .alertServiceCommand chan => Sys2Proof.Machine.execAlertServiceCommand chan s
  | .spareRowCopy chan => Sys2Proof.Machine.execSpareRowCopy chan s
  | .spareCopyEscalation chan => Sys2Proof.Machine.execSpareCopyEscalation chan s
  | .hotWindowEnd stack => Sys2Proof.Machine.execHotWindowEnd stack s
  | .hotPageMigrationCopy stack => Sys2Proof.Machine.execHotPageMigrationCopy stack s
  | .migrationCommit stack => Sys2Proof.Machine.execMigrationCommit stack s
  | .hotIneligibleExpiry stack frame => Sys2Proof.Machine.execHotIneligibleExpiry stack frame s
  | .collRequestArrives ask => Sys2Proof.Machine.execCollRequestArrives ask s
  | .collChunkLands work => Sys2Proof.Machine.execCollChunkLands work s
  | .haltReported core slot => Sys2Proof.Machine.execHaltReported core slot s
  | .ownerOrigin owner => Sys2Proof.Machine.execOwnerOrigin owner s
  | .admitTimeout grp => Sys2Proof.Machine.execAdmitTimeout grp s
  | .freezeBegin ask => Sys2Proof.Machine.execFreezeBegin ask s
  | .thawResume owner => Sys2Proof.Machine.execThawResume owner s
  | .rephaseRelease owner => Sys2Proof.Machine.execRephaseRelease owner s
  | .rephaseResume owner => Sys2Proof.Machine.execRephaseResume owner s
  | .rephaseAbandon owner => Sys2Proof.Machine.execRephaseAbandon owner s
  | .preptWindowExpiry owner => Sys2Proof.Machine.execPreptWindowExpiry owner s
  | .collectComplete owner => Sys2Proof.Machine.execCollectComplete owner s
  | .contextSaveUnit owner => Sys2Proof.Machine.execContextSaveUnit owner s
  | .contextLoadUnit owner => Sys2Proof.Machine.execContextLoadUnit owner s
  | .krecordAppend part hyper => Sys2Proof.Machine.execKrecordAppend part hyper s
  | .kansResume core slot => Sys2Proof.Machine.execKansResume core slot s
  | .kansDeliver core slot => Sys2Proof.Machine.execKansDeliver core slot s
  | .kansSwitchOut core slot => Sys2Proof.Machine.execKansSwitchOut core slot s
  | .kansKill core slot => Sys2Proof.Machine.execKansKill core slot s
  | .dharv high group => Sys2Proof.Machine.execDharv high group s
  | .tlbinv part page all => Sys2Proof.Machine.execTlbinv part page all s
  | .tlbinvComplete part => Sys2Proof.Machine.execTlbinvComplete part s
  | .rcbBind part value => Sys2Proof.Machine.execRcbBind part value s
  | .pcoreWrite part m value => Sys2Proof.Machine.execPcoreWrite part m value s
  | .partitionFence part => Sys2Proof.Machine.execPartitionFence part s
  | .registerWrite reg value => Sys2Proof.Machine.execRegisterWrite reg value s
  | .launchPacket path window words => Sys2Proof.Machine.execLaunchPacket path window words s
  | .launchDispatch part => Sys2Proof.Machine.execLaunchDispatch part s
  | .bar2Access write addr data => Sys2Proof.Machine.execBar2Access write addr data s
  | .setDevnum n => Sys2Proof.Machine.execSetDevnum n s
  | .loadFirmwareImage image version => Sys2Proof.Machine.execLoadFirmwareImage image version s
  | .readBootMeasurements => Sys2Proof.Machine.execReadBootMeasurements s
  | .cxlMailboxCommand opcode payload => Sys2Proof.Machine.execCxlMailboxCommand opcode payload s
  | .boot => Sys2Proof.Machine.execBoot s
  | .alignExchange port offset partner => Sys2Proof.Machine.execAlignExchange port offset partner s
  | .alignExchangeMissed port => Sys2Proof.Machine.execAlignExchangeMissed port s
  | .powerBrake asserted => Sys2Proof.Machine.execPowerBrake asserted s
  | .spdmRequest ask payload => Sys2Proof.Machine.execSpdmRequest ask payload s
  | .isavikWrite dev addr data => Sys2Proof.Machine.execIsavikWrite dev addr data s
  | .voltageBinRaise core => Sys2Proof.Machine.execVoltageBinRaise core s

end Sys2Proof.Machine
end

