-- ==== Sys2Proof/Machine/Slot.lean ====
section
/-! DEFINITION. An owned ISSUE slot of a strand (01 R8; 02 R38; 04 R70, R74; 07 R139; 08 R179 to R181), and the order of
what happens in a beat. The meaning of an instruction is a parameter, `run`. -/

namespace Sys2Proof.Machine

/-- The meaning of instructions, as Dispatch.lean gives it. -/
abbrev Runner := Instr → State → Outcome

/-! ### Taking up a sequencer's next word -/

/-- What a WAITT at the head says of the next word (07 R139; 08 R181; 19 R345). -/
inductive WaitTest where
  | pass
  | wait
  | trap (c : Cause) (faddr tval : Word)
deriving DecidableEq, Repr

/-- Tests a WAITT: in a handler it waits for the tagged work alone, whatever its promise. A section load that ended in error
misses its promise (07 R164), a collective without its member raises COLL_PEER_ABSENT, in a handler too. -/
def waitTest (ch : Chip) (st : Strand) (hand : Bool) (next promised : Nat) (tag : Option Nat) : WaitTest :=
  let tv := BitVec.ofNat 64 promised
  if !hand && decide (st.run.tau < next) then .wait
  else
    match tag.bind ch.work? with
    | none => .pass
    | some k =>
      if k.seenDone ch.gts then
        match k.kind, k.state with
        | .secld _ _ _ _ _, .error _ => if hand then .pass else .trap .missedPromise k.faddr tv
        | _, .error .collPeerAbsent => .trap .collPeerAbsent (collFault k).1 (collFault k).2
        | _, _ => .pass
      else if hand then .wait
      else .trap .missedPromise (noAddr .missedPromise) tv
/-- A handler's word: CT stays in the body of the section that holds its handler's word (07 R127; 08 R188). -/
def inHandlerBody (m : Memory) (core : Nat) (st : Strand) (p : Nat) : Bool :=
  match sectionHolding m core st.place st.handlerWord with
  | some sec => sec.inBody p
  | none => false
/-- The word at a sequencer's head is decoded and runs (04 R60, R70). -/
def runWord (run : Runner) (s : State) (core slot : Nat) (q : SeqId) : Outcome :=
  match s.chip.strand? core slot with
  | none => .next s
  | some st =>
    let p := (st.seq q).pc.toNat
    if st.place.absent.contains p then .next (s.keep (stallNow s.chip core slot .notResident))
    else
      let w := wordAt s.mem core st.place p
      match decode w with
      | some i => run i (s.keep { s.chip with cur := ⟨core, slot, q⟩ })
      | none => run (.illegalWord core slot q w) s
/-- A sequencer past its WAITT: the bound of the footprint, the section header, the word. DESIGN CHOICE (log 79): a handler
that runs past the footprint's end takes PC_BOUND as its second cause. -/
def headWord (run : Runner) (s : State) (core slot : Nat) (q : SeqId) : Outcome :=
  match s.chip.strand? core slot with
  | none => .next s
  | some st =>
    let hand := q == .ct && st.run.h
    let sq := st.seq q
    if positions st.place.iskb ≤ sq.pc.toNat then run (.pcBound core slot q) s
    else if hand then
      if inHandlerBody s.mem core st sq.pc.toNat then runWord run s core slot q
      else headTrap s core slot q .windowInvalid (noAddr .windowInvalid) 0
    else if !sq.atHdr then runWord run s core slot q
    else
      match run (.sectionStart core slot q) s with
      | .next s1 => if s1.chip.verdict = .idle then runWord run s1 core slot q else .next s1
      | o => o
/-- A sequencer's part of a slot. -/
def takeUp (run : Runner) (s : State) (core slot : Nat) (q : SeqId) : Outcome :=
  match s.chip.strand? core slot with
  | none => .next s
  | some st =>
    let s := s.keep { s.chip with verdict := .idle }
    match (st.seq q).wait with
    | .waitt next promised tag =>
      (match waitTest s.chip st (q == .ct && st.run.h) next promised tag with
       | .wait => .next (s.keep { s.chip with verdict := .waiting })
       | .trap c fa tv => headTrap s core slot q c fa tv
       | .pass => headWord run (s.keep (s.chip.setStrand core slot (st.setSeq q { st.seq q with wait := .none }))) core slot q)
    | _ => headWord run s core slot q

/-! ### The slot -/

/-- Undoes the landings of a beat whose slot stalls, which is then a frozen one (02 R35, R38): the machine before
them, with what the stall or trap itself did to the strand, the walks and the records, and with the section that the
stopping sequencer started and the replay point of that start (15 R325). -/
def undoLandings (pre post : Chip) (core slot : Nat) : Chip :=
  match pre.strand? core slot, post.strand? core slot with
  | some a, some b =>
    let back (x y : Seq) : Seq :=
      { x with pc := y.pc, wait := y.wait, pending := y.pending, delay := y.delay, loops := y.loops, blockFrom := y.blockFrom, atHdr := y.atHdr,
               sec := y.sec, epcWritten := y.epcWritten }
    let csr := { a.csr with tcause := b.csr.tcause, faddr := b.csr.faddr, tval := b.csr.tval, tepc := b.csr.tepc, ldepc := b.csr.ldepc,
                            cpepc := b.csr.cpepc, stepc := b.csr.stepc }
    { (pre.setStrand core slot
        { a with ct := back a.ct b.ct, ld := back a.ld b.ld, cp := back a.cp b.cp, st := back a.st b.st, csr := csr, run := b.run,
                 traps := b.traps, replay := b.replay })
      with parts := post.parts, walks := post.walks, fresh := post.fresh }
  | _, _ => pre
/-- What a slot does to its four sequencers, from the state with the beat's results landed: the first fault in the order
CT, LD, CP, ST, otherwise the first stall, otherwise none. -/
def slotStop (run : Runner) (s : State) (core slot : Nat) : Option State :=
  let tries := allSeqs.filterMap (fun q => match takeUp run s core slot q with | .next t => some t | _ => none)
  (tries.find? (fun t => t.chip.verdict == .trapped)).or (tries.find? (fun t => t.chip.verdict == .stalled))
/-- Puts items behind what the present phase still has to do. -/
def addTodos (agenda items : List Todo) : List Todo :=
  let here (t : Todo) : Bool := match t with | .phase _ => false | _ => true
  agenda.takeWhile here ++ items ++ agenda.dropWhile here
/-- An owned ISSUE slot of a strand. A replay stall comes first, then a pending trap, then the faults and stalls of its
words (08 R180; 15 R327); otherwise the four words issue. While H = 1 only CT runs (08 R181). DESIGN CHOICE (log 102): a halted
strand's slots only land results. A trap found after its HALT, of a flag (05 R94), a Telltale outcome or a consumed error, stays
pending and is never taken. -/
def slotStep (run : Runner) (s : State) (core slot : Nat) : Outcome :=
  match s.chip.strand? core slot with
  | none => .next s
  | some st =>
    let land : Outcome :=
      match run (.dueResultLands core slot) s with
      | .next t =>
        (match run (.nestShadowLive core slot) t with
         | .next t => run (.laneBudgetRefill core slot) t
         | o => o)
      | o => o
    let then_ (f : State → Outcome) : Outcome := match land with | .next t => f t | o => o
    let issue (qs : List SeqId) (t : State) : Outcome := .next (t.keep { t.chip with agenda := addTodos t.chip.agenda (qs.map (.issue core slot)) })
    if !s.chip.ownsIssue st then .next s
    else if st.run.halted then land
    else if st.run.h then
      let held := st.run.hstall.isSome || (match st.run.stall with | some k => (match k.kind with | .record _ => true | _ => false) | none => false)
      if held then land
      else if st.run.htrap.isSome then then_ (run (.trapEntry core slot))
      else if (s.chip.owner st.place.owner).broke then then_ (fun t => .next (t.keep (stallNow t.chip core slot .budget)))
      else then_ (issue [.ct])
    else if !s.chip.runs st then land
    else if st.replay.asked then run (.replayStall core slot) s
    else if !st.traps.isEmpty then run (.trapEntry core slot) s
    else if (s.chip.owner st.place.owner).broke then .next (s.keep (stallNow s.chip core slot .budget))
    else
      -- the beat of a stall is a frozen one, so that a trap enters by TVEC as it stood before the beat (02 R35, R38)
      let before (t : State) : State := t.keep (t.chip.onStrand core slot (fun u => { u with csr := { u.csr with tvec := st.csr.tvec } }))
      then_ (fun t =>
        match slotStop run (before t) core slot with
        | some u => .next { mem := s.mem, chip := undoLandings s.chip u.chip core slot }
        | none => issue allSeqs t)

/-! ### The order of a beat -/

/-- What remains to do at the start of a beat (log 12). -/
def beatPlan : List Todo := ([0, 1, 2, 3, 4, 5, 12, 9, 6, 7, 8, 10, 11] : List Nat).map .phase ++ [.event .gtsTick]
/-- Owner slots. -/
def ownerSlots : List Nat := List.range 8
/-- Events about a strand, for every strand. -/
def eachStrand (ch : Chip) (f : Nat → Nat → Strand → List Todo) : List Todo :=
  ch.strands.flatMap (fun e => f (e.1 / 4) (e.1 % 4) e.2)
/-- Drains that are made in the present beat. -/
def drainEvents (ch : Chip) : List Todo :=
  ch.works.flatMap (fun e =>
    match ch.strand? e.2.core e.2.slot with
    | some st =>
      if drainNow ch st e.2 then
        (match e.2.kind with
         | .mdrain _ _ _ _ => [.event (.mdrainDrain e.1)]
         | .wstc _ _ _ _ _ _ _ _ _ => [.event (.wstcDrain e.1)]
         | _ => [])
      else []
    | none => [])
/-- Multi-device admissions that wait. -/
def admitGroups (ch : Chip) : List Nat :=
  (ch.strands.filterMap (fun e => match e.2.ct.wait with | .admitWait g _ none => some g | _ => none)).eraseDups
/-- Maintenance of a channel in a beat that is its slot or one yielded to it, in the order of R380 (23 R380, R381, R389, R391). -/
def maintEvents (ch : Chip) (c : Nat) : List Todo :=
  if !maintBeat ch c then []
  else
    let k := ch.chan c
    (if k.alert.isEmpty then [] else [Todo.event (.alertServiceCommand c)]) ++
      [.event (.refresh c)] ++ (if k.copy.isSome then [.event (.spareRowCopy c), .event (.spareCopyEscalation c)] else []) ++
      (ch.hbm.filter (fun e => (e.2.migration.bind (migrationChan e.1)) == some c)).map (fun e => .event (.hotPageMigrationCopy e.1)) ++
      [.event (.patrolScrub c false false)] ++ (if chanSectors ≤ k.scrub then [.event (.patrolPassComplete c)] else [])
/-- Events of a base die. -/
def stackEvents (ch : Chip) (n : Nat) (k : Stack) : List Todo :=
  (if k.migration.isSome then [Todo.event (.migrationCommit n)] else []) ++
    k.ineligible.map (fun e => .event (.hotIneligibleExpiry n e.1)) ++ (if ch.gts % 2 ^ 20 = 0 then [.event (.hotWindowEnd n)] else [])
/-- Records of a partition that wait for their queue. -/
def recordEvents (n : Nat) (p : Part) : List Todo := p.records.map (fun r => .event (.krecordAppend n r.hyper))
/-- Events of a partition. -/
def partEvents (n : Nat) (p : Part) : List Todo :=
  (if p.tlbinv.isSome then [Todo.event (.tlbinvComplete n)] else []) ++
    (if p.fenced then [.event (.partitionFence n)] else []) ++ (if p.launches.isEmpty then [] else [.event (.launchDispatch n)])
/-- Releases of pending re-phases: before the slots, and after them, where the last strand may have halted (21 R369). -/
def releaseEvents (ch : Chip) : List Todo :=
  ownerSlots.flatMap (fun o => if (ch.owner o).rephase.isSome then [.event (.rephaseRelease o)] else [])
/-- Whether an input is a dirty harvest. -/
def harvests (i : Instr) : Bool := match i with | .dharv _ _ => true | _ => false
/-- What one phase of a beat consists of. -/
def phaseTodos (ch : Chip) : Nat → List Todo
  -- records that wait, for which room made in this beat comes too late (08 R186), inputs from outside, and the memory system's
  -- answers
  | 0 => ch.parts.flatMap (fun e => recordEvents e.1 e.2) ++ (ch.inputs.filter (fun e => decide (e.1 ≤ ch.gts) && !harvests e.2)).map (fun e => .event e.2) ++
      (List.range ch.walks.length).reverse.map (fun n => .event (.tlbWalkComplete n)) ++ ch.parts.flatMap (fun e => partEvents e.1 e.2)
  -- the Splicer and the context engine
  | 1 => (admitGroups ch).map (fun g => .event (.admitTimeout g)) ++
      ownerSlots.flatMap (fun o =>
        match (ch.owner o).state with
        | .empty => []
        | _ => [.event (.ownerOrigin o), .event (.thawResume o), .event (.rephaseResume o), .event (.rephaseAbandon o), .event (.freezeBegin (.own o)),
                .event (.preptWindowExpiry o), .event (.collectComplete o), .event (.contextSaveUnit o), .event (.contextLoadUnit o)])
  -- stalls that end
  | 2 => eachStrand ch (fun c s st =>
      (if st.run.stall.isSome || st.run.hstall.isSome then [.event (.stallEnd c s)] else []) ++ [.event (.keyRollBlockEnd c s)])
  -- drains
  | 3 => drainEvents ch
  -- traps and compares found, and holds (see `phaseChange`)
  | 5 => releaseEvents ch
  -- lane beats, which free what a lane word of this beat may take (11 R248), and results of strands that own no slot in the beat
  | 6 => eachStrand ch (fun c s st => if st.lane.queue.isEmpty then [] else [.event (.laneBeat c s)]) ++ eachStrand ch (fun c s st =>
      if ch.ownsIssue st then [] else
        (if ch.runs st then [.event (.laneBudgetRefill c s)] else []) ++ [.event (.dueResultLands c s), .event (.nestShadowLive c s)])
  -- owned ISSUE slots
  | 7 => eachStrand ch (fun c s st => if ch.ownsIssue st then [.slot c s] else [])
  | 8 => eachStrand ch (fun c s st => if st.run.halted then [.event (.haltReported c s)] else []) ++ releaseEvents ch
  -- engine steps, as long as one can happen: before a beat's landings and slots (06 R411; 20 R353), those that only move or
  -- read first (06 R411)
  | 12 => let l := (ch.workEvents false).map Todo.event
          if l.isEmpty then [] else l ++ [.phase 12]
  | 9 => let l := (ch.workEvents true).map Todo.event
         if l.isEmpty then [] else l ++ [.phase 9]
  -- the memory system's own work
  | 10 => (List.range 256).flatMap (maintEvents ch) ++ ch.hbm.flatMap (fun e => stackEvents ch e.1 e.2) ++
      (ch.chans.filter (fun e => !e.2.queue.isEmpty)).map (fun e => .event (.writeQueueDrain e.1)) ++
      (if ch.stores.isEmpty then [] else (List.range 4).flatMap (fun d => ch.stores.map (fun _ => .event (.memoryInterfaceApply d))))
  -- harvests, behind what the beat writes (23 R386, R393)
  | 11 => (ch.inputs.filter (fun e => decide (e.1 ≤ ch.gts) && harvests e.2)).map (fun e => .event e.2)
  | _ => []
/-- What a phase changes by itself. -/
def phaseChange (m : Memory) (ch : Chip) : Nat → Chip
  | 0 => { ch with inputs := ch.inputs.filter (fun e => decide (ch.gts < e.1) || harvests e.2) }
  | 11 => { ch with inputs := ch.inputs.filter (fun e => decide (ch.gts < e.1) || !harvests e.2) }
  | 4 =>
    let ch := ch.strands.foldl (fun ch e => findCompares m (findTraps ch (e.1 / 4) (e.1 % 4)) (e.1 / 4) (e.1 % 4)) ch
    ownerSlots.foldl (fun ch o => settleRelease (beginHolds ch o) o) ch
  | 8 => ownerSlots.foldl settleRelease ch
  | 9 | 12 => releaseWaits m ch
  | _ => ch

/-! ### One step -/

/-- The present item of the beat; with none left, the plan of a new beat. -/
def stepWith (run : Runner) (s : State) : Outcome :=
  match s.chip.agenda with
  | [] => .next (s.keep { s.chip with agenda := beatPlan })
  | t :: rest =>
    let s0 := s.keep { s.chip with agenda := rest }
    match t with
    | .event i => run i s0
    | .slot c sl => slotStep run s0 c sl
    | .issue c sl q => takeUp run s0 c sl q
    | .phase n => .next (s0.keep { phaseChange s0.mem s0.chip n with agenda := phaseTodos s0.chip n ++ rest })

/-! ### Placing an instruction (log 51) -/

/-- A place on core 0 with the whole register space, instruction store and all tiles. -/
def Place.whole : Place :=
  { owner := 0, index := 0, taskId := 0, sup := true, winkb := 64, wbase := 0, iskb := 128, fbase := 0, mx := true, ctmask := 0xFFFFFFFF,
    entries := [0, 0, 0, 0], hdrs := [0], absent := [], coming := [] }
/-- A running owner alone on core 0 that owns every slot it can. -/
def Owner.whole (now : Nat) : Owner :=
  { Owner.empty with
    state := .running, sup := true, origin := now, frozen := now,
    hdr := { strides := [some 1, some 1, some 2, some 1, some 1], phases := [0, 0, 0, 0, 0], reloc := 0, ncore := 1, winkb := 64, iskb := 128,
             ctmask := 0xFFFFFFFF, cores := [0], entries := [0, 0, 0, 0], entryPos := [0, 0, 0, 0] } }
/-- The first sequencer that may issue an opcode. -/
def homeSeq (o : BitVec 8) : SeqId := (allSeqs.find? (opcOnSeq o)).getD .ct
/-- A strand at the first body word of a section, with nothing that keeps the sequencer from taking it up. -/
def Strand.atWord (st : Strand) (q : SeqId) : Strand :=
  let sec : Section :=
    { hdr := 0, num := 0, len := 8, preempt := false, replay := false, check := false, rephase := false, count := 0, crc := 0 }
  { st.setSeq q { st.seq q with pc := 1, sec := some sec, atHdr := false, wait := .none, pending := none, delay := false, loops := [], blockFrom := none } with
    place := { st.place with absent := [], coming := [] }
    run := { st.run with h := false, halted := false, stall := none, hstall := none, hregion := none, htrap := none } }
/-- The machine with a word at the head of a sequencer of a strand of core 0, about to be taken up. -/
def placeWord (s : State) (w : IWord) : State :=
  let ch := s.chip
  let q := homeSeq (wOpc w)
  let st := ((ch.strand? 0 0).getD (Strand.atAdmission Place.whole [0, 0, 0, 0])).atWord q
  let on := st.place.owner
  let o := if (ch.owner on).state = .empty then Owner.whole ch.gts else ch.owner on
  { mem := Memory.write s.mem (istoreAddr 0 + (st.place.fbase + 1) * 12) (bytesOfWord w)
    chip := { (ch.setStrand 0 0 st).setOwner on o with
      agenda := [.issue 0 0 q, .phase 8, .phase 10, .phase 11, .event .gtsTick] } }

end Sys2Proof.Machine
end

