-- ==== Sys2Proof/Machine/Step.lean ====
section
/-! DEFINITION. The step: one item of the present beat, its instructions and events run by `exec`; and the placing of an
instruction where the step fetches next. -/

namespace Sys2Proof.Machine

/-- One step of the machine: the next item of the present beat (log 2). -/
def step (s : State) : Host.Outcome State Fault Refusal := stepWith exec s

/-- `s` with an instruction where the next step fetches (log 51): a strand of a running owner stands at it. -/
def State.withFetchWord (s : State) (nbits w : Nat) : State := placeWord s (BitVec.ofNat 96 (w % 2 ^ nbits))

end Sys2Proof.Machine
end

