-- ==== Sys2Proof/Safety.lean ====
section
/-! DEFINITION. The terms that statements use: the invariant of every step, when a word can issue, and the states
after it issued, trapped or blocked. -/

namespace Sys2Proof.Machine

/-- What every step keeps: memory in its canonical form, so that equal memories are equal data. -/
def State.Inv (s : State) : Prop := s.mem.wf = true

/-- A WORD WITH HEAD `h` CAN ISSUE on sequencer q of strand `st`, which the step stands at (04 R70; 01 R24; 04 R59): the strand
is there, the token actions can act, the predicate is active. -/
structure Ready (s : State) (h : Head) (q : SeqId) (st : Strand) : Prop where
  strand : s.chip.strand? s.chip.cur.core s.chip.cur.slot = some st
  seq : s.chip.cur.q = q
  tokens : st.sh.rings.ready q h = true
  active : (st.rp q h.psel).xor h.pneg = true

/-- Everything the word at the step's place reads. -/
def State.ctx (s : State) (st : Strand) : Ctx :=
  { core := s.chip.cur.core, slot := s.chip.cur.slot, q := s.chip.cur.q, mem := s.mem, chip := s.chip, st := st,
    sq := st.seq s.chip.cur.q }

/-- The machine with the strand the step stands at replaced. -/
def State.withStrand (s : State) (st : Strand) : Chip := s.chip.setStrand s.chip.cur.core s.chip.cur.slot st

/-- The bookkeeping of a word's issue on a machine that holds the word's own effect: tokens, energy of the class, the
section's count and signature under the opcode, the next word (`f`), what the sequencer then waits for (`w`). -/
def State.retired (s : State) (h : Head) (opc : BitVec 8) (cls : Nat) (ch : Chip) (f : Flow) (w : HeadWait) : Chip :=
  retire s.mem ch s.chip.cur.core s.chip.cur.slot s.chip.cur.q h { grp := .any, cls := cls, ok := true, opc := opc } f w

/-- The state after a word issued with a machine and blocks of memory it wrote. -/
def State.issuedRes (s : State) (h : Head) (opc : BitVec 8) (cls : Nat) (r : Res) : State :=
  s.commit { r with chip := s.retired h opc cls r.chip .next .none }

/-- The state after a word issued that wrote no memory. -/
def State.issuedAs (s : State) (h : Head) (opc : BitVec 8) (cls : Nat) (ch : Chip) (f : Flow) (w : HeadWait) : State :=
  s.keep (s.retired h opc cls ch f w)

/-- The state after a word issued that changed nothing but its strand. -/
def State.issuedWith (s : State) (h : Head) (opc : BitVec 8) (cls : Nat) (st : Strand) : State :=
  s.issuedAs h opc cls (s.withStrand st) .next .none

/-- The state after the word at the step's place took a trap (00 R9; 08 R179). -/
def State.trapped (s : State) (st : Strand) (c : Cause) (faddr tval : Word) : State :=
  s.keep { takeTrap s.mem s.chip s.chip.cur.core s.chip.cur.slot (st.mkTrap s.chip.cur.q c faddr tval) with verdict := .trapped }

/-- The state after the slot of the step's place was blocked (01 R26). -/
def State.blockedAt (s : State) (limit : Option Cause) (w : HeadWait) (ch : Chip) : State :=
  s.keep (blockSlot s.mem ch s.chip.cur.core s.chip.cur.slot s.chip.cur.q limit w)

/-- The state after the slot of the step's place stalled (02 R38). -/
def State.stalledAt (s : State) (k : StallKind) (ch : Chip) : State :=
  s.keep (stallNow ch s.chip.cur.core s.chip.cur.slot k)

/-- The state after a word issued that changed nothing but its strand on a machine `ch`. -/
def State.issuedOn (s : State) (h : Head) (opc : BitVec 8) (cls : Nat) (ch : Chip) (st : Strand) : State :=
  s.issuedAs h opc cls (ch.setStrand s.chip.cur.core s.chip.cur.slot st) .next .none

/-- What lanes do: one result of each active lane, in rising order. -/
def laneResults (on : Nat → Bool) (n : Nat) (f : Nat → Num1) : List (Option Num1) :=
  (List.range n).map (fun k => if on k then some (f k) else none)

/-- A WORD OF LANES COMPLETES (13 R265, R268, R271): it issues, and `lat` beats later every active lane's element of e bytes lands
from address `off` in register space, granules with the poison `bad` gives them, with the flags or the trap raised. -/
def State.laneWord (s : State) (h : Head) (st : Strand) (i : Instr) (opc : BitVec 8) (cls lat e off : Nat) (bad : Nat → Bool)
    (rs : List (Option Num1)) : Prop :=
  Sys2Proof.Machine.exec i s = .next (s.issuedWith h opc cls (vecLater (s.ctx st) lat
    (laneLands off e (rs.map (fun r => r.map (·.bits))) ++ poisonLands off e (rs.map (·.isSome)) bad) (raisedBy rs)))

/-- A LANE-WISE WORD COMPLETES (13 R272): `f` of the elements of its sources in each active lane; a granule of d takes the
poison of the same granule of its sources. -/
def State.laneWise (s : State) (h : Head) (st : Strand) (i : Instr) (opc : BitVec 8) (cls lat : Nat) (t : Ty) (d : Spec)
    (srcs : List Spec) (ln : Lanes) (f : List Nat → Num1) : Prop :=
  let x := s.ctx st
  s.laneWord h st i opc cls lat (tySize t) (st.opAddr d) (sameGranule x d srcs)
    (laneResults (laneOn x ln (tySize t)) (1024 / tySize t) (fun k => f (srcs.map (fun sp => (elemsOf x sp (tySize t)).getD k 0))))

/-- A word whose every written granule takes one poison, writing plain elements. -/
def State.wholeWord (s : State) (h : Head) (st : Strand) (i : Instr) (opc : BitVec 8) (cls lat e : Nat) (d : Spec) (bad : Bool)
    (vals : List (Option Nat)) (raised : Raised) : Prop :=
  Sys2Proof.Machine.exec i s = .next (s.issuedWith h opc cls (vecLater (s.ctx st) lat
    (laneLands (st.opAddr d) e vals ++ poisonLands (st.opAddr d) e (vals.map (·.isSome)) (fun _ => bad)) raised))

/-- Every byte of memory reads as before. -/
def SameMemory (s t : State) : Prop := ∀ a, Memory.read t.mem a = Memory.read s.mem a

/-- Every byte of memory outside a block reads as before. -/
def SameOutside (s t : State) (lo n : Nat) : Prop := ∀ a, a < lo ∨ lo + n ≤ a → Memory.read t.mem a = Memory.read s.mem a

end Sys2Proof.Machine
end

