-- ==== Sys2Proof/Certificates/Slice0/Obligations.lean ====
section
/-! DEFINITION. What is claimed of the model: one statement a definition, in the order of OBLIGATIONS.json. -/

section
open Sys2Proof Sys2Proof.Machine

/-- R128: each word of OPC 0x01 issues with f(xa, xb) latched for xd at τ+1, poisoned when a source is; IMM48 is reserved. -/
def Obligations.AluResults : Prop :=
  (∀ (s : State) (h : Head) (q : SeqId) (st : Strand) (xd xa xb : Reg), Ready s h q st →
    let a := st.rx q xa
    let b := st.rx q xb
    let n := (b.extractLsb' 0 6).toNat
    let gives (i : Instr) (v : Word) : Prop :=
      exec i s = .next (s.issuedWith h 0x01 1 (st.laterX q 1 xd v none (st.px q xa || st.px q xb)))
    gives (.add h xd xa xb) (a + b) ∧ gives (.sub h xd xa xb) (a - b) ∧ gives (.and h xd xa xb) (a &&& b) ∧
    gives (.or h xd xa xb) (a ||| b) ∧ gives (.xor h xd xa xb) (a ^^^ b) ∧ gives (.andn h xd xa xb) (a &&& ~~~ b) ∧
    gives (.shl h xd xa xb) (a <<< n) ∧ gives (.shr h xd xa xb) (a >>> n) ∧ gives (.sra h xd xa xb) (a.sshiftRight n) ∧
    gives (.min h xd xa xb) (BitVec.ofInt 64 (min a.toInt b.toInt)) ∧
    gives (.max h xd xa xb) (BitVec.ofInt 64 (max a.toInt b.toInt)) ∧
    gives (.minn h xd xa xb) (BitVec.ofNat 64 (min a.toNat b.toNat)) ∧
    gives (.maxn h xd xa xb) (BitVec.ofNat 64 (max a.toNat b.toNat)) ∧
    gives (.slt h xd xa xb) (if a.toInt < b.toInt then 1 else 0) ∧
    gives (.sltn h xd xa xb) (if a.toNat < b.toNat then 1 else 0)) ∧
  (∀ (h : Head) (xd xa xb : Reg) (e : Instr × BitVec 6) (w : IWord),
    e ∈ [(Instr.add h xd xa xb, 0#6), (.sub h xd xa xb, 1), (.and h xd xa xb, 2), (.or h xd xa xb, 3), (.xor h xd xa xb, 4), (.andn h xd xa xb, 5),
      (.shl h xd xa xb, 6), (.shr h xd xa xb, 7), (.sra h xd xa xb, 8), (.min h xd xa xb, 9), (.max h xd xa xb, 10), (.minn h xd xa xb, 11),
      (.maxn h xd xa xb, 12), (.slt h xd xa xb, 13), (.sltn h xd xa xb, 14)] →
    encode e.1 = some w → wOpc w = 0x01 ∧ wR4 w = e.2 ∧ wImm48 w = 0)

/-- R130: products at τ+3, quotients and remainders at τ+20; a divisor of 0 and −2^63 by −1 give what R130 says. -/
def Obligations.ProductsAndQuotients : Prop :=
  (∀ (s : State) (h : Head) (q : SeqId) (st : Strand) (xd xa xb : Reg), Ready s h q st →
    let a := st.rx q xa
    let b := st.rx q xb
    let gives (i : Instr) (opc : BitVec 8) (n : Nat) (v : Word) : Prop :=
      exec i s = .next (s.issuedWith h opc 2 (st.laterX q n xd v none (st.px q xa || st.px q xb)))
    gives (.mul h xd xa xb) 0x03 3 (BitVec.ofInt 64 (a.toInt * b.toInt)) ∧
    gives (.mulh h xd xa xb) 0x03 3 (BitVec.ofInt 64 (a.toInt * b.toInt / 2 ^ 64)) ∧
    gives (.mulhn h xd xa xb) 0x03 3 (BitVec.ofNat 64 (a.toNat * b.toNat / 2 ^ 64)) ∧
    (b = 0 →
      gives (.div h xd xa xb) 0x04 20 (BitVec.allOnes 64) ∧ gives (.divn h xd xa xb) 0x04 20 (BitVec.allOnes 64) ∧
      gives (.rem h xd xa xb) 0x04 20 a ∧ gives (.remn h xd xa xb) 0x04 20 a) ∧
    (b ≠ 0 →
      gives (.div h xd xa xb) 0x04 20 (BitVec.ofInt 64 (Int.tdiv a.toInt b.toInt)) ∧
      gives (.divn h xd xa xb) 0x04 20 (BitVec.ofNat 64 (a.toNat / b.toNat)) ∧
      gives (.rem h xd xa xb) 0x04 20 (BitVec.ofInt 64 (a.toInt - Int.tdiv a.toInt b.toInt * b.toInt)) ∧
      gives (.remn h xd xa xb) 0x04 20 (BitVec.ofNat 64 (a.toNat % b.toNat))) ∧
    (a = 0x8000000000000000#64 → b = BitVec.allOnes 64 →
      gives (.div h xd xa xb) 0x04 20 0x8000000000000000#64 ∧ gives (.rem h xd xa xb) 0x04 20 0)) ∧
  (∀ (h : Head) (xd xa xb : Reg) (e : Instr × BitVec 8 × BitVec 6) (w : IWord),
    e ∈ [(Instr.mul h xd xa xb, 0x03#8, 0#6), (.mulh h xd xa xb, 0x03, 1), (.mulhn h xd xa xb, 0x03, 2), (.div h xd xa xb, 0x04, 0),
      (.divn h xd xa xb, 0x04, 1), (.rem h xd xa xb, 0x04, 2), (.remn h xd xa xb, 0x04, 3)] → encode e.1 = some w → wOpc w = e.2.1 ∧ wR4 w = e.2.2)

/-- R131: leading zeros, ones, and the sign and zero extensions of w bits, at τ+1; a w outside 1 to 64 is refused. -/
def Obligations.BitCounts : Prop :=
  (∀ (s : State) (h : Head) (q : SeqId) (st : Strand) (xd xa : Reg) (w : BitVec 7), Ready s h q st →
    let a := st.rx q xa
    let gives (i : Instr) (v : Word) : Prop := exec i s = .next (s.issuedWith h 0x06 1 (st.laterX q 1 xd v none (st.px q xa)))
    (∃ n, gives (.clz h xd xa) (BitVec.ofNat 64 n) ∧ n ≤ 64 ∧ (n = 64 ↔ a = 0) ∧ (∀ k, k < n → a.getLsbD (63 - k) = false) ∧
      (n < 64 → a.getLsbD (63 - n) = true)) ∧
    gives (.popc h xd xa) (BitVec.ofNat 64 ((List.range 64).filter (fun k => a.getLsbD k)).length) ∧
    (1 ≤ w.toNat → w.toNat ≤ 64 →
      gives (.sext h xd xa w) ((a.setWidth w.toNat).signExtend 64) ∧ gives (.zext h xd xa w) ((a.setWidth w.toNat).setWidth 64)) ∧
    ((w.toNat = 0 ∨ 64 < w.toNat) →
      exec (.sext h xd xa w) s = .next (s.trapped st .illRsvd (noAddr .illRsvd) 0) ∧
      exec (.zext h xd xa w) s = .next (s.trapped st .illRsvd (noAddr .illRsvd) 0))) ∧
  (∀ (h : Head) (xd xa : Reg) (n : BitVec 7) (w : IWord),
    (encode (.clz h xd xa) = some w ∨ encode (.popc h xd xa) = some w → wOpc w = 0x06 ∧ wR3 w = 0 ∧ wImm48 w = 0) ∧
    (encode (.sext h xd xa n) = some w ∨ encode (.zext h xd xa n) = some w →
      wOpc w = 0x06 ∧ wR3 w = 0 ∧ (wImm48 w).toNat = n.toNat))

/-- R137: TICK latches the strand time of its slot and GTSR the GTS of its beat, both for τ+1; their other fields are zero. -/
def Obligations.TimeReads : Prop :=
  (∀ (s : State) (h : Head) (q : SeqId) (st : Strand) (xd : Reg), Ready s h q st →
    exec (.tick h xd) s = .next (s.issuedWith h 0x18 1 (st.laterX q 1 xd (BitVec.ofNat 64 st.run.tau))) ∧
    exec (.gtsr h xd) s = .next (s.issuedWith h 0x19 1 (st.laterX q 1 xd (BitVec.ofNat 64 s.chip.gts)))) ∧
  (∀ (h : Head) (xd : Reg) (w : IWord),
    (encode (.tick h xd) = some w → wOpc w = 0x18 ∧ wR2 w = 0 ∧ wR3 w = 0 ∧ wImm48 w = 0) ∧
    (encode (.gtsr h xd) = some w → wOpc w = 0x19 ∧ wR2 w = 0 ∧ wR3 w = 0 ∧ wImm48 w = 0))

/-- R129: ADDI, LI and LIH latch their result for τ+1, and their reserved fields are zero. R132 and the PCMP sentence of R133: predicate words at τ+1;
a compare of a poisoned register traps. The COND codes of R66 as PCMP and BR read them. FADDR of a cause that names no address is free (log 26). -/
def Obligations.ImmediateAndPredicateWords : Prop :=
  ((∀ (s : State) (h : Head) (q : SeqId) (st : Strand) (xd xa : Reg) (imm : BitVec 48) (hi : BitVec 16), Ready s h q st →
    exec (.addi h xd xa imm) s =
      .next (s.issuedWith h 0x02 1 (st.laterX q 1 xd (st.rx q xa + imm.signExtend 64) none (st.px q xa))) ∧
    exec (.li h xd imm) s = .next (s.issuedWith h 0x05 1 (st.laterX q 1 xd (imm.signExtend 64))) ∧
    exec (.lih h xd hi) s =
      .next (s.issuedWith h 0x05 1 (st.laterX q 1 xd (hi ++ (st.rx q xd).extractLsb' 0 48) none (st.px q xd)))) ∧
  (∀ (h : Head) (xd xa : Reg) (imm : BitVec 48) (hi : BitVec 16) (w : IWord),
    (encode (.addi h xd xa imm) = some w → wOpc w = 0x02 ∧ wR3 w = 0) ∧
    (encode (.li h xd imm) = some w → wOpc w = 0x05 ∧ wR4 w = 0 ∧ wR2 w = 0 ∧ wR3 w = 0) ∧
    (encode (.lih h xd hi) = some w → wOpc w = 0x05 ∧ wR4 w = 1 ∧ wR2 w = 0 ∧ wR3 w = 0 ∧ wImm48 w = hi.setWidth 48))) ∧
  (∀ (s : State) (h : Head) (q : SeqId) (st : Strand) (pd pa pb : BitVec 3) (xa xb : Reg) (c : Cond), Ready s h q st →
    let gives (i : Instr) (v : Bool) : Prop := exec i s = .next (s.issuedWith h 0x07 1 (st.later q 1 [.pred q pd.toNat v]))
    gives (.pand h pd pa pb) (st.rp q pa && st.rp q pb) ∧ gives (.por h pd pa pb) (st.rp q pa || st.rp q pb) ∧
    gives (.pxor h pd pa pb) (st.rp q pa != st.rp q pb) ∧ gives (.pnot h pd pa) (!st.rp q pa) ∧
    ((st.px q xa || st.px q xb) = false → gives (.pcmp h pd xa xb c) (condHolds c (st.rx q xa) (st.rx q xb))) ∧
    ((st.px q xa || st.px q xb) = true →
      exec (.pcmp h pd xa xb c) s = .next (s.trapped st .poisonConsumed (noAddr .poisonConsumed) 0))) ∧
  (∀ a b : Word,
    (condHolds .eq a b = true ↔ a = b) ∧ (condHolds .ne a b = true ↔ a ≠ b) ∧ (condHolds .lt a b = true ↔ a.toInt < b.toInt) ∧
    (condHolds .ge a b = true ↔ b.toInt ≤ a.toInt) ∧ (condHolds .ltn a b = true ↔ a.toNat < b.toNat) ∧
    (condHolds .gen a b = true ↔ b.toNat ≤ a.toNat))

/-- R134, R135: a transfer whose condition holds, outside the slot after a transfer and a loop body's end, jumps to a target it may be taken to, CALL
latching the index of the word after its delay slot; one whose condition fails only issues; a target it may not be taken to raises WINDOW_INVALID, a
poisoned register POISON_CONSUMED, and the two places where none may stand ILL_RSVD. A header of a load under way may be a target (log 25); the sum of
JMPX is taken modulo 2^64 (log 73); FADDR of a cause that names no address is free (log 26). -/
def Obligations.Transfers : Prop :=
  ∀ (s : State) (h : Head) (q : SeqId) (st : Strand) (c : Cond) (xa xb : Reg) (p : BitVec 3) (off : BitVec 32), Ready s h q st →
    let sq := st.seq q
    let rel : Int := sq.pc.toNat + off.toInt
    let ind : Int := (st.rx q xa + off.signExtend 64).toNat
    let ret : Int := (st.rx q xa).toNat
    let may (t : Int) : Prop := 0 ≤ t ∧ targetOk s.mem s.chip.cur.core st q t.toNat = true
    let jumps (i : Instr) (opc : BitVec 8) (st' : Strand) (t : Int) : Prop :=
      (may t → exec i s = .next (s.issuedAs h opc 1 (s.withStrand st') (.jump (BitVec.ofNat 14 t.toNat)) .none)) ∧
      (¬ may t → exec i s = .next (s.trapped st .windowInvalid (noAddr .windowInvalid) 0))
    let stays (i : Instr) (opc : BitVec 8) : Prop := exec i s = .next (s.issuedAs h opc 1 s.chip .next .none)
    let eats (i : Instr) : Prop := exec i s = .next (s.trapped st .poisonConsumed (noAddr .poisonConsumed) 0)
    let bad (i : Instr) : Prop := exec i s = .next (s.trapped st .illRsvd (noAddr .illRsvd) 0)
    (sq.pending = none → sq.delay = false → (∀ l, sq.loops.head? = some l → l.last ≠ sq.pc) →
      ((st.px q xa || st.px q xb) = false →
        (condHolds c (st.rx q xa) (st.rx q xb) = true → jumps (.br h c xa xb off) 0x10 st rel) ∧
        (condHolds c (st.rx q xa) (st.rx q xb) = false → stays (.br h c xa xb off) 0x10)) ∧
      ((st.px q xa || st.px q xb) = true → eats (.br h c xa xb off)) ∧
      (st.rp q p = true → jumps (.brp h p off) 0x11 st rel ∧ stays (.brpClr h p off) 0x11) ∧
      (st.rp q p = false → stays (.brp h p off) 0x11 ∧ jumps (.brpClr h p off) 0x11 st rel) ∧
      jumps (.jmp h off) 0x12 st rel ∧
      (st.px q xa = false → jumps (.jmpx h xa off) 0x13 st ind ∧ jumps (.ret h xa) 0x15 st ret) ∧
      (st.px q xa = true → eats (.jmpx h xa off) ∧ eats (.ret h xa)) ∧
      jumps (.call h xa off) 0x14 (st.laterX q 1 xa (BitVec.ofNat 64 (sq.pc.toNat + 2))) rel) ∧
    ((sq.pending ≠ none ∨ sq.delay = true ∨ ∃ l, sq.loops.head? = some l ∧ l.last = sq.pc) →
      bad (.br h c xa xb off) ∧ bad (.brp h p off) ∧ bad (.brpClr h p off) ∧ bad (.jmp h off) ∧ bad (.jmpx h xa off) ∧
      bad (.call h xa off) ∧ bad (.ret h xa))

/-- R134 to R136: where control goes after a word issued. A taken transfer is pending while its delay slot issues, then its target is next, a delay
slot that is a loop body's last word having used its iteration; the last word of a loop's body goes back to the first while iterations are left. R136:
LOOP pushes an entry, or with a count of 0 skips its body; a body outside the section or the loop around it, a fifth level and a length of 0 are
refused. That a count of 0 skips the body is read from R136 (log 52); free FADDR, log 26. -/
def Obligations.NextWordsAndLoops : Prop :=
  (∀ (sq : Seq) (pl : Place) (t : BitVec 14) (l : Loop) (rest : List Loop),
    (sq.pending = some t → ∀ f, f ≠ .stop → f ≠ .eret →
      (sq.advance pl f).pc = t ∧ (sq.advance pl f).pending = none ∧
      (pl.isHdr t.toNat = true → (sq.advance pl f).loops = [] ∧ (sq.advance pl f).atHdr = true) ∧
      (pl.isHdr t.toNat = false → (sq.advance pl f).atHdr = false ∧
        (sq.loops = [l] → l.last = sq.pc → l.left ≤ 1 → (sq.advance pl f).loops = []) ∧
        (sq.loops = [l] → l.last = sq.pc → 1 < l.left → (l.first.toNat ≤ t.toNat ∧ t.toNat ≤ l.last.toNat) →
          (sq.advance pl f).loops = [{ l with left := l.left - 1 }]))) ∧
    (sq.pending = none →
      (sq.advance pl (.jump t)).pending = some t ∧
      (sq.loops = [] → (sq.advance pl .next).pc = sq.pc + 1 ∧ (sq.advance pl (.jump t)).pc = sq.pc + 1) ∧
      (∀ last n, (sq.advance pl (.loop last n)).pc = sq.pc + 1 ∧
        (sq.advance pl (.loop last n)).loops = { first := sq.pc + 1, last := last, left := n } :: sq.loops) ∧
      (∀ last, sq.loops = [] → (sq.advance pl (.skip last)).pc = last + 1 ∧ (sq.advance pl (.skip last)).loops = []) ∧
      (sq.loops = l :: rest → l.last = sq.pc → 1 < l.left →
        (sq.advance pl .next).pc = l.first ∧ (sq.advance pl .next).loops = { l with left := l.left - 1 } :: rest) ∧
      (sq.loops = [l] → l.last = sq.pc → l.left ≤ 1 →
        (sq.advance pl .next).pc = sq.pc + 1 ∧ (sq.advance pl .next).loops = []) ∧
      (sq.loops = l :: rest → l.last ≠ sq.pc → (sq.advance pl .next).pc = sq.pc + 1 ∧ (sq.advance pl .next).loops = sq.loops))) ∧
  (∀ (s : State) (h : Head) (q : SeqId) (st : Strand) (xa : Reg) (len : BitVec 16) (count : BitVec 32) (sec : Section), Ready s h q st →
    currentSection s.mem s.chip.cur.core st q = some sec → (st.seq q).transferHere = true →
    let sq := st.seq q
    let last := sq.pc.toNat + len.toNat
    let n := if xa = 0#6 then count.toNat else (st.rx q xa).toNat % 2 ^ 32
    let fits : Prop := last ≤ sec.lastPos ∧ (∀ l, sq.loops.head? = some l → last ≤ l.last.toNat) ∧ sq.loops.length < 4
    ((Instr.loop h xa len count).WF → fits → st.px q xa = false →
      exec (.loop h xa len count) s =
        .next (s.issuedAs h 0x16 1 s.chip (if n = 0 then .skip (BitVec.ofNat 14 last) else .loop (BitVec.ofNat 14 last) n) .none)) ∧
    ((Instr.loop h xa len count).WF → fits → st.px q xa = true →
      exec (.loop h xa len count) s = .next (s.trapped st .poisonConsumed (noAddr .poisonConsumed) 0)) ∧
    ((len = 0 ∨ ¬ fits) → exec (.loop h xa len count) s = .next (s.trapped st .illRsvd (noAddr .illRsvd) 0)))

/-- R76, R139, R140: NOP only issues; WAITT holds the next word to max(xa, τ+1) with the tag of xa; WAITC passes when what it names is complete and
blocks without limit otherwise. FADDR of POISON_CONSUMED is free here (log 26); which beat finds work complete is log 12. -/
def Obligations.WaitWords : Prop :=
  ∀ (s : State) (h : Head) (q : SeqId) (st : Strand) (xa : Reg) (tok : BitVec 6), Ready s h q st →
    let v := (st.rx q xa).toNat
    let complete : Prop :=
      if tok = 63 then
        ∀ e, e ∈ s.chip.worksOf s.chip.cur.core s.chip.cur.slot → e.2.letters.promised = true → e.2.seenDone s.chip.gts = true
      else ∀ w k, st.sh.tokens.get? tok.toNat = some w → s.chip.work? w = some k → k.seenDone s.chip.gts = true
    exec (.nop h) s = .next (s.issuedAs h 0x00 0 s.chip .next .none) ∧
    (st.px q xa = false →
      exec (.waitt h xa) s = .next (s.issuedAs h 0x1A 1 s.chip .next (.waitt (max v (st.run.tau + 1)) v (st.tagOf q xa)))) ∧
    (st.px q xa = true → exec (.waitt h xa) s = .next (s.trapped st .poisonConsumed (noAddr .poisonConsumed) 0)) ∧
    (complete → exec (.waitc h tok) s = .next (s.issuedAs h 0x1B 1 s.chip .next .none)) ∧
    (¬ complete → exec (.waitc h tok) s = .next (s.blockedAt none .none s.chip))

/-- R141: a pointer is valid only in the four layouts, and a bit no layout names makes it invalid. R142 steps 2 to 5, in their order, on a pointer
whose offset sum `p` stays inside the field: each fault with FADDR p. The bound of a window is on the offset alone, so that a misaligned access over
its end raises ALIGN. -/
def Obligations.PointerLayoutsAndChecks : Prop :=
  (∀ v : Word,
    (∀ a, ptrOf v = .global a ↔ v = BitVec.ofNat 64 a ∧ a < 2 ^ 48) ∧
    (∀ k o, ptrOf v = .cluster k o ↔ v = BitVec.ofNat 64 (0xC0 * 2 ^ 56 + k * 2 ^ 20 + o) ∧ k < 4 ∧ o < 0x40000) ∧
    (∀ c b o, ptrOf v = .scratch c b o ↔
      v = BitVec.ofNat 64 (0xD0 * 2 ^ 56 + c * 2 ^ 32 + b * 2 ^ 20 + o) ∧ c < 384 ∧
        ((b = 0 ∧ o < 0x80000) ∨ (b = 1 ∧ o < 0x40000) ∨ (b = 2 ∧ o < 0x20000))) ∧
    (∀ c w o, ptrOf v = .priv c w o ↔
      v = BitVec.ofNat 64 (0xE0 * 2 ^ 56 + c * 2 ^ 40 + w * 2 ^ 32 + o) ∧ c < 384 ∧ w < 8 ∧ o < 2 ^ 16) ∧
    ptrOf 0xFF00000000000000 = .bad) ∧
  (∀ (core : Nat) (st : Strand) (v : Word) (off : Int) (n : Nat), 0 < n →
    let p := ptrAdd v off
    let r := checkPtr core st v off n n
    (ptrAddBad v off = true → r = .error (.windowInvalid, p)) ∧
    (ptrAddBad v off = false →
      (ptrOf p = .bad → r = .error (.windowInvalid, p)) ∧
      (∀ va, ptrOf p = .global va →
        r = if va % n = 0 then .ok (.global va) else .error (.align, p)) ∧
      (∀ k o, ptrOf p = .cluster k o →
        r = if o % n = 0 then .ok (.cluster (clusterCore core k) o) else .error (.align, p)) ∧
      (∀ c b o, ptrOf p = .scratch c b o →
        r = if c ≠ core then .error (.scratchForeign, p)
            else if b = 2 then .error (.enginePort, p) else if o % n = 0 then .ok (.scratch b o) else .error (.align, p)) ∧
      (∀ o, ptrOf p = .priv core st.place.owner o →
        r = if st.place.winkb * 1024 ≤ o then .error (.windowInvalid, p)
            else if o % n = 0 then .ok (.priv o) else .error (.align, p)) ∧
      (∀ c w o, ptrOf p = .priv c w o → c ≠ core ∨ w ≠ st.place.owner → r = .error (.privateForeign, p))))

/-- R143 to R145: LDX and LDX.S by where their pointer leads. Private and own scratchpad bytes are read at issue and land at τ+3 and τ+6, the promise
register holding that τ; a cluster-shared or global load starts an access, whose tagged promise lands at τ+1; a TLB miss stalls; a fault is taken, or
with LDX.S only poisons xd. An uncorrectable error in what a fixed load reads is consumed by the word (08 R176). The walk of a miss, and the retried
slot that raises its fault, are log 6. A load that consumes uncorrectable data leaves xd as it was (log 33); the cause of an error of on-chip storage
is log 48; that LDX.S defers CAPACITY_RELEASED, log 80. -/
def Obligations.ScalarLoads : Prop :=
  ∀ (s : State) (h : Head) (st : Strand) (size : LdSize) (xd xa xb : Reg) (off : BitVec 48) (spec : Bool),
    Ready s h .ct st → (Instr.ldx h size xd xa xb off).WF →
    let x := s.ctx st
    let core := s.chip.cur.core
    let i : Instr := if spec then .ldxS h size xd xa xb off else .ldx h size xd xa xb off
    let opc : BitVec 8 := if spec then 0x22 else 0x20
    let v := st.rx .ct xa
    let n := (ldBytes size).1
    let ext (l : List Byte) : Word := if (ldBytes size).2 then sextN (8 * n) (leNat l) else BitVec.ofNat 64 (leNat l)
    let pr (k : Nat) (st : Strand) : Strand := st.laterX .ct 1 xb (BitVec.ofNat 64 (st.run.tau + k))
    let dest := reach x v off.toInt n n true false
    let asks (home : Nat) (ents : List TlbEntry) (hc : Nat) : Prop :=
      let a := startAccess x (.load n (ldBytes size).2 (st.regNo .ct xd)) home ents hc true (ptrAdd v off.toInt)
      exec i s = .next (s.issuedOn h opc 3 a.1 (st.laterX .ct 1 xb (BitVec.ofNat 64 a.2.2) (some a.2.1)))
    (st.px .ct xa = true → exec i s = .next (s.trapped st .poisonConsumed (ptrAdd v off.toInt) 0)) ∧
    (st.px .ct xa = false →
      (∀ a, dest = .priv a → s.chip.sramBadAt (windowBase core st + a) n = true →
        exec i s = .next (s.issuedWith h opc 3 (pr 3 (consumeNow st .ct .sramUncorrected (ptrAdd v off.toInt))))) ∧
      (∀ b a c, dest = .scratch b a → s.chip.errorAt (scratchAddr core b a) n = some c →
        exec i s = .next (s.issuedWith h opc 3 (pr 6 (consumeNow st .ct c (ptrAdd v off.toInt))))) ∧
      (∀ a, dest = .priv a → s.chip.sramBadAt (windowBase core st + a) n = false → exec i s = .next (s.issuedWith h opc 3 (pr 3
        (st.laterX .ct 3 xd (ext (s.mem.readBytes (windowBase core st + a) n)) none (st.poisonedRange a n))))) ∧
      (∀ b a, dest = .scratch b a → s.chip.errorAt (scratchAddr core b a) n = none → exec i s = .next (s.issuedWith h opc 3 (pr 6
        (st.laterX .ct 6 xd (ext (s.mem.readBytes (scratchAddr core b a) n)))))) ∧
      (∀ c a, dest = .chip c a → asks (abufAddr c + a) [] c) ∧
      (∀ home ents, dest = .global home ents → asks home ents core) ∧
      (∀ p w, dest = .miss p w → exec i s = .next (s.stalledAt (.tlbMiss p) (startWalk s.chip core s.chip.cur.slot st.place.owner p w))) ∧
      (∀ c fa tv, dest = .fault c fa tv → spec = false → exec i s = .next (s.trapped st c fa tv)) ∧
      (∀ c fa tv, dest = .fault c fa tv → spec = true → ∃ ch, ch = s.retired h opc 3 (dropWalks
        (s.withStrand (pr 1 (st.later .ct 1 [.xKeep .ct (st.regNo .ct xd)]))) core s.chip.cur.slot) .next .none ∧
        exec i s = .next (s.keep ch)))

/-- R143, R146: STX latches its bytes for τ+1 in the window and the own buffers, with xd holding τ+1; elsewhere it starts an access and xd holds its
tagged promise. The walk of a miss, and the retried slot that raises its fault, are log 6. -/
def Obligations.ScalarStores : Prop :=
  ∀ (s : State) (h : Head) (st : Strand) (size : StSize) (xd xa xb : Reg) (off : BitVec 48), Ready s h .ct st →
    let x := s.ctx st
    let core := s.chip.cur.core
    let i := Instr.stx h size xd xa xb off
    let v := st.rx .ct xa
    let n := stBytes size
    let data := leBytes n (st.rx .ct xb).toNat
    let xdLand := Land.x .ct (st.regNo .ct xd) (BitVec.ofNat 64 (st.run.tau + 1)) none false
    let dest := reach x v off.toInt n n false true
    let asks (home : Nat) (ents : List TlbEntry) (hc : Nat) : Prop :=
      let a := startAccess x (.store data) home ents hc true (ptrAdd v off.toInt)
      exec i s = .next (s.issuedOn h 0x21 3 a.1 (st.laterX .ct 1 xd (BitVec.ofNat 64 a.2.2) (some a.2.1)))
    (st.px .ct xa = true → exec i s = .next (s.trapped st .poisonConsumed (ptrAdd v off.toInt) 0)) ∧
    (st.px .ct xa = false → st.px .ct xb = true → exec i s = .next (s.trapped st .poisonStore (ptrAdd v off.toInt) 0)) ∧
    (st.px .ct xa = false → st.px .ct xb = false →
      (∀ a, dest = .priv a → exec i s = .next (s.issuedWith h 0x21 3 (st.later .ct 1 [.reg a data, xdLand]))) ∧
      (∀ b a, dest = .scratch b a → exec i s = .next (s.issuedWith h 0x21 3 (st.later .ct 1 [.bytes (scratchAddr core b a) data, xdLand]))) ∧
      (∀ c a, dest = .chip c a → asks (abufAddr c + a) [] c) ∧
      (∀ home ents, dest = .global home ents → asks home ents core) ∧
      (∀ p w, dest = .miss p w → exec i s = .next (s.stalledAt (.tlbMiss p) (startWalk s.chip core s.chip.cur.slot st.place.owner p w))) ∧
      (∀ c fa tv, dest = .fault c fa tv → exec i s = .next (s.trapped st c fa tv)))

/-- R147 to R149: CHK and CHK.G trap on poison and otherwise only issue; SPTEST latches the space code; SPCAST the pointer in the other window or
null, with its predicate. Poison of SPTEST and SPCAST results is log 63; free FADDR, log 26. -/
def Obligations.PointerWords : Prop :=
  ∀ (s : State) (h : Head) (st : Strand) (xd xa : Reg) (sp : Spec) (win : Win) (p : BitVec 3), Ready s h .ct st →
    let v := st.rx .ct xa
    let core := s.chip.cur.core
    let code := spaceCode core st v
    let casts (w : Word) (b : Bool) : Prop := exec (.spcast h xd xa win p) s = .next (s.issuedWith h 0x25 3
      (st.later .ct 1 [.x .ct (st.regNo .ct xd) w none (st.px .ct xa), .pred .ct p.toNat b]))
    (st.px .ct xa = false → exec (.chk h xa) s = .next (s.issuedAs h 0x23 3 s.chip .next .none)) ∧
    (st.px .ct xa = true → exec (.chk h xa) s = .next (s.trapped st .poisonConsumed 0 0)) ∧
    (st.checkOperands [vsrc sp] = none → st.poisonedRange (st.opAddr sp) 1024 = false →
      exec (.chkG h sp) s = .next (s.issuedAs h 0x23 3 s.chip .next .none)) ∧
    (st.checkOperands [vsrc sp] = none → st.poisonedRange (st.opAddr sp) 1024 = true →
      exec (.chkG h sp) s = .next (s.trapped st .poisonConsumed 0 0)) ∧
    exec (.sptest h xd xa) s = .next (s.issuedWith h 0x24 3 (st.laterX .ct 1 xd (BitVec.ofNat 64 code) none (st.px .ct xa))) ∧
    (code = 7 ↔ ptrOf v = .bad ∨ ∃ o, ptrOf v = .priv core st.place.owner o ∧ st.place.winkb * 1024 ≤ o) ∧
    (code = 0 ↔ ∃ a, ptrOf v = .global a) ∧ (code = 1 ↔ ∃ k o, ptrOf v = .cluster k o) ∧
    (code = 2 ↔ ∃ b o, ptrOf v = .scratch core b o) ∧ (code = 3 ↔ ∃ c b o, ptrOf v = .scratch c b o ∧ c ≠ core) ∧
    (code = 4 ↔ ∃ o, ptrOf v = .priv core st.place.owner o ∧ o < st.place.winkb * 1024) ∧
    (code ≠ 7 → v.extractLsb' 56 8 = Sys2Proof.winCode win → casts v true) ∧
    (∀ o, ptrOf v = .scratch core 1 o → win = .cluster →
      casts (BitVec.ofNat 64 (0xC0 * 2 ^ 56 + inCluster core * 2 ^ 20 + o)) true) ∧
    (∀ o, ptrOf v = .cluster (inCluster core) o → win = .scratch →
      casts (BitVec.ofNat 64 (0xD0 * 2 ^ 56 + core * 2 ^ 32 + 2 ^ 20 + o)) true) ∧
    ((code = 7 ∨ v.extractLsb' 56 8 ≠ Sys2Proof.winCode win) → ¬ (∃ o, ptrOf v = .scratch core 1 o ∧ win = .cluster) →
      ¬ (∃ o, ptrOf v = .cluster (inCluster core) o ∧ win = .scratch) → casts 0xFF00000000000000 false)

/-- R150, R151, R142: AMO and CAS start one atomic access at the home of a cluster-shared or global address, their promise register holding its tagged
promise; every other window is refused, a poisoned operand raises POISON_STORE. R150, R151: the value an atomic leaves at its home, for each operation
and for CAS. -/
def Obligations.Atomics : Prop :=
  (∀ (s : State) (h : Head) (st : Strand) (op : AmoOp) (size : AmoSize) (xd xa xb xp : Reg) (cas : Bool), Ready s h .ct st →
    let i : Instr := if cas then .cas h size xd xa xb xp else .amo h op size xd xa xb xp
    let opc : BitVec 8 := if cas then 0x27 else 0x26
    let acc : Access := if cas then .cas (amoBytes size) (st.rx .ct xd) (st.rx .ct xb) (st.regNo .ct xd)
      else .amo op (amoBytes size) (st.rx .ct xb) (st.regNo .ct xd)
    let x := s.ctx st
    let v := st.rx .ct xa
    let n := amoBytes size
    let dest := reach x v 0 n n true true
    let asks (home : Nat) (ents : List TlbEntry) (hc : Nat) : Prop :=
      let a := startAccess x acc home ents hc true v
      exec i s = .next (s.issuedOn h opc 3 a.1 (st.laterX .ct 1 xp (BitVec.ofNat 64 a.2.2) (some a.2.1)))
    i.WF →
    (st.px .ct xa = true → exec i s = .next (s.trapped st .poisonConsumed v 0)) ∧
    (st.px .ct xa = false → (st.px .ct xb || (cas && st.px .ct xd)) = true → exec i s = .next (s.trapped st .poisonStore v 0)) ∧
    (st.px .ct xa = false → (st.px .ct xb || (cas && st.px .ct xd)) = false →
      ((∀ a, ptrOf v ≠ .global a) → (∀ k o, ptrOf v ≠ .cluster k o) → exec i s = .next (s.trapped st .windowInvalid v 0)) ∧
      ((∃ a, ptrOf v = .global a) ∨ (∃ k o, ptrOf v = .cluster k o) →
        (∀ c a, dest = .chip c a → asks (abufAddr c + a) [] c) ∧
        (∀ home ents, dest = .global home ents → asks home ents s.chip.cur.core) ∧
        (∀ p w, dest = .miss p w →
          exec i s = .next (s.stalledAt (.tlbMiss p) (startWalk s.chip s.chip.cur.core s.chip.cur.slot st.place.owner p w))) ∧
        (∀ c fa tv, dest = .fault c fa tv → exec i s = .next (s.trapped st c fa tv))))) ∧
  (∀ (n old : Nat) (v e : Word) (xd : Nat), (n = 4 ∨ n = 8) → old < 2 ^ (8 * n) →
    let b := v.toNat % 2 ^ (8 * n)
    let sgn (k : Nat) : Int := if k < 2 ^ (8 * n - 1) then k else (k : Int) - 2 ^ (8 * n)
    let leaves (op : AmoOp) (r : Nat) : Prop := (Access.amo op n v xd).newValue old = r
    leaves .add ((old + b) % 2 ^ (8 * n)) ∧ leaves .min (if sgn old ≤ sgn b then old else b) ∧
    leaves .max (if sgn old ≤ sgn b then b else old) ∧ leaves .minn (min old b) ∧ leaves .maxn (max old b) ∧
    leaves .and (old &&& b) ∧ leaves .or (old ||| b) ∧ leaves .xor (old ^^^ b) ∧ leaves .swap b ∧
    (Access.cas n e v xd).newValue old = (if old = e.toNat % 2 ^ (8 * n) then b else old))

/-- R110, R152: a fence issues once what it found outstanding at its first head beat is performed at its scope, and blocks without limit until then;
what its predecessors had shown before that beat joins its successors' clocks. `left` is what of the predecessors is not performed in the present
beat. R153: MARM arms a monitor on the line, a fifth disarming the oldest. R154: MWAIT returns when one has fired, when none is armed or at its limit,
disarming all, and otherwise blocks without limit; MWAIT_TIMEOUT issues the MWAIT at CT's head once the limit has come. MWAIT after a restore is log
59. Its limit counts on the handler's clock while H = 1 (log 9). -/
def Obligations.FencesAndMonitors : Prop :=
  (∀ (s : State) (h : Head) (st : Strand) (p sc : BitVec 6) (scope : Scope) (tau : Nat) (preds : List Nat), Ready s h .ct st →
    (Instr.fence h p sc scope).WF →
    (st.ct.wait = .fence tau preds ∨
      (∀ t l, st.ct.wait ≠ .fence t l) ∧ tau = st.run.tau ∧
        preds = predecessors (s.ctx st) (fun k => k.letters.bits &&& p != 0#6) scope) →
    let left := preds.filter (fun w => !performedAt s.chip w scope)
    (left = [] → exec (.fence h p sc scope) s = .next (s.issuedWith h 0x28 14 (st.fenced .ct tau (p.setWidth 7) sc))) ∧
    (left ≠ [] → exec (.fence h p sc scope) s = .next (s.blockedAt none (.fence tau left) s.chip))) ∧
  (∀ (s : State) (h : Head) (st : Strand) (xa xd : Reg), Ready s h .ct st →
    let v := st.rx .ct xa
    let core := s.chip.cur.core
    let arms (home : Nat) : Prop := exec (.marm h xa) s = .next (s.issuedWith h 0x29 3
      (({ st with monitors := st.monitors.drop (st.monitors.length - 3) ++ [{ line := home / 64, fired := false, restored := false, after := (earlierOverlaps (s.ctx st) [(home / 64 * 64, 64)]).filter (fun w =>
        ((s.chip.work? w).map Work.writes).getD false) }] } :
        Strand).learn st.run.tau 0 (knownAt s.chip core (home / 64 * 64) 64)))
    let now := if st.run.h then st.run.hclk else st.run.tau
    let first := match st.ct.wait with | .mwait t => t | _ => now
    let ready : Prop := st.monitors = [] ∨ (∃ m, m ∈ st.monitors ∧ (m.fired = true ∨ m.restored = true)) ∨ first + 1048576 ≤ now
    (st.px .ct xa = true → exec (.marm h xa) s = .next (s.trapped st .poisonConsumed v 0)) ∧
    (st.px .ct xa = false →
      (∀ c o, checkPtr core st v 0 1 1 = .ok (.cluster c o) → arms (abufAddr c + o)) ∧
      (∀ va a n e l, checkPtr core st v 0 1 1 = .ok (.global va) →
        translate s.chip core s.chip.cur.slot st.place.owner va 1 false = .hit ((a, n, e) :: l) → s.chip.releasedAt a = false →
        arms (storePlace e a)) ∧
      ((∃ c b o, ptrOf v = .scratch c b o) ∨ (∃ c w o, ptrOf v = .priv c w o) →
        exec (.marm h xa) s = .next (s.trapped st .windowInvalid v 0))) ∧
    (ready → exec (.mwait h xd) s = .next (s.issuedWith h 0x2A 3
      ({ st with monitors := [] }.laterX .ct 1 xd (mwaitStatus st.monitors)))) ∧
    (¬ ready → exec (.mwait h xd) s = .next (s.blockedAt none (.mwait first) s.chip)) ∧
    (∀ t, decode (wordAt s.mem core st.place st.ct.pc.toNat) = some (.mwait h xd) → st.ct.wait = .mwait t → t + 1048576 ≤ now →
      exec (.mwaitTimeout core s.chip.cur.slot) s = .next (s.issuedWith h 0x2A 3
        ({ st with monitors := [] }.laterX .ct 1 xd (mwaitStatus st.monitors)))))

/-- R155, R156: a barrier update acts at τ+1 through a scratchpad pointer to the own ABUF, and starts an access through a cluster-shared pointer; WAIT
registers, blocks without limit, and issues once released; an INIT of two zero counts is reserved. R156, R157: what each update does to a barrier's
word, and that both counts at zero advance the phase and reload. A scratchpad pointer to another core traps SCRATCH_FOREIGN by R155 and R142 (log 58).
-/
def Obligations.Barriers : Prop :=
  (∀ (s : State) (h : Head) (st : Strand) (xa xb : Reg) (home hc : Nat) (own : Bool), Ready s h .ct st →
    st.px .ct xa = false → st.px .ct xb = false → barrierPtr s.chip.cur.core (st.rx .ct xa) = .ok (hc, home, own) →
    (own = true ∨ ((s.chip.owner st.place.owner).stride .mesh).isSome = true) →
    let x := s.ctx st
    let v := st.rx .ct xb
    let starts (i : Instr) (a : Access) : Prop :=
      exec i s = .next (s.issuedAs h 0x2B 3 (startBarrier x a home hc own (st.rx .ct xa)).1 .next .none)
    ((v.extractLsb' 0 48) ≠ 0 → starts (.txbInit h xa xb) (.txbInit v)) ∧
    ((v.extractLsb' 0 48) = 0 → exec (.txbInit h xa xb) s = .next (s.trapped st .illRsvd (noAddr .illRsvd) 0)) ∧
    starts (.txbArrive h xa xb) (.txbArrive (v.extractLsb' 0 16).toNat) ∧
    starts (.txbExpect h xa xb) (.txbExpect (v.extractLsb' 0 32).toNat) ∧
    ((∀ w, st.ct.wait ≠ .txb w) →
      let b := startBarrier x (.txbWait (v.extractLsb' 0 4).toNat false false) home hc own (st.rx .ct xa)
      exec (.txbWait h xa xb) s = .next (s.blockedAt none (.txb b.2) b.1)) ∧
    (∀ w k p r g a e, st.ct.wait = .txb w → s.chip.work? w = some k → k.kind = .access (.txbWait p r g) a e →
      ((k.overAt s.chip.gts || (g && k.steps.isEmpty)) = true →
        ∃ st', exec (.txbWait h xa xb) s = .next (s.issuedWith h 0x2B 3 st') ∧ st' = st.learn st.run.tau 5 (s.chip.clocks.getD (a / 8) [0, 0, 0, 0])) ∧
      ((k.overAt s.chip.gts || (g && k.steps.isEmpty)) = false → exec (.txbWait h xa xb) s = .next (s.blockedAt none (.txb w) s.chip)))) ∧
  (∀ (b : Barrier) (v : Word) (n : Nat),
    Barrier.init v =
      { phase := 0, apend := (v.extractLsb' 0 16).toNat, spend := (v.extractLsb' 16 32).toNat,
        areload := (v.extractLsb' 0 16).toNat, sreload := (v.extractLsb' 16 32).toNat, status := 0 } ∧
    (b.apend = 0 → b.spend = 0 → b.settle = { b with phase := (b.phase + 1) % 16, apend := b.areload, spend := b.sreload }) ∧
    (b.apend ≠ 0 ∨ b.spend ≠ 0 → b.settle = b) ∧
    (0 < n → n ≤ b.apend → b.arrive n = Barrier.settle { b with apend := b.apend - n }) ∧
    (0 < b.apend → b.arrive 0 = Barrier.settle { b with apend := b.apend - 1 }) ∧
    (b.apend < n → b.arrive n = Barrier.settle { b.overflow with apend := 0 }) ∧
    (b.spend + n < 2 ^ 32 → b.expect n = Barrier.settle { b with spend := b.spend + n }) ∧
    (2 ^ 32 ≤ b.spend + n → b.expect n = Barrier.settle { b.overflow with spend := 2 ^ 32 - 1 }) ∧
    (0 < b.spend → b.count = Barrier.settle { b with spend := b.spend - 1 }) ∧
    (∀ c, b.status % 128 = 0 → b.fail c = { b with status := b.status + causeCode c }) ∧
    (∀ c, b.status % 128 ≠ 0 → b.fail c = b) ∧
    b.overflow = { b with status := if b.status < 128 then b.status + 128 else b.status })

/-- R213 to R215: a copy that passes the checks of R212, of a strand with fewer than 32 open copies, issues with its work started over the rows of its
tile. R216: CPY.LL moves n bytes from a cluster core's ABUF, with the checks of its entry in their order. The row that CPY.G reads under pad = clamp
for a row index out of range is log 55. -/
def Obligations.CopyWords : Prop :=
  (∀ (s : State) (h : Head) (st : Strand) (xd xh xc xs xb : Reg) (t : Toks) (buf : Buf) (pad : Pad) (at64 : BitVec 13)
    (hd : Handle) (rd wr : Bool), Ready s h .ct st →
    let x := s.ctx st
    let v := st.rx .ct xs
    let fits (e0 rows : Nat) : Prop := at64.toNat * 64 + footprint hd e0 rows ≤ bufSize buf
    let o := fields16 (st.rx .ct xc)
    let e := fields16 v
    let o0 := o.getD 0 0
    let e0 := e.getD 0 1
    let rows := tileRowList hd o e
    let starts (i : Instr) (opc : BitVec 8) (c : CopyPlan) : Prop :=
      exec i s = .next (s.issuedRes h opc 13 (startedCopy x xd t c))
    readHandle s.mem s.chip (s.chip.part (s.chip.owner st.place.owner).part) st.place.owner (st.rx .ct xh) = some (hd, rd, wr) →
    classOf x hd (st.rx .ct xh) = none → (openCopies x).length < 32 →
    (∀ r, r ∈ [xh, xc, xs, xb] → st.px .ct r = false) →
    (∀ bar, copyBarrier x xb = .ok bar →
      (rd = true → extentBad hd o e = false → fits e0 rows.length →
        starts (.cpyIn h xd xh xc xs xb t buf pad at64) 0x30 (tilePlan x 0 buf pad at64 hd o0 e0 rows bar)) ∧
      (wr = true → buf ≠ .wbuf → extentBad hd o e = false → fits e0 rows.length →
        starts (.cpyOut h xd xh xc xs xb t buf at64) 0x31 (tilePlan x 1 buf .handle at64 hd o0 e0 rows bar)) ∧
      (∀ n, rd = true → (Instr.cpyG h xd xh xc xs xb t buf pad at64).WF →
        (∀ i, 4 * i < n → st.px .ct (xc + BitVec.ofNat 6 i) = false) → n = (v.extractLsb' 48 8).toNat → 1 ≤ n → n ≤ 32 →
        v.extractLsb' 56 8 = 0 →
        extentBad hd [(v.extractLsb' 0 16).toNat, 0, (v.extractLsb' 32 16).toNat, 0] [(v.extractLsb' 16 16).toNat, 1, 1, 1] = false →
        fits (v.extractLsb' 16 16).toNat n →
        starts (.cpyG h xd xh xc xs xb t buf pad at64) 0x32
          (tilePlan x 2 buf pad at64 hd (v.extractLsb' 0 16).toNat (v.extractLsb' 16 16).toNat
            ((List.range n).map (fun j =>
              let r := tileRow hd ((st.rx .ct (xc + BitVec.ofNat 6 (j / 4))).extractLsb' (16 * (j % 4)) 16).toNat (v.extractLsb' 32 16).toNat 0
              if pad = .clamp then (true, r.2) else r)) bar))) ∧
    (∀ ds, rd = true → extentBad hd o e = false → fits e0 rows.length → multicastDests x (st.rx .ct xb) = some ds →
      starts (.cpyMC h xd xh xc xs xb t buf pad at64) 0x33 (multicastPlan x buf pad at64 hd o0 e0 rows ds
        (if (st.rx .ct xb).getLsbD 63 then some (((st.rx .ct xb).extractLsb' 42 14).toNat * 16) else none)))) ∧
  (∀ (s : State) (h : Head) (st : Strand) (xd xh xs xb : Reg) (t : Toks) (buf : Buf) (at64 : BitVec 13) (k o : Nat), Ready s h .ct st →
    let x := s.ctx st
    let i := Instr.cpyLL h xd xh xs xb t buf at64
    let v := st.rx .ct xh
    let n := (st.rx .ct xs).toNat
    let traps (c : Cause) (fa : Word) : Prop := exec i s = .next (s.trapped st c fa 0)
    let okN : Prop := n % 64 = 0 ∧ 64 ≤ n ∧ n ≤ 262144
    ((∃ r, r ∈ [xh, xs, xb] ∧ st.px .ct r = true) → traps .poisonConsumed (noAddr .poisonConsumed)) ∧
    ((∀ r, r ∈ [xh, xs, xb] → st.px .ct r = false) →
      ((∀ k o, ptrOf v ≠ .cluster k o) → traps .windowInvalid v) ∧
      (ptrOf v = .cluster k o →
        (o % 64 ≠ 0 → traps .align v) ∧
        (o % 64 = 0 → ¬ okN → traps .extentInvalid (noAddr .extentInvalid)) ∧
        (o % 64 = 0 → okN → 0x40000 < o + n → traps .windowInvalid v) ∧
        (o % 64 = 0 → okN → o + n ≤ 0x40000 → bufSize buf < at64.toNat * 64 + n → traps .windowInvalid (noAddr .windowInvalid)) ∧
        (∀ bar, o % 64 = 0 → okN → o + n ≤ 0x40000 → at64.toNat * 64 + n ≤ bufSize buf → copyBarrier x xb = .ok bar →
          ((s.chip.owner st.place.owner).stride .mesh).isSome = true → (openCopies x).length < 32 →
          exec i s = .next (s.issuedRes h 0x34 13 (startedCopy x xd t (localPlan x buf at64 v k o n bar)))))))

/-- R138, R212, R218: what a started copy is: new work with its plan and promise, its locks, its token, and a promise register that will hold the
promised τ with the work's tag. Its plan reads the machine and changes nothing of it. R212: the checks of a copy by handle, in their order, each
precise; the 33rd open copy blocks under the limit. The open-copy limit blocks under R212; free FADDR, log 26. -/
def Obligations.CopyStartsAndChecks : Prop :=
  (∀ (x : Ctx) (xd : Reg) (t : Toks) (c : CopyPlan), c.bar = none →
    (∀ p b, (c.plan p b).chip = p.chip) →
    let r := startedCopy x xd t c
    let w := x.chip.workNext
    r.writes = [] ∧ r.chip.workNext = w + 1 ∧
    ∃ k, r.chip.work? w = some k ∧ k.kind = c.kind ∧ k.state = .running ∧ k.doneBeat = none ∧ k.total = c.total ∧ k.barrier = none ∧
      k.core = x.core ∧ k.slot = x.slot ∧ k.q = x.q ∧ k.letters = { bits := 4, promised := true } ∧
      k.produces = (if t.p = 63 then none else some t.p.toNat) ∧
      r.chip.locks = x.chip.locks ++ c.locks.map (fun l => { work := w, core := l.1, lo := l.2.1, hi := l.2.2 }) ∧
      r.chip.strand? x.core x.slot = some (produce (x.st.laterX x.q 1 xd (BitVec.ofNat 64 k.promise) (some w)) t w)) ∧
  (∀ (s : State) (h : Head) (st : Strand) (xd xh xc xs xb : Reg) (t : Toks) (buf : Buf) (pad : Pad) (at64 : BitVec 13), Ready s h .ct st →
    let x := s.ctx st
    let i := Instr.cpyIn h xd xh xc xs xb t buf pad at64
    let j := Instr.cpyOut h xd xh xc xs xb t buf at64
    let o := fields16 (st.rx .ct xc)
    let e := fields16 (st.rx .ct xs)
    let found := readHandle s.mem s.chip (s.chip.part (s.chip.owner st.place.owner).part) st.place.owner (st.rx .ct xh)
    let traps (i : Instr) (c : Cause) (fa : Word) : Prop := exec i s = .next (s.trapped st c fa 0)
    let big (hd : Handle) : Prop := bufSize buf < at64.toNat * 64 + footprint hd (e.getD 0 1) (tileRowList hd o e).length
    ((∃ r, r ∈ [xh, xc, xs, xb] ∧ st.px .ct r = true) →
      traps i .poisonConsumed (noAddr .poisonConsumed) ∧ traps j .poisonConsumed (noAddr .poisonConsumed)) ∧
    ((∀ r, r ∈ [xh, xc, xs, xb] → st.px .ct r = false) →
      (found = none → traps i .handleInvalid (st.rx .ct xh) ∧ traps j .handleInvalid (st.rx .ct xh)) ∧
      (∀ hd rd wr, found = some (hd, rd, wr) →
        (rd = false → traps i .handlePerm (st.rx .ct xh)) ∧ (wr = false → traps j .handlePerm (st.rx .ct xh)) ∧
        (rd = true → extentBad hd o e = true → traps i .extentInvalid (noAddr .extentInvalid)) ∧
        (wr = true → extentBad hd o e = true → traps j .extentInvalid (noAddr .extentInvalid)) ∧
        (wr = true → extentBad hd o e = false → buf = .wbuf → traps j .enginePort (noAddr .enginePort)) ∧
        (rd = true → extentBad hd o e = false → big hd → traps i .windowInvalid (noAddr .windowInvalid)) ∧
        (∀ c fa, rd = true → extentBad hd o e = false → ¬ big hd → copyBarrier x xb = .error (c, fa) → traps i c fa) ∧
        (∀ bar, rd = true → extentBad hd o e = false → ¬ big hd → copyBarrier x xb = .ok bar → classOf x hd (st.rx .ct xh) = none →
          32 ≤ (openCopies x).length → exec i s = .next (s.blockedAt (some .queueImbalance) .none s.chip)))))

/-- R217, R218: CANCEL ends what it names and issues; STAT latches the state of the latest copy of its token for τ+1. R163, R165, R166: a section load
that names a good image outside what runs issues with its work started; SECWAIT passes once RET reaches the number; QPUSH queues a value while q3 has
room. SECLD reads the image header at issue (log 61). SECWAIT of section 0xFFF passes at once (log 82). -/
def Obligations.CopyControlAndSections : Prop :=
  (∀ (s : State) (h : Head) (st : Strand) (xd : Reg) (tok : BitVec 6), Ready s h .ct st →
    let x := s.ctx st
    let named := (openCopies x).filter (fun e => tok == 63#6 || st.sh.tokens.get? tok.toNat == some e.1)
    let gives (v : Word) : Prop := exec (.cpyStat h xd tok) s = .next (s.issuedWith h 0x36 13 (st.laterX .ct 1 xd v))
    (named = [] → exec (.cpyCancel h tok) s = .next (s.issuedAs h 0x35 13 s.chip .next .none)) ∧
    (∃ r, r = named.foldl (fun r e => endCopy s.mem r e.1 e.2 .cancelled) { chip := s.chip, writes := [] } ∧
      exec (.cpyCancel h tok) s = .next (s.issuedRes h 0x35 13 r)) ∧
    (tok = 63 → gives (BitVec.ofNat 64 ((openCopies x).length % 64))) ∧
    (tok ≠ 63 → latestProducer x Work.isCopy tok = none → gives 0) ∧
    (∀ k, tok ≠ 63 → latestProducer x Work.isCopy tok = some k →
      gives (BitVec.ofNat 64 ((match k.state with | .running => 1 | .done => 0 | .error c => 2 + causeCode c * 2 ^ 8 | .cancelled => 3)
        + landedOf k * 2 ^ 16)))) ∧
  (∀ (s : State) (h : Head) (st : Strand) (xd xa : Reg) (sec : BitVec 12) (dst : BitVec 14) (qn : BitVec 2)
    (va h0 h1 n : Nat) (e0 e1 : List TlbEntry) (hdr : Section), Ready s h .ct st →
    let x := s.ctx st
    let o := s.chip.owner st.place.owner
    let fa := st.rx .ct xa
    let core := s.chip.cur.core
    let sl := s.chip.cur.slot
    let met := prereqMet (st.seq (seqOf qn)).ret sec
    (st.px .ct xa = false → ptrOf (st.rx .ct xa) = .global va → va % 4 = 0 →
      translateGlobal s.chip core sl st va 12 true false fa = .global h0 e0 →
      hdr = sectionOf dst (wordOfBytes ((piecesOf h0 12 e0).flatMap (fun p => readAt s.mem s.chip s.chip.cur.core p.2.2
        (readPlace s.chip.cur.core p.2.2 p.1) p.2.1))) →
      n = 1 + hdr.len.toNat + (if hdr.check then 1 else 0) → dst.toNat + n ≤ positions st.place.iskb →
      (∀ q, ¬ (dst.toNat ≤ (st.seq q).pc.toNat ∧ (st.seq q).pc.toNat < dst.toNat + n)) →
      (∀ q k, (st.seq q).sec = some k → k.lastPos + (if k.check then 1 else 0) < dst.toNat ∨ dst.toNat + n ≤ k.hdr.toNat) →
      reachGlobal s.chip core sl st o va (12 * n) true false fa = .global h1 e1 →
      exec (.secld h xd xa sec dst) s =
        .next (s.issuedRes h 0x38 13 (startedSecld x xd (st.rx .ct xa) h1 e1 n sec dst.toNat))) ∧
    (st.px .ct xa = true → exec (.secld h xd xa sec dst) s = .next (s.trapped st .poisonConsumed (st.rx .ct xa) 0)) ∧
    (met = true → exec (.secwait h sec qn) s = .next (s.issuedAs h 0x39 13 s.chip .next .none)) ∧
    (met = false → exec (.secwait h sec qn) s = .next (s.blockedAt (some .tokenOverflow) .none s.chip)) ∧
    (st.px .ct xa = true → exec (.qpush h xa) s = .next (s.trapped st .poisonConsumed (noAddr .poisonConsumed) 0)) ∧
    (st.px .ct xa = false → st.sh.q3.length < 16 →
      exec (.qpush h xa) s = .next (s.issuedWith h 0x3A 13 (st.later .ct 1 [.push3 (st.rx .ct xa)]))) ∧
    (st.px .ct xa = false → 16 ≤ st.sh.q3.length → exec (.qpush h xa) s = .next (s.blockedAt (some .queueImbalance) .none s.chip)))

/-- R169: CSRR, CSRW, CSRS and CSRC latch the old value for xd and the new value for the CSR, both for τ+1; a number the mode cannot reach raises
PRIV, a poisoned source POISON_CONSUMED. 07 R170, 05 R91: what a CSR write leaves. Reserved bits are not kept, FRM above 4 and unlisted modes change
nothing, and a read-only register ignores the write. FTRAPEN is read at issue (log 10); free FADDR, log 26. -/
def Obligations.CsrAccess : Prop :=
  (∀ (s : State) (h : Head) (st : Strand) (xd xa : Reg) (csr : BitVec 12), Ready s h .ct st →
    let old := csrRead s.chip s.chip.cur.core s.chip.cur.slot st csr.toNat
    let v := st.rx .ct xa
    let rd := Land.x .ct (st.regNo .ct xd) old none false
    let writes (i : Instr) (new : Word) : Prop := i.WF →
      (csrReach csr st.place.sup = true → st.px .ct xa = false →
        exec i s = .next (s.issuedWith h 0xD2 14 (st.later .ct 1 [rd, .csr csr.toNat new]))) ∧
      (csrReach csr st.place.sup = true → st.px .ct xa = true →
        exec i s = .next (s.trapped st .poisonConsumed (noAddr .poisonConsumed) 0)) ∧
      (csrReach csr st.place.sup = false → exec i s = .next (s.trapped st .priv (noAddr .priv) 0))
    ((Instr.csrr h xd csr).WF →
      (csrReach csr st.place.sup = true → exec (.csrr h xd csr) s = .next (s.issuedWith h 0xD2 14 (st.later .ct 1 [rd]))) ∧
      (csrReach csr st.place.sup = false → exec (.csrr h xd csr) s = .next (s.trapped st .priv (noAddr .priv) 0))) ∧
    writes (.csrw h xd xa csr) v ∧ writes (.csrs h xd xa csr) (old ||| v) ∧ writes (.csrc h xd xa csr) (old &&& ~~~ v)) ∧
  (∀ (ch : Chip) (c sl : Nat) (st : Strand) (v : Word),
    let reads (n : Nat) (r : Word) : Prop := csrRead ch c sl (csrWrite st n v) n = r
    reads 0x001 (v &&& 0x3F) ∧ reads 0x003 (v &&& 0x3F) ∧ reads 0x010 (v &&& 0x3FFF) ∧ reads 0x011 (v &&& 0x3FFF) ∧
    reads 0x012 (v &&& 0x3FFF) ∧ reads 0x013 (v &&& 0x3FFF) ∧ reads 0x014 (v &&& 0x3FFF) ∧ reads 0x800 (v &&& 0x1FFFFF) ∧
    ((v.extractLsb' 0 3).toNat ≤ 4 → reads 0x002 (v &&& 7)) ∧
    (4 < (v.extractLsb' 0 3).toNat → csrWrite st 0x002 v = st) ∧
    (v.extractLsb' 0 2 ≠ 3 → reads 0x040 (v &&& 0x3F)) ∧ (v.extractLsb' 0 2 = 3 → csrWrite st 0x040 v = st) ∧
    (tolOk v = true → reads 0x041 v ∧ reads 0x042 v ∧ reads 0x043 v) ∧
    (tolOk v = false → csrWrite st 0x041 v = st ∧ csrWrite st 0x042 v = st ∧ csrWrite st 0x043 v = st) ∧
    reads 0x044 (v &&& 0xC000001F1F1F1F1F) ∧
    (∀ n, n ∈ [0x400, 0x401, 0x402, 0x403, 0x404, 0x410, 0x411, 0x412, 0x420, 0x421, 0x422, 0x430, 0x440, 0x441, 0x442, 0x443, 0x801] →
      csrWrite st n v = st))

/-- R171 to R174: TRAP issues and leaves SW_TRAP pending, in a handler for CT's next slot; ERET in a handler whose work is over leaves it, and outside
a handler raises PRIV; HALT issues and nothing more does; PREPT in an open window records the tiles and stalls. R167, R168: CROPEN queues the opening
of a region whose handler may be transferred to; CRCLOSE waits for the region's work and queues its closing; the reserved cases raise ILL_RSVD. -/
def Obligations.SystemAndRegionWords : Prop :=
  (∀ (s : State) (h : Head) (st : Strand) (n : BitVec 8) (mask : BitVec 32), Ready s h .ct st →
    let o := s.chip.owner st.place.owner
    let busy := (s.chip.worksOf s.chip.cur.core s.chip.cur.slot).any (fun e => e.2.inH && !e.2.seenDone s.chip.gts)
    (st.run.h = false → exec (.trap h n) s = .next (s.issuedWith h 0xD0 14
      { st with traps := st.traps ++ [st.mkTrap .ct .swTrap (noAddr .swTrap) (n.setWidth 64)] })) ∧
    (st.run.h = true → exec (.trap h n) s = .next (s.issuedWith h 0xD0 14 { st with run := { st.run with htrap := some .swTrap } })) ∧
    (st.run.h = false → exec (.eret h) s = .next (s.trapped st .priv (noAddr .priv) 0)) ∧
    (st.run.h = true → busy = false → exec (.eret h) s =
      .next (s.issuedAs h 0xD1 14 (leaveHandler s.mem s.chip s.chip.cur.core s.chip.cur.slot st) .eret .none)) ∧
    (st.run.h = true → busy = true → exec (.eret h) s = .next (s.blockedAt none .none s.chip)) ∧
    exec (.halt h) s = .next (s.issuedAs h 0xD3 14 (s.withStrand { st with run := { st.run with halted := true } }) .stop .none) ∧
    (∀ p, st.run.h = false → o.state = .window → o.preempt = some p → p.g ≤ s.chip.gts → s.chip.gts < p.windowEnd →
      exec (.prept h mask) s = .next (s.issuedWith h 0xD4 14
        { st with run := { st.run with
            preptMask := some (mask &&& st.place.ctmask)
            stall := some { kind := .prept, bs := s.chip.gts + 1, cleared := none } } })) ∧
    (o.state ≠ .window → exec (.prept h mask) s = .next (s.issuedAs h 0xD4 14 s.chip .next .none))) ∧
  (∀ (s : State) (h : Head) (st : Strand) (n : BitVec 4) (off : BitVec 32), Ready s h .ct st → (Instr.cropen h n off).WF →
    let t : Int := st.ct.pc.toNat + off.toInt
    let may : Prop := 0 ≤ t ∧ targetOk s.mem s.chip.cur.core st .ct t.toNat = true
    let busy := (s.chip.worksOf s.chip.cur.core s.chip.cur.slot).any (fun e => e.2.region == some n.toNat && !e.2.seenDone s.chip.gts)
    let bad (i : Instr) : Prop := exec i s = .next (s.trapped st .illRsvd (noAddr .illRsvd) 0)
    let free : Prop := (∀ r, r ∈ st.regions → r.num ≠ n.toNat) ∧ st.regions.length < 8
    ((st.ct.pending ≠ none ∨ st.ct.delay = true) → bad (.cropen h n off) ∧ bad (.crclose h n)) ∧
    (st.ct.pending = none → st.ct.delay = false →
      (free → st.run.h = true → exec (.cropen h n off) s = .next (s.issuedAs h 0xD6 14 s.chip .next .none)) ∧
      (¬ free → bad (.cropen h n off)) ∧
      (free → st.run.h = false → may → exec (.cropen h n off) s =
        .next (s.issuedWith h 0xD6 14 (st.later .ct 1 [.openRegion n.toNat (BitVec.ofNat 14 t.toNat)]))) ∧
      (free → st.run.h = false → ¬ may → exec (.cropen h n off) s = .next (s.trapped st .windowInvalid (noAddr .windowInvalid) 0)) ∧
      (st.innermost ≠ some n.toNat → bad (.crclose h n)) ∧
      (st.innermost = some n.toNat →
        (busy = false → exec (.crclose h n) s = .next (s.issuedWith h 0xD7 14 (st.later .ct 1 [.closeRegion n.toNat]))) ∧
        (busy = true → exec (.crclose h n) s = .next (s.blockedAt none .none s.chip)))))

/-- R158 to R162: VIEW, SCFG and NEST.SET latch a listed value of IMM64 or xa for τ+1 and refuse any other; NEST.SET and NEST.GO wait while a shadow
is pending; NEST.STAT latches the nest's state. That a poisoned xa of these words is no fault is log 81. -/
def Obligations.ConfigWords : Prop :=
  ∀ (s : State) (h : Head) (st : Strand) (xa xd : Reg) (sl : BitVec 4) (fld : BitVec 6) (imm : Word), Ready s h .ct st →
    let v := if xa = 0#6 then imm else st.rx .ct xa
    let bad (i : Instr) : Prop := exec i s = .next (s.trapped st .illRsvd (noAddr .illRsvd) 0)
    let gives (i : Instr) (opc : BitVec 8) (l : Land) : Prop := exec i s = .next (s.issuedWith h opc 14 (st.later .ct 1 [l]))
    let pend := st.sh.nest.pendingShadow
    ((Instr.view h xa sl imm).WF →
      (viewListed v = true → gives (.view h xa sl imm) 0xD8 (.view sl.toNat v)) ∧ (viewListed v = false → bad (.view h xa sl imm))) ∧
    ((Instr.scfg h xa sl fld imm).WF →
      (streamValueListed fld.toNat v = true → gives (.scfg h xa sl fld imm) 0xD9 (.stream sl.toNat fld.toNat v)) ∧
      (streamValueListed fld.toNat v = false → bad (.scfg h xa sl fld imm))) ∧
    ((Instr.nestSet h xa sl fld imm).WF →
      (nestValueListed fld.toNat v = true → pend = false → gives (.nestSet h xa sl fld imm) 0xDA
        (if fld = 0 then .shadowCount sl.toNat v.toNat else .shadowStep sl.toNat (fld.toNat - 0x10) v.toInt)) ∧
      (nestValueListed fld.toNat v = true → pend = true →
        exec (.nestSet h xa sl fld imm) s = .next (s.blockedAt (some .queueImbalance) .none s.chip)) ∧
      (nestValueListed fld.toNat v = false → bad (.nestSet h xa sl fld imm))) ∧
    (pend = false → gives (.nestGo h) 0xDB .nestGo) ∧
    (pend = true → exec (.nestGo h) s = .next (s.blockedAt (some .queueImbalance) .none s.chip)) ∧
    exec (.nestStat h xd) s = .next (s.issuedWith h 0xDC 14 (st.laterX .ct 1 xd (nestStatus st.sh.nest)))

/-- R230: a run of a stream is refused for its alignment before any is for its extent. R235, R236, R239: the fixed-time loads latch buffer bytes and
the granules' poison for τ+6; VLDS moves its stream's position at τ+1. Data in error is consumed by the word at its own time (R240). -/
def Obligations.BufferLoads : Prop :=
  (∀ (size : Nat) (runs : List (Nat × Nat)),
    (checkRuns size runs = none ↔ ∀ r, r ∈ runs → r.1 % 64 = 0 ∧ r.1 + r.2 ≤ size) ∧
    (∀ c fa, checkRuns size runs = some (c, fa) →
      (c = .align ∧ ∃ r, r ∈ runs ∧ r.1 % 64 ≠ 0 ∧ fa = BitVec.ofNat 64 r.1) ∨
      (c = .streamRange ∧ (∀ r, r ∈ runs → r.1 % 64 = 0) ∧ ∃ r, r ∈ runs ∧ size < r.1 + r.2))) ∧
  (∀ (s : State) (h : Head) (st : Strand) (d i : Spec) (xa : Reg) (off : BitVec 20) (buf : Buf) (sn : BitVec 4) (ty : Ty),
    Ready s h .ld st →
    let o := (st.rx .ld xa).toNat + off.toNat
    let core := s.chip.cur.core
    let a := bufAddr buf core + o
    let lands (data : List Byte) (poison : List Bool) (err : Option Cause) (fa : Nat) : Strand :=
      consumeIf (st.later .ld 6 [.reg (st.opAddr d) data, .granules (st.opAddr d / 64) poison]) .ld err (BitVec.ofNat 64 fa)
    let sr := st.stream sn.toNat
    let b := bufAddr sr.buffer core + sr.at0
    let ix := s.mem.readBytes (windowBase core st + st.opAddr i) 32
    let starts := (List.range 16).map (fun k => sr.at0 + (elem ix k 2) * sr.rstride.toNat)
    let bad (a : Nat) : Bool := (s.chip.errorAt a 64).isSome
    let bits (a : Nat) : List Bool := (List.range 16).map (fun k => bad (a + 64 * k))
    let badIx := s.chip.sramBadAt (windowBase core st + st.opAddr i) 32
    (st.checkOperands [vdst d] = none →
      (o % 64 = 0 → o + 1024 ≤ bufSize buf → exec (.vld h d xa off buf) s =
        .next (s.issuedWith h 0x40 9 (lands (s.mem.readBytes a 1024) (bits a) (s.chip.errorAt a 1024) o))) ∧
      (o % 64 ≠ 0 → exec (.vld h d xa off buf) s = .next (s.trapped st .align (BitVec.ofNat 64 o) 0)) ∧
      (o % 64 = 0 → bufSize buf < o + 1024 →
        exec (.vld h d xa off buf) s = .next (s.trapped st .windowInvalid (BitVec.ofNat 64 o) 0)) ∧
      ((Instr.vbrd h ty d xa off buf).WF → o % tySize ty = 0 → o + tySize ty ≤ bufSize buf →
        exec (.vbrd h ty d xa off buf) s = .next (s.issuedWith h 0x48 9
          (lands (List.replicate (1024 / tySize ty) (s.mem.readBytes a (tySize ty))).flatten
            (List.replicate 16 (s.chip.errorAt a (tySize ty)).isSome) (s.chip.errorAt a (tySize ty)) o))) ∧
      (checkRuns (bufSize sr.buffer) [(sr.at0, 1024)] = none →
        exec (.vlds h d sn) s = .next (s.issuedWith h 0x41 9
          ((lands (s.mem.readBytes b 1024) (bits b) (s.chip.errorAt b 1024) sr.at0).later .ld 1 [.posAdd sn.toNat sr.rstride.toNat])))) ∧
    (st.checkOperands [vdst d, esrc i 5] = none →
      (st.poisonedRange (st.opAddr i) 32 = true →
        exec (.vgath h d i sn) s = .next (s.trapped st .poisonConsumed (noAddr .poisonConsumed) 0)) ∧
      (st.poisonedRange (st.opAddr i) 32 = false → sr.buffer = .wbuf →
        exec (.vgath h d i sn) s = .next (s.trapped st .enginePort (noAddr .enginePort) 0)) ∧
      (st.poisonedRange (st.opAddr i) 32 = false → sr.buffer = .abuf →
        checkRuns (bufSize .abuf) (starts.map (fun b => (b, 64))) = none →
        exec (.vgath h d i sn) s = .next (s.issuedWith h 0x44 9
          (consumeIf (st.later .ld 6 [.reg (st.opAddr d) (starts.flatMap (fun b => s.mem.readBytes (abufAddr core + b) 64)),
              .granules (st.opAddr d / 64) (starts.map (fun b => bad (abufAddr core + b)))]) .ld
            (if badIx then some .sramUncorrected else starts.findSome? (fun b => s.chip.errorAt (abufAddr core + b) 64))
            (if badIx then noAddr .sramUncorrected else BitVec.ofNat 64 ((starts.find? (fun b => bad (abufAddr core + b))).getD 0)))))))

/-- R237, R238: VLDP and VLD.S by where their pointer leads. R241, R242: QIX queues its 32 indices while q0 holds fewer than 8 entries; SCL.A and
SCL.B queue n scales while their queue has room for them, and otherwise block under the limit. -/
def Obligations.PointerAndQueueLoads : Prop :=
  (∀ (s : State) (h : Head) (st : Strand) (d : Spec) (xa xb : Reg) (off : BitVec 32) (spec : Bool), Ready s h .ld st →
    st.checkOperands [vdst d] = none →
    let x := s.ctx st
    let core := s.chip.cur.core
    let i : Instr := if spec then .vldS h d xa xb off else .vldp h d xa xb off
    let opc : BitVec 8 := if spec then 0x43 else 0x42
    let dst := st.opAddr d
    let fa := ptrAdd (st.rx .ld xa) off.toInt
    let dest := reach x (st.rx .ld xa) off.toInt 1024 64 true false
    let xbAt (st : Strand) (n : Nat) : Strand := st.laterX .ld 1 xb (BitVec.ofNat 64 (st.run.tau + n))
    let lands (n : Nat) (data : List Byte) (p : List Bool) : Strand := st.later .ld n (regLands dst data p)
    let open_ : Prop := openLoads x < 16
    let err (a : Nat) : Option Cause := if s.chip.sramBadAt (windowBase core st + a) 1024 then some .sramUncorrected else none
    let asks (home : Nat) (ents : List TlbEntry) (hc : Nat) : Prop :=
      let a := startAccess x (.vload dst spec) home ents hc true fa
      exec i s = .next (s.issuedOn h opc 9 a.1 (st.laterX .ld 1 xb (BitVec.ofNat 64 a.2.2) (some a.2.1)))
    let poisons : Prop := ∃ ch,
      ch = dropWalks (s.withStrand (xbAt (st.later .ld 6 [.granules (dst / 64) (List.replicate 16 true)]) 6)) core s.chip.cur.slot ∧
      exec i s = .next (s.issuedAs h opc 9 ch .next .none)
    (∀ a, dest = .priv a → spec = true → ((st.granuleBits a 1024).any id = true ∨ err a ≠ none) → poisons) ∧
    (∀ b a, dest = .scratch b a → spec = true → (sectorPoison s.chip (scratchAddr core b a) 1024).any id = true → poisons) ∧
    (∀ a, dest = .priv a → (spec = false ∨ (st.granuleBits a 1024).any id = false ∧ err a = none) →
      exec i s = .next (s.issuedWith h opc 9
        (xbAt (consumeIf (lands 1 (s.mem.readBytes (windowBase core st + a) 1024) (st.granuleBits a 1024)) .ld (err a) fa) 1))) ∧
    (∀ b a, dest = .scratch b a → (spec = false ∨ (sectorPoison s.chip (scratchAddr core b a) 1024).any id = false) →
      exec i s = .next (s.issuedWith h opc 9
        (xbAt (consumeIf (lands 6 (s.mem.readBytes (scratchAddr core b a) 1024) (sectorPoison s.chip (scratchAddr core b a) 1024)) .ld
          (s.chip.errorAt (scratchAddr core b a) 1024) fa) 6))) ∧
    (∀ c a, dest = .chip c a → (open_ → asks (abufAddr c + a) [] c) ∧
      (¬ open_ → exec i s = .next (s.blockedAt (some .queueImbalance) .none s.chip))) ∧
    (∀ home ents, dest = .global home ents → (open_ → asks home ents core) ∧
      (¬ open_ → exec i s = .next (s.blockedAt (some .queueImbalance) .none s.chip))) ∧
    (∀ p w, dest = .miss p w → exec i s = .next (s.stalledAt (.tlbMiss p) (startWalk s.chip core s.chip.cur.slot st.place.owner p w))) ∧
    (∀ c f tv, dest = .fault c f tv → spec = false → exec i s = .next (s.trapped st c f tv)) ∧
    (∀ c f tv, dest = .fault c f tv → spec = true → poisons)) ∧
  (∀ (s : State) (h : Head) (st : Strand) (i : Spec) (xa : Reg) (sl : BitVec 4) (n : BitVec 6) (g c : BitVec 16) (isB : Bool),
    Ready s h .ld st →
    let core := s.chip.cur.core
    let sr := st.stream sl.toNat
    let v := st.rx .ld xa
    let gg := if xa = 0#6 then g.toNat else (v.extractLsb' 16 16).toNat
    let cc := if xa = 0#6 then c.toNat else (v.extractLsb' 0 16).toNat
    let a := sr.sbase.toNat + gg * sr.sstride.toNat + cc
    let home := bufAddr sr.buffer core + a
    let held := if isB then st.sh.q2.length + st.sh.q2out.sum else st.sh.q1.length + st.sh.q1out.sum
    let w : Instr := if isB then .sclB h xa sl n g c else .sclA h xa sl n g c
    let opc : BitVec 8 := if isB then 0x47 else 0x46
    let data := s.mem.readBytes home n.toNat
    let sh := if isB then { st.sh with q2out := st.sh.q2out ++ [n.toNat] } else { st.sh with q1out := st.sh.q1out ++ [n.toNat] }
    (st.checkOperands [esrc i 6] = none → st.poisonedRange (st.opAddr i) 64 = false →
      (st.sh.q0.length < 8 → exec (.qix h i) s = .next (s.issuedWith h 0x45 9 (consumeIf (st.later .ld 1
        [.push0 ((List.range 32).map (fun k => BitVec.ofNat 16 (elem (s.mem.readBytes (windowBase core st + st.opAddr i) 64) k 2)))]) .ld
        (if s.chip.sramBadAt (windowBase core st + st.opAddr i) 64 then some .sramUncorrected else none) (noAddr .sramUncorrected)))) ∧
      (8 ≤ st.sh.q0.length → exec (.qix h i) s = .next (s.blockedAt (some .queueImbalance) .none s.chip))) ∧
    (w.WF → (xa = 0#6 ∨ v.extractLsb' 32 32 = 0) →
      (bufSize sr.buffer < a + n.toNat → exec w s = .next (s.trapped st .streamRange (BitVec.ofNat 64 a) 0)) ∧
      (a + n.toNat ≤ bufSize sr.buffer → 512 < held + n.toNat → exec w s = .next (s.blockedAt (some .queueImbalance) .none s.chip)) ∧
      (a + n.toNat ≤ bufSize sr.buffer → held + n.toNat ≤ 512 →
        exec w s = .next (s.issuedWith h opc 9 (consumeIf (({ st with sh := sh } : Strand).later .ld 6 [if isB then .push2 data else .push1 data])
          .ld (s.chip.errorAt home n.toNat) (BitVec.ofNat 64 a))))))

/-- R252, R254, R253: VST and VSCAT latch bytes of ABUF for τ+1, pieces of VSCAT in rising order; VSTP writes window or own ABUF likewise, its
register taking the number of the latest lane store. -/
def Obligations.BufferStores : Prop :=
  ∀ (s : State) (h : Head) (st : Strand) (a i : Spec) (xb xd : Reg) (off : BitVec 20) (off32 : BitVec 32) (sn : BitVec 4), Ready s h .st st →
    let core := s.chip.cur.core
    let o := (st.rx .st xb).toNat + off.toNat
    let src := s.mem.readBytes (windowBase core st + st.opAddr a) 1024
    let sr := st.stream sn.toNat
    let ix := s.mem.readBytes (windowBase core st + st.opAddr i) 32
    let starts := (List.range 16).map (fun k => sr.at0 + (elem ix k 2) * sr.rstride.toNat)
    let num := Land.x .st (st.regNo .st xd) (BitVec.ofNat 64 st.lane.wissued) none false
    let p := checkPtr core st (st.rx .st xb) off32.toInt 1024 64 true
    let dirty := st.poisonedRange (st.opAddr a) 1024
    (st.checkOperands [vsrc a] = none →
      (dirty = true →
        exec (.vst h a xb off .abuf) s = .next (s.trapped st .poisonStore (noAddr .poisonStore) 0) ∧
        exec (.vstp h xd a xb off32) s = .next (s.trapped st .poisonStore (noAddr .poisonStore) 0)) ∧
      (dirty = false →
        exec (.vst h a xb off .wbuf) s = .next (s.trapped st .enginePort (noAddr .enginePort) 0) ∧
        (o % 64 ≠ 0 → exec (.vst h a xb off .abuf) s = .next (s.trapped st .align (BitVec.ofNat 64 o) 0)) ∧
        (o % 64 = 0 → 0x40000 < o + 1024 → exec (.vst h a xb off .abuf) s = .next (s.trapped st .windowInvalid (BitVec.ofNat 64 o) 0)) ∧
        (o % 64 = 0 → o + 1024 ≤ 0x40000 →
          exec (.vst h a xb off .abuf) s = .next (s.issuedWith h 0x50 9 (st.later .st 1 [.bytes (abufAddr core + o) src]))) ∧
        (∀ w, p = .ok (.priv w) → exec (.vstp h xd a xb off32) s = .next (s.issuedWith h 0x51 9
          (st.later .st 1 [.reg w src, .granules (w / 64) (List.replicate 16 false), num]))) ∧
        (∀ w, p = .ok (.scratch 1 w) → exec (.vstp h xd a xb off32) s = .next (s.issuedWith h 0x51 9
          (st.later .st 1 [.bytes (abufAddr core + w) src, num]))) ∧
        (∀ c fa, p = .error (c, fa) → exec (.vstp h xd a xb off32) s = .next (s.trapped st c fa 0)))) ∧
    (st.checkOperands [vsrc a, esrc i 5] = none → dirty = false → st.poisonedRange (st.opAddr i) 32 = false → sr.buffer = .abuf →
      checkRuns 0x40000 (starts.map (fun b => (b, 64))) = none →
      exec (.vscat h sn a i) s = .next (s.issuedWith h 0x52 9
        (st.later .st 1 (starts.mapIdx (fun k b => .bytes (abufAddr core + b) ((src.drop (64 * k)).take 64))))))

/-- R247, R253, R255 to R257: a lane word that passes its checks and the lane's tests issues with its store numbered and queued: WST over its
footprint's in-range bytes, WST.G and VSTP over their run, WSTC with its drain planned. The order of VSTP tests and the WST.G pointer check are logs
56 and 57. -/
def Obligations.LaneStores : Prop :=
  ∀ (s : State) (h : Head) (st : Strand) (xd xh xc xs xb : Reg) (src : Spec) (off : BitVec 32) (t : Toks) (c : BitVec 6) (ty : Ty)
    (rnd : Rnd) (ovf : Ovf) (nochk : Bool) (hd : Handle) (rdp : Bool), Ready s h .st st →
    let x := s.ctx st
    let core := s.chip.cur.core
    let o := fields16 (st.rx .st xc)
    let e := fields16 (st.rx .st xs)
    let at_ := windowBase core st + st.opAddr src
    let found := readHandle s.mem s.chip (s.chip.part (s.chip.owner st.place.owner).part) st.place.owner (st.rx .st xh)
    let n := footprint hd (e.getD 0 1) (e.getD 1 1 * e.getD 2 1 * e.getD 3 1)
    let f := (st.rx .st xs).toNat
    let go (i : Instr) (opc : BitVec 8) (cls : Nat) (r : Res) : Prop := exec i s = .next (s.issuedRes h opc cls r)
    (st.checkOperands [vsrc src] = none → found = some (hd, rdp, true) → extentBad hd o e = false → n ≤ 1024 →
      st.poisonedRange (st.opAddr src) n = false → laneTest x n = none → classOf x hd (st.rx .st xh) = none →
      go (.wst h xd xh xc xs src) 0x53 13 (startedLane x xd n
        ((s.mem.readBytes at_ n).mapIdx (fun i b => (copySource hd (o.getD 0 0) (e.getD 0 1) (tileRowList hd o e) i, b)))
        hd.ilv hd.key [] false (BitVec.ofNat 64 hd.va))) ∧
    (∀ k w, st.checkOperands [vsrc src] = none → checkPtr core st (st.rx .st xh) 0 f 64 = .ok (.cluster k w) → f % 64 = 0 → 64 ≤ f → f ≤ 1024 →
      st.poisonedRange (st.opAddr src) f = false → laneTest x f = none → ((s.chip.owner st.place.owner).stride .mesh).isSome = true →
      go (.wstG h xd xh xs src) 0x53 13 (startedLane x xd f (runBytes (abufAddr k + w) [] (s.mem.readBytes at_ f)) 0 0 [] true (st.rx .st xh))) ∧
    (∀ va home ents, st.checkOperands [vsrc src] = none → checkPtr core st (st.rx .st xb) off.toInt 1024 64 true = .ok (.global va) →
      st.poisonedRange (st.opAddr src) 1024 = false → laneTest x 1024 = none →
      reachGlobal s.chip core s.chip.cur.slot st (s.chip.owner st.place.owner) va 1024 false true (ptrAdd (st.rx .st xb) off.toInt) = .global home ents →
      go (.vstp h xd src xb off) 0x51 9 (startedLane x xd 1024 (runBytes home ents (s.mem.readBytes at_ 1024)) 0 0 ents false
        (ptrAdd (st.rx .st xb) off.toInt))) ∧
    ((Instr.wstc h xd xh xc t c ty rnd ovf nochk).WF → matrixPort x [c] = none → found = some (hd, rdp, true) → hd.fmt = ty →
      extentBad hd o [32, 32, 1, 1] = false → laneTest x (1024 * tySize ty) = none → classOf x hd (st.rx .st xh) = none →
      go (.wstc h xd xh xc t c ty rnd ovf nochk) 0x54 13 (startedWstc x xd t c ty rnd ovf nochk hd o))

/-- R248, R249: the budget test, then the queue test, of a store of n staged bytes; f and b say which of the two traps this word has taken already,
after which it blocks. R247: what a started lane store is: the next number, an entry at the end of the queue, its beats taken from the budget, its
number latched for xd at τ+1, and new work. R258, R116: WDRAIN waits for a number already issued, WBUD latches budget and free entries, WFENCE waits
for the lane stores issued before its first head beat to be performed at its scope. -/
def Obligations.LaneTestsAndWaits : Prop :=
  (∀ (x : Ctx) (n : Nat) (f b : Bool),
    ((∃ t, x.sq.wait = .laneRetry f b t) ∨ (∀ f' b' t, x.sq.wait ≠ .laneRetry f' b' t) ∧ f = false ∧ b = false) →
    let l := x.st.lane
    let c := (n + 31) / 32
    let budget := if (x.owner.stride .wlane).isNone then 0 else l.lanebud.toNat % 2 ^ 32
    let full : Prop := 16 ≤ l.queue.length ∨ 16384 < l.queue.foldl (fun t e => t + e.staged) 0 + n
    let since (t : Nat) : Prop := x.sq.wait = .laneFull t ∨ x.sq.wait = .laneRetry f b (some t) ∨
      (∀ u, x.sq.wait ≠ .laneFull u) ∧ (∀ u, x.sq.wait ≠ .laneRetry f b (some u)) ∧ t = x.st.run.tau
    (l.brem < c → budget < c → laneTest x n = some (trapNow .wlaneBudget)) ∧
    (l.brem < c → c ≤ budget → laneBudtrap l = true → b = false → laneTest x n = some (trapNow .wlaneBudget)) ∧
    (l.brem < c → c ≤ budget → laneBudtrap l = false ∨ b = true → laneTest x n = some (.block none x.sq.wait x.chip)) ∧
    (c ≤ l.brem → full → f = true → laneTest x n = some (.block none x.sq.wait x.chip)) ∧
    (∀ t, c ≤ l.brem → full → f = false → since t →
      laneTest x n = some (if t + laneBpwait l ≤ x.st.run.tau then trapNow .wlaneBackpressure
        else .block none (if b then .laneRetry false true (some t) else .laneFull t) x.chip)) ∧
    (c ≤ l.brem → ¬ full → laneTest x n = none)) ∧
  (∀ (x : Ctx) (xd : Reg) (n : Nat) (bs : List (Option Nat × Byte)) (ilv key : Nat) (ents : List TlbEntry) (onChip : Bool) (fa : Word),
    let r := startedLane x xd n bs ilv key ents onChip fa
    let l := x.st.lane
    let e : LaneStore :=
      { num := l.wissued + 1, work := x.chip.workNext, staged := n, beats := (n + 31) / 32, sent := 0, notBefore := x.owner.clock x.chip.gts + 1 }
    r.writes = [] ∧ r.chip.workNext = x.chip.workNext + 1 ∧
    r.chip.strand? x.core x.slot = some (({ x.st with lane :=
      { l with wissued := l.wissued + 1, brem := l.brem - (n + 31) / 32, queue := l.queue ++ [e] } } : Strand).laterX x.q 1 xd
        (BitVec.ofNat 64 (l.wissued + 1))) ∧
    ∃ k, r.chip.work? x.chip.workNext = some k ∧ k.kind = .laneStore (l.wissued + 1) bs ilv key ents onChip ∧ k.state = .running ∧
      k.letters = { bits := 2, promised := false }) ∧
  (∀ (s : State) (h : Head) (st : Strand) (xa xd : Reg) (scope : Scope) (tau : Nat) (preds : List Nat), Ready s h .st st →
    let v := (st.rx .st xa).toNat
    let left := preds.filter (fun w => !performedAt s.chip w scope)
    (st.lane.wissued < v → exec (.wdrain h xa) s = .next (s.trapped st .queueImbalance (noAddr .queueImbalance) 0)) ∧
    (v ≤ st.lane.wissued → v ≤ st.lane.wdone → exec (.wdrain h xa) s = .next (s.issuedAs h 0x55 13 s.chip .next .none)) ∧
    (v ≤ st.lane.wissued → st.lane.wdone < v → exec (.wdrain h xa) s = .next (s.blockedAt none .none s.chip)) ∧
    exec (.wbud h xd) s = .next (s.issuedWith h 0x56 13
      (st.laterX .st 1 xd (BitVec.ofNat 64 (st.lane.brem + (16 - st.lane.queue.length) * 2 ^ 32)))) ∧
    ((st.st.wait = .fence tau preds ∨
        (∀ t l, st.st.wait ≠ .fence t l) ∧ tau = st.run.tau ∧ preds = predecessors (s.ctx st) Work.isLane scope) →
      (left = [] → exec (.wfence h scope) s = .next (s.issuedWith h 0x57 13 (st.fenced .st tau 0x40 0x3F))) ∧
      (left ≠ [] → exec (.wfence h scope) s = .next (s.blockedAt none (.fence tau left) s.chip))))

/-- R272, R273, R274: arithmetic of lanes. Integers are formed exactly and delivered under R270; floats are rounded once. Where a lane reads a
signalling NaN and FTRAPEN.SNAN is set, the word traps at issue (R94). The poison of an FMA destination is log 62. -/
def Obligations.LaneArithmetic : Prop :=
  ∀ (s : State) (h : Head) (st : Strand) (ty : Ty) (rnd : Rnd) (ovf : Ovf) (d a b : Spec) (ln : Lanes), Ready s h .cp st →
    let f := fmtOf ty
    let m := modeOf rnd st.csr.frm
    let int := tyIsInt ty
    let cls := arithCls ty
    let snan (l : List Spec) : Option Nat := snanLane (s.ctx st) ty (laneOn (s.ctx st) ln (tySize ty)) (l.map (fun sp => elemsOf (s.ctx st) sp (tySize ty)))
    let word (i : Instr) (ops : List Spec) (srcs : List Spec) (opc : BitVec 8) (cls lat : Nat) (g : List Nat → Num1) : Prop :=
      i.WF → st.checkOperands (ops.map vsrc ++ [vdst d]) = none →
        (snan srcs = none → s.laneWise h st i opc cls lat ty d srcs ln g) ∧
        (∀ k, snan srcs = some k → exec i s = .next (s.trapped st .fpSnan (noAddr .fpSnan) (BitVec.ofNat 64 k)))
    let two (i : Instr) (opc : BitVec 8) (cls lat : Nat) (g : Nat → Nat → Num1) : Prop :=
      word i [a, b] [a, b] opc cls lat (fun l => g (l.getD 0 0) (l.getD 1 0))
    let one (i : Instr) (opc : BitVec 8) (g : Nat → Num1) : Prop := word i [a] [a] opc 7 (divLat ty) (fun l => g (l.getD 0 0))
    let fma (i : Instr) (opc : BitVec 8) (np na : Bool) : Prop :=
      word i [a, b] [a, b, d] opc cls (arithLat ty) (fun l => fFma f m ovf np na (l.getD 0 0) (l.getD 1 0) (l.getD 2 0))
    let sign (i : Instr) (opc : BitVec 8) (g : Nat → Num1) : Prop :=
      i.WF → st.checkOperands [vsrc a, vdst d] = none →
        s.laneWise h st i opc cls (signLat ty) ty d [a] ln (fun l => g (l.getD 0 0))
    let least (p : Int → Int → Bool) (u v : Nat) : Num1 := .plain (if p (readInt ty u) (readInt ty v) then v else u)
    (two (.vadd h ty rnd ovf d a b ln) 0x60 cls (arithLat ty) (fun u v =>
      if int then intResult ty ovf (readInt ty u + readInt ty v) else fAdd f m ovf false u v)) ∧
    (two (.vsub h ty rnd ovf d a b ln) 0x61 cls (arithLat ty) (fun u v =>
      if int then intResult ty ovf (readInt ty u - readInt ty v) else fAdd f m ovf true u v)) ∧
    (two (.vmul h ty rnd ovf d a b ln) 0x62 cls (arithLat ty) (fun u v =>
      if int then intResult ty ovf (readInt ty u * readInt ty v) else fMul f m ovf u v)) ∧
    fma (.vfma h ty rnd ovf d a b ln) 0x63 false false ∧
    fma (.vfms h ty rnd ovf d a b ln) 0x64 false true ∧
    fma (.vfnma h ty rnd ovf d a b ln) 0x65 true false ∧
    (two (.vdiv h ty rnd ovf d a b ln) 0x66 7 (divLat ty) (fun u v => fDiv f m ovf u v)) ∧
    (one (.vsqrt h ty rnd ovf d a ln) 0x67 (fun u => fSqrt f m ovf u)) ∧
    (one (.vrcp h ty rnd ovf d a ln) 0x68 (fun u => fRcp f m ovf u)) ∧
    (one (.vrsq h ty rnd ovf d a ln) 0x69 (fun u => fRsq f m ovf u)) ∧
    (one (.vexp2 h ty rnd ovf d a ln) 0x80 (fun u => fExp2 f m ovf u)) ∧
    (one (.vlog2 h ty rnd ovf d a ln) 0x81 (fun u => fLog2 f m ovf u)) ∧
    (two (.vmin h ty d a b ln) 0x6A cls (arithLat ty) (fun u v => if int then least (fun p q => decide (q < p)) u v else fMinMax f false u v)) ∧
    (two (.vmax h ty d a b ln) 0x6B cls (arithLat ty) (fun u v => if int then least (fun p q => decide (p < q)) u v else fMinMax f true u v)) ∧
    (sign (.vabs h ty ovf d a ln) 0x6C (fun u =>
      if int then (if tyIsSigned ty then intResult ty ovf |readInt ty u| else .plain u) else .plain (u % 2 ^ (tyBits ty - 1)))) ∧
    (sign (.vneg h ty ovf d a ln) 0x6D (fun u =>
      if int then intResult ty ovf (-readInt ty u) else .plain (u ^^^ 2 ^ (tyBits ty - 1))))

/-- R276, R277, R284, R287: words that move bits. -/
def Obligations.LaneBits : Prop :=
  ∀ (s : State) (h : Head) (st : Strand) (ty : Ty) (d a b : Spec) (m : BitVec 2) (ln : Lanes), Ready s h .cp st →
    let x := s.ctx st
    let n := tyBits ty
    let two (i : Instr) (opc : BitVec 8) (lat : Nat) (g : Nat → Nat → Nat) : Prop :=
      i.WF → st.checkOperands [vsrc a, vsrc b, vdst d] = none →
        s.laneWise h st i opc 4 lat ty d [a, b] ln (fun l => .plain (g (l.getD 0 0) (l.getD 1 0)))
    let one (i : Instr) (opc : BitVec 8) (cls : Nat) (g : Nat → Nat) : Prop :=
      i.WF → st.checkOperands [vsrc a, vdst d] = none →
        s.laneWise h st i opc cls 1 ty d [a] ln (fun l => .plain (g (l.getD 0 0)))
    (two (.vand h ty d a b ln) 0x70 1 (fun u v => u &&& v)) ∧
    (two (.vor h ty d a b ln) 0x71 1 (fun u v => u ||| v)) ∧
    (two (.vxor h ty d a b ln) 0x72 1 (fun u v => u ^^^ v)) ∧
    (two (.vshl h ty d a b ln) 0x73 2 (fun u v => u <<< (v % n) % 2 ^ n)) ∧
    (two (.vshr h ty d a b ln) 0x74 2 (fun u v => u >>> (v % n))) ∧
    (two (.vsra h ty d a b ln) 0x75 2 (fun u v => wrapBits n (toSigned n u / 2 ^ (v % n)))) ∧
    (one (.vmov h ty d a ln) 0x7B 4 id) ∧
    (one (.vclass h ty d a ln) 0x82 8 (fun u => 2 ^ classBit (fmtOf ty) u)) ∧
    ((Instr.vsel h ty d a b m).WF → st.checkOperands [vsrc a, vsrc b, vdst d] = none →
      s.laneWord h st (.vsel h ty d a b m) 0x6F 4 1 (tySize ty) (st.opAddr d) (sameGranule x d [a, b])
        (laneResults (fun _ => true) (1024 / tySize ty) (fun k => .plain
          (if (st.sh.masks.getD m.toNat 0).getLsbD (k * tySize ty) then (elemsOf x a (tySize ty)).getD k 0
           else (elemsOf x b (tySize ty)).getD k 0))))

/-- R275, R278, R279, R280: VCMP writes the mask bits of its active lanes and consumes the poison they read, VCVT converts parts, VRED folds the tree
of R99, VSCAN writes every prefix. -/
def Obligations.CompareConvertReduce : Prop :=
  ∀ (s : State) (h : Head) (st : Strand) (c : VCond) (ty ts : Ty) (rnd : Rnd) (ovf : Ovf) (op : RedOp) (sc : ScanOp) (m : BitVec 2)
    (d a b : Spec) (part : BitVec 3) (ln : Lanes), Ready s h .cp st →
    let x := s.ctx st
    let e := tySize ty
    let n := 1024 / e
    let mode := modeOf rnd st.csr.frm
    let on := laneOn x ln e
    let va := elemsOf x a e
    let vb := elemsOf x b e
    let got (k : Nat) : Bool × BitVec 6 := cmpLane ty c (va.getD k 0) (vb.getD k 0)
    let dirty (k : Nat) : Bool := st.poisonedRange (st.opAddr a + k * e) e || st.poisonedRange (st.opAddr b + k * e) e
    let w := max (tySize ts) e
    let src := st.opAddr a + (if tySize ts < w then part.toNat * (1024 / w) * tySize ts else 0)
    let dst := st.opAddr d + (if e < w then part.toNat * (1024 / w) * e else 0)
    let el (k : Nat) : Nat := leNat (s.mem.readBytes (windowBase s.chip.cur.core st + src + k * tySize ts) (tySize ts))
    let folded := treeFold (pairOp op ty mode ovf) 11 ((List.range n).map (fun k => if on k then some (va.getD k 0, k) else none))
    let scanned := scanFrom (pairOp (scanRed sc) ty mode ovf) (identityOf (scanRed sc) ty) none
      ((List.range n).map (fun k => (k, if on k then some (va.getD k 0) else none)))
    ((Instr.vcmp h c ty m a b ln).WF → st.checkOperands [vsrc a, vsrc b] = none → snanLane x ty on [va, vb] = none →
      ((∃ k, k < n ∧ on k = true ∧ dirty k = true) →
        exec (.vcmp h c ty m a b ln) s = .next (s.trapped st .poisonConsumed (noAddr .poisonConsumed) 0)) ∧
      ((∀ k, k < n → on k = true → dirty k = false) → ∃ (which vals : BitVec 1024),
        (∀ k j, k < n → j < e → which.getLsbD (k * e + j) = on k ∧ (on k = true → vals.getLsbD (k * e + j) = (got k).1)) ∧
        exec (.vcmp h c ty m a b ln) s = .next (s.issuedWith h 0x6E 4 (vecLater x (arithLat ty) [.mask m.toNat which vals]
          ((List.range n).filterMap (fun k => if on k = true ∧ (got k).2 ≠ 0#6 then some (k, (got k).2, false) else none)))))) ∧
    ((Instr.vcvt h ty ts rnd ovf d a part ln).WF → st.checkOperands [vsrc a, vdst d] = none →
      snanLane x ts (fun k => decide (k < 1024 / w) && laneOn x ln w k) [(List.range (1024 / w)).map el] = none →
      s.laneWord h st (.vcvt h ty ts rnd ovf d a part ln) 0x76 8 3 e dst
        (fun g => (List.range (1024 / w)).any (fun k => laneOn x ln w k && decide ((dst + k * e) / 64 = g) &&
          st.poisonedRange (src + k * tySize ts) (tySize ts)))
        (laneResults (laneOn x ln w) (1024 / w) (fun k => convert ty ts mode ovf (el k)))) ∧
    ((Instr.vred h op ty rnd ovf d a ln).WF → st.checkOperands [vsrc a, edst d (logSize ty)] = none → snanLane x ty on [va] = none →
      s.wholeWord h st (.vred h op ty rnd ovf d a ln) 0x77 8 8 e d (vecPoison x a)
        [some (folded.1.getD (identityOf op ty))] folded.2) ∧
    ((Instr.vscan h sc ty rnd ovf d a ln).WF → st.checkOperands [vsrc a, vdst d] = none → snanLane x ty on [va] = none →
      s.wholeWord h st (.vscan h sc ty rnd ovf d a ln) 0x78 8 10 e d (vecPoison x a) (scanned.1.map some) scanned.2)

/-- R281 to R286: words that move elements between lanes, fill them or count them. -/
def Obligations.LaneMovement : Prop :=
  ∀ (s : State) (h : Head) (st : Strand) (ty : Ty) (d a b : Spec) (imm : BitVec 32) (ln : Lanes) (v : BitVec 64) (rest : List (BitVec 64)),
    Ready s h .cp st →
    let x := s.ctx st
    let e := tySize ty
    let n := 1024 / e
    let on := laneOn x ln e
    let va := elemsOf x a e
    let vb := elemsOf x b e
    let packed := ((List.range n).filter on).map (fun k => va.getD k 0)
    let each (g : Nat → Nat) : List (Option Nat) := (List.range n).map (fun k => if on k then some (g k) else none)
    let dirty2 := vecPoison x a || vecPoison x b
    ((Instr.vcompact h ty d a ln).WF → st.checkOperands [vsrc a, vdst d] = none →
      s.wholeWord h st (.vcompact h ty d a ln) 0x79 8 10 e d (vecPoison x a) ((List.range n).map (fun k => some (packed.getD k 0))) []) ∧
    ((Instr.vperm h ty d a b ln).WF → st.checkOperands [vsrc a, vsrc b, vdst d] = none →
      s.wholeWord h st (.vperm h ty d a b ln) 0x7A 8 4 e d dirty2
        (each (fun k => if vb.getD k 0 < n then va.getD (vb.getD k 0) 0 else 0)) []) ∧
    ((Instr.vlut h ty d a b ln).WF → st.checkOperands [vsrc a, vsrc b, vdst d] = none →
      s.wholeWord h st (.vlut h ty d a b ln) 0x7F 8 3 e d dirty2
        (each (fun k => let i := ((x.readOp a 1024).getD k 0).toNat; if i < n then vb.getD i 0 else 0)) []) ∧
    ((Instr.vmovi h ty d imm).WF → st.checkOperands [vdst d] = none →
      s.wholeWord h st (.vmovi h ty d imm) 0x7C 4 1 e d false (List.replicate n (some (immElem ty imm))) []) ∧
    ((Instr.viota h ty d ln).WF → st.checkOperands [vdst d] = none →
      s.wholeWord h st (.viota h ty d ln) 0x7D 4 2 e d false
        ((List.range n).map (fun k => some (((List.range k).filter on).length % 2 ^ tyBits ty))) []) ∧
    ((Instr.vqpop h ty d ln).WF → st.checkOperands [vdst d] = none →
      (st.sh.q3 = [] → exec (.vqpop h ty d ln) s = .next (s.blockedAt (some .queueImbalance) .none s.chip)) ∧
      (st.sh.q3 = v :: rest → exec (.vqpop h ty d ln) s = .next (s.issuedWith h 0x7E 4
        (({ st with sh := { st.sh with q3 := rest } } : Strand).later .cp 1
          (laneLands (st.opAddr d) e (each (fun _ => v.toNat % 2 ^ tyBits ty)) ++
            poisonLands (st.opAddr d) e ((List.range n).map on) (fun _ => false) ++ [.flags 0])))))

/-- R288 to R291: VSPLIT.EXP raises the row exponent in d, VSPLIT leaves slice t of lane k at byte 128 (t − 1) + k, VCOMB.ACC adds exactly, modulo
2^128, VCOMB.FIN rounds once. R101: the slices of a fraction below 1/8 stand for it exactly up to the residual: each fits 7 bits, the first 5, the
residual is at most half a unit of the last, and INEXACT is asked for exactly when one is left. -/
def Obligations.SliceWords : Prop :=
  (∀ (s : State) (h : Head) (st : Strand) (rnd : Rnd) (ovf : Ovf) (d a b : Spec) (sl w r : BitVec 4) (q : BitVec 2) (clr hh : Bool) (ln : Lanes),
    Ready s h .cp st →
    let x := s.ctx st
    let on8 := laneOn x ln 8
    let on16 := laneOn x ln 16
    let va := elemsOf x a 8
    let act := ((List.range 128).filter on8)
    let row := rowExpOf (act.map (fun k => fmtF64.read (va.getD k 0)))
    let scale := toSigned 64 (elemOf x b 3)
    let parts (k : Nat) : List Int × BitVec 6 := splitElem (va.getD k 0) scale sl.toNat
    let sc (k : Nat) : Int := toSigned 64 ((elemsOf x b 8).getD k 0)
    let sum (k : Nat) : Int := (if clr then 0 else toSigned 128 ((elemsOf x d 16).getD k 0)) +
      toSigned 32 ((elemsOf x a 4).getD (64 * q.toNat + k) 0) * 2 ^ (63 - 7 * w.toNat)
    let fin (k : Nat) : Num1 :=
      let e := sc (32 + 2 * r.toNat + k / 32)
      let f := sc (k % 32)
      let n := toSigned 128 ((elemsOf x a 16).getD k 0)
      if (2 : Int) ^ 61 ≤ e ∨ (2 : Int) ^ 61 ≤ f then invalidOp fmtF64
      else roundVal fmtF64 (modeOf rnd st.csr.frm) ovf (decide (n < 0)) n.natAbs (rowExp e + rowExp f + 6 - 63)
    (st.checkOperands [vsrc a, edst d 3] = none → snanLane x .f64 on8 [va] = none →
      s.wholeWord h st (.vsplitExp h d a ln) 0x83 8 3 8 d (vecPoison x a || st.poisonedRange (st.opAddr d) 8)
        [some (wrapBits 64 (max (toSigned 64 (elemOf x d 3)) row))]
        (act.filterMap (fun k => if (fmtF64.read (va.getD k 0)).isSnan then some (k, fInvalid, false) else none))) ∧
    ((Instr.vsplit h d a b sl ln).WF → st.checkOperands [vsrc a, esrc b 3, vdst d] = none → snanLane x .f64 on8 [va] = none →
      s.wholeWord h st (.vsplit h d a b sl ln) 0x83 8 3 1 d (vecPoison x a || st.poisonedRange (st.opAddr b) 8)
        ((List.range 1024).map (fun k => if on8 (k % 128) then some (wrapBits 8 ((parts (k % 128)).1.getD (k / 128) 0)) else none))
        (act.filterMap (fun k => if (parts k).2 = 0#6 then none else some (k, (parts k).2, false)))) ∧
    ((Instr.vcombAcc h d a w q clr ln).WF → st.checkOperands [vsrc a, vdst d] = none →
      s.laneWord h st (.vcombAcc h d a w q clr ln) 0x84 8 2 16 (st.opAddr d) (fun _ => vecPoison x a || (!clr && vecPoison x d))
        (laneResults on16 64 (fun k => ⟨wrapBits 128 (sum k), if -(2 : Int) ^ 127 ≤ sum k ∧ sum k < 2 ^ 127 then 0 else fIov, false⟩))) ∧
    ((Instr.vcombFin h rnd ovf d a b r hh ln).WF → st.checkOperands [vsrc a, vsrc b, vdst d] = none →
      s.laneWord h st (.vcombFin h rnd ovf d a b r hh ln) 0x84 8 6 8 (st.opAddr d + (if hh then 512 else 0))
        (fun _ => vecPoison x a || vecPoison x b) (laneResults on16 64 fin))) ∧
  (∀ (num : Int) (den n : Nat), 0 < n → |8 * num| < 2 ^ den →
    let (l, left) := slicesFrom num den n
    l.length = n ∧ |l.getD 0 0| ≤ 16 ∧ (∀ t, t < n → |l.getD t 0| ≤ 64) ∧
    ∃ r : Int, num * 128 ^ n = ((List.range n).map (fun t => l.getD t 0 * 128 ^ (n - 1 - t))).sum * 2 ^ den + r ∧
      |2 * r| ≤ 2 ^ den ∧ (left = true ↔ r ≠ 0))

/-- R90: rounding to a multiple of 2^q. The multiple n is exact when nothing is lost; otherwise it neighbours the value, on the side the mode says: RN
the nearer with ties to even, RA the nearer with ties away, RZ not above in magnitude, RD and RP by sign. R270, R92, R94: an integer result outside
its type follows OVF and sets IOV; a word with flags that FTRAPEN enables, or whose policy traps, lands its flags and traps at its due beat, writing
no destination, under the first cause of R94. That an integer overflow sets IOV alone is log 34. Whether a flag traps is decided from FTRAPEN as the
word issues (log 10). -/
def Obligations.NumberRules : Prop :=
  (∀ (mode : Rnd) (neg : Bool) (m : Nat) (e q : Int), 0 < m →
    let n := (roundTo mode neg m e q).1
    let inexact := (roundTo mode neg m e q).2
    (q ≤ e → n = m * 2 ^ (e - q).toNat ∧ inexact = false) ∧
    (e < q →
      let u := 2 ^ (q - e).toNat
      (inexact = true ↔ m % u ≠ 0) ∧ (n = m / u ∨ n = m / u + 1) ∧ (m % u = 0 → n = m / u) ∧
      (m % u ≠ 0 →
        (mode = .rz → n = m / u) ∧
        (mode = .rd → n = m / u + (if neg then 1 else 0)) ∧
        (mode = .rp → n = m / u + (if neg then 0 else 1)) ∧
        (mode = .ra → n = m / u + (if u ≤ 2 * (m % u) then 1 else 0)) ∧
        (mode = .rn → n = m / u + (if u < 2 * (m % u) ∨ (2 * (m % u) = u ∧ m / u % 2 = 1) then 1 else 0))))) ∧
  ((∀ (t : Ty) (ovf : Ovf) (v : Int), tyIsInt t = true →
    let n := tyBits t
    (leastOf t ≤ v → v ≤ mostOf t → intResult t ovf v = ⟨wrapBits n v, 0, false⟩ ∧ readInt t (wrapBits n v) = v) ∧
    (v < leastOf t ∨ mostOf t < v →
      intResult t .sat v = ⟨wrapBits n (if v < leastOf t then leastOf t else mostOf t), 32, false⟩ ∧
      intResult t .inf v = ⟨wrapBits n v, 32, false⟩ ∧
      intResult t .nan v = ⟨wrapBits n (leastOf t), 32, false⟩ ∧
      (intResult t .trap v).trap = true ∧ (intResult t .trap v).flags = 32)) ∧
  (∀ (x : Ctx) (n : Nat) (lands : List Land) (r : Raised),
    let en := r.flags &&& (x.st.csr.ftrapen &&& 0x1F#6)
    let policy : Prop := ∃ e, e ∈ r ∧ e.2.2 = true
    let traps (c : Cause) (raises : Nat × BitVec 6 × Bool → Prop) : Prop := ∃ lane,
      (∃ e, e ∈ r ∧ raises e ∧ e.1 = lane) ∧ (∀ e, e ∈ r → raises e → lane ≤ e.1) ∧
      vecLater x n lands r = x.st.later x.q n [.flags r.flags] (some (x.st.mkTrap x.q c (noAddr c) (BitVec.ofNat 64 lane)))
    (policy → traps .ovfTrap (fun e => e.2.2 = true)) ∧
    (¬ policy → en.getLsbD 0 = true → traps .fpInvalid (fun e => e.2.1.getLsbD 0 = true)) ∧
    (¬ policy → en.getLsbD 0 = false → en.getLsbD 1 = true → traps .fpDivzero (fun e => e.2.1.getLsbD 1 = true)) ∧
    (¬ policy → en.getLsbD 0 = false → en.getLsbD 1 = false → en.getLsbD 2 = true → traps .fpOverflow (fun e => e.2.1.getLsbD 2 = true)) ∧
    (¬ policy → en.getLsbD 0 = false → en.getLsbD 1 = false → en.getLsbD 2 = false → en.getLsbD 3 = true → traps .fpUnderflow (fun e => e.2.1.getLsbD 3 = true)) ∧
    (¬ policy → en.getLsbD 0 = false → en.getLsbD 1 = false → en.getLsbD 2 = false → en.getLsbD 3 = false → en.getLsbD 4 = true →
      traps .fpInexact (fun e => e.2.1.getLsbD 4 = true)) ∧
    (¬ policy → en = 0 → vecLater x n lands r = x.st.later x.q n (lands ++ [.flags r.flags]))))

/-- R294, R296, R298, R305: MMA and MMAS make their tests in the order of R298, and issue when all pass. R243, R296: what a started MMA leaves: the
engine occupied for 8 beats, its scales off q1 and q2, one entry off q0 when it gathers, its produced token naming it, its B rows held (R302), its
update latched for τ+14 and the streams' advances for τ+1. -/
def Obligations.MmaWords : Prop :=
  (∀ (s : State) (h : Head) (st : Strand) (sparse : Bool) (c : BitVec 6) (sa sb sx : BitVec 4) (ta tb : Ty) (acc : Acc) (reuse : Bool)
    (t : Toks), Ready s h .cp st →
    let i : Instr := if sparse then .mmas h c sa sb sx ta tb acc reuse t else .mma h c sa sb ta tb acc reuse t
    let x := s.ctx st
    let g := mmaArgs x sparse c sa sb (if sparse then sx else 0) ta tb acc reuse t
    let sh := st.sh
    let a := st.stream sa.toNat
    let b := st.stream sb.toNat
    let granted : Prop := st.place.ctmask.getLsbD c.toNat = true
    let typed : Prop := a.fmt = tyCode ta ∧ b.fmt = tyCode tb ∧ b.gather = 0#1
    let placed : Prop := a.buffer = .abuf ∧ b.buffer = .wbuf ∧ (sparse = true → (st.stream sx.toNat).buffer = .wbuf)
    let rows := checkRuns3 ((if a.gather = 1#1 then [] else g.aRuns (g.starts sh)) ++ g.bxRuns)
    let gathered := if a.gather = 1#1 then checkRuns3 (g.aRuns (g.starts sh)) else none
    let stops (f : Cause) (fa : Word) : Prop := exec i s = .next (s.trapped st f fa 0)
    let blocks (l : Cause) : Prop := exec i s = .next (s.blockedAt (some l) .none s.chip)
    i.WF →
      (st.place.ctmask = 0 → stops .enginePort (noAddr .enginePort)) ∧
      (st.place.ctmask ≠ 0 → ¬ granted → stops .windowInvalid (noAddr .windowInvalid)) ∧
      (granted → ¬ typed → stops .illRsvd (noAddr .illRsvd)) ∧
      (granted → typed → a.axis ≠ 0#1 ∨ b.axis ≠ 0#1 → stops .blockAxis (noAddr .blockAxis)) ∧
      (granted → typed → a.axis = 0#1 → b.axis = 0#1 →
        (¬ placed → stops .enginePort (noAddr .enginePort)) ∧
        (∀ f fa, placed → rows = some (f, fa) → stops f fa) ∧
        (placed → rows = none →
          (sh.q1.length < g.scales → sh.q1out = [] → stops .queueImbalance (noAddr .queueImbalance)) ∧
          (sh.q1.length < g.scales → sh.q1out ≠ [] → blocks .queueImbalance) ∧
          (g.scales ≤ sh.q1.length → sh.q2.length < g.scales → sh.q2out = [] → stops .queueImbalance (noAddr .queueImbalance)) ∧
          (g.scales ≤ sh.q1.length → sh.q2.length < g.scales → sh.q2out ≠ [] → blocks .queueImbalance) ∧
          (g.scales ≤ sh.q1.length → g.scales ≤ sh.q2.length →
            (a.gather = 1#1 → sh.q0 = [] → blocks .queueImbalance) ∧
            ((a.gather = 1#1 → sh.q0 ≠ []) →
              (∀ f fa, gathered = some (f, fa) → stops f fa) ∧
              (gathered = none → st.run.tau < st.run.mmaUntil → blocks .tokenOverflow) ∧
              (gathered = none → st.run.mmaUntil ≤ st.run.tau → consumed x t ≠ [] ∨ g.held x = true → blocks .tokenOverflow) ∧
              (gathered = none → st.run.mmaUntil ≤ st.run.tau → consumed x t = [] → g.held x = false →
                exec i s = .next (s.issuedRes h (if sparse then 0xA1 else 0xA0) (if ta = .bf16 ∨ ta = .f16 then 11 else 10)
                  (startedMma x g)))))))) ∧
  (∀ (x : Ctx) (g : MmaArgs),
    (∀ e, e ∈ g.aRead x.st.sh → x.chip.errorAt (abufAddr x.core + e.1) e.2 = none) →
    (∀ e, e ∈ g.bRead x.st.sh → x.chip.errorAt (wbufAddr x.core + e.1) e.2 = none) →
    ∃ st, (startedMma x g).writes = [] ∧ (startedMma x g).chip.strand? x.core x.slot = some st ∧
      (startedMma x g).chip.workNext = x.chip.workNext + 1 ∧
      st.run = { x.st.run with mmaUntil := x.st.run.tau + 8 } ∧
      st.sh.q1 = x.st.sh.q1.drop g.scales ∧ st.sh.q2 = x.st.sh.q2.drop g.scales ∧
      st.sh.q0 = (if g.ra.gather = 1#1 then x.st.sh.q0.tail else x.st.sh.q0) ∧ st.sh.nest = (nestStep x.st.sh.nest).1 ∧
      st.sh.tokens = (if g.t.p = 63#6 then x.st.sh.tokens else x.st.sh.tokens.set g.t.p.toNat x.chip.workNext) ∧
      st.traps = x.st.traps ∧ st.bLatch = some (g.rowsHeld x) ∧
      ∃ inj, st.due = (({ x.st with due := x.st.due } : Strand).later x.q 1 ((nestStep x.st.sh.nest).2.map (fun a => .posAdd a.1 a.2)) |>.later x.q 14
        [g.land x inj, .workDone x.chip.workNext]).due ∧
        (x.st.csr.ttInject.getLsbD 63 = false → inj = none))

/-- R300: an integer MMA: each word of the tile, or 0 under acc=set, plus or minus the exact sum of 256 products, modulo 2^32; IOV is raised exactly
when some exact result leaves 32 bits. R344, R100: a reduction of I32 elements is the exact sum modulo 2^32, with IOV exactly when it leaves 32 bits,
or the signed minimum or maximum; the flags of a chunk are the OR of its elements'. Said of I8 tiles and I32 elements. -/
def Obligations.IntegerSums : Prop :=
  (∀ (t : CTile) (acc : Acc) (a b : List (List Byte)) (code : List (BitVec 16)), t.words.length = 1024 → a.length = 32 → b.length = 32 →
    (∀ r, r ∈ a ++ b → r.length = 256) →
    let u := mmaUpdate t .i8 .i8 acc false a b [] [] [] code none
    let el (m : List (List Byte)) (i k : Nat) : Int := ((m.getD i []).getD k 0).toInt
    let sum (i j : Nat) : Int := ((List.range 256).map (fun k => el a i k * el b j k)).sum
    let exact (i j : Nat) : Int := (if acc = .set then 0 else toSigned 32 (t.words.getD (32 * i + j) 0)) + (if acc = .sub then -sum i j else sum i j)
    u.1.words.length = 1024 ∧
    (∀ i j, i < 32 → j < 32 → u.1.words.getD (32 * i + j) 0 = (exact i j % 2 ^ 32).toNat) ∧
    (u.2 = fIov ↔ ∃ i j, i < 32 ∧ j < 32 ∧ (exact i j < -2 ^ 31 ∨ 2 ^ 31 ≤ exact i j))) ∧
  (∀ (ins : List Nat), ins ≠ [] → ins.length ≤ 16 → (∀ v, v ∈ ins → v < 2 ^ 32) →
    let xs := ins.map (toSigned 32)
    let r (op : CollOp) : Num1 := reduceElem op .i32 .i32 ins
    ((r .add).bits : Int) = xs.sum % 2 ^ 32 ∧
    ((r .add).flags = fIov ↔ xs.sum < -2 ^ 31 ∨ 2 ^ 31 ≤ xs.sum) ∧
    (r .min).bits ∈ ins ∧ (∀ v, v ∈ xs → toSigned 32 (r .min).bits ≤ v) ∧
    (r .max).bits ∈ ins ∧ (∀ v, v ∈ xs → v ≤ toSigned 32 (r .max).bits))

/-- R306 to R312: the other words of the engine issue when every tile they name is granted, and latch their effect for τ+1, MDRAIN for the beat of its
drain. -/
def Obligations.TileWords : Prop :=
  ∀ (s : State) (h : Head) (st : Strand) (c cs : BitVec 6) (ty : Ty) (col : BitVec 5) (v : Spec) (q : BitVec 2) (nochk : Bool) (t : Toks),
    Ready s h .cp st →
    let x := s.ctx st
    let core := s.chip.cur.core
    let tile (c : BitVec 6) : Prop := st.place.ctmask.getLsbD c.toNat = true
    let next (i : Instr) (opc : BitVec 8) (lands : List Land) : Prop := exec i s = .next (s.issuedWith h opc 12 (st.later .cp 1 lands))
    let src := s.mem.readBytes (windowBase core st + st.opAddr v)
    let old := readTile s.mem s.chip core cs.toNat
    let packed := ({ words := (List.range 32).flatMap (fun i => compressRow (decide (ty = .i32)) (old.rowOf i)), tel := Tile.clear } : CTile).recompute (decide (ty = .i32))
    let after := consumed x t
    (∀ i, i = .mclr h c ∨ i = .mchk h c ∨ i = .ttLoc h c 0 ∨ i = .ttFix h c → i.WF →
      (st.place.ctmask = 0 → exec i s = .next (s.trapped st .enginePort (noAddr .enginePort) 0)) ∧
      (st.place.ctmask ≠ 0 → ¬ tile c → exec i s = .next (s.trapped st .windowInvalid (noAddr .windowInvalid) 0))) ∧
    ((Instr.mclr h c).WF → tile c →
      next (.mclr h c) 0xA2 [.tile c.toNat 0 (List.replicate 1024 0) (List.replicate 32 0) (List.replicate 32 0)]) ∧
    ((Instr.mldc h c v q).WF → tile c → st.checkOperands [vsrc v] = none →
      (vecPoison x v = true → exec (.mldc h c v q) s = .next (s.trapped st .poisonConsumed (noAddr .poisonConsumed) 0)) ∧
      (vecPoison x v = false → exec (.mldc h c v q) s = .next (s.issuedOn h 0xA3 12
        (s.chip.addWork { x.work (.mldc c.toNat) 3 false [] with promise := st.run.tau + 1 }).1
        (st.later .cp 1 [.mldc c.toNat q.toNat (src 1024), .workDone s.chip.workNext])))) ∧
    ((Instr.mdrain h c v q nochk t).WF → tile c → st.checkOperands [vdst v] = none →
      exec (.mdrain h c v q nochk t) s = .next (s.issuedOn h 0xA4 12
        (s.chip.addWork { x.engineWork t (.mdrain c.toNat (st.opAddr v) q.toNat nochk) 3 false after with
          promise := drainDue x after nochk, total := if after = [] then 1 else 0 }).1
        (produce st t s.chip.workNext)) ∧
      (after = [] → drainDue x after nochk = st.run.tau + (if nochk then 16 else 20))) ∧
    ((Instr.mchk h c).WF → tile c → next (.mchk h c) 0xA5 [.mchk c.toNat (st.whereNow .cp).1 (st.whereNow .cp).2]) ∧
    ((Instr.mcomp h c cs ty).WF → tile c → tile cs →
      next (.mcomp h c cs ty) 0xA6 [.tile c.toNat packed.tel.tag (packed.words.map (BitVec.ofNat 32)) packed.tel.row packed.tel.col]) ∧
    ((Instr.mbmp h c cs ty col).WF → tile c → tile cs →
      next (.mbmp h c cs ty col) 0xA7 [.mbmp c.toNat col.toNat (BitVec.ofInt 32 (tileScale ty old.words).1),
        .flags (if (tileScale ty old.words).2 then 1 else 0)]) ∧
    (st.place.ctmask ≠ 0 → st.checkOperands [esrc v 5] = none → st.poisonedRange (st.opAddr v) 32 = false →
      next (.ctabW h v) 0xAB [.ctabW ((List.range 16).map (fun e => BitVec.ofNat 16 (elem (src 32) e 2)))]) ∧
    (st.place.ctmask ≠ 0 → next (.ctabSwap h) 0xAC [.ctabSwap])

/-- R323 to R326: TT.LOC latches what it finds, TT.FIX repairs by class or stops, TT.REPLAY asks for a replay while one is armed and left. R319, R323:
with no syndrome of the tile nothing is located. One failing row and one failing column locate an element: v_r is its row's check less the row's other
elements, v_c its column's less the column's; class 1 exactly when they pass against each other under the tile's tolerance, 6 otherwise, and v_r is
what TT.FIX stores. A failing row alone is a bad row check, a failing column alone a bad column check. The class TT.LOC reports where R323 lists none
is free (log 24). -/
def Obligations.TelltaleWords : Prop :=
  (∀ (s : State) (h : Head) (st : Strand) (c : BitVec 6) (xd : Reg), Ready s h .cp st →
    let tile : Prop := st.place.ctmask.getLsbD c.toNat = true
    let l := locate st.csr c.toNat (readTile s.mem s.chip s.chip.cur.core c.toNat)
    let ovr := st.csr.ttsyn.getLsbD 6
    let valid := st.csr.ttsyn.getLsbD 5
    let tv : Word := if valid then (st.csr.ttsyn.extractLsb' 0 5).setWidth 64 else 0
    let stop := exec (.ttFix h c) s = .next (s.trapped st .ttUncorrectable (noAddr .ttUncorrectable) (BitVec.ofNat 64 c.toNat))
    let fixes (w : Land) : Prop := exec (.ttFix h c) s = .next (s.issuedWith h 0xA9 12 (st.later .cp 1 [w, .clearSyn]))
    ((Instr.ttLoc h c xd).WF → tile →
      exec (.ttLoc h c xd) s = .next (s.issuedWith h 0xA8 12 (st.laterX .cp 1 xd (l.word ovr)))) ∧
    ((Instr.ttFix h c).WF → tile →
      (ovr = true → stop) ∧
      (ovr = false → (l.cls = 1 → fixes (.word c.toNat l.i l.j l.vr)) ∧ (l.cls = 2 → fixes (.fixRow c.toNat l.i)) ∧
        (l.cls = 3 → fixes (.fixCol c.toNat l.j)) ∧ (4 ≤ l.cls → l.cls ≤ 6 → stop) ∧
        (l.cls = 0 → exec (.ttFix h c) s = .next (s.issuedAs h 0xA9 12 s.chip .next .none)))) ∧
    (st.place.ctmask ≠ 0 →
      (st.replay.armed = false → exec (.ttReplay h) s = .next (s.trapped st .ttUncorrectable (noAddr .ttUncorrectable) tv)) ∧
      (st.replay.armed = true → st.replay.count = ttRmax st.csr →
        exec (.ttReplay h) s = .next (s.trapped st .ttReplayExhausted (noAddr .ttReplayExhausted) tv)) ∧
      (st.replay.armed = true → st.replay.count ≠ ttRmax st.csr →
        exec (.ttReplay h) s = .next (s.issuedWith h 0xAA 12 { st with replay := { st.replay with asked := true } })))) ∧
  (∀ (k : Csrs) (n : Nat) (t : CTile), n < 32 → t.words.length = 1024 →
    let l := locate k n t
    let int := tagInt t.tel.tag
    let others (i : Nat) (at_ : Nat → Nat) : List Nat := ((List.range 32).filter (fun x => x != i)).map (fun x => t.words.getD (at_ x) 0)
    let less (chk : BitVec 32) (l : List Nat) (v : BitVec 32) : Prop :=
      (int = true → (v.toNat : Int) = (chk.toNat - (l.sum : Int)) % 2 ^ 32) ∧
      (int = false → v = BitVec.ofNat 32
        (toF32 (sumExact (fmtF32.read chk.toNat :: l.map (fun w => (fmtF32.read w).mapSign (!·)))).1).bits)
    let rows (i : Nat) : Bool := k.ttmask.getLsbD (32 + i)
    let cols (j : Nat) : Bool := k.ttmask.getLsbD j
    let one (p : Nat → Bool) (i : Nat) : Prop := i < 32 ∧ p i = true ∧ ∀ j, j < 32 → p j = true → j = i
    let none_ (p : Nat → Bool) : Prop := ∀ j, j < 32 → p j = false
    let two (p : Nat → Bool) : Prop := ∃ i j, i < j ∧ j < 32 ∧ p i = true ∧ p j = true
    let mine : Prop := k.ttsyn.getLsbD 5 = true ∧ (k.ttsyn.extractLsb' 0 5).toNat = n
    (¬ mine → l.cls = 0) ∧
    (∀ i j, mine → one rows i → one cols j → ∃ vr vc, l.i = i ∧ l.j = j ∧ l.vr = vr ∧
      less (t.tel.row.getD i 0) (others j (fun x => 32 * i + x)) vr ∧ less (t.tel.col.getD j 0) (others i (fun x => 32 * x + j)) vc ∧
      (int = true → (l.cls = 1 ↔ vr = vc)) ∧ (int = false → (l.cls = 1 ↔ checkPass (tolOf k t.tel.tag) vr vc = true)) ∧
      (l.cls ≠ 1 → l.cls = 6)) ∧
    (∀ i, mine → one rows i → none_ cols → l.cls = 2 ∧ l.i = i) ∧
    (∀ j, mine → none_ rows → one cols j → l.cls = 3 ∧ l.j = j) ∧
    (∀ i, mine → (one rows i ∧ two cols) ∨ (two rows ∧ one cols i) → l.cls = 4) ∧
    (mine → two rows → two cols → l.cls = 5))

/-- R339, R347: CLGRP registers or releases an entry and gives the lowest status that applies, leaving the entry unchanged on any but 0; CLSTAT tells
of the latest collective that produced a token. R339: which descriptors register: M from 1 to 16, SELF below M naming this device and core, no
reserved bit, no entry beyond M, no member twice, no core above 383. CLGRP that consumes an erroneous descriptor leaves xd as it was (log 33), under
the cause of log 48; the poison of the result of CLSTAT is log 109. -/
def Obligations.GroupWords : Prop :=
  (∀ (s : State) (h : Head) (st : Strand) (xd xa : Reg) (g : BitVec 4) (b o : Nat) (e : Group) (k : Work), Ready s h .ct st →
    let x := s.ctx st
    let core := s.chip.cur.core
    let v := st.rx .ct xa
    let key := groupKey st.place.owner g.toNat
    let words := (chunksOf 8 8 (s.mem.readBytes (scratchAddr core b o) 64)).map leNat
    let busy := groupBusy x g.toNat
    let far := e.members.any (fun m => m.1 != s.chip.devnum.toNat) && ((s.chip.owner st.place.owner).stride .link).isNone
    let own := s.chip.core core
    let answers (i : Instr) (n : Nat) : Prop := exec i s = .next (s.issuedWith h 0xC0 13 (st.laterX .ct 1 xd (BitVec.ofNat 64 n)))
    let sets (i : Instr) (t : Tab Group) : Prop := exec i s = .next (s.issuedOn h 0xC0 13 (s.chip.setCore core { own with groups := t })
      (st.laterX .ct 1 xd 0))
    let tok := v.setWidth 6
    let stat (n : Nat) : Prop := exec (.clstat h xd xa) s = .next (s.issuedWith h 0xC3 13 (st.laterX .ct 1 xd (BitVec.ofNat 64 n) none (st.px .ct xa)))
    (busy = true → answers (.clgrpRelease h xd g) 3) ∧
    (busy = false → sets (.clgrpRelease h xd g) (own.groups.del key)) ∧
    (st.px .ct xa = true → exec (.clgrp h xd xa g) s = .next (s.trapped st .poisonConsumed v 0)) ∧
    (∀ d, st.px .ct xa = false → checkPtr core st v 0 64 64 = .ok d → (∀ b o, d ≠ .scratch b o) →
      exec (.clgrp h xd xa g) s = .next (s.trapped st .windowInvalid v 0)) ∧
    (∀ c, st.px .ct xa = false → checkPtr core st v 0 64 64 = .ok (.scratch b o) → s.chip.errorAt (scratchAddr core b o) 64 = some c →
      exec (.clgrp h xd xa g) s = .next (s.issuedWith h 0xC0 13 (consumeNow st .ct c v))) ∧
    (st.px .ct xa = false → checkPtr core st v 0 64 64 = .ok (.scratch b o) → s.chip.errorAt (scratchAddr core b o) 64 = none →
      (∀ n, readGroup s.chip core words = .error n → answers (.clgrp h xd xa g) n) ∧
      (readGroup s.chip core words = .ok e →
        (busy = true → answers (.clgrp h xd xa g) 3) ∧
        (busy = false → far = true → answers (.clgrp h xd xa g) 4) ∧
        (busy = false → far = false → sets (.clgrp h xd xa g) (own.groups.set key e)))) ∧
    (tok = 63#6 → stat ((openColls x).length % 16)) ∧
    (tok ≠ 63#6 → latestProducer x (fun k => k.collGroup.isSome) tok = none → stat 0) ∧
    (tok ≠ 63#6 → latestProducer x (fun k => k.collGroup.isSome) tok = some k →
      (k.state = .running → stat (1 + k.wholeChunks * 2 ^ 32)) ∧
      (k.state = .done → stat (k.wholeChunks * 2 ^ 32)) ∧
      (∀ c, k.state = .error c → stat (2 + causeCode .collPeerAbsent * 2 ^ 8 + k.lowestAbsent * 2 ^ 16 + k.wholeChunks * 2 ^ 32)) ∧
      (k.state = .cancelled → stat (3 + k.wholeChunks * 2 ^ 32)))) ∧
  (∀ (ch : Chip) (core : Nat) (ws : List Nat), ws.length = 8 → (∀ w, w ∈ ws → w < 2 ^ 64) →
    let w (i : Nat) : Nat := ws.getD i 0
    let m := w 0 % 32
    let self := w 0 / 2 ^ 8 % 16
    let entry (e : Nat) : Nat := w (1 + e / 4) / 2 ^ (16 * (e % 4)) % 2 ^ 16
    let shape : Prop := 1 ≤ m ∧ m ≤ 16 ∧ self < m ∧ w 0 / 2 ^ 5 % 8 = 0 ∧ w 0 / 2 ^ 12 % 16 = 0 ∧ w 0 / 2 ^ 48 = 0 ∧ w 5 = 0 ∧ w 6 = 0 ∧ w 7 = 0 ∧
      ∀ e, m ≤ e → e < 16 → entry e = 0
    let named : Prop := entry self = ch.devnum.toNat * 2 ^ 9 + core ∧ (∀ e f, e < m → f < m → entry e = entry f → e = f) ∧
      ∀ e, e < m → entry e % 2 ^ 9 < 384
    (¬ shape → readGroup ch core ws = .error 1) ∧
    (shape → core < 512 → ¬ named → readGroup ch core ws = .error 2) ∧
    (shape → core < 512 → named → ∃ g, readGroup ch core ws = .ok g ∧ g.self = self ∧ g.tag.toNat = w 0 / 2 ^ 16 % 2 ^ 32 ∧
      g.members = (List.range m).map (fun e => (entry e / 2 ^ 9, entry e % 2 ^ 9))))

/-- R342: the checks of CLRED and CLBC, in their order, and the issue of one that passes them. -/
def Obligations.CollectiveWords : Prop :=
  ∀ (s : State) (h : Head) (st : Strand) (red : Bool) (op : CollOp) (td ts : Ty) (g : BitVec 4) (xd xh xc xs xb : Reg) (t : Toks)
    (e : Group) (bar : Option Nat), Ready s h .ct st →
    let i : Instr := if red then .clred h op td ts g xd xh xc xs xb t else .clbc h g xd xh xc xs xb t
    let x := s.ctx st
    let es := if red then tySize ts else 1
    let ed := if red then tySize td else 1
    let src := st.rx .ct xh
    let dst := st.rx .ct xc
    let cnt := st.rx .ct xs
    let a := src.toNat
    let b := dst.toNat
    let n := cnt.toNat
    let kind : WorkKind := if red then .clred op td ts g.toNat a b n [] else .clbc g.toNat a b n
    let traps (c : Cause) (fa : Word) : Prop := exec i s = .next (s.trapped st c fa 0)
    let inside : Prop := a + n * es ≤ 0x40000 ∧ b + n * ed ≤ 0x40000 ∧ meets a (n * es) b (n * ed) = false
    i.WF →
      (∀ r, [xh, xc, xs, xb].find? (st.px .ct) = some r → traps .poisonConsumed (st.rx .ct r)) ∧
      ((∀ r, r ∈ [xh, xc, xs, xb] → st.px .ct r = false) →
        (s.chip.group? s.chip.cur.core st.place.owner g.toNat = none → traps .collGroupInvalid (noAddr .collGroupInvalid)) ∧
        (s.chip.group? s.chip.cur.core st.place.owner g.toNat = some e →
          (2 ^ 20 ≤ a → traps .windowInvalid src) ∧
          (a < 2 ^ 20 → 2 ^ 20 ≤ b → traps .windowInvalid dst) ∧
          (a < 2 ^ 20 → b < 2 ^ 20 → a % 64 ≠ 0 → traps .align src) ∧
          (a < 2 ^ 20 → b < 2 ^ 20 → a % 64 = 0 → b % 64 ≠ 0 → traps .align dst) ∧
          (a < 2 ^ 20 → b < 2 ^ 20 → a % 64 = 0 → b % 64 = 0 →
            (n = 0 ∨ 2 ^ 20 ≤ n ∨ n * es % 64 ≠ 0 → traps .extentInvalid cnt) ∧
            (0 < n → n < 2 ^ 20 → n * es % 64 = 0 →
              (0x40000 < a + n * es → traps .windowInvalid src) ∧
              (a + n * es ≤ 0x40000 → 0x40000 < b + n * ed ∨ meets a (n * es) b (n * ed) = true → traps .windowInvalid dst) ∧
              (inside → collBarrier (st.rx .ct xb) = none → traps .windowInvalid (st.rx .ct xb)) ∧
              (inside → collBarrier (st.rx .ct xb) = some bar →
                (8 ≤ (openColls x).length → exec i s = .next (s.blockedAt (some .queueImbalance) .none s.chip)) ∧
                ((openColls x).length < 8 → ((s.chip.owner st.place.owner).stride .mesh).isNone = true →
                  exec i s = .next (s.trapped st .classUnused src 1)) ∧
                ((openColls x).length < 8 → ((s.chip.owner st.place.owner).stride .mesh).isSome = true →
                  exec i s = .next (s.issuedRes h (if red then 0xC1 else 0xC2) 13
                    (startedColl x red xd t e ⟨es, ed, n⟩ bar a b kind src))))))))

/-- R358 to R367: the words of the Splicer in supervisor mode: the operand checks, then the operation on the named owner, its status and slot in xd at
τ+1. In user mode they raise PRIV. What another device answers to a re-phase is open: a free value (log 5). R358, R359, 24 R409: SPL.ADMIT of one
device, by what decides it: under a power brake 6; an image that is refused or has no room gives its status; an offset that no phases allow gives 6;
otherwise the owner is woven and its slot is told. One of several devices learns its outcome from the others, whose answers are open: the model's free
values (log 5): as long as they have not issued theirs it blocks. The beats of the image copy are free (log 14). A repeated FREEZE, THAW or REPHASE
keeps the earlier beat (log 98). -/
def Obligations.SplicerWords : Prop :=
  (∀ (s : State) (h : Head) (st : Strand) (xd xa : Reg) (delta : BitVec 4) (wait : BitVec 24), Ready s h .ct st →
    let v := st.rx .ct xa
    let on := (v.extractLsb' 0 3).toNat
    let o := s.chip.owner on
    let gts := s.chip.gts
    let words : List (Instr × Word) := [(.splRetire h xd xa, 7), (.splRephase h xd xa delta wait, 7), (.splFreeze h xd xa, 7), (.splThaw h xd xa, 0xFF07)]
    let res (i : Instr) (n : Nat) (ch : Chip) : Prop :=
      exec i s = .next (s.issuedOn h 0xE0 14 (s.chip.remember ch) (st.laterX .ct 1 xd (BitVec.ofNat 64 (n + on * 2 ^ 8))))
    let asked : Chip := if o.ndev ≤ 1 then s.chip else s.chip.freshen
    let clear : Prop := (∀ c t, o.stride c = some t → passes asked (some on) o.hdr c t ((o.heldPhase gts c + delta.toNat) % t) = true) ∧
      (1 < o.ndev → Config.peersPass s.chip.fresh delta.toNat = true)
    let free : Prop := o.state = .running
    (∀ i m, (i, m) ∈ words →
      (st.place.sup = false → exec i s = .next (s.trapped st .priv (noAddr .priv) 0)) ∧
      (st.place.sup = true → i.WF → st.px .ct xa = true → exec i s = .next (s.trapped st .poisonConsumed v 0)) ∧
      (st.place.sup = true → i.WF → st.px .ct xa = false → v &&& ~~~m ≠ 0 ∨ on = st.place.owner → res i 7 s.chip)) ∧
    (st.place.sup = true → st.px .ct xa = false → on ≠ st.place.owner →
      (v &&& ~~~7 = 0 →
        (o.state = .halted ∨ o.state = .retiring → res (.splRetire h xd xa) 0 (s.chip.setOwner on { o with state := .retiring })) ∧
        (o.state ≠ .halted → o.state ≠ .retiring → res (.splRetire h xd xa) 8 s.chip) ∧
        (free → o.rephase = none → o.freezeAt ≠ none → res (.splFreeze h xd xa) 0 s.chip) ∧
        (free → o.rephase = none → o.freezeAt = none → res (.splFreeze h xd xa) 0
          (s.chip.setOwner on { o with freezeAt := some (if o.ndev ≤ 1 then gts + 1 else gts + 256), thawAt := none })) ∧
        (¬ free ∨ o.rephase ≠ none → res (.splFreeze h xd xa) 8 s.chip) ∧
        ((Instr.splRephase h xd xa delta wait).WF →
          (¬ free → res (.splRephase h xd xa delta wait) 8 asked) ∧
          (free → o.rotation ≤ delta.toNat ∨ o.rephase ≠ none ∨ ¬ clear → res (.splRephase h xd xa delta wait) 9 asked) ∧
          (free → delta.toNat < o.rotation → o.rephase = none → clear → ∃ ch, res (.splRephase h xd xa delta wait) 0 ch ∧
            ch.owner on = { o with rephase := some { delta := delta.toNat, limit := if wait = 0 then none else some (gts + wait.toNat), release := none },
                                   resvBeat := some gts } ∧
            (∀ n, n ≠ on → ch.owner n = s.chip.owner n)))) ∧
      (v &&& ~~~0xFF07 = 0 →
        (o.state = .frozen → v.extractLsb' 8 8 ≠ 0 → res (.splThaw h xd xa) 8 s.chip) ∧
        (o.state = .frozen → v.extractLsb' 8 8 = 0 → o.thawAt ≠ none → res (.splThaw h xd xa) 0 s.chip) ∧
        (∀ g, o.state = .frozen → o.thawAt = none → v.extractLsb' 8 8 = 0 → o.freezeAt = some g → 0 < o.rotation → ∃ t,
          res (.splThaw h xd xa) 0 (s.chip.setOwner on { o with thawAt := some t }) ∧
          (if o.ndev ≤ 1 then gts + 1 else gts + 256) ≤ t ∧ g < t ∧ t % o.rotation = g % o.rotation) ∧
        (o.state = .ready → o.preempt.map (·.ctx) ≠ some (v.extractLsb' 8 8).toNat → res (.splThaw h xd xa) 8 s.chip) ∧
        (o.state = .ready → o.preempt.map (·.ctx) = some (v.extractLsb' 8 8).toNat → o.thawAt ≠ none → res (.splThaw h xd xa) 0 s.chip) ∧
        (o.state = .ready → o.thawAt = none → o.preempt.map (·.ctx) = some (v.extractLsb' 8 8).toNat →
          res (.splThaw h xd xa) 8 s.chip ∨ ∃ t ps, gts < t ∧
            res (.splThaw h xd xa) 0 (s.chip.setOwner on { o with thawAt := some t, hdr := { o.hdr with phases := ps } })) ∧
        (o.state ≠ .frozen ∧ o.state ≠ .ready → res (.splThaw h xd xa) 8 s.chip)))) ∧
  (∀ (s : State) (h : Head) (st : Strand) (xd xa : Reg) (sup : Bool) (ndev : BitVec 7) (grp : BitVec 16), Ready s h .ct st →
    st.place.sup = true → (Instr.splAdmit h xd xa sup ndev grp).WF → st.px .ct xa = false →
    let me := s.chip.owner st.place.owner
    let img := match imagePtr (st.rx .ct xa) with
      | none => .error 1
      | some va => readImage (readVirtual s.mem s.chip st.place.owner) (coreInPart s.chip me.part) va none
    let i := Instr.splAdmit h xd xa sup ndev grp
    let told (ch : Chip) (n : Nat) : Prop := exec i s = .next (s.issuedOn h 0xE0 14 (s.chip.remember ch) (st.laterX .ct 1 xd (BitVec.ofNat 64 n)))
    let wovenOn (ch : Chip) (pass : Nat → Bool) : Prop :=
      ∀ im rooms on, admitRoom ch img = .ok (im, rooms, on) →
        (searchPhases ch none im.hdr pass = none → told ch 6) ∧
        (∀ o l, searchPhases ch none im.hdr pass = some (o, l) → ∃ own,
          own.state = .admitting ∧ own.sup = sup ∧ own.resvBeat = some s.chip.gts ∧ own.part = me.part ∧ own.ndev = ndev.toNat ∧ own.grp = grp.toNat ∧
          own.placed = l.map (·.1) ∧ own.hdr = { im.hdr with phases := l.map (·.2) } ∧
          (0 < im.hdr.rotation → own.origin % im.hdr.rotation = o % im.hdr.rotation) ∧ s.chip.gts < own.origin ∧
          let r := weave { ch with fresh := ch.fresh + 1 } on own im rooms
          let told := (s.chip.remember r.chip).setStrand s.chip.cur.core s.chip.cur.slot (st.laterX .ct 1 xd (BitVec.ofNat 64 (on * 2 ^ 8)))
          exec i s = .next (s.issuedRes h 0xE0 14 { r with chip := told }))
    let fresh1 : Chip := { s.chip with fresh := s.chip.fresh + 1 }
    (s.chip.host.brake = true → told s.chip 6) ∧
    (s.chip.host.brake = false → ndev = 1 → (∀ e, admitRoom s.chip img = .error e → told s.chip e) ∧ wovenOn s.chip (fun _ => true)) ∧
    let since : Nat := match st.ct.wait with | .admitWait _ t _ => t | _ => s.chip.gts - Config.firstIssue s.chip.fresh
    (s.chip.host.brake = false → ndev ≠ 1 → (∀ g t n, st.ct.wait ≠ .admitWait g t (some n)) →
      (∀ e, admitRoom s.chip img = .error e → told s.chip e) ∧
      (∀ r, admitRoom s.chip img = .ok r →
        (s.chip.timed = false → told s.chip 10) ∧
        (s.chip.timed = true → Config.peersIssue s.chip.fresh = true → wovenOn fresh1 (Config.peersPass s.chip.fresh)) ∧
        (s.chip.timed = true → Config.peersIssue s.chip.fresh = false →
          exec i s = .next (s.blockedAt none (.admitWait grp.toNat since none) fresh1)))) ∧
    (∀ g t n, s.chip.host.brake = false → ndev ≠ 1 → st.ct.wait = .admitWait g t (some n) → told s.chip n))

/-- R356, R367, R371: SPL.QUERY reads the Splicer as it stands at issue, without what words of the present beat have changed and the reservations made
in it. R44: two users of an instance meet exactly when their phases agree modulo the smaller stride, which is when they own a common beat. -/
def Obligations.QueriesAndCollisions : Prop :=
  (∀ (s : State) (h : Head) (st : Strand) (xd xa : Reg) (sel : BitVec 4), Ready s h .ct st → st.place.sup = true →
    (Instr.splQuery h xd xa sel).WF →
    let v := st.rx .ct xa
    let ch := s.chip.atIssue
    let o := ch.owner (v.extractLsb' 0 3).toNat
    let tells (n : Nat) : Prop := exec (.splQuery h xd xa sel) s = .next (s.issuedWith h 0xE0 14
      (st.laterX .ct 1 xd (BitVec.ofNat 64 n) none (st.px .ct xa)))
    (sel = 0 → tells (ownerQuery ch (v.extractLsb' 0 3).toNat) ∧ (o.state = .empty → tells 0)) ∧
    let there := s.chip.placesAtIssue.get? (skey (v.extractLsb' 0 9).toNat (v.extractLsb' 16 2).toNat)
    (sel = 1 → ∀ p, there = some p → tells (strandQuery p)) ∧ (sel = 1 → there = none → tells 0) ∧
    (sel = 2 → ∀ c k, instanceOf (v.extractLsb' 0 3).toNat (v.extractLsb' 8 24).toNat = some (c, k) →
      tells (maskWord (usersOf ch none c k))) ∧
    (sel = 2 → instanceOf (v.extractLsb' 0 3).toNat (v.extractLsb' 8 24).toNat = none → tells 0) ∧
    (sel = 3 → (o.state = .empty → tells 0) ∧ (o.state ≠ .empty → tells o.origin))) ∧
  (∀ (s1 q1 s2 q2 : Nat), s1 ∈ [1, 2, 4, 8, 16] → s2 ∈ [1, 2, 4, 8, 16] → q1 < s1 → q2 < s2 →
    (collide (s1, q1) (s2, q2) = true ↔ ∃ b : Nat, b % s1 = q1 ∧ b % s2 = q2))

/-- R175, R189, R198 to R200: CTX.SAVE, LOAD and KILL by their statuses, KEY.ROLL by its block of 64 beats, YIELD. The order of CTX statuses, the
context of YIELD and a halted owner are logs 27, 38 and 67; which key slots exist is free (log 16). CTX.KILL leaves the owner slot empty and its lane
stores performed in one beat (log 37). -/
def Obligations.ContextWords : Prop :=
  ∀ (s : State) (h : Head) (st : Strand) (xd xa : Reg) (prept : Bool) (slot : BitVec 8), Ready s h .ct st →
    let v := st.rx .ct xa
    let on := (v.extractLsb' 0 3).toNat
    let ctx := (v.extractLsb' 8 8).toNat
    let o := s.chip.owner on
    let base (o : Owner) : Prop := ((s.chip.part o.part).savebase.extractLsb' 12 36).toNat ≠ 0
    let words : List (Instr × Word) := [(.ctxSave h xd xa prept, 0xFF07), (.ctxLoad h xd xa, 0xFF07), (.ctxKill h xd xa, 7)]
    let lands (st : Strand) (n : Nat) : Strand := st.later .ct 1
      [.x .ct (st.regNo .ct xd) (BitVec.ofNat 64 n) none false, .csr 0x1801 (BitVec.ofNat 64 (n + ctx * 2 ^ 8))]
    let no (i : Instr) (n : Nat) : Prop := exec i s = .next (s.issuedOn h 0xE8 14 (s.chip.remember s.chip) (lands st n))
    let makes (i : Instr) (ch : Chip) : Prop := ∃ me, ch.strand? s.chip.cur.core s.chip.cur.slot = some me ∧ (on ≠ st.place.owner → me = st) ∧
      exec i s = .next (s.issuedOn h 0xE8 14 (s.chip.remember ch) (lands me 0))
    let issuer := some (st.place.owner, st.place.index)
    let busy : Prop := o.state = .window ∨ o.state = .collect ∨ o.state = .save ∨ o.state = .saveHeld ∨ o.state = .load ∨ o.state = .ready
    let other := s.chip.owner st.place.owner
    let window : Nat := (st.csr.preptWait.extractLsb' 0 21).toNat
    let rolls (n : Nat) : Prop := exec (.keyRoll h xd slot) s = .next (s.issuedWith h 0xE9 14 (st.laterX .ct 1 xd (BitVec.ofNat 64 n)))
    (∀ i m, (i, m) ∈ words →
      (st.place.sup = false → exec i s = .next (s.trapped st .priv (noAddr .priv) 0)) ∧
      (st.place.sup = true → st.px .ct xa = true → exec i s = .next (s.trapped st .poisonConsumed v 0)) ∧
      (st.place.sup = true → st.px .ct xa = false → v &&& ~~~m ≠ 0 → no i 7)) ∧
    (st.place.sup = true → st.px .ct xa = false → v &&& ~~~0xFF07 = 0 →
      (o.state = .empty → no (.ctxSave h xd xa prept) 1) ∧
      (o.state ≠ .empty → o.state ≠ .saveHeld → o.canPreempt = false → no (.ctxSave h xd xa prept) 2) ∧
      (o.canPreempt = true →
        (s.chip.ctxBusy on ctx = true → no (.ctxSave h xd xa prept) 2) ∧
        (s.chip.ctxBusy on ctx = false → s.chip.ctxUsed ctx = true → no (.ctxSave h xd xa prept) 3) ∧
        (s.chip.ctxUsed ctx = false → ¬ base o → no (.ctxSave h xd xa prept) 4) ∧
        (s.chip.ctxUsed ctx = false → base o →
          makes (.ctxSave h xd xa prept) (requestPreempt s.chip on ctx (if prept then window else 0) issuer))) ∧
      (∀ p, o.preempt = some p →
        (o.state = .saveHeld → p.ctx ≠ ctx → no (.ctxSave h xd xa prept) 2) ∧
        (o.state = .saveHeld → p.ctx = ctx →
          makes (.ctxSave h xd xa prept) (nextUnit s.chip on { o with state := .save } { p with issuer := issuer } p.unit)) ∧
        (o.state = .loadHeld → p.ctx ≠ ctx → no (.ctxLoad h xd xa) 2) ∧
        (o.state = .loadHeld → p.ctx = ctx →
          makes (.ctxLoad h xd xa) (nextUnit s.chip on { o with state := .load } { p with issuer := issuer } p.unit))) ∧
      (busy → no (.ctxLoad h xd xa) 2) ∧
      (o.state = .empty ∨ o.state = .running ∨ o.state = .frozen ∨ o.state = .halted → no (.ctxLoad h xd xa) 1) ∧
      (o.state = .saved → s.chip.ctxBusy on ctx = true → no (.ctxLoad h xd xa) 2) ∧
      (o.state = .saved → s.chip.ctxBusy on ctx = false → (∀ r, s.chip.saved.get? ctx = some r → r.owner ≠ on) → no (.ctxLoad h xd xa) 3) ∧
      (∀ r, o.state = .saved → s.chip.ctxBusy on ctx = false → s.chip.saved.get? ctx = some r → r.owner = on →
        (¬ base o → no (.ctxLoad h xd xa) 4) ∧
        (base o → (∃ e, roomsFor s.chip o.hdr = .error e) ∨ searchPhases s.chip (some on) o.hdr (fun _ => true) = none → no (.ctxLoad h xd xa) 5) ∧
        (∀ rooms f l, base o → roomsFor s.chip o.hdr = .ok rooms → searchPhases s.chip (some on) o.hdr (fun _ => true) = some (f, l) →
          ∃ t, exec (.ctxLoad h xd xa) s = .next t ∧ t.mem = writeAll s.mem (startLoad s.chip on ctx r rooms (l.map (·.1)) issuer).writes))) ∧
    (st.place.sup = true → st.px .ct xa = false → v &&& ~~~7 = 0 →
      (on = st.place.owner → no (.ctxKill h xd xa) 7) ∧
      (on ≠ st.place.owner → o.state = .empty → no (.ctxKill h xd xa) 1) ∧
      (on ≠ st.place.owner → o.state ≠ .empty →
        ∃ t, exec (.ctxKill h xd xa) s = .next t ∧ (t.chip.owner on).state = .empty ∧ t.mem = writeAll s.mem (killOwner s.mem ⟨s.chip, []⟩ on).writes)) ∧
    (st.place.sup = true → (∀ k e, st.ct.wait ≠ .keyRoll k e) →
      (Config.keySlotPresent slot.toNat = false → rolls 8) ∧
      (Config.keySlotPresent slot.toNat = true → keyBound s.chip slot.toNat = true → rolls 9) ∧
      (Config.keySlotPresent slot.toNat = true → keyBound s.chip slot.toNat = false →
        exec (.keyRoll h xd slot) s = .next (s.blockedAt none (.keyRoll slot.toNat (s.chip.gts + 64)) s.chip))) ∧
    (∀ k e, st.place.sup = true → st.ct.wait = .keyRoll k e → (e = 0 → rolls 0) ∧
      (e ≠ 0 → exec (.keyRoll h xd slot) s = .next (s.blockedAt none (.keyRoll k e) s.chip))) ∧
    (st.run.h = false ∨ s.chip.freeCtx = none ∨ other.canPreempt = false ∨ ¬ base other →
      exec (.yield h) s = .next (s.issuedAs h 0xD5 14 s.chip .next .none)) ∧
    (∀ c, st.run.h = true → s.chip.freeCtx = some c → other.canPreempt = true → base other →
      exec (.yield h) s = .next (s.issuedAs h 0xD5 14 ((requestPreempt s.chip st.place.owner c window none).onStrand s.chip.cur.core s.chip.cur.slot
        (fun st => { st with run := { st.run with hstall := some { kind := .longService, bs := s.chip.gts + 1, cleared := none } } })) .next .none))

/-- R26, R70, R71, R74, R176: what stops a sequencer before a word, each a trap of the present slot, and the start of a section. EPC and TCAUSE at a
header are logs 25 and 26. -/
def Obligations.HeadEvents : Prop :=
  ∀ (s : State) (core slot : Nat) (q : SeqId) (st : Strand) (w : IWord), s.chip.strand? core slot = some st →
    let sq := st.seq q
    let traps (i : Instr) (c : Cause) : Prop := exec i s = .next (s.keep
      { takeTrap s.mem s.chip core slot (st.mkTrap q c (noAddr c) 0) with verdict := .trapped })
    let ill := traps (.illegalWord core slot q w)
    let o := wOpc w
    let here := wordAt s.mem core st.place sq.pc.toNat
    let sec := sectionOf sq.pc here
    let start := Instr.sectionStart core slot q
    let stalls := exec start s = .next (s.keep (stallNow s.chip core slot .notResident))
    let there : Prop := st.place.absent.contains sq.pc.toNat = false
    let met : Prop := prereqMet (st.seq (seqSucc q)).ret (here.extractLsb' 28 12) = true ∧
      prereqMet (st.seq (seqSucc (seqSucc q))).ret (here.extractLsb' 16 12) = true ∧ prereqMet (st.seq (seqPred q)).ret (here.extractLsb' 4 12) = true
    (opcAssigned o = false → ill .illOpc) ∧
    (opcAssigned o = true → opcOnSeq o q = false → ill .illSeq) ∧
    (opcAssigned o = true → opcOnSeq o q = true → opcPrivileged o = true → st.place.sup = false → ill .priv) ∧
    (opcAssigned o = true → opcOnSeq o q = true → (opcPrivileged o = true → st.place.sup = true) → (o = 0xD1#8 → st.run.h = true) →
      (o = 0xD2#8 → csrReach (w.extractLsb' 56 12) st.place.sup = true) → ill .illRsvd) ∧
    (positions st.place.iskb ≤ sq.pc.toNat → traps (.pcBound core slot q) .pcBound) ∧
    (sq.pc.toNat < positions st.place.iskb → exec (.pcBound core slot q) s = .next s) ∧
    traps (.istoreEcc core slot q) .istoreEcc ∧
    (¬ there → stalls) ∧
    (there → headerReserved here = true → traps start .illRsvd) ∧
    (there → headerReserved here = false → sectionResident st.place sq.pc.toNat sec = false → stalls) ∧
    (there → headerReserved here = false → sectionResident st.place sq.pc.toNat sec = true →
      (¬ met → exec start s = .next (s.keep (blockSlot s.mem s.chip core slot q (some .tokenOverflow) .none))) ∧
      (met → exec start s = .next (s.keep { s.chip.setStrand core slot (recordPoint (st.setSeq q
        { sq with pc := sq.pc + 1, sec := some sec, atHdr := false, blockFrom := none, loops := [] }) q sec) with verdict := .idle }))) ∧
    (∀ f, sq.blockFrom = some f → sq.atHdr = true → f + 65536 ≤ st.run.tau → traps (.blockLimitExpiry core slot q) .tokenOverflow) ∧
    (∀ f, sq.blockFrom = some f → st.run.tau < f + 65536 → exec (.blockLimitExpiry core slot q) s = .next s)

/-- R38, R154, R161, R179 to R181, R188, R200, R326, R327: what happens to a strand: a pending trap is taken, a stall ends, a replay stall or a kill
begins, results land, a nest becomes live, MWAIT times out, KEY.ROLL's block ends. Section and slot of SW_TRAP are those of the slot in which it is
taken, and the first of several second causes is the one taken (log 68); COUNT counts modulo 16 (log 96); the limit of MWAIT counts on the clock of
the handler while H = 1 (log 9). -/
def Obligations.StrandEvents : Prop :=
  ∀ (s : State) (core slot : Nat) (st : Strand), s.chip.strand? core slot = some st →
    let ch := s.chip
    let o := ch.owner st.place.owner
    let set (i : Instr) (st : Strand) : Prop := exec i s = .next (s.keep (ch.setStrand core slot st))
    let same (i : Instr) : Prop := exec i s = .next s
    let taken (r : Res) : State := s.commit { r with chip := { r.chip with verdict := .trapped } }
    let entry := Instr.trapEntry core slot
    let drop (l : List PTrap) : Strand := { st with traps := l }
    let second : Prop := st.run.h = true ∧ st.run.htrap ≠ none
    (¬ second → ch.slotRuns st = false ∨ st.traps = [] → same entry) ∧
    (second → exec entry s = .next (s.keep
      { doubleTrap ch core slot { st with run := { st.run with htrap := none } } (causeCode (st.run.htrap.getD .swTrap)) with verdict := .trapped })) ∧
    (∀ t l, ¬ second → ch.slotRuns st = true → st.traps = t :: l → t.cause ≠ .swTrap → t.cause ≠ .containmentUnwind →
      exec entry s = .next (taken ⟨takeTrap s.mem (ch.setStrand core slot (drop l)) core slot t, []⟩)) ∧
    (∀ t l, ¬ second → ch.slotRuns st = true → st.traps = t :: l → t.cause = .swTrap →
      exec entry s = .next (taken ⟨takeTrap s.mem (ch.setStrand core slot (drop l)) core slot
        { t with sec := (st.whereNow t.q).1, slot := (st.whereNow t.q).2 }, []⟩)) ∧
    (∀ t l, ¬ second → ch.slotRuns st = true → st.traps = t :: l → t.cause = .containmentUnwind →
      exec entry s = .next (taken (unwind s.mem ch core slot (drop l) (t.tval.extractLsb' 0 3).toNat t))) ∧
    (o.live = false ∨ o.frozenAt ch.gts = true → same (.stallEnd core slot)) ∧
    (∀ k c n, o.live = true → o.frozenAt ch.gts = false → st.run.h = false → st.run.hstall = none → st.run.stall = some k →
      k.cleared = some c → c ≤ ch.gts → 0 < n → ch.gts = k.bs + n * o.rotation →
        0 < o.rotation → set (.stallEnd core slot) { st with run := { st.run with stall := none } }) ∧
    (∀ k, o.live = true → o.frozenAt ch.gts = false → st.run.hstall = none → st.run.stall = some k →
      k.cleared = none ∨ (∃ c, k.cleared = some c ∧ ch.gts < c) ∨ ch.gts ≤ k.bs ∨ (ch.gts - k.bs) % o.rotation ≠ 0 → set (.stallEnd core slot) st) ∧
    (ch.slotRuns st = false ∨ st.replay.asked = false → same (.replayStall core slot)) ∧
    (ch.slotRuns st = true → st.replay.asked = true →
      exec (.replayStall core slot) s = .next (s.keep { replayStart s.mem ch core slot st with verdict := .stalled }) ∧
      ∃ t, (replayStart s.mem ch core slot st).strand? core slot = some t ∧ t.replay.count = (st.replay.count + 1) % 16 ∧ t.replay.asked = false ∧
        t.csr.ttsyn = 0 ∧ t.csr.ttmask = 0 ∧ t.sh.q0 = [] ∧ t.sh.q1 = [] ∧ t.sh.q2 = [] ∧ t.sh.q3 = [] ∧ t.sh.nest.live = none ∧
        t.run.stall = some { kind := .replay, bs := ch.gts, cleared := some (ch.gts + 1) } ∧
        (∀ q p, st.replay.points.getD (seqNum q) none = some p → (t.seq q).pc = p ∧ (t.seq q).atHdr = true ∧ (t.seq q).loops = [])) ∧
    (∀ n c, ch.slotRuns st = true → (∃ r, r ∈ st.regions ∧ r.num = n) → c < 128 →
      let inner := decide ((st.regions.map (·.num)).head? ≠ some n)
      exec (.containmentUnwind core slot n c) s = .next (taken (unwind s.mem ch core slot st n (st.mkTrap .ct .containmentUnwind
        (noAddr .containmentUnwind) (BitVec.ofNat 64 (n + c * 2 ^ 8 + (if inner then 2 ^ 16 else 0))))))) ∧
    exec (.dueResultLands core slot) s = .next (s.commit (landAll s.mem ch core slot)) ∧
    (ch.runs st = true → st.sh.nest.pendingShadow = true → st.sh.nest.live = none → set (.nestShadowLive core slot) { st with sh := { st.sh with nest :=
      { st.sh.nest with pendingShadow := false, live := some st.sh.nest.shadow, iter := List.replicate 6 0 } } }) ∧
    (ch.runs st = false ∨ st.sh.nest.pendingShadow = false ∨ st.sh.nest.live.isSome = true → set (.nestShadowLive core slot) st) ∧
    (∀ h xd t, decode (wordAt s.mem core st.place st.ct.pc.toNat) = some (.mwait h xd) → st.ct.wait = .mwait t →
      let now := if st.run.h then st.run.hclk else st.run.tau
      (t + 1048576 ≤ now → exec (.mwaitTimeout core slot) s = exec (.mwait h xd) (s.keep { ch with cur := ⟨core, slot, .ct⟩ })) ∧
      (now < t + 1048576 → same (.mwaitTimeout core slot))) ∧
    (∀ k e, st.ct.wait = .keyRoll k e → e ≠ 0 → st.run.saved = none →
      (e ≤ ch.gts → exec (.keyRollBlockEnd core slot) s =
        .next (s.keep ((ch.setStrand core slot { st with ct := { st.ct with wait := .keyRoll k 0 } }).newKey k))) ∧
      (ch.gts < e → same (.keyRollBlockEnd core slot)))

/-- R15, R36, R213, R247 to R249, R257, R310, R340, R343, R377 to R379: a planned step of work happens when its event's turn comes, and is then gone
from the plan; a drain is made in its beat; a lane sends a beat, refills its budget or traps on back-pressure. The order of events in a beat is log
12. A retried delivery comes again a beat later plus a free time (log 88); a lane entry is free in the beat of its last beat (log 71); the causes of
errors of on-chip storage at drains are log 48. -/
def Obligations.WorkEvents : Prop :=
  ∀ (s : State) (w : Nat) (k : Work),
    let ch := s.chip
    let steps : List Instr := [.meshFlitStep w, .linkFlitStep (.own w), .copySectorLands w, .secldLands w, .chanReadCommand w, .chanWriteCommand w,
      .portResponse w, .collRequestArrives (.own w), .collChunkLands w]
    let same (i : Instr) : Prop := exec i s = .next s
    let left (i : Nat) : Work := { k with steps := k.steps.eraseIdx i }
    (ch.work? w = none → ∀ i, i ∈ steps ∨ i = .chanReadDelivery w false false ∨ i = .mdrainDrain w ∨ i = .wstcDrain w → same i) ∧
    (ch.work? w = some k →
      (∀ i, i ∈ steps →
        (ch.nextStep w k = none → same i) ∧
        (∀ n p, ch.nextStep w k = some (n, p) → eventOf w k p.act = i →
          exec i s = .next (s.commit (runAct s.mem (ch.setWork w (left n)) w (left n) p (ch.workClock k)))) ∧
        (∀ n p, ch.nextStep w k = some (n, p) → eventOf w k p.act ≠ i → same i)) ∧
      (∀ n p m u e, ch.nextStep w k = some (n, p) → p.act = .delivered m →
        let now := ch.workClock k
        (e = true → u = false → exec (.chanReadDelivery w e u) s = .next (s.commit (sectorError s.mem ⟨(ch.setWork w
          { k with steps := k.steps.set n { p with at_ := now + 1 + Config.retryBeats ch.fresh } }).freshen, []⟩ (k.sectorAddr m) true false))) ∧
        (e = false ∨ u = true → exec (.chanReadDelivery w e u) s = .next (s.commit (sectorError s.mem ⟨ch.setWork w
          (((left n).followed p now 0).poisonRead m u), []⟩ (k.sectorAddr m) false u)))) ∧
      (∀ st, ch.strand? k.core k.slot = some st →
        (∀ c dst q nochk, k.kind = .mdrain c dst q nochk →
          (drainNow ch st k = false → same (.mdrainDrain w)) ∧
          let bad : Prop := ch.sramBadAt (tileAddr k.core c + 1024 * q) 1024 = true ∨ nochk = false ∧ ch.sramBadAt (tileAddr k.core c) 4096 = true
          let data := (writeAll s.mem (lookAhead s.mem ch k.core k.slot).writes).readBytes (tileAddr k.core c + 1024 * q) 1024
          (drainNow ch st k = true → bad → ∃ t, exec (.mdrainDrain w) s = .next t ∧ t.mem = s.mem ∧
            (t.chip.work? w).map (·.state) = some (.error .sramUncorrected)) ∧
          (drainNow ch st k = true → ¬ bad → ∃ u, u = { st with traps := u.traps, csr := u.csr, replay := u.replay } ∧ (nochk = true → u = st) ∧
            exec (.mdrainDrain w) s = .next (s.keep ((ch.setStrand k.core k.slot
              (u.dueDrain k (regLands dst data (List.replicate 16 false) ++ [.workDone w]))).setWork w { k with total := 2 })))) ∧
        (∀ ln c h o ty rnd ovf nochk frm, k.kind = .wstc ln c h o ty rnd ovf nochk frm →
          (drainNow ch st k = false → same (.wstcDrain w)) ∧
          let bad : Prop := ch.sramBadAt (tileAddr k.core c) 4096 = true
          (drainNow ch st k = true → bad → ∃ t, exec (.wstcDrain w) s = .next t ∧ t.mem = s.mem ∧ (t.chip.work? w).map (·.total) = some 2) ∧
          (drainNow ch st k = true → ¬ bad → ∃ u f ok bs, u = { st with traps := u.traps, csr := u.csr, replay := u.replay } ∧
            (nochk = true → u = st ∧ ok = true) ∧ (ok = false → bs = []) ∧
            exec (.wstcDrain w) s = .next (s.keep ((ch.setStrand k.core k.slot
              (u.dueDrain k [.flags f, .laneFill ln ok bs, .workDone w])).setWork w { k with total := 2 })))))) ∧
    (∀ q, exec (.collRequestArrives (.peer q)) s = .next (s.commit (peerRequest s.mem ch q))) ∧
    (∀ port on dest data, exec (.linkFlitStep (.transit port on dest data)) s = .next (s.keep (transitArrives ch port on dest data)) ∧
      (dest = ch.devnum.toNat ∨ (ch.owner on).state = .empty ∨ ch.reachable dest = false → transitArrives ch port on dest data = ch)) ∧
    (∀ core slot st, ch.strand? core slot = some st →
      let o := ch.owner st.place.owner
      (st.lane.queue = [] → same (.laneBeat core slot)) ∧
      (∀ e rest, st.lane.queue = e :: rest → o.frozenAt ch.gts = true ∨ o.ownsAt .wlane (o.clock ch.gts) = false ∨ o.clock ch.gts < e.notBefore →
        same (.laneBeat core slot)) ∧
      (∀ e rest n bs ilv key ents onChip j, st.lane.queue = e :: rest → ch.work? e.work = some j → j.kind = .laneStore n bs ilv key ents onChip →
        bs ≠ [] → o.frozenAt ch.gts = false → o.ownsAt .wlane (o.clock ch.gts) = true → e.notBefore ≤ o.clock ch.gts →
        ∃ t, exec (.laneBeat core slot) s = .next t ∧ t.mem = s.mem ∧
          (t.chip.strand? core slot).map (·.lane.queue) = some (dropSent ({ e with sent := e.sent + 1 } :: rest))) ∧
      (ch.runs st = true → st.run.tau % 2 ^ laneLogw st.lane = 0 → exec (.laneBudgetRefill core slot) s =
        .next (s.keep (ch.setStrand core slot (refillLane o st))) ∧ (refillLane o st).lane.brem = laneBudget o st.lane ∧
        (refillLane o st).lane.queue = st.lane.queue) ∧
      (ch.runs st = false ∨ st.run.tau % 2 ^ laneLogw st.lane ≠ 0 → same (.laneBudgetRefill core slot)) ∧
      (∀ t, st.st.wait = .laneFull t → t + laneBpwait st.lane ≤ st.run.tau → exec (.wlaneBackpressure core slot) s = .next (s.keep
        { takeTrap s.mem ch core slot (st.mkTrap .st .wlaneBackpressure (noAddr .wlaneBackpressure) 0) with verdict := .trapped })) ∧
      (∀ t, st.st.wait = .laneFull t → st.run.tau < t + laneBpwait st.lane → same (.wlaneBackpressure core slot)))

/-- R378, R380, R381, R389 to R391, R393: maintenance of a channel and the hot pages of a stack. Each of the twelve events answers a next state
whenever its turn comes: the one with its effect where the queue, the slot, the bank, the alert, the copy or the window is as its rule says, the
machine as it is otherwise. A slot takes one command: `maintFree` says that the beat has had none. That a page's migration ranks with a row's copy,
and takes a read and a write in turn, is log 47; that an alert with no owner to yield goes on in maintenance slots, log 104; that a copy's read may
meet a new error, log 89; the first refresh a period after reset, log 29; what a frame that moves takes with it, log 105; the free-frame ring, log 35.
The row and bank layout is log 29. -/
def Obligations.MaintenanceEvents : Prop :=
  ∀ (s : State) (c n bank : Nat) (e u : Bool),
    let ch := s.chip
    let k := ch.chan c
    let sets (i : Instr) (k : Chan) : Prop := exec i s = .next (s.keep (ch.setChan c k))
    let same (i : Instr) : Prop := exec i s = .next s
    let slot : Prop := ch.gts % 16 = 15
    let free : Prop := k.maintFree ch.gts = true
    let t := ch.stk n
    let puts (i : Instr) (k : Stack) : Prop := exec i s = .next (s.keep (ch.setStk n k))
    let scrubAt := sectorAddress c k.scrub
    let spent := spendYield ch c
    let k1 := spent.chan c
    let due := (refreshBank k ch.gts 8).or (if copyClaims ch c then none else refreshBank k ch.gts 1)
    let refreshes : Prop := slot ∧ free ∧ k.alertFirst = false
    let scrubs : Prop := slot ∧ free ∧ k.alertFirst = false ∧ copyClaims ch c = false ∧ refreshBank k ch.gts 1 = none ∧
      k.bankFree.getD (k.scrub % 32) 0 ≤ ch.gts ∧ k.scrub < chanSectors
    let copies : Prop := (slot ∨ (yieldingOwner ch c).isSome = true) ∧ free ∧ alertNow ch c = none ∧ (slot → refreshBank k ch.gts 8 = none)
    (k.queue ≠ [] → sets (.writeQueueDrain c) { k with queue := k.queue.tail }) ∧
    (k.queue = [] → exec (.writeQueueDrain c) s = .next (s.keep ch)) ∧
    (¬ refreshes ∨ due = none → same (.refresh c)) ∧
    (∀ b, refreshes → due = some b →
      sets (.refresh c) ({ k with refreshDue := k.refreshDue.set b (k.refreshDue.getD b 0 + 1) }.maintUse ch.gts)) ∧
    (scrubs → exec (.patrolScrub c e u) s = .next (s.commit (sectorError s.mem ⟨ch.setChan c ({ k with scrub := k.scrub + 1 }.maintUse ch.gts), []⟩
      scrubAt e (u && !ch.poisoned.contains (scrubAt / 64))))) ∧
    (¬ scrubs → same (.patrolScrub c e u)) ∧
    (chanSectors ≤ k.scrub → sets (.patrolPassComplete c)
      { k with scrub := 0, rows := (k.rows.map (fun r => (r.1, r.2.1, r.2.2 - 1))).filter (fun r => r.2.2 != 0) }) ∧
    (k.scrub < chanSectors → same (.patrolPassComplete c)) ∧
    (8 ≤ k.owed bank ch.gts → (∀ a, a ∈ k.alert → a.1 ≠ bank) → ∃ v, exec (.alertBackoff c bank) s = .next v ∧ v.mem = s.mem ∧
      v.chip.chan c = { k with alert := k.alert ++ [(bank, 9)] } ∧ (ch.gts, 392 + c / 32, c, bank) ∈ (v.chip.stk (c / 32)).alertLog) ∧
    (k.owed bank ch.gts < 8 → same (.alertBackoff c bank)) ∧
    (slot → ∀ a, alertNow ch c = some a → a.2 = 9 ∨ ∀ o, o ∈ ch.chanOwners → k.yields.getD o 0 = 0) ∧
    (¬ slot → ∀ a, alertNow ch c = some a → a.2 ≠ 9 ∧ (yieldingOwner ch c).isSome = true) ∧
    (alertNow ch c = none ∨ ¬ free → same (.alertServiceCommand c)) ∧
    (∀ b j, alertNow ch c = some (b, j) → free → ∃ v, exec (.alertServiceCommand c) s = .next v ∧ v.mem = s.mem ∧
      let left := (k1.alert.map (fun a => if a.1 = b then (a.1, j - 1) else a)).filter (fun a => a.2 != 0)
      (v.chip.chan c).alert = left ∧ (v.chip.chan c).maintFree ch.gts = false ∧
      (v.chip.chan c).refreshDue = (if j ≤ 1 then k1.refreshDue else k1.refreshDue.set b (k1.refreshDue.getD b 0 + 1)) ∧
      (j ≠ 9 → left = [] → k1.copy = none → (v.chip.chan c).yields = []) ∧
      (j ≠ 9 → left ≠ [] ∨ k1.copy.isSome = true → (v.chip.chan c).yields = k1.yields)) ∧
    (∀ r, k.copy = some r → ¬ copies → same (.spareRowCopy c)) ∧
    (∀ r, k.copy = some r → copies → r.next + 1 < 32 →
      let sector := rowAddress c r.bank r.row + r.next / 2 * 2048
      let go := spent.setChan c { k1.maintUse spent.gts with copy := some { r with next := r.next + 1 } }
      let bad : Prop := spent.poisoned.contains (sector / 64) = true ∨ Config.copyMeets spent.fresh = true
      (r.next % 2 = 1 → exec (.spareRowCopy c) s = .next (s.keep go)) ∧
      (r.next % 2 = 0 → ¬ bad → exec (.spareRowCopy c) s = .next (s.keep go.freshen)) ∧
      (r.next % 2 = 0 → bad → exec (.spareRowCopy c) s =
        .next (s.commit (faqRecord s.mem ⟨go.freshen.setPoison (sector / 64) true, []⟩ (c / 32) sector 1)))) ∧
    (∀ r, k.copy = some r → copies → r.next = 31 → ∃ v, exec (.spareRowCopy c) s = .next v ∧
      (r.bank, r.row, r.spare) ∈ (v.chip.chan c).remap) ∧
    (k.copy = none → same (.spareRowCopy c) ∧ same (.spareCopyEscalation c)) ∧
    (∀ r, k.copy = some r → r.since + 2 ^ 16 ≤ ch.gts → (∀ y, y ∈ k.yields → y.2 = 0) →
      sets (.spareCopyEscalation c) { k with yields := shareOut ch (32 - r.next) }) ∧
    (∀ r, k.copy = some r → ch.gts < r.since + 2 ^ 16 → same (.spareCopyEscalation c)) ∧
    (ch.gts % 2 ^ 20 = 0 → exec (.hotWindowEnd n) s =
      let r := hotStep s.mem ⟨ch, []⟩ n
      .next (s.commit { r with chip := r.chip.setStk n { r.chip.stk n with counts := [] } })) ∧
    (ch.gts % 2 ^ 20 ≠ 0 → same (.hotWindowEnd n)) ∧
    (∀ f b, t.ineligible.get? f = some b → ch.gts < b → same (.hotIneligibleExpiry n f)) ∧
    (∀ f b, t.ineligible.get? f = some b → b ≤ ch.gts → puts (.hotIneligibleExpiry n f) { t with ineligible := t.ineligible.del f }) ∧
    (∀ f, t.ineligible.get? f = none → same (.hotIneligibleExpiry n f)) ∧
    (t.migration = none → same (.hotPageMigrationCopy n) ∧ same (.migrationCommit n)) ∧
    (∀ g, t.migration = some g →
      let old := n * 2 ^ 37 + g.frame * 65536
      let from_ := old + 64 * (g.next / 2)
      let to_ := g.target + 64 * (g.next / 2)
      (migrationChan n g = none → same (.hotPageMigrationCopy n)) ∧
      (2048 ≤ g.next → migrationChan n g = none) ∧
      (∀ q, migrationChan n g = some q →
        let kq := ch.chan q
        let goes : Prop := slot ∧ kq.maintFree ch.gts = true ∧ alertNow ch q = none ∧ refreshBank kq ch.gts 8 = none ∧ kq.copy = none ∧
          ch.heldAt from_ 64 = false ∧ ch.heldAt to_ 64 = false
        (¬ goes → same (.hotPageMigrationCopy n)) ∧
        (goes → g.next % 2 = 0 → exec (.hotPageMigrationCopy n) s = .next (s.keep
          ((ch.setChan q (kq.maintUse ch.gts)).setStk n { t with migration := some { g with next := g.next + 1 } }))) ∧
        (goes → g.next % 2 = 1 → ∃ v, exec (.hotPageMigrationCopy n) s = .next v ∧ v.mem = s.mem.write to_ (s.mem.readBytes from_ 64) ∧
          (v.chip.stk n).migration = some { g with next := g.next + 1 } ∧ v.chip.lineKeys.get? (to_ / 64) = ch.lineKeys.get? (from_ / 64) ∧
          v.chip.poisoned.contains (to_ / 64) = ch.poisoned.contains (from_ / 64))) ∧
      let held : Prop := ch.heldAt old 65536 = true ∨ ch.heldAt g.target 65536 = true ∨ ch.heldAt g.leaf 8 = true
      let ended : Chip := ch.setStk n { t with migration := none }
      let spare : Stack := { t with migration := none }
      (g.next < 2048 ∨ held → same (.migrationCommit n)) ∧
      (2048 ≤ g.next → ¬ held → handleOverlaps s.mem (ch.part g.part) old = true →
        exec (.migrationCommit n) s = .next (s.commit (returnFrame s.mem ⟨ended, []⟩ spare g.target))) ∧
      (2048 ≤ g.next → ¬ held → handleOverlaps s.mem (ch.part g.part) old = false →
        let leaf := homeAddr 0 g.leaf
        let was := s.mem.readLe leaf 8
        let moved := dropTlb (ended.moved old g.target) g.part (fun e => e.frame == old)
        (∀ core e, e ∈ (moved.core core).tlb ↔ e ∈ (ch.core core).tlb ∧ ¬ ((ch.owner e.owner).part = g.part ∧ e.frame = old)) ∧
        moved.stores = movedStores ch old g.target ∧
        exec (.migrationCommit n) s = .next (s.commit (returnFrame s.mem (writeOwn s.mem ⟨moved, []⟩ leaf
          (leBytes 8 (was - was / 2 ^ 12 % 2 ^ 36 * 2 ^ 12 + g.target))) spare old))))

/-- R112, R382 to R386, R392, R394, R410: walks, invalidation, dirty harvest, the memory interfaces, and the host's own accesses. The times of walks
and invalidations are free (log 6), the replaced TLB entry too (log 7). A TLBINV written while an invalidation runs joins it (log 71); an access of
the host is under key slot 0 (log 46). -/
def Obligations.TranslationEvents : Prop :=
  ∀ (s : State) (n part page addr : Nat) (all write : Bool) (high group : BitVec 32) (data : List Byte),
    let ch := s.chip
    let same (i : Instr) : Prop := exec i s = .next s
    let p := ch.part part
    let done := ch.gts + 1 + Config.invBeats ch.fresh
    let inv (v : Nat × Bool × Nat) : Prop := exec (.tlbinv part page all) s =
      .next (s.keep { ch.setPart part { p with tlbinv := some v } with fresh := ch.fresh + 1 })
    let tells (i : Instr) (o : Output) : Prop := exec i s = .next (s.keep (ch.emit o))
    let home := Instr.hostMemoryAccess write addr data
    (∀ w, ch.walks[n]? = some w → w.doneBeat = 0 ∨ ch.gts < w.doneBeat ∨ w.result.isSome = true → same (.tlbWalkComplete n)) ∧
    (∀ w, ch.walks[n]? = some w → w.doneBeat ≠ 0 → w.doneBeat ≤ ch.gts → w.result = none →
      let o := ch.owner w.owner
      let got := translateWalk s.mem (((BitVec.ofNat 64 o.s1root).extractLsb' 12 36).toNat * 2 ^ 12) (ch.part o.part).s2root w.owner w.page w.write
      let wake (ch : Chip) : State := s.keep (wakeWalker ch w)
      (∀ e, got = .ok e → exec (.tlbWalkComplete n) s = .next (wake (insertTlb { ch with walks := ch.walks.eraseIdx n } w.core e))) ∧
      (∀ c, got = .error c → exec (.tlbWalkComplete n) s = .next (wake { ch with walks := ch.walks.set n { w with result := some (c, w.page) } }))) ∧
    (p.tlbinv = none → inv (page, all, done)) ∧
    (∀ q a d, p.tlbinv = some (q, a, d) → inv (page, all || a || decide (q ≠ page), max d done)) ∧
    (∀ q a d, p.tlbinv = some (q, a, d) →
      (ch.gts < d → same (.tlbinvComplete part)) ∧
      (d ≤ ch.gts → ∃ t, exec (.tlbinvComplete part) s = .next t ∧ t.mem = s.mem ∧ (t.chip.part part).tlbinv = none ∧
        ∀ c e, e ∈ (t.chip.core c).tlb ↔ e ∈ (ch.core c).tlb ∧ ¬ ((ch.owner e.owner).part = part ∧ (a = true ∨ e.page = q)))) ∧
    (p.tlbinv = none → same (.tlbinvComplete part)) ∧
    (let m := (ch.msel.extractLsb' 0 3).toNat
      ∃ t, exec (.dharv high group) s = .next t ∧ t.mem = s.mem ∧
      (∀ i, i < 64 → (t.chip.stk m).dhbits.getLsbD i = (ch.stk m).dirty.contains (group.toNat * 64 + i)) ∧
      (∀ f, f ∈ (t.chip.stk m).dirty ↔ f ∈ (ch.stk m).dirty ∧ (f < group.toNat * 64 ∨ group.toNat * 64 + 64 ≤ f))) ∧
    ((∀ e, e ∈ ch.stores → canApply ch n e = false) → same (.memoryInterfaceApply n)) ∧
    (∀ e l1 l2, ch.stores = l1 ++ e :: l2 → (∀ f, f ∈ l1 → canApply ch n f = false ∧ f.id ≠ e.id) → canApply ch n e = true →
      exec (.memoryInterfaceApply n) s = .next (s.keep { ch with stores :=
        (ch.stores.map (fun f => if f.id = e.id then { f with applied := n :: f.applied } else f)).filter (fun f => decide (f.applied.length < 4)) })) ∧
    (inHbm addr = false ∨ ch.closed s.mem addr = true → tells home .errorCompletion) ∧
    (inHbm addr = true → ch.closed s.mem addr = false → ch.heldAt addr data.length = true →
      exec home s = .next (s.keep { ch with inputs := ch.inputs ++ [(ch.gts + 1, home)] })) ∧
    (inHbm addr = true → ch.closed s.mem addr = false → ch.heldAt addr data.length = false →
      (write = true → exec home s = .next (s.commit (writeHome s.mem ⟨ch, []⟩ 0 addr data))) ∧
      (write = false → tells home (.hostData (decrypt ch 0 addr (s.mem.readBytes addr data.length)))))

/-- R33, R173, R186 to R191, R194 to R196, R359, R364 to R370: what happens to an owner, and the answers to its records. Unit times within their
bounds are free (log 13), fields of a record that the manual does not lay out too (log 19); spilled records are log 94, the walk made again at Resume
log 86, the window of an owner that lies on several devices log 93; Deliver with H = 1 is log 39. The context number of a switch-out, and where it has
no effect, are log 27; a kill in one beat is log 37; the peers of an owner that lies on several devices are log 5. -/
def Obligations.OwnerEvents : Prop :=
  ∀ (s : State) (on core slot grp part : Nat) (hyper : Bool),
    let ch := s.chip
    let o := ch.owner on
    let sets (i : Instr) (o : Owner) : Prop := exec i s = .next (s.keep (ch.setOwner on o))
    let same (i : Instr) : Prop := exec i s = .next s
    (o.state = .admitting → o.origin = ch.gts → sets (.ownerOrigin on) { o with state := .running, frozen := o.origin }) ∧
    (o.state ≠ .admitting ∨ o.origin ≠ ch.gts → same (.ownerOrigin on)) ∧
    let released : Prop := ∃ r, o.rephase = some r ∧ r.release.isSome = true
    let ended := (ch.strandsOf on).all (fun e => e.2.run.reported)
    (o.state = .running → o.freezeAt = some ch.gts → ¬ released → sets (.freezeBegin (.own on)) { o with state := .frozen }) ∧
    (o.state ≠ .running ∨ o.freezeAt ≠ some ch.gts ∨ released → same (.freezeBegin (.own on))) ∧
    (∀ q, exec (.freezeBegin (.peer on q)) s = .next (s.keep (peerOrder ch on q)) ∧ (o.ndev ≤ 1 → peerOrder ch on q = ch)) ∧
    (∀ g, 1 < o.ndev → o.state = .running → o.rephase = none → o.freezeAt = none → ch.gts < g →
      sets (.freezeBegin (.peer on (.freeze g))) { o with freezeAt := some g, thawAt := none }) ∧
    (o.thawAt = some ch.gts → o.state = .frozen →
      sets (.thawResume on) { o with state := if ended then .halted else .running, freezeAt := none, thawAt := none }) ∧
    (o.thawAt = some ch.gts → o.state = .ready → ∃ t, exec (.thawResume on) s = .next t ∧ t.mem = s.mem ∧
      ((t.chip.owner on).state = .running ∨ (t.chip.owner on).state = .halted) ∧ (t.chip.owner on).preempt = none ∧
      (t.chip.owner on).freezeAt = none ∧ (t.chip.owner on).thawAt = none) ∧
    (o.thawAt ≠ some ch.gts → same (.thawResume on)) ∧
    (∀ r, o.rephase = some r →
      (r.release = some ch.gts → o.freezeAt = none → ∃ t, exec (.rephaseRelease on) s = .next t ∧ t.mem = s.mem ∧
        t.chip.owner on = { o with freezeAt := some ch.gts, thawAt := some (ch.gts + r.delta), last := 0 } ∧
        ∀ c sl st, t.chip.strand? c sl = some st → st.place.owner = on → (st.run.stall.map (·.kind)) ≠ some .rephaseHold) ∧
      (r.release ≠ some ch.gts → same (.rephaseRelease on)) ∧
      (o.thawAt = some ch.gts → r.release.isSome = true → ∃ t, exec (.rephaseResume on) s = .next t ∧ t.mem = s.mem ∧
        t.chip.owner on = { o with rephase := none, freezeAt := none, thawAt := none, last := 0 }) ∧
      (o.thawAt ≠ some ch.gts ∨ r.release = none → same (.rephaseResume on)) ∧
      (∀ b, r.limit = some b → r.release = none → b ≤ ch.gts → ∃ t, exec (.rephaseAbandon on) s = .next t ∧ t.mem = s.mem ∧
        t.chip.owner on = { o with rephase := none, last := 11 }) ∧
      (r.limit = none ∨ r.release.isSome = true → same (.rephaseAbandon on))) ∧
    (o.rephase = none → same (.rephaseRelease on) ∧ same (.rephaseResume on) ∧ same (.rephaseAbandon on)) ∧
    (∃ t, exec (.admitTimeout grp) s = .next t ∧ t.mem = s.mem ∧
      (∀ c sl st b, ch.strand? c sl = some st → st.ct.wait = .admitWait grp b none → b + 2 ^ 24 ≤ ch.gts →
        (t.chip.strand? c sl).map (·.ct.wait) = some (.admitWait grp b (some 10))) ∧
      (∀ c sl st b, ch.strand? c sl = some st → st.ct.wait = .admitWait grp b none → ch.gts < b + 2 ^ 24 → t.chip.strand? c sl = some st)) ∧
    (∀ p, o.state = .window → o.preempt = some p →
      let ready := (decide (o.ndev ≤ 1) || Config.peersPrept ch.gts) && (ch.strandsOf on).all (fun e => e.2.run.preptMask.isSome)
      (ch.gts < p.g ∨ (ch.gts < p.windowEnd ∧ ready = false) → same (.preptWindowExpiry on)) ∧
      (p.g ≤ ch.gts → p.windowEnd ≤ ch.gts ∨ ready = true → ∃ t, exec (.preptWindowExpiry on) s = .next t ∧ t.mem = s.mem ∧
        (t.chip.owner on).state = .collect ∧ (t.chip.owner on).thawAt = none ∧ ((t.chip.owner on).preempt.map (·.gf)) = some ch.gts)) ∧
    (∀ p, o.state = .collect → o.preempt = some p →
      let waits : Prop := ch.gts < p.unitDue ∨ outOpen ch on = true ∧ ch.gts < p.gf + 2048
      (waits → same (.collectComplete on)) ∧
      (¬ waits → ∃ t, exec (.collectComplete on) s = .next t ∧ t.mem = writeAll s.mem (cancelPending s.mem ⟨ch, []⟩ on).writes ∧
        (t.chip.owner on).state = .save ∧
        (t.chip.saved.get? p.ctx).map (·.owner) = some on ∧ ∀ e, e ∈ t.chip.strands → e.2.place.owner ≠ on)) ∧
    (∀ p, o.state = .save → o.preempt = some p →
      (ch.gts < p.unitDue → same (.contextSaveUnit on)) ∧
      (p.unitDue ≤ ch.gts → o.hdr.cores[p.unit / unitsEach]? = none → spillAt ch p o.hdr.ncore = none →
        ∃ t, exec (.contextSaveUnit on) s = .next t ∧ (t.chip.owner on).state = .saved) ∧
      (∀ r i j l, p.unitDue ≤ ch.gts → o.hdr.cores[p.unit / unitsEach]? = none → spillAt ch p o.hdr.ncore = some (r, i, j) →
        let ipa := spillIpa (ch.part o.part).savebase p.ctx i j
        stage2 s.mem (ch.part o.part).s2root ipa true = some l → unitHeld ch l ipa = false → exec (.contextSaveUnit on) s = .next (s.commit
          (bulkWrite s.mem ⟨nextUnit ch on o p (p.unit + 1), []⟩ l ipa (r.spillBytes j)))) ∧
      (∀ c l, p.unitDue ≤ ch.gts → o.hdr.cores[p.unit / unitsEach]? = some c →
        let ipa := unitIpa (ch.part o.part).savebase p.ctx (p.unit / unitsEach) (p.unit % unitsEach)
        stage2 s.mem (ch.part o.part).s2root ipa true = some l →
        (unitHeld ch l ipa = true → same (.contextSaveUnit on)) ∧
        (unitHeld ch l ipa = false → exec (.contextSaveUnit on) s = .next (s.commit (bulkWrite s.mem ⟨nextUnit ch on o p (p.unit + 1), []⟩ l ipa
          (s.mem.readBytes (unitAddr c (p.unit % unitsEach)) 4096)))))) ∧
    (∀ p, o.state = .load → o.preempt = some p →
      let units := bulkUnits ch p o.hdr.ncore
      (ch.gts < p.unitDue ∨ units < p.unit → same (.contextLoadUnit on)) ∧
      (p.unitDue ≤ ch.gts → p.unit ≤ units → o.hdr.cores[p.unit / unitsEach]? = none → spillAt ch p o.hdr.ncore = none →
        ∃ t, exec (.contextLoadUnit on) s = .next t ∧ t.mem = s.mem ∧
          (t.chip.owner on).state = (if (badRecord ch p.ctx).isSome then .load else .ready)) ∧
      (∀ c l, p.unitDue ≤ ch.gts → p.unit ≤ units → o.hdr.cores[p.unit / unitsEach]? = some c → stillSaving ch on c = false →
        let ipa := unitIpa (ch.part o.part).savebase p.ctx (p.unit / unitsEach) (p.unit % unitsEach)
        stage2 s.mem (ch.part o.part).s2root ipa false = some l → unitHeld ch l ipa = false → unitMine ch on c (p.unit % unitsEach) = true →
        exec (.contextLoadUnit on) s = .next (s.commit (writeHome s.mem ⟨nextUnit ch on o p (p.unit + 1), []⟩ 0 (unitAddr c (p.unit % unitsEach))
          (bulkRead s.mem ch l c ipa 4096))))) ∧
    (∀ st, ch.strand? core slot = some st →
      let busy := (ch.worksOf core slot).any (fun e => !e.2.seenDone ch.gts) || !st.lane.queue.isEmpty || decide (st.lane.wdone < st.lane.wissued)
      (st.run.halted = false ∨ st.run.reported = true ∨ busy = true → same (.haltReported core slot)) ∧
      (st.run.halted = true → st.run.reported = false → busy = false → ∃ t, exec (.haltReported core slot) s = .next t ∧ t.mem = s.mem ∧
        t.chip.strand? core slot = some { st with run := { st.run with reported := true } } ∧
        ((∀ e, e ∈ t.chip.strandsOf st.place.owner → e.2.run.reported = true) →
          (ch.owner st.place.owner).state = .running ∨ (ch.owner st.place.owner).state = .frozen → (t.chip.owner st.place.owner).state = .halted))) ∧
    (∀ r, nextRecord ((ch.part part).records.filter (fun r => r.hyper == hyper)) = some r →
      let p := ch.part part
      let base := if hyper then p.hqbase else p.kqbase
      let head := if hyper then p.hqhead else p.kqhead
      let tail := if hyper then p.hqtail else p.kqtail
      let n := (base.extractLsb' 48 16).toNat
      let a := (base.extractLsb' 5 43).toNat * 32 + head.toNat * 32
      let next := BitVec.ofNat 16 ((head.toNat + 1) % n)
      let left : Part := { p with records := p.records.erase r }
      (n ≤ 1 ∨ (head.toNat + 1) % n = tail.toNat ∨ ch.heldAt a 32 = true → same (.krecordAppend part hyper)) ∧
      (1 < n → (head.toNat + 1) % n ≠ tail.toNat → ch.heldAt a 32 = false → exec (.krecordAppend part hyper) s = .next (s.commit (writeOwn s.mem
        ⟨ch.setPart part (if hyper then { left with hqhead := next } else { left with kqhead := next }), []⟩ a (r.words.flatMap wordBytes))))) ∧
    (awaited ch core slot = none → same (.kansResume core slot) ∧ same (.kansDeliver core slot) ∧ same (.kansSwitchOut core slot) ∧
      same (.kansKill core slot)) ∧
    (∀ st c, awaited ch core slot = some (st, c) →
      let on := st.place.owner
      exec (.kansResume core slot) s = .next (s.keep (dropWalks (rewalk s.mem (answered ch core slot st c) core slot) core slot)) ∧
      (st.csr.tvec = 0 → same (.kansDeliver core slot)) ∧
      (st.csr.tvec ≠ 0 → st.run.h = false → exec (.kansDeliver core slot) s =
        .next (s.keep (enterHandler s.mem (dropWalks (answered ch core slot st c) core slot) core slot st none))) ∧
      (∀ ch2, (ch.owner on).state ≠ .window → requestAny ch on 0 = (ch2, true) →
        exec (.kansSwitchOut core slot) s = .next (s.keep (dropWalks (answered ch2 core slot st c) core slot))) ∧
      ((ch.owner on).state = .window ∨ (requestAny ch on 0).2 = false → same (.kansSwitchOut core slot)) ∧
      exec (.kansKill core slot) s = .next (s.commit (((ch.owners.filter (fun e => decide (e.1 = on ∨ (e.2.state ≠ .empty ∧ e.2.part = (ch.owner on).part ∧
        (domainOf s.mem (ch.owner on)).isSome = true ∧ domainOf s.mem e.2 = domainOf s.mem (ch.owner on))))).map (·.1)).foldl
          (fun r n => killOwner (writeAll s.mem r.writes) r n) ⟨ch, []⟩)))

/-- R6, R7, R388, R392, R396 to R409: what the host, the links and the module do. Ethernet moves are log 90, the loader log 92, a storage error log
85. Mailbox and signature answers are free (logs 17, 18), BAR2 at reset is log 32, the beats of a fence log 43, the GTS step log 44, retests log 30.
Key slots and their generations are log 16, dropped launches log 40, key slot 0 of accesses from outside log 46, one packet a beat log 69, a kill in
one beat log 37; the cores of the control cluster log 30. -/
def Obligations.HostEvents : Prop :=
  ∀ (s : State) (part m n addr version : Nat) (reg : CtlReg) (value : BitVec 64) (path : LaunchPath) (words : List (BitVec 64)) (flag : Bool)
    (data : List Byte) (image : List Nat) (offset : Int),
    let ch := s.chip
    let same (i : Instr) : Prop := exec i s = .next s
    let p := ch.part part
    let goes (i : Instr) (c : Chip) : Prop := exec i s = .next (s.keep c)
    let host (h : HostSt) : Chip := { ch with host := h }
    let on := (p.rcbsel.extractLsb' 0 3).toNat
    let a := (value.extractLsb' 6 42).toNat * 64
    let bind : Prop := (ch.owner on).state ≠ .empty ∧ (ch.owner on).part = part ∧ rcbChain s.mem 8 a = true
    let named := ((words.getD 0 0).extractLsb' 16 8).toNat
    let q := ch.part named
    let port := ch.host.port n
    let setPort (k : Port) : Chip := host { ch.host with ports := Tab.set ch.host.ports n k }
    let exch := Instr.alignExchange n offset m
    let core := ch.core n
    let waits (i : Instr) : Chip := { ch with inputs := ch.inputs ++ [(ch.gts + 1, i)] }
    (bind → exec (.rcbBind part value) s = .next (s.commit (bindOwner s.mem ⟨ch, []⟩ on a))) ∧
    (¬ bind → same (.rcbBind part value)) ∧
    (ch.host.booted = false ∨ ch.holdsOwner part = true ∨ 6 ≤ m → same (.pcoreWrite part m value)) ∧
    (ch.host.booted = true → ch.holdsOwner part = false → m < 6 → ∃ t, exec (.pcoreWrite part m value) s = .next t ∧ t.mem = s.mem ∧
      (m < p.pcore.length → (t.chip.part part).pcore.getD m 0 = value &&& ~~~ heldCores ch part m)) ∧
    (p.fencestat ≠ 1 → p.fencestat ≠ 2 → goes (.partitionFence part) (ch.setPart part { p with fencestat := 1 })) ∧
    (p.fencestat = 1 → goes (.partitionFence part) (fenceClose ch part) ∧ ((fenceClose ch part).part part).fencestat = 2) ∧
    (p.fencestat = 2 →
      let killed := ((List.range 8).filter (fun o => (ch.owner o).state != .empty && (ch.owner o).part == part)).foldl
        (fun r o => killOwner (writeAll s.mem r.writes) r o) ⟨ch, []⟩
      ∃ t, exec (.partitionFence part) s = .next t ∧ t.mem = writeAll s.mem killed.writes ∧ (t.chip.part part).fencestat = 3 ∧
        (∀ o, t.chip.owner o = killed.chip.owner o) ∧ (∀ k, k < 256 → t.chip.genOf k = killed.chip.genOf k +
          (if Config.keySlotPresent k = true ∧ Config.keySlotPart k = part then 1 else 0))) ∧
    (∃ t, exec (.registerWrite reg value) s = .next t) ∧
    (∀ b, (ch.owner n).state = .admitting → addr + data.length ≤ bufSize b → exec (.registerWrite (.buffer n (some b) addr data) value) s =
      .next (s.commit ((ch.owner n).hdr.cores.foldl (fun r c => writeHome s.mem r 0 (bufAddr b c + addr) data) ⟨ch, []⟩))) ∧
    (∀ b, (ch.owner n).state ≠ .admitting → same (.registerWrite (.buffer n b addr data) value)) ∧
    (2 ^ 48 ≤ addr → goes (.registerWrite (.sramError addr) value) { ch with sramBad := addr / 64 :: ch.sramBad }) ∧
    (∀ hd r w, m < 2 → (ch.owner n).state ≠ .empty → (ch.part (ch.owner n).part).fenced = false →
      readHandle s.mem ch (ch.part (ch.owner n).part) n value = some (hd, r, w) →
      let at_ := (List.range data.length).filterMap (fun k => (hd.byteAt (addr + k)).map (homeAddr hd.ilv))
      let runs := addrRuns at_
      (∀ e, e ∈ runs → ch.heldAt e.1 e.2 = false) →
      (r = true → goes (.registerWrite (.ether m n value addr true data) value) (charge (ch.emit (.ethernet m
        (runs.flatMap (fun e => decrypt ch (keyOf hd.key hd.ilv) e.1 (s.mem.readBytes e.1 e.2))))) n ((at_.length + 63) / 64))) ∧
      (r = false → same (.registerWrite (.ether m n value addr true data) value)) ∧
      (w = false → same (.registerWrite (.ether m n value addr false data) value))) ∧
    goes (.registerWrite .msel value) { ch with msel := value &&& 7 } ∧
    goes (.registerWrite (.htbase part) value) (ch.setPart part { p with htbase := value &&& 0xFFFFFFFFFFC0 }) ∧
    goes (.registerWrite (.s2root part) value) (ch.setPart part { p with s2root := value &&& 0xFFFFFFFFF000 }) ∧
    goes (.registerWrite (.s1root n) value) (ch.setOwner n { ch.owner n with s1root := (value &&& 0xFFFFFFFFF000).toNat }) ∧
    (words.length = 8 → named ≤ 7 → packetOk words = true → q.fenced = false → (path = .bar0 ∨ (∃ d, path = .isavik d) → m = named) →
      q.launches.length < 64 → goes (.launchPacket path m words)
        (ch.setPart named { q with launches := q.launches ++ [{ words := words, path := path, arrival := ch.gts }] })) ∧
    (words.length = 8 → named ≤ 7 → packetOk words = false ∨ q.fenced = true → (path = .bar0 ∨ (∃ d, path = .isavik d) → m < 8) →
      goes (.launchPacket path m words) (dropLaunch ch named)) ∧
    (nextPacket s.mem ch.gts p.launches = none → same (.launchDispatch part)) ∧
    (∀ k, nextPacket s.mem ch.gts p.launches = some k → ch.host.booted = true → ∃ t, exec (.launchDispatch part) s = .next t ∧
      (t.chip.part part).launches = p.launches.erase k) ∧
    (ch.host.bar2Open = true → addr + data.length ≤ 2 ^ 32 → ch.heldAt addr data.length = true → ∀ w,
      goes (.bar2Access w addr data) (waits (.hostMemoryAccess w addr data))) ∧
    (ch.host.bar2Open = true → addr + data.length ≤ 2 ^ 32 → ch.heldAt addr data.length = false →
      exec (.bar2Access true addr data) s = .next (s.commit (writeHome s.mem ⟨ch, []⟩ 0 addr data)) ∧
      goes (.bar2Access false addr data) (ch.emit (.hostData (decrypt ch 0 addr (s.mem.readBytes addr data.length))))) ∧
    (ch.host.bar2Open = false → same (.bar2Access true addr data) ∧
      goes (.bar2Access false addr data) (ch.emit (.hostData (List.replicate data.length 0xFF#8)))) ∧
    (placeOf addr ≠ .none → ch.closed s.mem addr = false → ch.heldAt addr data.length = true →
      goes (.isavikWrite n addr data) (waits (.hostMemoryAccess true addr data))) ∧
    (placeOf addr ≠ .none → ch.closed s.mem addr = false → ch.heldAt addr data.length = false →
      exec (.isavikWrite n addr data) s = .next (s.commit (writeHome s.mem ⟨ch, []⟩ 0 addr data))) ∧
    (placeOf addr = .none ∨ ch.closed s.mem addr = true → goes (.isavikWrite n addr data) (ch.emit .errorCompletion)) ∧
    (ch.host.booted = true → n < 128 → (∀ e, e ∈ ch.host.ports → e.2.good = 0 ∧ e.2.aligned = false) →
      goes (.setDevnum n) { ch with devnum := BitVec.ofNat 7 n }) ∧
    (ch.host.booted = false ∨ 128 ≤ n ∨ (∃ e, e ∈ ch.host.ports ∧ (e.2.good ≠ 0 ∨ e.2.aligned = true)) → same (.setDevnum n)) ∧
    goes (.loadFirmwareImage image version) (host { ch.host with firmware := some (image, version) }) ∧
    goes .readBootMeasurements (ch.emit (.mailbox ch.host.measured)) ∧
    (ch.host.firmware = some (image, version) → exec .boot s = .next (if Config.signaturesVerify image = true ∧ ch.host.rollback ≤ version then
      s.keep (host { ch.host with booted := true, measurements := ch.host.measurements ++ [Config.measure image] }) else s)) ∧
    (ch.host.booted = true → n ≠ 0x4802 → n ≠ 0x4803 → goes (.cxlMailboxCommand n m) (ch.emit (.mailbox [Config.mailboxAnswer n m]))) ∧
    (ch.host.booted = false → same (.cxlMailboxCommand n m)) ∧
    (n < Config.isavikPorts → m ≠ ch.devnum.toNat → offset = 0 → goes exch (setPort
      ⟨min 1024 (port.good + 1), 0, some m, port.aligned || decide (1024 ≤ port.good + 1)⟩)) ∧
    (n < Config.isavikPorts → m ≠ ch.devnum.toNat → offset ≠ 0 → ∃ t, exec exch s = .next t ∧ (t.chip.host.port n).aligned = false ∧
      (ch.devnum = 0 → t.chip.gts = ch.gts)) ∧
    (n < Config.isavikPorts → m = ch.devnum.toNat → ∃ t, exec exch s = .next t ∧ (t.chip.host.port n).aligned = false ∧ t.chip.gts = ch.gts) ∧
    (n < Config.isavikPorts → port.missed + 1 < 64 → goes (.alignExchangeMissed n) (setPort ⟨0, port.missed + 1, port.partner, port.aligned⟩)) ∧
    (n < Config.isavikPorts → 64 ≤ port.missed + 1 → ∃ t, exec (.alignExchangeMissed n) s = .next t ∧ (t.chip.host.port n).aligned = false) ∧
    goes (.powerBrake flag) (host { ch.host with brake := flag }) ∧
    goes (.spdmRequest .keys m) (host { ch.host with ideKeys := ch.host.ideKeys ++ [m] }) ∧
    goes (.spdmRequest .measurements m) (ch.emit (.spdm (ch.host.measured ++ [Config.spdmSignature ch.host.measurements]))) ∧
    goes (.spdmRequest .certificates m) (ch.emit (.spdm Config.identityChain)) ∧
    (∀ c, goes (.registerWrite (.read c 0xC50) value) (ch.emit (.hostData (wordBytes (if (ch.part c).tlbinv.isSome then 1 else 0)))).freshen ∧
      goes (.registerWrite (.read c 0xC40) value) (ch.emit (.hostData (wordBytes (ch.part c).s2root))).freshen ∧
      goes (.registerWrite (.read c 0xC51) value) (ch.emit (.hostData (wordBytes ch.msel))).freshen) ∧
    (ch.onCore n = [] → n < Config.cores → ¬ (core.disabled = true ∧ core.bin = 450) → exec (.voltageBinRaise n) s = .next (if Config.powerAllows ch.fresh = true then
      s.keep ({ ch with fresh := ch.fresh + 1 }.setCore n { core with bin := nextBin core.bin, disabled := !Config.retestPasses n ch.fresh }) else s)) ∧
    (n < Config.cores → ch.onCore n ≠ [] → same (.voltageBinRaise n)) ∧
    (Config.cores ≤ n → n < Config.cores + 8 → ∃ t, exec (.voltageBinRaise n) s = .next t ∧ t.mem = s.mem ∧ n ∈ t.chip.host.slow ∧ t.chip.cores = ch.cores)

/-- R27, R33, R36: the end of a beat advances GTS by one; strand time advances for a strand that runs in the beat and for no other, and no register
moves; an owner frozen as a whole counts one more frozen beat, so that its clock stands. (Said of a beat in which no owner retires and no account is
charged: retirement is R363's, a budget's end R203's.) -/
def Obligations.EndOfBeat : Prop :=
  ∀ (s : State), ∃ t, exec .gtsTick s = .next t ∧ t.chip.gts = s.chip.gts + 1 ∧
    ((∀ e, e ∈ s.chip.owners → e.2.state ≠ .retiring ∧ e.2.acct = none) →
      (∀ core slot st, s.chip.strand? core slot = some st → ∃ u, t.chip.strand? core slot = some u ∧
        u.run.tau = st.run.tau + (if s.chip.runs st then 1 else 0) ∧ u.bank = st.bank ∧ (∀ q, (u.seq q).x = (st.seq q).x ∧ (u.seq q).pc = (st.seq q).pc ∧
          (u.seq q).p = (st.seq q).p) ∧ u.traps = st.traps ∧ u.due = st.due ∧ u.csr = st.csr ∧ u.run.stall.isSome = st.run.stall.isSome) ∧
      (∀ on, (s.chip.owner on).state ≠ .empty → (s.chip.owner on).state ≠ .admitting →
        (t.chip.owner on).frozen = (s.chip.owner on).frozen + (if (s.chip.owner on).frozenAt s.chip.gts then 1 else 0)))

/-- R70, with R24 and R59: every word goes through one operation, which makes its checks in R70's order: the sequencer, privilege, reserved fields,
operands, the ring tokens; an inactive word only acts on its tokens. That fences test their tokens last is log 11; free FADDR, log 26. -/
def Obligations.IssueOrder : Prop :=
  ∀ (s : State) (h : Head) (i : Info) (pre : Ctx → Option Cause) (body : Ctx → Effect) (st : Strand),
    s.chip.strand? s.chip.cur.core s.chip.cur.slot = some st →
    let q := s.chip.cur.q
    let x := s.ctx st
    let r := issue s h i pre body
    let ready := st.sh.rings.ready q h
    let active := (st.rp q h.psel).xor h.pneg
    let traps (c : Cause) : Prop := r = .next (s.trapped st c (noAddr c) 0)
    let waits : Prop := r = .next (s.blockedAt (some .tokenOverflow) (st.seq q).wait s.chip)
    (i.grp.has q = false → traps .illSeq) ∧
    (i.grp.has q = true →
      (i.denied st = true → traps .priv) ∧
      (i.denied st = false →
        (i.ok = false → traps .illRsvd) ∧
        (i.ok = true →
          (∀ c, pre x = some c → traps c) ∧
          (pre x = none →
            (active = false → ready = true → r = .next (s.issuedAs h i.opc i.cls s.chip .next .none)) ∧
            (ready = false → active = false ∨ i.late = false → waits) ∧
            (active = true → ready = true ∨ i.late = true →
              (∀ c fa tv, body x = .fault c fa tv → r = .next (s.trapped st c fa tv)) ∧
              (∀ k ch, body x = .stall k ch → r = .next (s.stalledAt k ch)) ∧
              (∀ l w ch, body x = .block l w ch → r = .next (s.blockedAt l w ch)) ∧
              (∀ e f w, body x = .go e f w → ready = true → r = .next (s.commit { e with chip := s.retired h i.opc i.cls e.chip f w })) ∧
              (∀ e f w, body x = .go e f w → ready = false → waits))))))

/-- R24, R35, R74, R75, R201: what the issue of a word adds to its effect, and its frame. Tokens act, energy is charged, the section counts the word
and extends its signature, the next word follows; at a section's end RET takes its number unless the check word differs. No register, predicate,
latch, CSR or lane changes, no other strand, no other part of the machine. -/
def Obligations.IssueBookkeeping : Prop :=
  ∀ (s : State) (h : Head) (opc : BitVec 8) (cls : Nat) (ch : Chip) (st : Strand),
    ch.strand? s.chip.cur.core s.chip.cur.slot = some st →
    let core := s.chip.cur.core
    let q := s.chip.cur.q
    let t := s.issuedAs h opc cls ch .next .none
    SameMemory s t ∧
    (∀ c sl, skey c sl ≠ skey core s.chip.cur.slot → t.chip.strand? c sl = ch.strand? c sl) ∧
    t.chip.works = ch.works ∧ t.chip.owners = ch.owners ∧ t.chip.parts = ch.parts ∧ t.chip.cores = ch.cores ∧ t.chip.gts = ch.gts ∧
    ∃ u, t.chip.strand? core s.chip.cur.slot = some u ∧
      (∀ r, (u.seq r).x = (st.seq r).x ∧ (u.seq r).p = (st.seq r).p ∧ (u.seq r).tags = (st.seq r).tags ∧ (u.seq r).poison = (st.seq r).poison ∧
        (r ≠ q → u.seq r = st.seq r)) ∧
      u.bank = st.bank ∧ u.due = st.due ∧ u.csr = st.csr ∧ u.lane = st.lane ∧ u.place = st.place ∧ u.regions = st.regions ∧ u.monitors = st.monitors ∧
      u.sh = { st.sh with rings := st.sh.rings.act q h } ∧
      u.run = { st.run.charge ((ch.core core).weight cls) with arrived := u.run.arrived } ∧
      (∀ sec, (st.seq q).sec = some sec → ¬ (q = .ct ∧ st.run.h = true) → (st.seq q).pending = none → (st.seq q).loops = [] →
        let pc := (st.seq q).pc
        let crc := crcBytes sec.crc [opc, headByte h, sec.count.setWidth 8]
        let chk := wordAt s.mem core st.place (sec.lastPos + 1)
        (sec.inBody (pc + 1).toNat = true → u.traps = st.traps ∧ u.seq q = { st.seq q with
            pc := pc + 1, wait := .none, blockFrom := none, delay := transferOpc opc, worked := some (ch.gts, sec.num),
            sec := some { sec with count := sec.count + 1, crc := crc } }) ∧
        (sec.inBody (pc + 1).toNat = false → (u.seq q).sec = none ∧ (u.seq q).atHdr = true ∧
          (sec.check = false → u.traps = st.traps ∧ (u.seq q).retNext = some sec.num ∧ (u.seq q).pc = pc + 1) ∧
          (sec.check = true → (pc + 1).toNat = sec.lastPos + 1 → (u.seq q).pc = BitVec.ofNat 14 (sec.lastPos + 2) ∧
            (chk.extractLsb' 64 32 = sec.count + 1 → chk.extractLsb' 0 64 = crc → u.traps = st.traps ∧ (u.seq q).retNext = some sec.num) ∧
            (chk.extractLsb' 64 32 ≠ sec.count + 1 → ∃ p, u.traps = st.traps ++ [p] ∧ p.cause = .segCount ∧ (u.seq q).retNext = (st.seq q).retNext) ∧
            (chk.extractLsb' 64 32 = sec.count + 1 → chk.extractLsb' 0 64 ≠ crc →
              ∃ p, u.traps = st.traps ++ [p] ∧ p.cause = .segSig ∧ (u.seq q).retNext = (st.seq q).retNext))))

/-- THE FRAME OF EVERY WORD in memory: a word other than a copy, an SPL word and a CTX word leaves every byte as it was when it issues, blocks, stalls
or traps; what it stores lands later (`Landings`, `WorkEvents`). Scalar, control and vector words leave every register, predicate, handler-bank
register and lane of every strand, every other strand's CSRs, all engine work and every owner as they were: their results are latched (R35). -/
def Obligations.FrameOfWords : Prop :=
  ∀ (s t : State) (i : Instr) (w : IWord), encode i = some w → exec i s = .next t →
    let o := (wOpc w).toNat
    (¬ (0x30 ≤ o ∧ o ≤ 0x35) → o ≠ 0xE0 → o ≠ 0xE8 → SameMemory s t) ∧
    (o < 0x20 ∨ (0x60 ≤ o ∧ o ≤ 0x84) →
      t.chip.works = s.chip.works ∧ t.chip.owners = s.chip.owners ∧ t.chip.cores = s.chip.cores ∧ t.chip.gts = s.chip.gts ∧
      (∀ c sl, skey c sl ≠ skey s.chip.cur.core s.chip.cur.slot → t.chip.strand? c sl = s.chip.strand? c sl) ∧
      (∀ st u, s.chip.strand? s.chip.cur.core s.chip.cur.slot = some st → t.chip.strand? s.chip.cur.core s.chip.cur.slot = some u →
        (∀ q, (u.seq q).x = (st.seq q).x ∧ (u.seq q).p = (st.seq q).p) ∧ u.bank = st.bank ∧ u.lane = st.lane ∧ u.place = st.place))

/-- R19, R35, R94: one result lands in the beat it is due, in a beat the strand runs (a handler's in a slot of the handler's clock), writes its
destination and nothing else, and is gone; before that it waits. A write to x0 or p0 is discarded. A trapping result ORs its flags in, leaves its trap
pending and writes nothing. A store that ejects at an on-chip home writes its bytes there and no others. -/
def Obligations.Landings : Prop :=
  (∀ (s : State) (core slot : Nat) (st : Strand) (d : Due), s.chip.strand? core slot = some st → st.due = [d] →
    let e := Instr.dueResultLands core slot
    let now := if d.hclock then s.chip.ownsIssue st = true ∧ d.due ≤ st.run.hclk else s.chip.runs st = true ∧ d.due ≤ st.run.tau
    let gives (u : Strand) : Prop := exec e s = .next (s.keep (s.chip.setStrand core slot u))
    let stores (a : Nat) (data : List Byte) : Prop := ∃ t, exec e s = .next t ∧ SameOutside s t a data.length ∧
      (∀ i, i < data.length → Memory.read t.mem (a + i) = data.getD i 0) ∧ (t.chip.strand? core slot).map (fun u => (u.due, u.ct, u.ld, u.cp, u.st, u.csr))
        = some ([], st.ct, st.ld, st.cp, st.st, st.csr)
    (¬ now → gives st) ∧
    (now → d.trap = none →
      (∀ q v tag p, d.lands = [.x q 0 v tag p] → gives { st with due := [] }) ∧
      (∀ q r v tag p, d.lands = [.x q r v tag p] → r ≠ 0 → r < 64 → ∃ u, gives u ∧ u.due = [] ∧ (u.seq q).x.getD r 0 = v ∧ u.bank = st.bank ∧
        u.csr = st.csr ∧ ∀ k n, k ≠ q ∨ n ≠ r → (u.seq k).x.getD n 0 = (st.seq k).x.getD n 0) ∧
      (∀ q r v tag p, d.lands = [.x q r v tag p] → 64 ≤ r → ∃ u, gives u ∧ u.due = [] ∧ u.bank.getD (r - 64) 0 = v ∧
        (∀ k, k ≠ r - 64 → u.bank.getD k 0 = st.bank.getD k 0) ∧ u.ct = st.ct ∧ u.ld = st.ld ∧ u.cp = st.cp ∧ u.st = st.st ∧ u.csr = st.csr) ∧
      (∀ q v, d.lands = [.pred q 0 v] → gives { st with due := [] }) ∧
      (∀ q n v, d.lands = [.pred q n v] → 0 < n → n < 8 → ∃ u, gives u ∧ u.due = [] ∧ (u.seq q).p.getLsbD n = v ∧
        ∀ k j, j < 8 → k ≠ q ∨ j ≠ n → (u.seq k).p.getLsbD j = (st.seq k).p.getLsbD j) ∧
      (∀ f, d.lands = [.flags f] → gives { st with due := [], csr := { st.csr with fflags := st.csr.fflags ||| f } }) ∧
      (∀ n v, d.lands = [.csr n v] → gives (csrWrite { st with due := [] } n v)) ∧
      (∀ off data, d.lands = [.reg off data] → stores (windowBase core st + off) data) ∧
      (∀ a data, d.lands = [.bytes a data] → 2 ^ 48 ≤ a → stores a data)) ∧
    (∀ p f l, now → d.trap = some p → d.lands = l ++ [.flags f] → (∀ a, a ∈ l → ∃ n b, a = .reg n b) →
      gives { st with due := [], traps := st.traps ++ [p], csr := { st.csr with fflags := st.csr.fflags ||| f } })) ∧
  (∀ (s : State) (w : Nat) (k : Work) (n : Nat) (p : PStep) (l : List Byte) (home : Nat), s.chip.work? w = some k →
    s.chip.nextStep w k = some (n, p) → p.act = .atHome → k.kind = .access (.store l) home [] → 2 ^ 48 ≤ home →
    ∃ t, exec (.meshFlitStep w) s = .next t ∧ SameOutside s t home l.length ∧ (∀ i, i < l.length → Memory.read t.mem (home + i) = l.getD i 0) ∧
      (t.chip.work? w).map (·.state) = some .done)

/-- R177, R179, R184, R185: TAKING A TRAP. TCAUSE, FADDR, TVAL and the four EPCs are written and the strand stalls; a cause of the strand goes to its
handler at TVEC with H = 1, others and those of a strand with TVEC 0 go to the kernel or the hypervisor as a record; a second one while H = 1 changes
only bits 6:0 of TVAL and goes to the kernel as DOUBLE_TRAP. No register, latch or lane changes, and no other strand. RETURNING: H clears, every
sequencer is at its EPC, the stall may end from the next beat, and CT has back what was set aside unless its EPC was written. TCAUSE between sections
is log 26. That the four EPCs are written by a trap that enters no handler is log 83; the source core of a record is log 84. -/
def Obligations.TrapsAndReturns : Prop :=
  (∀ (s : State) (c sl : Nat) (t : PTrap) (st : Strand), s.chip.strand? c sl = some st →
    let ch := takeTrap s.mem s.chip c sl t
    let part := (s.chip.owner st.place.owner).part
    let usable : Prop := (sectionHolding s.mem c st.place st.csr.tvec.toNat).isSome = true ∧ st.place.absent.contains st.csr.tvec.toNat = false
    let bs := (st.run.stall.map (·.bs)).getD s.chip.gts
    let low := (BitVec.ofNat 64 (causeCode t.cause))
    let records (k : Cause) (u : Strand) : Prop := u.run.stall = some ⟨.record k, bs, none⟩ ∧ ∃ r, (ch.part part).records = (s.chip.part part).records ++ [r] ∧
      r.hyper = (causeTo k == .hyper) ∧ r.gts = s.chip.gts ∧ r.core = c ∧ r.slot = sl ∧ r.words.getD 2 0 = u.csr.tcause ∧ r.words.getD 3 0 = u.csr.faddr
    (∀ c' sl', skey c' sl' ≠ skey c sl → ch.strand? c' sl' = s.chip.strand? c' sl') ∧ ch.works = s.chip.works ∧ ch.owners = s.chip.owners ∧
    ∃ u, ch.strand? c sl = some u ∧
      (∀ q, (u.seq q).x = (st.seq q).x ∧ (u.seq q).p = (st.seq q).p) ∧ u.bank = st.bank ∧ u.due = st.due ∧ u.lane = st.lane ∧ u.run.tau = st.run.tau ∧
      (st.run.h = false →
        u.csr.tcause = tcauseOf t ∧ u.csr.faddr = t.faddr ∧ u.csr.tepc = st.ct.pc ∧ u.csr.ldepc = st.ld.pc ∧ u.csr.cpepc = st.cp.pc ∧ u.csr.stepc = st.st.pc ∧
        u.ld.pc = st.ld.pc ∧ u.cp.pc = st.cp.pc ∧ u.st.pc = st.st.pc ∧
        (causeTo t.cause = .strand → st.csr.tvec ≠ 0 → usable →
          u.csr.tval = t.tval ∧ u.run.h = true ∧ u.ct.pc = st.csr.tvec ∧ u.ct.loops = [] ∧ u.ct.pending = none ∧
          u.run.stall = some ⟨.trap, bs, none⟩ ∧ ch.parts = s.chip.parts) ∧
        (causeTo t.cause = .strand → st.csr.tvec ≠ 0 → ¬ usable → u.run.h = true ∧ records .doubleTrap u) ∧
        (causeTo t.cause ≠ .strand ∨ st.csr.tvec = 0 → u.csr.tval = t.tval ∧ u.run.h = false ∧ u.ct.pc = st.ct.pc ∧ records t.cause u)) ∧
      (st.run.h = true → u.run.h = true ∧ u.ct = st.ct ∧ records .doubleTrap u ∧
        u.csr = { st.csr with tval := (st.csr.tval &&& 0xFFFFFFFFFFFFFF80) ||| low })) ∧
  (∀ (m : Memory) (ch : Chip) (c sl : Nat) (st : Strand), ∃ u, (leaveHandler m ch c sl st).strand? c sl = some u ∧
    u.run.h = false ∧ u.ct.pc = st.csr.tepc ∧ u.ld.pc = st.csr.ldepc ∧ u.cp.pc = st.csr.cpepc ∧ u.st.pc = st.csr.stepc ∧
    u.run.stall = st.run.stall.map (fun k => { k with cleared := some (ch.gts + 1) }) ∧ u.csr = st.csr ∧ u.bank = st.bank ∧ u.due = st.due ∧
    (∀ q, (u.seq q).x = (st.seq q).x ∧ (u.seq q).p = (st.seq q).p) ∧
    (∀ v, st.run.saved = some v → st.ct.epcWritten = false → u.ct.loops = v.loops ∧ u.ct.pending = v.pending ∧
      u.ct.delay = v.delay ∧ u.ct.atHdr = v.atHdr) ∧
    (∀ q, (st.seq q).epcWritten = true → (u.seq q).loops = [] ∧ (u.seq q).pending = none ∧ (u.seq q).delay = false ∧ u.replay.noRecord.contains q = false) ∧
    (∀ q, q ≠ .ct → (st.seq q).epcWritten = false → (u.seq q).loops = (st.seq q).loops ∧ (u.seq q).pending = (st.seq q).pending) ∧
    ∀ c' sl', skey c' sl' ≠ skey c sl → (leaveHandler m ch c sl st).strand? c' sl' = ch.strand? c' sl')

/-- R126, R160, R202, R392, R401: what reset and admission leave, where the manual gives the value. (GTS 0, an empty machine and the registers the
manual gives no value are the model's choice: logs 4 and 29 to 32.) -/
def Obligations.ResetValues : Prop :=
  (let s := State.reset
   s.mem = [] ∧ s.chip.strands = [] ∧ s.chip.owners = [] ∧ s.chip.works = [] ∧
   (∀ n, (s.chip.part n).htlen = 0 ∧ (s.chip.part n).fencestat = 0 ∧ (s.chip.part n).records = [] ∧ (s.chip.part n).launches = []) ∧
   (∀ n, (s.chip.stk n).hotctl = 0x400 ∧ (s.chip.stk n).faqdrop = 0) ∧
   (∀ c, (List.range 16).map (s.chip.core c).weight = [2, 5, 12, 40, 180, 420, 760, 1900, 300, 250, 6554, 7200, 900, 60, 8, 496])) ∧
  (∀ (pl : Place) (pos : List (BitVec 14)),
    let st := Strand.atAdmission pl pos
    st.run.tau = 0 ∧ st.run.h = false ∧ st.due = [] ∧ st.sh.tokens = [] ∧ st.csr.fflags = 0 ∧ st.csr.frm = 0 ∧ st.csr.ftrapen = 0x20 ∧ st.csr.tvec = 0 ∧
    st.csr.ttctl = 8 ∧ st.lane.lanebud = 0x00010010FFFFFFFF ∧
    (∀ q r, st.rx q r = 0) ∧ (∀ q n, st.rp q n = decide (n = 0)) ∧ (∀ q, (st.seq q).atHdr = true ∧ (st.seq q).pc = pos.getD (seqNum q) 0) ∧
    (∀ l, l ∈ st.sh.nest.shadow → l.count = 1))

/-- The invariant holds at reset: empty memory is in canonical form. That an unlisted byte reads 0 is log 3. -/
def Obligations.ResetKeepsInv : Prop :=
  State.reset.Inv

/-- Every step answers a next state, and keeps memory in its canonical form, so that equal memories stay equal data: for every state, every
instruction and every event. The canonical form is the model's (log 3). -/
def Obligations.StepKeepsMemory : Prop :=
  (∀ (i : Instr) (s : State), s.Inv → ∃ t, exec i s = .next t ∧ t.Inv) ∧ (∀ (s : State), s.Inv → ∃ t, step s = .next t ∧ t.Inv)

/-- R58, R61 to R69: every well-formed instruction decodes from the word its encoding gives, and a word that decodes is that instruction's own and
only encoding, so no bit of a word is ignored. -/
def Obligations.EncodingRoundTrip : Prop :=
  (∀ (i : Instr) (w : IWord), i.WF → encode i = some w → decode w = some i) ∧
  (∀ (w : IWord) (i : Instr), decode w = some i → i.WF ∧ encode i = some w) ∧
  (∀ (w v : IWord) (i : Instr), decode w = some i → decode v = some i → w = v)

/-- R60, R70: when a sequencer is taken up and its head holds a resident word that decodes to i, step is exec of i there; a word that does not decode
is the illegal word's event; an event of the agenda is run, and an empty agenda takes the plan of a new beat (log 2). The order of a beat is the
model's (log 2). -/
def Obligations.StepRunsDecoded : Prop :=
  ∀ (s : State) (core slot : Nat) (q : SeqId) (rest : List Todo) (st : Strand),
    (s.chip.agenda = [] → step s = .next (s.keep { s.chip with agenda := beatPlan })) ∧
    (∀ i, s.chip.agenda = .event i :: rest → step s = exec i (s.keep { s.chip with agenda := rest })) ∧
    (s.chip.agenda = .issue core slot q :: rest → s.chip.strand? core slot = some st → (∀ n p tag, (st.seq q).wait ≠ .waitt n p tag) →
      (st.seq q).pc.toNat < positions st.place.iskb → st.place.absent.contains (st.seq q).pc.toNat = false →
      (if q = .ct ∧ st.run.h = true then inHandlerBody s.mem core st st.ct.pc.toNat = true else (st.seq q).atHdr = false) →
      let w := wordAt s.mem core st.place (st.seq q).pc.toNat
      let ch := { s.chip with agenda := rest, verdict := .idle }
      (∀ i, decode w = some i → step s = exec i (s.keep { ch with cur := ⟨core, slot, q⟩ })) ∧
      (decode w = none → step s = exec (.illegalWord core slot q w) (s.keep ch)))

/-- Words written out bit by bit decode to the instructions they stand for: the two worked words of 04 R69, and words of other families from the
formats of R61 and the encodings of 07 R143, 10 R236, 11 R258 and 21 R367. -/
def Obligations.DecodeWords : Prop :=
  let h : Head := ⟨false, false, false, false, false, 0⟩
  decode 0x600020000310394000000000 = some (.vadd h .f32 .rn .inf 0x200 0x003 0x103 .all) ∧
  decode 0x022018600000000000000001 = some (.addi { h with wf := true } 6 6 1) ∧
  decode 0x200031534300000000000008 = some (.ldx h .s64 0x0C 0x15 0x0D 8) ∧
  decode 0x411030200500000000000000 = some (.vlds { h with wb := true } 0x302 5) ∧
  decode 0x550000D00000000000000000 = some (.wdrain h 0x0D) ∧
  decode 0xE0001C800005000000000002 = some (.splQuery h 7 8 2)

end
end

