-- ==== Sys2Proof/Laws/Encoding.lean ====
section
/-! SUPPORT. Every field of every word format reads back from the encoder's word (04 R58, R61). -/

namespace Sys2Proof.Laws

theorem extract_low {v w s l : Nat} (x : BitVec v) (y : BitVec w) (h : s + l ≤ w) :
    BitVec.extractLsb' s l (x ++ y) = y.extractLsb' s l := BitVec.extractLsb'_append_eq_of_add_le h
theorem extract_high {v w s l : Nat} (x : BitVec v) (y : BitVec w) (h : w ≤ s) :
    BitVec.extractLsb' s l (x ++ y) = x.extractLsb' (s - w) l := BitVec.extractLsb'_append_eq_of_le h

@[simp] theorem encS_93_3 (o : BitVec 8) (h : Head) (xd xa xb sub : BitVec 6) (imm : BitVec 48) :
    BitVec.extractLsb' 93 3 (encS o h xd xa xb sub imm) = BitVec.extractLsb' 5 3 o := by
  unfold encS encHead
  repeat (first | rw [extract_high _ _ (by decide)] | rw [extract_low _ _ (by decide)])
@[simp] theorem encS_88_8 (o : BitVec 8) (h : Head) (xd xa xb sub : BitVec 6) (imm : BitVec 48) :
    BitVec.extractLsb' 88 8 (encS o h xd xa xb sub imm) = o := by
  unfold encS encHead
  repeat (first | rw [extract_high _ _ (by decide)] | rw [extract_low _ _ (by decide)])
  exact BitVec.extractLsb'_eq_self
@[simp] theorem encS_87_1 (o : BitVec 8) (h : Head) (xd xa xb sub : BitVec 6) (imm : BitVec 48) :
    BitVec.extractLsb' 87 1 (encS o h xd xa xb sub imm) = bit h.pf := by
  unfold encS encHead
  repeat (first | rw [extract_high _ _ (by decide)] | rw [extract_low _ _ (by decide)])
  exact BitVec.extractLsb'_eq_self
@[simp] theorem encS_86_1 (o : BitVec 8) (h : Head) (xd xa xb sub : BitVec 6) (imm : BitVec 48) :
    BitVec.extractLsb' 86 1 (encS o h xd xa xb sub imm) = bit h.pb := by
  unfold encS encHead
  repeat (first | rw [extract_high _ _ (by decide)] | rw [extract_low _ _ (by decide)])
  exact BitVec.extractLsb'_eq_self
@[simp] theorem encS_85_1 (o : BitVec 8) (h : Head) (xd xa xb sub : BitVec 6) (imm : BitVec 48) :
    BitVec.extractLsb' 85 1 (encS o h xd xa xb sub imm) = bit h.wf := by
  unfold encS encHead
  repeat (first | rw [extract_high _ _ (by decide)] | rw [extract_low _ _ (by decide)])
  exact BitVec.extractLsb'_eq_self
@[simp] theorem encS_84_1 (o : BitVec 8) (h : Head) (xd xa xb sub : BitVec 6) (imm : BitVec 48) :
    BitVec.extractLsb' 84 1 (encS o h xd xa xb sub imm) = bit h.wb := by
  unfold encS encHead
  repeat (first | rw [extract_high _ _ (by decide)] | rw [extract_low _ _ (by decide)])
  exact BitVec.extractLsb'_eq_self
@[simp] theorem encS_83_1 (o : BitVec 8) (h : Head) (xd xa xb sub : BitVec 6) (imm : BitVec 48) :
    BitVec.extractLsb' 83 1 (encS o h xd xa xb sub imm) = bit h.pneg := by
  unfold encS encHead
  repeat (first | rw [extract_high _ _ (by decide)] | rw [extract_low _ _ (by decide)])
  exact BitVec.extractLsb'_eq_self
@[simp] theorem encS_80_3 (o : BitVec 8) (h : Head) (xd xa xb sub : BitVec 6) (imm : BitVec 48) :
    BitVec.extractLsb' 80 3 (encS o h xd xa xb sub imm) = h.psel := by
  unfold encS encHead
  repeat (first | rw [extract_high _ _ (by decide)] | rw [extract_low _ _ (by decide)])
  exact BitVec.extractLsb'_eq_self
@[simp] theorem encS_74_6 (o : BitVec 8) (h : Head) (xd xa xb sub : BitVec 6) (imm : BitVec 48) :
    BitVec.extractLsb' 74 6 (encS o h xd xa xb sub imm) = xd := by
  unfold encS encHead
  repeat (first | rw [extract_high _ _ (by decide)] | rw [extract_low _ _ (by decide)])
  exact BitVec.extractLsb'_eq_self
@[simp] theorem encS_74_3 (o : BitVec 8) (h : Head) (xd xa xb sub : BitVec 6) (imm : BitVec 48) :
    BitVec.extractLsb' 74 3 (encS o h xd xa xb sub imm) = BitVec.extractLsb' 0 3 xd := by
  unfold encS encHead
  repeat (first | rw [extract_high _ _ (by decide)] | rw [extract_low _ _ (by decide)])
@[simp] theorem encS_70_4 (o : BitVec 8) (h : Head) (xd xa xb sub : BitVec 6) (imm : BitVec 48) :
    BitVec.extractLsb' 70 4 (encS o h xd xa xb sub imm) = BitVec.extractLsb' 2 4 xa := by
  unfold encS encHead
  repeat (first | rw [extract_high _ _ (by decide)] | rw [extract_low _ _ (by decide)])
@[simp] theorem encS_68_6 (o : BitVec 8) (h : Head) (xd xa xb sub : BitVec 6) (imm : BitVec 48) :
    BitVec.extractLsb' 68 6 (encS o h xd xa xb sub imm) = xa := by
  unfold encS encHead
  repeat (first | rw [extract_high _ _ (by decide)] | rw [extract_low _ _ (by decide)])
  exact BitVec.extractLsb'_eq_self
@[simp] theorem encS_68_4 (o : BitVec 8) (h : Head) (xd xa xb sub : BitVec 6) (imm : BitVec 48) :
    BitVec.extractLsb' 68 4 (encS o h xd xa xb sub imm) = BitVec.extractLsb' 0 4 xa := by
  unfold encS encHead
  repeat (first | rw [extract_high _ _ (by decide)] | rw [extract_low _ _ (by decide)])
@[simp] theorem encS_68_3 (o : BitVec 8) (h : Head) (xd xa xb sub : BitVec 6) (imm : BitVec 48) :
    BitVec.extractLsb' 68 3 (encS o h xd xa xb sub imm) = BitVec.extractLsb' 0 3 xa := by
  unfold encS encHead
  repeat (first | rw [extract_high _ _ (by decide)] | rw [extract_low _ _ (by decide)])
@[simp] theorem encS_64_4 (o : BitVec 8) (h : Head) (xd xa xb sub : BitVec 6) (imm : BitVec 48) :
    BitVec.extractLsb' 64 4 (encS o h xd xa xb sub imm) = BitVec.extractLsb' 2 4 xb := by
  unfold encS encHead
  repeat (first | rw [extract_high _ _ (by decide)] | rw [extract_low _ _ (by decide)])
@[simp] theorem encS_62_6 (o : BitVec 8) (h : Head) (xd xa xb sub : BitVec 6) (imm : BitVec 48) :
    BitVec.extractLsb' 62 6 (encS o h xd xa xb sub imm) = xb := by
  unfold encS encHead
  repeat (first | rw [extract_high _ _ (by decide)] | rw [extract_low _ _ (by decide)])
  exact BitVec.extractLsb'_eq_self
@[simp] theorem encS_62_3 (o : BitVec 8) (h : Head) (xd xa xb sub : BitVec 6) (imm : BitVec 48) :
    BitVec.extractLsb' 62 3 (encS o h xd xa xb sub imm) = BitVec.extractLsb' 0 3 xb := by
  unfold encS encHead
  repeat (first | rw [extract_high _ _ (by decide)] | rw [extract_low _ _ (by decide)])
@[simp] theorem encS_56_6 (o : BitVec 8) (h : Head) (xd xa xb sub : BitVec 6) (imm : BitVec 48) :
    BitVec.extractLsb' 56 6 (encS o h xd xa xb sub imm) = sub := by
  unfold encS encHead
  repeat (first | rw [extract_high _ _ (by decide)] | rw [extract_low _ _ (by decide)])
  exact BitVec.extractLsb'_eq_self
@[simp] theorem encS_56_4 (o : BitVec 8) (h : Head) (xd xa xb sub : BitVec 6) (imm : BitVec 48) :
    BitVec.extractLsb' 56 4 (encS o h xd xa xb sub imm) = BitVec.extractLsb' 0 4 sub := by
  unfold encS encHead
  repeat (first | rw [extract_high _ _ (by decide)] | rw [extract_low _ _ (by decide)])
@[simp] theorem encS_44_4 (o : BitVec 8) (h : Head) (xd xa xb sub : BitVec 6) (imm : BitVec 48) :
    BitVec.extractLsb' 44 4 (encS o h xd xa xb sub imm) = BitVec.extractLsb' 44 4 imm := by
  unfold encS encHead
  repeat (first | rw [extract_high _ _ (by decide)] | rw [extract_low _ _ (by decide)])
@[simp] theorem encS_40_4 (o : BitVec 8) (h : Head) (xd xa xb sub : BitVec 6) (imm : BitVec 48) :
    BitVec.extractLsb' 40 4 (encS o h xd xa xb sub imm) = BitVec.extractLsb' 40 4 imm := by
  unfold encS encHead
  repeat (first | rw [extract_high _ _ (by decide)] | rw [extract_low _ _ (by decide)])
@[simp] theorem encS_38_6 (o : BitVec 8) (h : Head) (xd xa xb sub : BitVec 6) (imm : BitVec 48) :
    BitVec.extractLsb' 38 6 (encS o h xd xa xb sub imm) = BitVec.extractLsb' 38 6 imm := by
  unfold encS encHead
  repeat (first | rw [extract_high _ _ (by decide)] | rw [extract_low _ _ (by decide)])
@[simp] theorem encS_32_16 (o : BitVec 8) (h : Head) (xd xa xb sub : BitVec 6) (imm : BitVec 48) :
    BitVec.extractLsb' 32 16 (encS o h xd xa xb sub imm) = BitVec.extractLsb' 32 16 imm := by
  unfold encS encHead
  repeat (first | rw [extract_high _ _ (by decide)] | rw [extract_low _ _ (by decide)])
@[simp] theorem encS_32_6 (o : BitVec 8) (h : Head) (xd xa xb sub : BitVec 6) (imm : BitVec 48) :
    BitVec.extractLsb' 32 6 (encS o h xd xa xb sub imm) = BitVec.extractLsb' 32 6 imm := by
  unfold encS encHead
  repeat (first | rw [extract_high _ _ (by decide)] | rw [extract_low _ _ (by decide)])
@[simp] theorem encS_32_3 (o : BitVec 8) (h : Head) (xd xa xb sub : BitVec 6) (imm : BitVec 48) :
    BitVec.extractLsb' 32 3 (encS o h xd xa xb sub imm) = BitVec.extractLsb' 32 3 imm := by
  unfold encS encHead
  repeat (first | rw [extract_high _ _ (by decide)] | rw [extract_low _ _ (by decide)])
@[simp] theorem encS_26_6 (o : BitVec 8) (h : Head) (xd xa xb sub : BitVec 6) (imm : BitVec 48) :
    BitVec.extractLsb' 26 6 (encS o h xd xa xb sub imm) = BitVec.extractLsb' 26 6 imm := by
  unfold encS encHead
  repeat (first | rw [extract_high _ _ (by decide)] | rw [extract_low _ _ (by decide)])
@[simp] theorem encS_24_2 (o : BitVec 8) (h : Head) (xd xa xb sub : BitVec 6) (imm : BitVec 48) :
    BitVec.extractLsb' 24 2 (encS o h xd xa xb sub imm) = BitVec.extractLsb' 24 2 imm := by
  unfold encS encHead
  repeat (first | rw [extract_high _ _ (by decide)] | rw [extract_low _ _ (by decide)])
@[simp] theorem encS_22_2 (o : BitVec 8) (h : Head) (xd xa xb sub : BitVec 6) (imm : BitVec 48) :
    BitVec.extractLsb' 22 2 (encS o h xd xa xb sub imm) = BitVec.extractLsb' 22 2 imm := by
  unfold encS encHead
  repeat (first | rw [extract_high _ _ (by decide)] | rw [extract_low _ _ (by decide)])
@[simp] theorem encS_16_24 (o : BitVec 8) (h : Head) (xd xa xb sub : BitVec 6) (imm : BitVec 48) :
    BitVec.extractLsb' 16 24 (encS o h xd xa xb sub imm) = BitVec.extractLsb' 16 24 imm := by
  unfold encS encHead
  repeat (first | rw [extract_high _ _ (by decide)] | rw [extract_low _ _ (by decide)])
@[simp] theorem encS_16_16 (o : BitVec 8) (h : Head) (xd xa xb sub : BitVec 6) (imm : BitVec 48) :
    BitVec.extractLsb' 16 16 (encS o h xd xa xb sub imm) = BitVec.extractLsb' 16 16 imm := by
  unfold encS encHead
  repeat (first | rw [extract_high _ _ (by decide)] | rw [extract_low _ _ (by decide)])
@[simp] theorem encS_16_14 (o : BitVec 8) (h : Head) (xd xa xb sub : BitVec 6) (imm : BitVec 48) :
    BitVec.extractLsb' 16 14 (encS o h xd xa xb sub imm) = BitVec.extractLsb' 16 14 imm := by
  unfold encS encHead
  repeat (first | rw [extract_high _ _ (by decide)] | rw [extract_low _ _ (by decide)])
@[simp] theorem encS_16_7 (o : BitVec 8) (h : Head) (xd xa xb sub : BitVec 6) (imm : BitVec 48) :
    BitVec.extractLsb' 16 7 (encS o h xd xa xb sub imm) = BitVec.extractLsb' 16 7 imm := by
  unfold encS encHead
  repeat (first | rw [extract_high _ _ (by decide)] | rw [extract_low _ _ (by decide)])
@[simp] theorem encS_16_3 (o : BitVec 8) (h : Head) (xd xa xb sub : BitVec 6) (imm : BitVec 48) :
    BitVec.extractLsb' 16 3 (encS o h xd xa xb sub imm) = BitVec.extractLsb' 16 3 imm := by
  unfold encS encHead
  repeat (first | rw [extract_high _ _ (by decide)] | rw [extract_low _ _ (by decide)])
@[simp] theorem encS_15_1 (o : BitVec 8) (h : Head) (xd xa xb sub : BitVec 6) (imm : BitVec 48) :
    BitVec.extractLsb' 15 1 (encS o h xd xa xb sub imm) = BitVec.extractLsb' 15 1 imm := by
  unfold encS encHead
  repeat (first | rw [extract_high _ _ (by decide)] | rw [extract_low _ _ (by decide)])
@[simp] theorem encS_13_2 (o : BitVec 8) (h : Head) (xd xa xb sub : BitVec 6) (imm : BitVec 48) :
    BitVec.extractLsb' 13 2 (encS o h xd xa xb sub imm) = BitVec.extractLsb' 13 2 imm := by
  unfold encS encHead
  repeat (first | rw [extract_high _ _ (by decide)] | rw [extract_low _ _ (by decide)])
@[simp] theorem encS_12_2 (o : BitVec 8) (h : Head) (xd xa xb sub : BitVec 6) (imm : BitVec 48) :
    BitVec.extractLsb' 12 2 (encS o h xd xa xb sub imm) = BitVec.extractLsb' 12 2 imm := by
  unfold encS encHead
  repeat (first | rw [extract_high _ _ (by decide)] | rw [extract_low _ _ (by decide)])
@[simp] theorem encS_12_1 (o : BitVec 8) (h : Head) (xd xa xb sub : BitVec 6) (imm : BitVec 48) :
    BitVec.extractLsb' 12 1 (encS o h xd xa xb sub imm) = BitVec.extractLsb' 12 1 imm := by
  unfold encS encHead
  repeat (first | rw [extract_high _ _ (by decide)] | rw [extract_low _ _ (by decide)])
@[simp] theorem encS_10_3 (o : BitVec 8) (h : Head) (xd xa xb sub : BitVec 6) (imm : BitVec 48) :
    BitVec.extractLsb' 10 3 (encS o h xd xa xb sub imm) = BitVec.extractLsb' 10 3 imm := by
  unfold encS encHead
  repeat (first | rw [extract_high _ _ (by decide)] | rw [extract_low _ _ (by decide)])
@[simp] theorem encS_8_6 (o : BitVec 8) (h : Head) (xd xa xb sub : BitVec 6) (imm : BitVec 48) :
    BitVec.extractLsb' 8 6 (encS o h xd xa xb sub imm) = BitVec.extractLsb' 8 6 imm := by
  unfold encS encHead
  repeat (first | rw [extract_high _ _ (by decide)] | rw [extract_low _ _ (by decide)])
@[simp] theorem encS_8_4 (o : BitVec 8) (h : Head) (xd xa xb sub : BitVec 6) (imm : BitVec 48) :
    BitVec.extractLsb' 8 4 (encS o h xd xa xb sub imm) = BitVec.extractLsb' 8 4 imm := by
  unfold encS encHead
  repeat (first | rw [extract_high _ _ (by decide)] | rw [extract_low _ _ (by decide)])
@[simp] theorem encS_8_3 (o : BitVec 8) (h : Head) (xd xa xb sub : BitVec 6) (imm : BitVec 48) :
    BitVec.extractLsb' 8 3 (encS o h xd xa xb sub imm) = BitVec.extractLsb' 8 3 imm := by
  unfold encS encHead
  repeat (first | rw [extract_high _ _ (by decide)] | rw [extract_low _ _ (by decide)])
@[simp] theorem encS_6_4 (o : BitVec 8) (h : Head) (xd xa xb sub : BitVec 6) (imm : BitVec 48) :
    BitVec.extractLsb' 6 4 (encS o h xd xa xb sub imm) = BitVec.extractLsb' 6 4 imm := by
  unfold encS encHead
  repeat (first | rw [extract_high _ _ (by decide)] | rw [extract_low _ _ (by decide)])
@[simp] theorem encS_6_2 (o : BitVec 8) (h : Head) (xd xa xb sub : BitVec 6) (imm : BitVec 48) :
    BitVec.extractLsb' 6 2 (encS o h xd xa xb sub imm) = BitVec.extractLsb' 6 2 imm := by
  unfold encS encHead
  repeat (first | rw [extract_high _ _ (by decide)] | rw [extract_low _ _ (by decide)])
@[simp] theorem encS_4_4 (o : BitVec 8) (h : Head) (xd xa xb sub : BitVec 6) (imm : BitVec 48) :
    BitVec.extractLsb' 4 4 (encS o h xd xa xb sub imm) = BitVec.extractLsb' 4 4 imm := by
  unfold encS encHead
  repeat (first | rw [extract_high _ _ (by decide)] | rw [extract_low _ _ (by decide)])
@[simp] theorem encS_4_1 (o : BitVec 8) (h : Head) (xd xa xb sub : BitVec 6) (imm : BitVec 48) :
    BitVec.extractLsb' 4 1 (encS o h xd xa xb sub imm) = BitVec.extractLsb' 4 1 imm := by
  unfold encS encHead
  repeat (first | rw [extract_high _ _ (by decide)] | rw [extract_low _ _ (by decide)])
@[simp] theorem encS_0_48 (o : BitVec 8) (h : Head) (xd xa xb sub : BitVec 6) (imm : BitVec 48) :
    BitVec.extractLsb' 0 48 (encS o h xd xa xb sub imm) = imm := by
  unfold encS encHead
  repeat (first | rw [extract_high _ _ (by decide)] | rw [extract_low _ _ (by decide)])
  exact BitVec.extractLsb'_eq_self
@[simp] theorem encS_0_32 (o : BitVec 8) (h : Head) (xd xa xb sub : BitVec 6) (imm : BitVec 48) :
    BitVec.extractLsb' 0 32 (encS o h xd xa xb sub imm) = BitVec.extractLsb' 0 32 imm := by
  unfold encS encHead
  repeat (first | rw [extract_high _ _ (by decide)] | rw [extract_low _ _ (by decide)])
@[simp] theorem encS_0_20 (o : BitVec 8) (h : Head) (xd xa xb sub : BitVec 6) (imm : BitVec 48) :
    BitVec.extractLsb' 0 20 (encS o h xd xa xb sub imm) = BitVec.extractLsb' 0 20 imm := by
  unfold encS encHead
  repeat (first | rw [extract_high _ _ (by decide)] | rw [extract_low _ _ (by decide)])
@[simp] theorem encS_0_16 (o : BitVec 8) (h : Head) (xd xa xb sub : BitVec 6) (imm : BitVec 48) :
    BitVec.extractLsb' 0 16 (encS o h xd xa xb sub imm) = BitVec.extractLsb' 0 16 imm := by
  unfold encS encHead
  repeat (first | rw [extract_high _ _ (by decide)] | rw [extract_low _ _ (by decide)])
@[simp] theorem encS_0_13 (o : BitVec 8) (h : Head) (xd xa xb sub : BitVec 6) (imm : BitVec 48) :
    BitVec.extractLsb' 0 13 (encS o h xd xa xb sub imm) = BitVec.extractLsb' 0 13 imm := by
  unfold encS encHead
  repeat (first | rw [extract_high _ _ (by decide)] | rw [extract_low _ _ (by decide)])
@[simp] theorem encS_0_12 (o : BitVec 8) (h : Head) (xd xa xb sub : BitVec 6) (imm : BitVec 48) :
    BitVec.extractLsb' 0 12 (encS o h xd xa xb sub imm) = BitVec.extractLsb' 0 12 imm := by
  unfold encS encHead
  repeat (first | rw [extract_high _ _ (by decide)] | rw [extract_low _ _ (by decide)])
@[simp] theorem encS_0_8 (o : BitVec 8) (h : Head) (xd xa xb sub : BitVec 6) (imm : BitVec 48) :
    BitVec.extractLsb' 0 8 (encS o h xd xa xb sub imm) = BitVec.extractLsb' 0 8 imm := by
  unfold encS encHead
  repeat (first | rw [extract_high _ _ (by decide)] | rw [extract_low _ _ (by decide)])
@[simp] theorem encS_0_7 (o : BitVec 8) (h : Head) (xd xa xb sub : BitVec 6) (imm : BitVec 48) :
    BitVec.extractLsb' 0 7 (encS o h xd xa xb sub imm) = BitVec.extractLsb' 0 7 imm := by
  unfold encS encHead
  repeat (first | rw [extract_high _ _ (by decide)] | rw [extract_low _ _ (by decide)])
@[simp] theorem encS_0_6 (o : BitVec 8) (h : Head) (xd xa xb sub : BitVec 6) (imm : BitVec 48) :
    BitVec.extractLsb' 0 6 (encS o h xd xa xb sub imm) = BitVec.extractLsb' 0 6 imm := by
  unfold encS encHead
  repeat (first | rw [extract_high _ _ (by decide)] | rw [extract_low _ _ (by decide)])
@[simp] theorem encS_0_4 (o : BitVec 8) (h : Head) (xd xa xb sub : BitVec 6) (imm : BitVec 48) :
    BitVec.extractLsb' 0 4 (encS o h xd xa xb sub imm) = BitVec.extractLsb' 0 4 imm := by
  unfold encS encHead
  repeat (first | rw [extract_high _ _ (by decide)] | rw [extract_low _ _ (by decide)])
@[simp] theorem encS_0_1 (o : BitVec 8) (h : Head) (xd xa xb sub : BitVec 6) (imm : BitVec 48) :
    BitVec.extractLsb' 0 1 (encS o h xd xa xb sub imm) = BitVec.extractLsb' 0 1 imm := by
  unfold encS encHead
  repeat (first | rw [extract_high _ _ (by decide)] | rw [extract_low _ _ (by decide)])
@[simp] theorem encB_93_3 (o : BitVec 8) (h : Head) (xa xb : BitVec 6) (cond : BitVec 4) (off : BitVec 32) :
    BitVec.extractLsb' 93 3 (encB o h xa xb cond off) = BitVec.extractLsb' 5 3 o := by
  unfold encB encHead
  repeat (first | rw [extract_high _ _ (by decide)] | rw [extract_low _ _ (by decide)])
@[simp] theorem encB_88_8 (o : BitVec 8) (h : Head) (xa xb : BitVec 6) (cond : BitVec 4) (off : BitVec 32) :
    BitVec.extractLsb' 88 8 (encB o h xa xb cond off) = o := by
  unfold encB encHead
  repeat (first | rw [extract_high _ _ (by decide)] | rw [extract_low _ _ (by decide)])
  exact BitVec.extractLsb'_eq_self
@[simp] theorem encB_87_1 (o : BitVec 8) (h : Head) (xa xb : BitVec 6) (cond : BitVec 4) (off : BitVec 32) :
    BitVec.extractLsb' 87 1 (encB o h xa xb cond off) = bit h.pf := by
  unfold encB encHead
  repeat (first | rw [extract_high _ _ (by decide)] | rw [extract_low _ _ (by decide)])
  exact BitVec.extractLsb'_eq_self
@[simp] theorem encB_86_1 (o : BitVec 8) (h : Head) (xa xb : BitVec 6) (cond : BitVec 4) (off : BitVec 32) :
    BitVec.extractLsb' 86 1 (encB o h xa xb cond off) = bit h.pb := by
  unfold encB encHead
  repeat (first | rw [extract_high _ _ (by decide)] | rw [extract_low _ _ (by decide)])
  exact BitVec.extractLsb'_eq_self
@[simp] theorem encB_85_1 (o : BitVec 8) (h : Head) (xa xb : BitVec 6) (cond : BitVec 4) (off : BitVec 32) :
    BitVec.extractLsb' 85 1 (encB o h xa xb cond off) = bit h.wf := by
  unfold encB encHead
  repeat (first | rw [extract_high _ _ (by decide)] | rw [extract_low _ _ (by decide)])
  exact BitVec.extractLsb'_eq_self
@[simp] theorem encB_84_1 (o : BitVec 8) (h : Head) (xa xb : BitVec 6) (cond : BitVec 4) (off : BitVec 32) :
    BitVec.extractLsb' 84 1 (encB o h xa xb cond off) = bit h.wb := by
  unfold encB encHead
  repeat (first | rw [extract_high _ _ (by decide)] | rw [extract_low _ _ (by decide)])
  exact BitVec.extractLsb'_eq_self
@[simp] theorem encB_83_1 (o : BitVec 8) (h : Head) (xa xb : BitVec 6) (cond : BitVec 4) (off : BitVec 32) :
    BitVec.extractLsb' 83 1 (encB o h xa xb cond off) = bit h.pneg := by
  unfold encB encHead
  repeat (first | rw [extract_high _ _ (by decide)] | rw [extract_low _ _ (by decide)])
  exact BitVec.extractLsb'_eq_self
@[simp] theorem encB_80_3 (o : BitVec 8) (h : Head) (xa xb : BitVec 6) (cond : BitVec 4) (off : BitVec 32) :
    BitVec.extractLsb' 80 3 (encB o h xa xb cond off) = h.psel := by
  unfold encB encHead
  repeat (first | rw [extract_high _ _ (by decide)] | rw [extract_low _ _ (by decide)])
  exact BitVec.extractLsb'_eq_self
@[simp] theorem encB_74_6 (o : BitVec 8) (h : Head) (xa xb : BitVec 6) (cond : BitVec 4) (off : BitVec 32) :
    BitVec.extractLsb' 74 6 (encB o h xa xb cond off) = xa := by
  unfold encB encHead
  repeat (first | rw [extract_high _ _ (by decide)] | rw [extract_low _ _ (by decide)])
  exact BitVec.extractLsb'_eq_self
@[simp] theorem encB_74_3 (o : BitVec 8) (h : Head) (xa xb : BitVec 6) (cond : BitVec 4) (off : BitVec 32) :
    BitVec.extractLsb' 74 3 (encB o h xa xb cond off) = BitVec.extractLsb' 0 3 xa := by
  unfold encB encHead
  repeat (first | rw [extract_high _ _ (by decide)] | rw [extract_low _ _ (by decide)])
@[simp] theorem encB_70_4 (o : BitVec 8) (h : Head) (xa xb : BitVec 6) (cond : BitVec 4) (off : BitVec 32) :
    BitVec.extractLsb' 70 4 (encB o h xa xb cond off) = BitVec.extractLsb' 2 4 xb := by
  unfold encB encHead
  repeat (first | rw [extract_high _ _ (by decide)] | rw [extract_low _ _ (by decide)])
@[simp] theorem encB_68_6 (o : BitVec 8) (h : Head) (xa xb : BitVec 6) (cond : BitVec 4) (off : BitVec 32) :
    BitVec.extractLsb' 68 6 (encB o h xa xb cond off) = xb := by
  unfold encB encHead
  repeat (first | rw [extract_high _ _ (by decide)] | rw [extract_low _ _ (by decide)])
  exact BitVec.extractLsb'_eq_self
@[simp] theorem encB_68_3 (o : BitVec 8) (h : Head) (xa xb : BitVec 6) (cond : BitVec 4) (off : BitVec 32) :
    BitVec.extractLsb' 68 3 (encB o h xa xb cond off) = BitVec.extractLsb' 0 3 xb := by
  unfold encB encHead
  repeat (first | rw [extract_high _ _ (by decide)] | rw [extract_low _ _ (by decide)])
@[simp] theorem encB_64_4 (o : BitVec 8) (h : Head) (xa xb : BitVec 6) (cond : BitVec 4) (off : BitVec 32) :
    BitVec.extractLsb' 64 4 (encB o h xa xb cond off) = cond := by
  unfold encB encHead
  repeat (first | rw [extract_high _ _ (by decide)] | rw [extract_low _ _ (by decide)])
  exact BitVec.extractLsb'_eq_self
@[simp] theorem encB_26_6 (o : BitVec 8) (h : Head) (xa xb : BitVec 6) (cond : BitVec 4) (off : BitVec 32) :
    BitVec.extractLsb' 26 6 (encB o h xa xb cond off) = BitVec.extractLsb' 26 6 off := by
  unfold encB encHead
  repeat (first | rw [extract_high _ _ (by decide)] | rw [extract_low _ _ (by decide)])
@[simp] theorem encB_16_7 (o : BitVec 8) (h : Head) (xa xb : BitVec 6) (cond : BitVec 4) (off : BitVec 32) :
    BitVec.extractLsb' 16 7 (encB o h xa xb cond off) = BitVec.extractLsb' 16 7 off := by
  unfold encB encHead
  repeat (first | rw [extract_high _ _ (by decide)] | rw [extract_low _ _ (by decide)])
@[simp] theorem encB_12_2 (o : BitVec 8) (h : Head) (xa xb : BitVec 6) (cond : BitVec 4) (off : BitVec 32) :
    BitVec.extractLsb' 12 2 (encB o h xa xb cond off) = BitVec.extractLsb' 12 2 off := by
  unfold encB encHead
  repeat (first | rw [extract_high _ _ (by decide)] | rw [extract_low _ _ (by decide)])
@[simp] theorem encB_8_4 (o : BitVec 8) (h : Head) (xa xb : BitVec 6) (cond : BitVec 4) (off : BitVec 32) :
    BitVec.extractLsb' 8 4 (encB o h xa xb cond off) = BitVec.extractLsb' 8 4 off := by
  unfold encB encHead
  repeat (first | rw [extract_high _ _ (by decide)] | rw [extract_low _ _ (by decide)])
@[simp] theorem encB_4_4 (o : BitVec 8) (h : Head) (xa xb : BitVec 6) (cond : BitVec 4) (off : BitVec 32) :
    BitVec.extractLsb' 4 4 (encB o h xa xb cond off) = BitVec.extractLsb' 4 4 off := by
  unfold encB encHead
  repeat (first | rw [extract_high _ _ (by decide)] | rw [extract_low _ _ (by decide)])
@[simp] theorem encB_4_1 (o : BitVec 8) (h : Head) (xa xb : BitVec 6) (cond : BitVec 4) (off : BitVec 32) :
    BitVec.extractLsb' 4 1 (encB o h xa xb cond off) = BitVec.extractLsb' 4 1 off := by
  unfold encB encHead
  repeat (first | rw [extract_high _ _ (by decide)] | rw [extract_low _ _ (by decide)])
@[simp] theorem encB_0_32 (o : BitVec 8) (h : Head) (xa xb : BitVec 6) (cond : BitVec 4) (off : BitVec 32) :
    BitVec.extractLsb' 0 32 (encB o h xa xb cond off) = off := by
  unfold encB encHead
  repeat (first | rw [extract_high _ _ (by decide)] | rw [extract_low _ _ (by decide)])
  exact BitVec.extractLsb'_eq_self
@[simp] theorem encB_0_16 (o : BitVec 8) (h : Head) (xa xb : BitVec 6) (cond : BitVec 4) (off : BitVec 32) :
    BitVec.extractLsb' 0 16 (encB o h xa xb cond off) = BitVec.extractLsb' 0 16 off := by
  unfold encB encHead
  repeat (first | rw [extract_high _ _ (by decide)] | rw [extract_low _ _ (by decide)])
@[simp] theorem encB_0_8 (o : BitVec 8) (h : Head) (xa xb : BitVec 6) (cond : BitVec 4) (off : BitVec 32) :
    BitVec.extractLsb' 0 8 (encB o h xa xb cond off) = BitVec.extractLsb' 0 8 off := by
  unfold encB encHead
  repeat (first | rw [extract_high _ _ (by decide)] | rw [extract_low _ _ (by decide)])
@[simp] theorem encB_0_7 (o : BitVec 8) (h : Head) (xa xb : BitVec 6) (cond : BitVec 4) (off : BitVec 32) :
    BitVec.extractLsb' 0 7 (encB o h xa xb cond off) = BitVec.extractLsb' 0 7 off := by
  unfold encB encHead
  repeat (first | rw [extract_high _ _ (by decide)] | rw [extract_low _ _ (by decide)])
@[simp] theorem encB_0_6 (o : BitVec 8) (h : Head) (xa xb : BitVec 6) (cond : BitVec 4) (off : BitVec 32) :
    BitVec.extractLsb' 0 6 (encB o h xa xb cond off) = BitVec.extractLsb' 0 6 off := by
  unfold encB encHead
  repeat (first | rw [extract_high _ _ (by decide)] | rw [extract_low _ _ (by decide)])
@[simp] theorem encB_0_4 (o : BitVec 8) (h : Head) (xa xb : BitVec 6) (cond : BitVec 4) (off : BitVec 32) :
    BitVec.extractLsb' 0 4 (encB o h xa xb cond off) = BitVec.extractLsb' 0 4 off := by
  unfold encB encHead
  repeat (first | rw [extract_high _ _ (by decide)] | rw [extract_low _ _ (by decide)])
@[simp] theorem encB_0_1 (o : BitVec 8) (h : Head) (xa xb : BitVec 6) (cond : BitVec 4) (off : BitVec 32) :
    BitVec.extractLsb' 0 1 (encB o h xa xb cond off) = BitVec.extractLsb' 0 1 off := by
  unfold encB encHead
  repeat (first | rw [extract_high _ _ (by decide)] | rw [extract_low _ _ (by decide)])
@[simp] theorem encV_93_3 (o : BitVec 8) (h : Head) (d a b : BitVec 12) (ty : BitVec 4) (ovf : BitVec 2) (rnd sub : BitVec 3) (imm : BitVec 32) :
    BitVec.extractLsb' 93 3 (encV o h d a b ty ovf rnd sub imm) = BitVec.extractLsb' 5 3 o := by
  unfold encV encHead
  repeat (first | rw [extract_high _ _ (by decide)] | rw [extract_low _ _ (by decide)])
@[simp] theorem encV_88_8 (o : BitVec 8) (h : Head) (d a b : BitVec 12) (ty : BitVec 4) (ovf : BitVec 2) (rnd sub : BitVec 3) (imm : BitVec 32) :
    BitVec.extractLsb' 88 8 (encV o h d a b ty ovf rnd sub imm) = o := by
  unfold encV encHead
  repeat (first | rw [extract_high _ _ (by decide)] | rw [extract_low _ _ (by decide)])
  exact BitVec.extractLsb'_eq_self
@[simp] theorem encV_87_1 (o : BitVec 8) (h : Head) (d a b : BitVec 12) (ty : BitVec 4) (ovf : BitVec 2) (rnd sub : BitVec 3) (imm : BitVec 32) :
    BitVec.extractLsb' 87 1 (encV o h d a b ty ovf rnd sub imm) = bit h.pf := by
  unfold encV encHead
  repeat (first | rw [extract_high _ _ (by decide)] | rw [extract_low _ _ (by decide)])
  exact BitVec.extractLsb'_eq_self
@[simp] theorem encV_86_1 (o : BitVec 8) (h : Head) (d a b : BitVec 12) (ty : BitVec 4) (ovf : BitVec 2) (rnd sub : BitVec 3) (imm : BitVec 32) :
    BitVec.extractLsb' 86 1 (encV o h d a b ty ovf rnd sub imm) = bit h.pb := by
  unfold encV encHead
  repeat (first | rw [extract_high _ _ (by decide)] | rw [extract_low _ _ (by decide)])
  exact BitVec.extractLsb'_eq_self
@[simp] theorem encV_85_1 (o : BitVec 8) (h : Head) (d a b : BitVec 12) (ty : BitVec 4) (ovf : BitVec 2) (rnd sub : BitVec 3) (imm : BitVec 32) :
    BitVec.extractLsb' 85 1 (encV o h d a b ty ovf rnd sub imm) = bit h.wf := by
  unfold encV encHead
  repeat (first | rw [extract_high _ _ (by decide)] | rw [extract_low _ _ (by decide)])
  exact BitVec.extractLsb'_eq_self
@[simp] theorem encV_84_1 (o : BitVec 8) (h : Head) (d a b : BitVec 12) (ty : BitVec 4) (ovf : BitVec 2) (rnd sub : BitVec 3) (imm : BitVec 32) :
    BitVec.extractLsb' 84 1 (encV o h d a b ty ovf rnd sub imm) = bit h.wb := by
  unfold encV encHead
  repeat (first | rw [extract_high _ _ (by decide)] | rw [extract_low _ _ (by decide)])
  exact BitVec.extractLsb'_eq_self
@[simp] theorem encV_83_1 (o : BitVec 8) (h : Head) (d a b : BitVec 12) (ty : BitVec 4) (ovf : BitVec 2) (rnd sub : BitVec 3) (imm : BitVec 32) :
    BitVec.extractLsb' 83 1 (encV o h d a b ty ovf rnd sub imm) = bit h.pneg := by
  unfold encV encHead
  repeat (first | rw [extract_high _ _ (by decide)] | rw [extract_low _ _ (by decide)])
  exact BitVec.extractLsb'_eq_self
@[simp] theorem encV_80_3 (o : BitVec 8) (h : Head) (d a b : BitVec 12) (ty : BitVec 4) (ovf : BitVec 2) (rnd sub : BitVec 3) (imm : BitVec 32) :
    BitVec.extractLsb' 80 3 (encV o h d a b ty ovf rnd sub imm) = h.psel := by
  unfold encV encHead
  repeat (first | rw [extract_high _ _ (by decide)] | rw [extract_low _ _ (by decide)])
  exact BitVec.extractLsb'_eq_self
@[simp] theorem encV_74_6 (o : BitVec 8) (h : Head) (d a b : BitVec 12) (ty : BitVec 4) (ovf : BitVec 2) (rnd sub : BitVec 3) (imm : BitVec 32) :
    BitVec.extractLsb' 74 6 (encV o h d a b ty ovf rnd sub imm) = BitVec.extractLsb' 6 6 d := by
  unfold encV encHead
  repeat (first | rw [extract_high _ _ (by decide)] | rw [extract_low _ _ (by decide)])
@[simp] theorem encV_70_4 (o : BitVec 8) (h : Head) (d a b : BitVec 12) (ty : BitVec 4) (ovf : BitVec 2) (rnd sub : BitVec 3) (imm : BitVec 32) :
    BitVec.extractLsb' 70 4 (encV o h d a b ty ovf rnd sub imm) = BitVec.extractLsb' 2 4 d := by
  unfold encV encHead
  repeat (first | rw [extract_high _ _ (by decide)] | rw [extract_low _ _ (by decide)])
@[simp] theorem encV_68_12 (o : BitVec 8) (h : Head) (d a b : BitVec 12) (ty : BitVec 4) (ovf : BitVec 2) (rnd sub : BitVec 3) (imm : BitVec 32) :
    BitVec.extractLsb' 68 12 (encV o h d a b ty ovf rnd sub imm) = d := by
  unfold encV encHead
  repeat (first | rw [extract_high _ _ (by decide)] | rw [extract_low _ _ (by decide)])
  exact BitVec.extractLsb'_eq_self
@[simp] theorem encV_68_6 (o : BitVec 8) (h : Head) (d a b : BitVec 12) (ty : BitVec 4) (ovf : BitVec 2) (rnd sub : BitVec 3) (imm : BitVec 32) :
    BitVec.extractLsb' 68 6 (encV o h d a b ty ovf rnd sub imm) = BitVec.extractLsb' 0 6 d := by
  unfold encV encHead
  repeat (first | rw [extract_high _ _ (by decide)] | rw [extract_low _ _ (by decide)])
@[simp] theorem encV_68_4 (o : BitVec 8) (h : Head) (d a b : BitVec 12) (ty : BitVec 4) (ovf : BitVec 2) (rnd sub : BitVec 3) (imm : BitVec 32) :
    BitVec.extractLsb' 68 4 (encV o h d a b ty ovf rnd sub imm) = BitVec.extractLsb' 0 4 d := by
  unfold encV encHead
  repeat (first | rw [extract_high _ _ (by decide)] | rw [extract_low _ _ (by decide)])
@[simp] theorem encV_68_2 (o : BitVec 8) (h : Head) (d a b : BitVec 12) (ty : BitVec 4) (ovf : BitVec 2) (rnd sub : BitVec 3) (imm : BitVec 32) :
    BitVec.extractLsb' 68 2 (encV o h d a b ty ovf rnd sub imm) = BitVec.extractLsb' 0 2 d := by
  unfold encV encHead
  repeat (first | rw [extract_high _ _ (by decide)] | rw [extract_low _ _ (by decide)])
@[simp] theorem encV_62_6 (o : BitVec 8) (h : Head) (d a b : BitVec 12) (ty : BitVec 4) (ovf : BitVec 2) (rnd sub : BitVec 3) (imm : BitVec 32) :
    BitVec.extractLsb' 62 6 (encV o h d a b ty ovf rnd sub imm) = BitVec.extractLsb' 6 6 a := by
  unfold encV encHead
  repeat (first | rw [extract_high _ _ (by decide)] | rw [extract_low _ _ (by decide)])
@[simp] theorem encV_56_12 (o : BitVec 8) (h : Head) (d a b : BitVec 12) (ty : BitVec 4) (ovf : BitVec 2) (rnd sub : BitVec 3) (imm : BitVec 32) :
    BitVec.extractLsb' 56 12 (encV o h d a b ty ovf rnd sub imm) = a := by
  unfold encV encHead
  repeat (first | rw [extract_high _ _ (by decide)] | rw [extract_low _ _ (by decide)])
  exact BitVec.extractLsb'_eq_self
@[simp] theorem encV_56_6 (o : BitVec 8) (h : Head) (d a b : BitVec 12) (ty : BitVec 4) (ovf : BitVec 2) (rnd sub : BitVec 3) (imm : BitVec 32) :
    BitVec.extractLsb' 56 6 (encV o h d a b ty ovf rnd sub imm) = BitVec.extractLsb' 0 6 a := by
  unfold encV encHead
  repeat (first | rw [extract_high _ _ (by decide)] | rw [extract_low _ _ (by decide)])
@[simp] theorem encV_56_4 (o : BitVec 8) (h : Head) (d a b : BitVec 12) (ty : BitVec 4) (ovf : BitVec 2) (rnd sub : BitVec 3) (imm : BitVec 32) :
    BitVec.extractLsb' 56 4 (encV o h d a b ty ovf rnd sub imm) = BitVec.extractLsb' 0 4 a := by
  unfold encV encHead
  repeat (first | rw [extract_high _ _ (by decide)] | rw [extract_low _ _ (by decide)])
@[simp] theorem encV_44_12 (o : BitVec 8) (h : Head) (d a b : BitVec 12) (ty : BitVec 4) (ovf : BitVec 2) (rnd sub : BitVec 3) (imm : BitVec 32) :
    BitVec.extractLsb' 44 12 (encV o h d a b ty ovf rnd sub imm) = b := by
  unfold encV encHead
  repeat (first | rw [extract_high _ _ (by decide)] | rw [extract_low _ _ (by decide)])
  exact BitVec.extractLsb'_eq_self
@[simp] theorem encV_44_6 (o : BitVec 8) (h : Head) (d a b : BitVec 12) (ty : BitVec 4) (ovf : BitVec 2) (rnd sub : BitVec 3) (imm : BitVec 32) :
    BitVec.extractLsb' 44 6 (encV o h d a b ty ovf rnd sub imm) = BitVec.extractLsb' 0 6 b := by
  unfold encV encHead
  repeat (first | rw [extract_high _ _ (by decide)] | rw [extract_low _ _ (by decide)])
@[simp] theorem encV_44_4 (o : BitVec 8) (h : Head) (d a b : BitVec 12) (ty : BitVec 4) (ovf : BitVec 2) (rnd sub : BitVec 3) (imm : BitVec 32) :
    BitVec.extractLsb' 44 4 (encV o h d a b ty ovf rnd sub imm) = BitVec.extractLsb' 0 4 b := by
  unfold encV encHead
  repeat (first | rw [extract_high _ _ (by decide)] | rw [extract_low _ _ (by decide)])
@[simp] theorem encV_40_4 (o : BitVec 8) (h : Head) (d a b : BitVec 12) (ty : BitVec 4) (ovf : BitVec 2) (rnd sub : BitVec 3) (imm : BitVec 32) :
    BitVec.extractLsb' 40 4 (encV o h d a b ty ovf rnd sub imm) = ty := by
  unfold encV encHead
  repeat (first | rw [extract_high _ _ (by decide)] | rw [extract_low _ _ (by decide)])
  exact BitVec.extractLsb'_eq_self
@[simp] theorem encV_38_2 (o : BitVec 8) (h : Head) (d a b : BitVec 12) (ty : BitVec 4) (ovf : BitVec 2) (rnd sub : BitVec 3) (imm : BitVec 32) :
    BitVec.extractLsb' 38 2 (encV o h d a b ty ovf rnd sub imm) = ovf := by
  unfold encV encHead
  repeat (first | rw [extract_high _ _ (by decide)] | rw [extract_low _ _ (by decide)])
  exact BitVec.extractLsb'_eq_self
@[simp] theorem encV_35_3 (o : BitVec 8) (h : Head) (d a b : BitVec 12) (ty : BitVec 4) (ovf : BitVec 2) (rnd sub : BitVec 3) (imm : BitVec 32) :
    BitVec.extractLsb' 35 3 (encV o h d a b ty ovf rnd sub imm) = rnd := by
  unfold encV encHead
  repeat (first | rw [extract_high _ _ (by decide)] | rw [extract_low _ _ (by decide)])
  exact BitVec.extractLsb'_eq_self
@[simp] theorem encV_32_3 (o : BitVec 8) (h : Head) (d a b : BitVec 12) (ty : BitVec 4) (ovf : BitVec 2) (rnd sub : BitVec 3) (imm : BitVec 32) :
    BitVec.extractLsb' 32 3 (encV o h d a b ty ovf rnd sub imm) = sub := by
  unfold encV encHead
  repeat (first | rw [extract_high _ _ (by decide)] | rw [extract_low _ _ (by decide)])
  exact BitVec.extractLsb'_eq_self
@[simp] theorem encV_26_6 (o : BitVec 8) (h : Head) (d a b : BitVec 12) (ty : BitVec 4) (ovf : BitVec 2) (rnd sub : BitVec 3) (imm : BitVec 32) :
    BitVec.extractLsb' 26 6 (encV o h d a b ty ovf rnd sub imm) = BitVec.extractLsb' 26 6 imm := by
  unfold encV encHead
  repeat (first | rw [extract_high _ _ (by decide)] | rw [extract_low _ _ (by decide)])
@[simp] theorem encV_16_16 (o : BitVec 8) (h : Head) (d a b : BitVec 12) (ty : BitVec 4) (ovf : BitVec 2) (rnd sub : BitVec 3) (imm : BitVec 32) :
    BitVec.extractLsb' 16 16 (encV o h d a b ty ovf rnd sub imm) = BitVec.extractLsb' 16 16 imm := by
  unfold encV encHead
  repeat (first | rw [extract_high _ _ (by decide)] | rw [extract_low _ _ (by decide)])
@[simp] theorem encV_16_3 (o : BitVec 8) (h : Head) (d a b : BitVec 12) (ty : BitVec 4) (ovf : BitVec 2) (rnd sub : BitVec 3) (imm : BitVec 32) :
    BitVec.extractLsb' 16 3 (encV o h d a b ty ovf rnd sub imm) = BitVec.extractLsb' 16 3 imm := by
  unfold encV encHead
  repeat (first | rw [extract_high _ _ (by decide)] | rw [extract_low _ _ (by decide)])
@[simp] theorem encV_15_1 (o : BitVec 8) (h : Head) (d a b : BitVec 12) (ty : BitVec 4) (ovf : BitVec 2) (rnd sub : BitVec 3) (imm : BitVec 32) :
    BitVec.extractLsb' 15 1 (encV o h d a b ty ovf rnd sub imm) = BitVec.extractLsb' 15 1 imm := by
  unfold encV encHead
  repeat (first | rw [extract_high _ _ (by decide)] | rw [extract_low _ _ (by decide)])
@[simp] theorem encV_13_2 (o : BitVec 8) (h : Head) (d a b : BitVec 12) (ty : BitVec 4) (ovf : BitVec 2) (rnd sub : BitVec 3) (imm : BitVec 32) :
    BitVec.extractLsb' 13 2 (encV o h d a b ty ovf rnd sub imm) = BitVec.extractLsb' 13 2 imm := by
  unfold encV encHead
  repeat (first | rw [extract_high _ _ (by decide)] | rw [extract_low _ _ (by decide)])
@[simp] theorem encV_12_1 (o : BitVec 8) (h : Head) (d a b : BitVec 12) (ty : BitVec 4) (ovf : BitVec 2) (rnd sub : BitVec 3) (imm : BitVec 32) :
    BitVec.extractLsb' 12 1 (encV o h d a b ty ovf rnd sub imm) = BitVec.extractLsb' 12 1 imm := by
  unfold encV encHead
  repeat (first | rw [extract_high _ _ (by decide)] | rw [extract_low _ _ (by decide)])
@[simp] theorem encV_10_3 (o : BitVec 8) (h : Head) (d a b : BitVec 12) (ty : BitVec 4) (ovf : BitVec 2) (rnd sub : BitVec 3) (imm : BitVec 32) :
    BitVec.extractLsb' 10 3 (encV o h d a b ty ovf rnd sub imm) = BitVec.extractLsb' 10 3 imm := by
  unfold encV encHead
  repeat (first | rw [extract_high _ _ (by decide)] | rw [extract_low _ _ (by decide)])
@[simp] theorem encV_10_1 (o : BitVec 8) (h : Head) (d a b : BitVec 12) (ty : BitVec 4) (ovf : BitVec 2) (rnd sub : BitVec 3) (imm : BitVec 32) :
    BitVec.extractLsb' 10 1 (encV o h d a b ty ovf rnd sub imm) = BitVec.extractLsb' 10 1 imm := by
  unfold encV encHead
  repeat (first | rw [extract_high _ _ (by decide)] | rw [extract_low _ _ (by decide)])
@[simp] theorem encV_8_3 (o : BitVec 8) (h : Head) (d a b : BitVec 12) (ty : BitVec 4) (ovf : BitVec 2) (rnd sub : BitVec 3) (imm : BitVec 32) :
    BitVec.extractLsb' 8 3 (encV o h d a b ty ovf rnd sub imm) = BitVec.extractLsb' 8 3 imm := by
  unfold encV encHead
  repeat (first | rw [extract_high _ _ (by decide)] | rw [extract_low _ _ (by decide)])
@[simp] theorem encV_8_2 (o : BitVec 8) (h : Head) (d a b : BitVec 12) (ty : BitVec 4) (ovf : BitVec 2) (rnd sub : BitVec 3) (imm : BitVec 32) :
    BitVec.extractLsb' 8 2 (encV o h d a b ty ovf rnd sub imm) = BitVec.extractLsb' 8 2 imm := by
  unfold encV encHead
  repeat (first | rw [extract_high _ _ (by decide)] | rw [extract_low _ _ (by decide)])
@[simp] theorem encV_8_1 (o : BitVec 8) (h : Head) (d a b : BitVec 12) (ty : BitVec 4) (ovf : BitVec 2) (rnd sub : BitVec 3) (imm : BitVec 32) :
    BitVec.extractLsb' 8 1 (encV o h d a b ty ovf rnd sub imm) = BitVec.extractLsb' 8 1 imm := by
  unfold encV encHead
  repeat (first | rw [extract_high _ _ (by decide)] | rw [extract_low _ _ (by decide)])
@[simp] theorem encV_6_4 (o : BitVec 8) (h : Head) (d a b : BitVec 12) (ty : BitVec 4) (ovf : BitVec 2) (rnd sub : BitVec 3) (imm : BitVec 32) :
    BitVec.extractLsb' 6 4 (encV o h d a b ty ovf rnd sub imm) = BitVec.extractLsb' 6 4 imm := by
  unfold encV encHead
  repeat (first | rw [extract_high _ _ (by decide)] | rw [extract_low _ _ (by decide)])
@[simp] theorem encV_4_4 (o : BitVec 8) (h : Head) (d a b : BitVec 12) (ty : BitVec 4) (ovf : BitVec 2) (rnd sub : BitVec 3) (imm : BitVec 32) :
    BitVec.extractLsb' 4 4 (encV o h d a b ty ovf rnd sub imm) = BitVec.extractLsb' 4 4 imm := by
  unfold encV encHead
  repeat (first | rw [extract_high _ _ (by decide)] | rw [extract_low _ _ (by decide)])
@[simp] theorem encV_3_1 (o : BitVec 8) (h : Head) (d a b : BitVec 12) (ty : BitVec 4) (ovf : BitVec 2) (rnd sub : BitVec 3) (imm : BitVec 32) :
    BitVec.extractLsb' 3 1 (encV o h d a b ty ovf rnd sub imm) = BitVec.extractLsb' 3 1 imm := by
  unfold encV encHead
  repeat (first | rw [extract_high _ _ (by decide)] | rw [extract_low _ _ (by decide)])
@[simp] theorem encV_0_32 (o : BitVec 8) (h : Head) (d a b : BitVec 12) (ty : BitVec 4) (ovf : BitVec 2) (rnd sub : BitVec 3) (imm : BitVec 32) :
    BitVec.extractLsb' 0 32 (encV o h d a b ty ovf rnd sub imm) = imm := by
  unfold encV encHead
  repeat (first | rw [extract_high _ _ (by decide)] | rw [extract_low _ _ (by decide)])
  exact BitVec.extractLsb'_eq_self
@[simp] theorem encV_0_20 (o : BitVec 8) (h : Head) (d a b : BitVec 12) (ty : BitVec 4) (ovf : BitVec 2) (rnd sub : BitVec 3) (imm : BitVec 32) :
    BitVec.extractLsb' 0 20 (encV o h d a b ty ovf rnd sub imm) = BitVec.extractLsb' 0 20 imm := by
  unfold encV encHead
  repeat (first | rw [extract_high _ _ (by decide)] | rw [extract_low _ _ (by decide)])
@[simp] theorem encV_0_16 (o : BitVec 8) (h : Head) (d a b : BitVec 12) (ty : BitVec 4) (ovf : BitVec 2) (rnd sub : BitVec 3) (imm : BitVec 32) :
    BitVec.extractLsb' 0 16 (encV o h d a b ty ovf rnd sub imm) = BitVec.extractLsb' 0 16 imm := by
  unfold encV encHead
  repeat (first | rw [extract_high _ _ (by decide)] | rw [extract_low _ _ (by decide)])
@[simp] theorem encV_0_12 (o : BitVec 8) (h : Head) (d a b : BitVec 12) (ty : BitVec 4) (ovf : BitVec 2) (rnd sub : BitVec 3) (imm : BitVec 32) :
    BitVec.extractLsb' 0 12 (encV o h d a b ty ovf rnd sub imm) = BitVec.extractLsb' 0 12 imm := by
  unfold encV encHead
  repeat (first | rw [extract_high _ _ (by decide)] | rw [extract_low _ _ (by decide)])
@[simp] theorem encV_0_6 (o : BitVec 8) (h : Head) (d a b : BitVec 12) (ty : BitVec 4) (ovf : BitVec 2) (rnd sub : BitVec 3) (imm : BitVec 32) :
    BitVec.extractLsb' 0 6 (encV o h d a b ty ovf rnd sub imm) = BitVec.extractLsb' 0 6 imm := by
  unfold encV encHead
  repeat (first | rw [extract_high _ _ (by decide)] | rw [extract_low _ _ (by decide)])
@[simp] theorem encV_0_3 (o : BitVec 8) (h : Head) (d a b : BitVec 12) (ty : BitVec 4) (ovf : BitVec 2) (rnd sub : BitVec 3) (imm : BitVec 32) :
    BitVec.extractLsb' 0 3 (encV o h d a b ty ovf rnd sub imm) = BitVec.extractLsb' 0 3 imm := by
  unfold encV encHead
  repeat (first | rw [extract_high _ _ (by decide)] | rw [extract_low _ _ (by decide)])
@[simp] theorem encV_0_2 (o : BitVec 8) (h : Head) (d a b : BitVec 12) (ty : BitVec 4) (ovf : BitVec 2) (rnd sub : BitVec 3) (imm : BitVec 32) :
    BitVec.extractLsb' 0 2 (encV o h d a b ty ovf rnd sub imm) = BitVec.extractLsb' 0 2 imm := by
  unfold encV encHead
  repeat (first | rw [extract_high _ _ (by decide)] | rw [extract_low _ _ (by decide)])
@[simp] theorem encM_93_3 (o : BitVec 8) (h : Head) (ct : BitVec 6) (mid : BitVec 12) (ta tb : BitVec 4) (sparse : BitVec 2) (acc : BitVec 4) (flags : BitVec 8) (t : Toks) :
    BitVec.extractLsb' 93 3 (encM o h ct mid ta tb sparse acc flags t) = BitVec.extractLsb' 5 3 o := by
  unfold encM encHead
  repeat (first | rw [extract_high _ _ (by decide)] | rw [extract_low _ _ (by decide)])
@[simp] theorem encM_88_8 (o : BitVec 8) (h : Head) (ct : BitVec 6) (mid : BitVec 12) (ta tb : BitVec 4) (sparse : BitVec 2) (acc : BitVec 4) (flags : BitVec 8) (t : Toks) :
    BitVec.extractLsb' 88 8 (encM o h ct mid ta tb sparse acc flags t) = o := by
  unfold encM encHead
  repeat (first | rw [extract_high _ _ (by decide)] | rw [extract_low _ _ (by decide)])
  exact BitVec.extractLsb'_eq_self
@[simp] theorem encM_87_1 (o : BitVec 8) (h : Head) (ct : BitVec 6) (mid : BitVec 12) (ta tb : BitVec 4) (sparse : BitVec 2) (acc : BitVec 4) (flags : BitVec 8) (t : Toks) :
    BitVec.extractLsb' 87 1 (encM o h ct mid ta tb sparse acc flags t) = bit h.pf := by
  unfold encM encHead
  repeat (first | rw [extract_high _ _ (by decide)] | rw [extract_low _ _ (by decide)])
  exact BitVec.extractLsb'_eq_self
@[simp] theorem encM_86_1 (o : BitVec 8) (h : Head) (ct : BitVec 6) (mid : BitVec 12) (ta tb : BitVec 4) (sparse : BitVec 2) (acc : BitVec 4) (flags : BitVec 8) (t : Toks) :
    BitVec.extractLsb' 86 1 (encM o h ct mid ta tb sparse acc flags t) = bit h.pb := by
  unfold encM encHead
  repeat (first | rw [extract_high _ _ (by decide)] | rw [extract_low _ _ (by decide)])
  exact BitVec.extractLsb'_eq_self
@[simp] theorem encM_85_1 (o : BitVec 8) (h : Head) (ct : BitVec 6) (mid : BitVec 12) (ta tb : BitVec 4) (sparse : BitVec 2) (acc : BitVec 4) (flags : BitVec 8) (t : Toks) :
    BitVec.extractLsb' 85 1 (encM o h ct mid ta tb sparse acc flags t) = bit h.wf := by
  unfold encM encHead
  repeat (first | rw [extract_high _ _ (by decide)] | rw [extract_low _ _ (by decide)])
  exact BitVec.extractLsb'_eq_self
@[simp] theorem encM_84_1 (o : BitVec 8) (h : Head) (ct : BitVec 6) (mid : BitVec 12) (ta tb : BitVec 4) (sparse : BitVec 2) (acc : BitVec 4) (flags : BitVec 8) (t : Toks) :
    BitVec.extractLsb' 84 1 (encM o h ct mid ta tb sparse acc flags t) = bit h.wb := by
  unfold encM encHead
  repeat (first | rw [extract_high _ _ (by decide)] | rw [extract_low _ _ (by decide)])
  exact BitVec.extractLsb'_eq_self
@[simp] theorem encM_83_1 (o : BitVec 8) (h : Head) (ct : BitVec 6) (mid : BitVec 12) (ta tb : BitVec 4) (sparse : BitVec 2) (acc : BitVec 4) (flags : BitVec 8) (t : Toks) :
    BitVec.extractLsb' 83 1 (encM o h ct mid ta tb sparse acc flags t) = bit h.pneg := by
  unfold encM encHead
  repeat (first | rw [extract_high _ _ (by decide)] | rw [extract_low _ _ (by decide)])
  exact BitVec.extractLsb'_eq_self
@[simp] theorem encM_80_3 (o : BitVec 8) (h : Head) (ct : BitVec 6) (mid : BitVec 12) (ta tb : BitVec 4) (sparse : BitVec 2) (acc : BitVec 4) (flags : BitVec 8) (t : Toks) :
    BitVec.extractLsb' 80 3 (encM o h ct mid ta tb sparse acc flags t) = h.psel := by
  unfold encM encHead
  repeat (first | rw [extract_high _ _ (by decide)] | rw [extract_low _ _ (by decide)])
  exact BitVec.extractLsb'_eq_self
@[simp] theorem encM_74_6 (o : BitVec 8) (h : Head) (ct : BitVec 6) (mid : BitVec 12) (ta tb : BitVec 4) (sparse : BitVec 2) (acc : BitVec 4) (flags : BitVec 8) (t : Toks) :
    BitVec.extractLsb' 74 6 (encM o h ct mid ta tb sparse acc flags t) = ct := by
  unfold encM encHead
  repeat (first | rw [extract_high _ _ (by decide)] | rw [extract_low _ _ (by decide)])
  exact BitVec.extractLsb'_eq_self
@[simp] theorem encM_70_4 (o : BitVec 8) (h : Head) (ct : BitVec 6) (mid : BitVec 12) (ta tb : BitVec 4) (sparse : BitVec 2) (acc : BitVec 4) (flags : BitVec 8) (t : Toks) :
    BitVec.extractLsb' 70 4 (encM o h ct mid ta tb sparse acc flags t) = BitVec.extractLsb' 8 4 mid := by
  unfold encM encHead
  repeat (first | rw [extract_high _ _ (by decide)] | rw [extract_low _ _ (by decide)])
@[simp] theorem encM_68_6 (o : BitVec 8) (h : Head) (ct : BitVec 6) (mid : BitVec 12) (ta tb : BitVec 4) (sparse : BitVec 2) (acc : BitVec 4) (flags : BitVec 8) (t : Toks) :
    BitVec.extractLsb' 68 6 (encM o h ct mid ta tb sparse acc flags t) = BitVec.extractLsb' 6 6 mid := by
  unfold encM encHead
  repeat (first | rw [extract_high _ _ (by decide)] | rw [extract_low _ _ (by decide)])
@[simp] theorem encM_66_4 (o : BitVec 8) (h : Head) (ct : BitVec 6) (mid : BitVec 12) (ta tb : BitVec 4) (sparse : BitVec 2) (acc : BitVec 4) (flags : BitVec 8) (t : Toks) :
    BitVec.extractLsb' 66 4 (encM o h ct mid ta tb sparse acc flags t) = BitVec.extractLsb' 4 4 mid := by
  unfold encM encHead
  repeat (first | rw [extract_high _ _ (by decide)] | rw [extract_low _ _ (by decide)])
@[simp] theorem encM_62_12 (o : BitVec 8) (h : Head) (ct : BitVec 6) (mid : BitVec 12) (ta tb : BitVec 4) (sparse : BitVec 2) (acc : BitVec 4) (flags : BitVec 8) (t : Toks) :
    BitVec.extractLsb' 62 12 (encM o h ct mid ta tb sparse acc flags t) = mid := by
  unfold encM encHead
  repeat (first | rw [extract_high _ _ (by decide)] | rw [extract_low _ _ (by decide)])
  exact BitVec.extractLsb'_eq_self
@[simp] theorem encM_62_4 (o : BitVec 8) (h : Head) (ct : BitVec 6) (mid : BitVec 12) (ta tb : BitVec 4) (sparse : BitVec 2) (acc : BitVec 4) (flags : BitVec 8) (t : Toks) :
    BitVec.extractLsb' 62 4 (encM o h ct mid ta tb sparse acc flags t) = BitVec.extractLsb' 0 4 mid := by
  unfold encM encHead
  repeat (first | rw [extract_high _ _ (by decide)] | rw [extract_low _ _ (by decide)])
@[simp] theorem encM_58_4 (o : BitVec 8) (h : Head) (ct : BitVec 6) (mid : BitVec 12) (ta tb : BitVec 4) (sparse : BitVec 2) (acc : BitVec 4) (flags : BitVec 8) (t : Toks) :
    BitVec.extractLsb' 58 4 (encM o h ct mid ta tb sparse acc flags t) = ta := by
  unfold encM encHead
  repeat (first | rw [extract_high _ _ (by decide)] | rw [extract_low _ _ (by decide)])
  exact BitVec.extractLsb'_eq_self
@[simp] theorem encM_54_4 (o : BitVec 8) (h : Head) (ct : BitVec 6) (mid : BitVec 12) (ta tb : BitVec 4) (sparse : BitVec 2) (acc : BitVec 4) (flags : BitVec 8) (t : Toks) :
    BitVec.extractLsb' 54 4 (encM o h ct mid ta tb sparse acc flags t) = tb := by
  unfold encM encHead
  repeat (first | rw [extract_high _ _ (by decide)] | rw [extract_low _ _ (by decide)])
  exact BitVec.extractLsb'_eq_self
@[simp] theorem encM_48_4 (o : BitVec 8) (h : Head) (ct : BitVec 6) (mid : BitVec 12) (ta tb : BitVec 4) (sparse : BitVec 2) (acc : BitVec 4) (flags : BitVec 8) (t : Toks) :
    BitVec.extractLsb' 48 4 (encM o h ct mid ta tb sparse acc flags t) = acc := by
  unfold encM encHead
  repeat (first | rw [extract_high _ _ (by decide)] | rw [extract_low _ _ (by decide)])
  exact BitVec.extractLsb'_eq_self
@[simp] theorem encM_42_1 (o : BitVec 8) (h : Head) (ct : BitVec 6) (mid : BitVec 12) (ta tb : BitVec 4) (sparse : BitVec 2) (acc : BitVec 4) (flags : BitVec 8) (t : Toks) :
    BitVec.extractLsb' 42 1 (encM o h ct mid ta tb sparse acc flags t) = BitVec.extractLsb' 2 1 flags := by
  unfold encM encHead
  repeat (first | rw [extract_high _ _ (by decide)] | rw [extract_low _ _ (by decide)])
@[simp] theorem encM_40_5 (o : BitVec 8) (h : Head) (ct : BitVec 6) (mid : BitVec 12) (ta tb : BitVec 4) (sparse : BitVec 2) (acc : BitVec 4) (flags : BitVec 8) (t : Toks) :
    BitVec.extractLsb' 40 5 (encM o h ct mid ta tb sparse acc flags t) = BitVec.extractLsb' 0 5 flags := by
  unfold encM encHead
  repeat (first | rw [extract_high _ _ (by decide)] | rw [extract_low _ _ (by decide)])
@[simp] theorem encM_40_2 (o : BitVec 8) (h : Head) (ct : BitVec 6) (mid : BitVec 12) (ta tb : BitVec 4) (sparse : BitVec 2) (acc : BitVec 4) (flags : BitVec 8) (t : Toks) :
    BitVec.extractLsb' 40 2 (encM o h ct mid ta tb sparse acc flags t) = BitVec.extractLsb' 0 2 flags := by
  unfold encM encHead
  repeat (first | rw [extract_high _ _ (by decide)] | rw [extract_low _ _ (by decide)])
@[simp] theorem encM_40_1 (o : BitVec 8) (h : Head) (ct : BitVec 6) (mid : BitVec 12) (ta tb : BitVec 4) (sparse : BitVec 2) (acc : BitVec 4) (flags : BitVec 8) (t : Toks) :
    BitVec.extractLsb' 40 1 (encM o h ct mid ta tb sparse acc flags t) = BitVec.extractLsb' 0 1 flags := by
  unfold encM encHead
  repeat (first | rw [extract_high _ _ (by decide)] | rw [extract_low _ _ (by decide)])
@[simp] theorem encM_34_6 (o : BitVec 8) (h : Head) (ct : BitVec 6) (mid : BitVec 12) (ta tb : BitVec 4) (sparse : BitVec 2) (acc : BitVec 4) (flags : BitVec 8) (t : Toks) :
    BitVec.extractLsb' 34 6 (encM o h ct mid ta tb sparse acc flags t) = t.p := by
  unfold encM encHead
  repeat (first | rw [extract_high _ _ (by decide)] | rw [extract_low _ _ (by decide)])
  exact BitVec.extractLsb'_eq_self
@[simp] theorem encM_28_6 (o : BitVec 8) (h : Head) (ct : BitVec 6) (mid : BitVec 12) (ta tb : BitVec 4) (sparse : BitVec 2) (acc : BitVec 4) (flags : BitVec 8) (t : Toks) :
    BitVec.extractLsb' 28 6 (encM o h ct mid ta tb sparse acc flags t) = t.c0 := by
  unfold encM encHead
  repeat (first | rw [extract_high _ _ (by decide)] | rw [extract_low _ _ (by decide)])
  exact BitVec.extractLsb'_eq_self
@[simp] theorem encM_22_6 (o : BitVec 8) (h : Head) (ct : BitVec 6) (mid : BitVec 12) (ta tb : BitVec 4) (sparse : BitVec 2) (acc : BitVec 4) (flags : BitVec 8) (t : Toks) :
    BitVec.extractLsb' 22 6 (encM o h ct mid ta tb sparse acc flags t) = t.c1 := by
  unfold encM encHead
  repeat (first | rw [extract_high _ _ (by decide)] | rw [extract_low _ _ (by decide)])
  exact BitVec.extractLsb'_eq_self
@[simp] theorem encM_16_6 (o : BitVec 8) (h : Head) (ct : BitVec 6) (mid : BitVec 12) (ta tb : BitVec 4) (sparse : BitVec 2) (acc : BitVec 4) (flags : BitVec 8) (t : Toks) :
    BitVec.extractLsb' 16 6 (encM o h ct mid ta tb sparse acc flags t) = t.c2 := by
  unfold encM encHead
  repeat (first | rw [extract_high _ _ (by decide)] | rw [extract_low _ _ (by decide)])
  exact BitVec.extractLsb'_eq_self
@[simp] theorem encQ_93_3 (o : BitVec 8) (h : Head) (xd xh xc xs xb : BitVec 6) (t : Toks) (dir : BitVec 2) (pad : BitVec 8) (subf : BitVec 16) :
    BitVec.extractLsb' 93 3 (encQ o h xd xh xc xs xb t dir pad subf) = BitVec.extractLsb' 5 3 o := by
  unfold encQ encHead
  repeat (first | rw [extract_high _ _ (by decide)] | rw [extract_low _ _ (by decide)])
@[simp] theorem encQ_88_8 (o : BitVec 8) (h : Head) (xd xh xc xs xb : BitVec 6) (t : Toks) (dir : BitVec 2) (pad : BitVec 8) (subf : BitVec 16) :
    BitVec.extractLsb' 88 8 (encQ o h xd xh xc xs xb t dir pad subf) = o := by
  unfold encQ encHead
  repeat (first | rw [extract_high _ _ (by decide)] | rw [extract_low _ _ (by decide)])
  exact BitVec.extractLsb'_eq_self
@[simp] theorem encQ_87_1 (o : BitVec 8) (h : Head) (xd xh xc xs xb : BitVec 6) (t : Toks) (dir : BitVec 2) (pad : BitVec 8) (subf : BitVec 16) :
    BitVec.extractLsb' 87 1 (encQ o h xd xh xc xs xb t dir pad subf) = bit h.pf := by
  unfold encQ encHead
  repeat (first | rw [extract_high _ _ (by decide)] | rw [extract_low _ _ (by decide)])
  exact BitVec.extractLsb'_eq_self
@[simp] theorem encQ_86_1 (o : BitVec 8) (h : Head) (xd xh xc xs xb : BitVec 6) (t : Toks) (dir : BitVec 2) (pad : BitVec 8) (subf : BitVec 16) :
    BitVec.extractLsb' 86 1 (encQ o h xd xh xc xs xb t dir pad subf) = bit h.pb := by
  unfold encQ encHead
  repeat (first | rw [extract_high _ _ (by decide)] | rw [extract_low _ _ (by decide)])
  exact BitVec.extractLsb'_eq_self
@[simp] theorem encQ_85_1 (o : BitVec 8) (h : Head) (xd xh xc xs xb : BitVec 6) (t : Toks) (dir : BitVec 2) (pad : BitVec 8) (subf : BitVec 16) :
    BitVec.extractLsb' 85 1 (encQ o h xd xh xc xs xb t dir pad subf) = bit h.wf := by
  unfold encQ encHead
  repeat (first | rw [extract_high _ _ (by decide)] | rw [extract_low _ _ (by decide)])
  exact BitVec.extractLsb'_eq_self
@[simp] theorem encQ_84_1 (o : BitVec 8) (h : Head) (xd xh xc xs xb : BitVec 6) (t : Toks) (dir : BitVec 2) (pad : BitVec 8) (subf : BitVec 16) :
    BitVec.extractLsb' 84 1 (encQ o h xd xh xc xs xb t dir pad subf) = bit h.wb := by
  unfold encQ encHead
  repeat (first | rw [extract_high _ _ (by decide)] | rw [extract_low _ _ (by decide)])
  exact BitVec.extractLsb'_eq_self
@[simp] theorem encQ_83_1 (o : BitVec 8) (h : Head) (xd xh xc xs xb : BitVec 6) (t : Toks) (dir : BitVec 2) (pad : BitVec 8) (subf : BitVec 16) :
    BitVec.extractLsb' 83 1 (encQ o h xd xh xc xs xb t dir pad subf) = bit h.pneg := by
  unfold encQ encHead
  repeat (first | rw [extract_high _ _ (by decide)] | rw [extract_low _ _ (by decide)])
  exact BitVec.extractLsb'_eq_self
@[simp] theorem encQ_80_3 (o : BitVec 8) (h : Head) (xd xh xc xs xb : BitVec 6) (t : Toks) (dir : BitVec 2) (pad : BitVec 8) (subf : BitVec 16) :
    BitVec.extractLsb' 80 3 (encQ o h xd xh xc xs xb t dir pad subf) = h.psel := by
  unfold encQ encHead
  repeat (first | rw [extract_high _ _ (by decide)] | rw [extract_low _ _ (by decide)])
  exact BitVec.extractLsb'_eq_self
@[simp] theorem encQ_74_6 (o : BitVec 8) (h : Head) (xd xh xc xs xb : BitVec 6) (t : Toks) (dir : BitVec 2) (pad : BitVec 8) (subf : BitVec 16) :
    BitVec.extractLsb' 74 6 (encQ o h xd xh xc xs xb t dir pad subf) = xd := by
  unfold encQ encHead
  repeat (first | rw [extract_high _ _ (by decide)] | rw [extract_low _ _ (by decide)])
  exact BitVec.extractLsb'_eq_self
@[simp] theorem encQ_70_4 (o : BitVec 8) (h : Head) (xd xh xc xs xb : BitVec 6) (t : Toks) (dir : BitVec 2) (pad : BitVec 8) (subf : BitVec 16) :
    BitVec.extractLsb' 70 4 (encQ o h xd xh xc xs xb t dir pad subf) = BitVec.extractLsb' 2 4 xh := by
  unfold encQ encHead
  repeat (first | rw [extract_high _ _ (by decide)] | rw [extract_low _ _ (by decide)])
@[simp] theorem encQ_68_6 (o : BitVec 8) (h : Head) (xd xh xc xs xb : BitVec 6) (t : Toks) (dir : BitVec 2) (pad : BitVec 8) (subf : BitVec 16) :
    BitVec.extractLsb' 68 6 (encQ o h xd xh xc xs xb t dir pad subf) = xh := by
  unfold encQ encHead
  repeat (first | rw [extract_high _ _ (by decide)] | rw [extract_low _ _ (by decide)])
  exact BitVec.extractLsb'_eq_self
@[simp] theorem encQ_68_4 (o : BitVec 8) (h : Head) (xd xh xc xs xb : BitVec 6) (t : Toks) (dir : BitVec 2) (pad : BitVec 8) (subf : BitVec 16) :
    BitVec.extractLsb' 68 4 (encQ o h xd xh xc xs xb t dir pad subf) = BitVec.extractLsb' 0 4 xh := by
  unfold encQ encHead
  repeat (first | rw [extract_high _ _ (by decide)] | rw [extract_low _ _ (by decide)])
@[simp] theorem encQ_64_4 (o : BitVec 8) (h : Head) (xd xh xc xs xb : BitVec 6) (t : Toks) (dir : BitVec 2) (pad : BitVec 8) (subf : BitVec 16) :
    BitVec.extractLsb' 64 4 (encQ o h xd xh xc xs xb t dir pad subf) = BitVec.extractLsb' 2 4 xc := by
  unfold encQ encHead
  repeat (first | rw [extract_high _ _ (by decide)] | rw [extract_low _ _ (by decide)])
@[simp] theorem encQ_62_6 (o : BitVec 8) (h : Head) (xd xh xc xs xb : BitVec 6) (t : Toks) (dir : BitVec 2) (pad : BitVec 8) (subf : BitVec 16) :
    BitVec.extractLsb' 62 6 (encQ o h xd xh xc xs xb t dir pad subf) = xc := by
  unfold encQ encHead
  repeat (first | rw [extract_high _ _ (by decide)] | rw [extract_low _ _ (by decide)])
  exact BitVec.extractLsb'_eq_self
@[simp] theorem encQ_56_6 (o : BitVec 8) (h : Head) (xd xh xc xs xb : BitVec 6) (t : Toks) (dir : BitVec 2) (pad : BitVec 8) (subf : BitVec 16) :
    BitVec.extractLsb' 56 6 (encQ o h xd xh xc xs xb t dir pad subf) = xs := by
  unfold encQ encHead
  repeat (first | rw [extract_high _ _ (by decide)] | rw [extract_low _ _ (by decide)])
  exact BitVec.extractLsb'_eq_self
@[simp] theorem encQ_56_4 (o : BitVec 8) (h : Head) (xd xh xc xs xb : BitVec 6) (t : Toks) (dir : BitVec 2) (pad : BitVec 8) (subf : BitVec 16) :
    BitVec.extractLsb' 56 4 (encQ o h xd xh xc xs xb t dir pad subf) = BitVec.extractLsb' 0 4 xs := by
  unfold encQ encHead
  repeat (first | rw [extract_high _ _ (by decide)] | rw [extract_low _ _ (by decide)])
@[simp] theorem encQ_50_6 (o : BitVec 8) (h : Head) (xd xh xc xs xb : BitVec 6) (t : Toks) (dir : BitVec 2) (pad : BitVec 8) (subf : BitVec 16) :
    BitVec.extractLsb' 50 6 (encQ o h xd xh xc xs xb t dir pad subf) = xb := by
  unfold encQ encHead
  repeat (first | rw [extract_high _ _ (by decide)] | rw [extract_low _ _ (by decide)])
  exact BitVec.extractLsb'_eq_self
@[simp] theorem encQ_44_6 (o : BitVec 8) (h : Head) (xd xh xc xs xb : BitVec 6) (t : Toks) (dir : BitVec 2) (pad : BitVec 8) (subf : BitVec 16) :
    BitVec.extractLsb' 44 6 (encQ o h xd xh xc xs xb t dir pad subf) = t.c0 := by
  unfold encQ encHead
  repeat (first | rw [extract_high _ _ (by decide)] | rw [extract_low _ _ (by decide)])
  exact BitVec.extractLsb'_eq_self
@[simp] theorem encQ_44_4 (o : BitVec 8) (h : Head) (xd xh xc xs xb : BitVec 6) (t : Toks) (dir : BitVec 2) (pad : BitVec 8) (subf : BitVec 16) :
    BitVec.extractLsb' 44 4 (encQ o h xd xh xc xs xb t dir pad subf) = BitVec.extractLsb' 0 4 t.c0 := by
  unfold encQ encHead
  repeat (first | rw [extract_high _ _ (by decide)] | rw [extract_low _ _ (by decide)])
@[simp] theorem encQ_40_4 (o : BitVec 8) (h : Head) (xd xh xc xs xb : BitVec 6) (t : Toks) (dir : BitVec 2) (pad : BitVec 8) (subf : BitVec 16) :
    BitVec.extractLsb' 40 4 (encQ o h xd xh xc xs xb t dir pad subf) = BitVec.extractLsb' 2 4 t.c1 := by
  unfold encQ encHead
  repeat (first | rw [extract_high _ _ (by decide)] | rw [extract_low _ _ (by decide)])
@[simp] theorem encQ_38_6 (o : BitVec 8) (h : Head) (xd xh xc xs xb : BitVec 6) (t : Toks) (dir : BitVec 2) (pad : BitVec 8) (subf : BitVec 16) :
    BitVec.extractLsb' 38 6 (encQ o h xd xh xc xs xb t dir pad subf) = t.c1 := by
  unfold encQ encHead
  repeat (first | rw [extract_high _ _ (by decide)] | rw [extract_low _ _ (by decide)])
  exact BitVec.extractLsb'_eq_self
@[simp] theorem encQ_32_6 (o : BitVec 8) (h : Head) (xd xh xc xs xb : BitVec 6) (t : Toks) (dir : BitVec 2) (pad : BitVec 8) (subf : BitVec 16) :
    BitVec.extractLsb' 32 6 (encQ o h xd xh xc xs xb t dir pad subf) = t.c2 := by
  unfold encQ encHead
  repeat (first | rw [extract_high _ _ (by decide)] | rw [extract_low _ _ (by decide)])
  exact BitVec.extractLsb'_eq_self
@[simp] theorem encQ_32_3 (o : BitVec 8) (h : Head) (xd xh xc xs xb : BitVec 6) (t : Toks) (dir : BitVec 2) (pad : BitVec 8) (subf : BitVec 16) :
    BitVec.extractLsb' 32 3 (encQ o h xd xh xc xs xb t dir pad subf) = BitVec.extractLsb' 0 3 t.c2 := by
  unfold encQ encHead
  repeat (first | rw [extract_high _ _ (by decide)] | rw [extract_low _ _ (by decide)])
@[simp] theorem encQ_26_6 (o : BitVec 8) (h : Head) (xd xh xc xs xb : BitVec 6) (t : Toks) (dir : BitVec 2) (pad : BitVec 8) (subf : BitVec 16) :
    BitVec.extractLsb' 26 6 (encQ o h xd xh xc xs xb t dir pad subf) = t.p := by
  unfold encQ encHead
  repeat (first | rw [extract_high _ _ (by decide)] | rw [extract_low _ _ (by decide)])
  exact BitVec.extractLsb'_eq_self
@[simp] theorem encQ_24_2 (o : BitVec 8) (h : Head) (xd xh xc xs xb : BitVec 6) (t : Toks) (dir : BitVec 2) (pad : BitVec 8) (subf : BitVec 16) :
    BitVec.extractLsb' 24 2 (encQ o h xd xh xc xs xb t dir pad subf) = dir := by
  unfold encQ encHead
  repeat (first | rw [extract_high _ _ (by decide)] | rw [extract_low _ _ (by decide)])
  exact BitVec.extractLsb'_eq_self
@[simp] theorem encQ_22_2 (o : BitVec 8) (h : Head) (xd xh xc xs xb : BitVec 6) (t : Toks) (dir : BitVec 2) (pad : BitVec 8) (subf : BitVec 16) :
    BitVec.extractLsb' 22 2 (encQ o h xd xh xc xs xb t dir pad subf) = BitVec.extractLsb' 6 2 pad := by
  unfold encQ encHead
  repeat (first | rw [extract_high _ _ (by decide)] | rw [extract_low _ _ (by decide)])
@[simp] theorem encQ_16_7 (o : BitVec 8) (h : Head) (xd xh xc xs xb : BitVec 6) (t : Toks) (dir : BitVec 2) (pad : BitVec 8) (subf : BitVec 16) :
    BitVec.extractLsb' 16 7 (encQ o h xd xh xc xs xb t dir pad subf) = BitVec.extractLsb' 0 7 pad := by
  unfold encQ encHead
  repeat (first | rw [extract_high _ _ (by decide)] | rw [extract_low _ _ (by decide)])
@[simp] theorem encQ_16_3 (o : BitVec 8) (h : Head) (xd xh xc xs xb : BitVec 6) (t : Toks) (dir : BitVec 2) (pad : BitVec 8) (subf : BitVec 16) :
    BitVec.extractLsb' 16 3 (encQ o h xd xh xc xs xb t dir pad subf) = BitVec.extractLsb' 0 3 pad := by
  unfold encQ encHead
  repeat (first | rw [extract_high _ _ (by decide)] | rw [extract_low _ _ (by decide)])
@[simp] theorem encQ_15_1 (o : BitVec 8) (h : Head) (xd xh xc xs xb : BitVec 6) (t : Toks) (dir : BitVec 2) (pad : BitVec 8) (subf : BitVec 16) :
    BitVec.extractLsb' 15 1 (encQ o h xd xh xc xs xb t dir pad subf) = BitVec.extractLsb' 15 1 subf := by
  unfold encQ encHead
  repeat (first | rw [extract_high _ _ (by decide)] | rw [extract_low _ _ (by decide)])
@[simp] theorem encQ_13_2 (o : BitVec 8) (h : Head) (xd xh xc xs xb : BitVec 6) (t : Toks) (dir : BitVec 2) (pad : BitVec 8) (subf : BitVec 16) :
    BitVec.extractLsb' 13 2 (encQ o h xd xh xc xs xb t dir pad subf) = BitVec.extractLsb' 13 2 subf := by
  unfold encQ encHead
  repeat (first | rw [extract_high _ _ (by decide)] | rw [extract_low _ _ (by decide)])
@[simp] theorem encQ_12_2 (o : BitVec 8) (h : Head) (xd xh xc xs xb : BitVec 6) (t : Toks) (dir : BitVec 2) (pad : BitVec 8) (subf : BitVec 16) :
    BitVec.extractLsb' 12 2 (encQ o h xd xh xc xs xb t dir pad subf) = BitVec.extractLsb' 12 2 subf := by
  unfold encQ encHead
  repeat (first | rw [extract_high _ _ (by decide)] | rw [extract_low _ _ (by decide)])
@[simp] theorem encQ_12_1 (o : BitVec 8) (h : Head) (xd xh xc xs xb : BitVec 6) (t : Toks) (dir : BitVec 2) (pad : BitVec 8) (subf : BitVec 16) :
    BitVec.extractLsb' 12 1 (encQ o h xd xh xc xs xb t dir pad subf) = BitVec.extractLsb' 12 1 subf := by
  unfold encQ encHead
  repeat (first | rw [extract_high _ _ (by decide)] | rw [extract_low _ _ (by decide)])
@[simp] theorem encQ_10_3 (o : BitVec 8) (h : Head) (xd xh xc xs xb : BitVec 6) (t : Toks) (dir : BitVec 2) (pad : BitVec 8) (subf : BitVec 16) :
    BitVec.extractLsb' 10 3 (encQ o h xd xh xc xs xb t dir pad subf) = BitVec.extractLsb' 10 3 subf := by
  unfold encQ encHead
  repeat (first | rw [extract_high _ _ (by decide)] | rw [extract_low _ _ (by decide)])
@[simp] theorem encQ_8_6 (o : BitVec 8) (h : Head) (xd xh xc xs xb : BitVec 6) (t : Toks) (dir : BitVec 2) (pad : BitVec 8) (subf : BitVec 16) :
    BitVec.extractLsb' 8 6 (encQ o h xd xh xc xs xb t dir pad subf) = BitVec.extractLsb' 8 6 subf := by
  unfold encQ encHead
  repeat (first | rw [extract_high _ _ (by decide)] | rw [extract_low _ _ (by decide)])
@[simp] theorem encQ_8_4 (o : BitVec 8) (h : Head) (xd xh xc xs xb : BitVec 6) (t : Toks) (dir : BitVec 2) (pad : BitVec 8) (subf : BitVec 16) :
    BitVec.extractLsb' 8 4 (encQ o h xd xh xc xs xb t dir pad subf) = BitVec.extractLsb' 8 4 subf := by
  unfold encQ encHead
  repeat (first | rw [extract_high _ _ (by decide)] | rw [extract_low _ _ (by decide)])
@[simp] theorem encQ_8_3 (o : BitVec 8) (h : Head) (xd xh xc xs xb : BitVec 6) (t : Toks) (dir : BitVec 2) (pad : BitVec 8) (subf : BitVec 16) :
    BitVec.extractLsb' 8 3 (encQ o h xd xh xc xs xb t dir pad subf) = BitVec.extractLsb' 8 3 subf := by
  unfold encQ encHead
  repeat (first | rw [extract_high _ _ (by decide)] | rw [extract_low _ _ (by decide)])
@[simp] theorem encQ_6_4 (o : BitVec 8) (h : Head) (xd xh xc xs xb : BitVec 6) (t : Toks) (dir : BitVec 2) (pad : BitVec 8) (subf : BitVec 16) :
    BitVec.extractLsb' 6 4 (encQ o h xd xh xc xs xb t dir pad subf) = BitVec.extractLsb' 6 4 subf := by
  unfold encQ encHead
  repeat (first | rw [extract_high _ _ (by decide)] | rw [extract_low _ _ (by decide)])
@[simp] theorem encQ_6_2 (o : BitVec 8) (h : Head) (xd xh xc xs xb : BitVec 6) (t : Toks) (dir : BitVec 2) (pad : BitVec 8) (subf : BitVec 16) :
    BitVec.extractLsb' 6 2 (encQ o h xd xh xc xs xb t dir pad subf) = BitVec.extractLsb' 6 2 subf := by
  unfold encQ encHead
  repeat (first | rw [extract_high _ _ (by decide)] | rw [extract_low _ _ (by decide)])
@[simp] theorem encQ_4_4 (o : BitVec 8) (h : Head) (xd xh xc xs xb : BitVec 6) (t : Toks) (dir : BitVec 2) (pad : BitVec 8) (subf : BitVec 16) :
    BitVec.extractLsb' 4 4 (encQ o h xd xh xc xs xb t dir pad subf) = BitVec.extractLsb' 4 4 subf := by
  unfold encQ encHead
  repeat (first | rw [extract_high _ _ (by decide)] | rw [extract_low _ _ (by decide)])
@[simp] theorem encQ_4_1 (o : BitVec 8) (h : Head) (xd xh xc xs xb : BitVec 6) (t : Toks) (dir : BitVec 2) (pad : BitVec 8) (subf : BitVec 16) :
    BitVec.extractLsb' 4 1 (encQ o h xd xh xc xs xb t dir pad subf) = BitVec.extractLsb' 4 1 subf := by
  unfold encQ encHead
  repeat (first | rw [extract_high _ _ (by decide)] | rw [extract_low _ _ (by decide)])
@[simp] theorem encQ_0_16 (o : BitVec 8) (h : Head) (xd xh xc xs xb : BitVec 6) (t : Toks) (dir : BitVec 2) (pad : BitVec 8) (subf : BitVec 16) :
    BitVec.extractLsb' 0 16 (encQ o h xd xh xc xs xb t dir pad subf) = subf := by
  unfold encQ encHead
  repeat (first | rw [extract_high _ _ (by decide)] | rw [extract_low _ _ (by decide)])
  exact BitVec.extractLsb'_eq_self
@[simp] theorem encQ_0_13 (o : BitVec 8) (h : Head) (xd xh xc xs xb : BitVec 6) (t : Toks) (dir : BitVec 2) (pad : BitVec 8) (subf : BitVec 16) :
    BitVec.extractLsb' 0 13 (encQ o h xd xh xc xs xb t dir pad subf) = BitVec.extractLsb' 0 13 subf := by
  unfold encQ encHead
  repeat (first | rw [extract_high _ _ (by decide)] | rw [extract_low _ _ (by decide)])
@[simp] theorem encQ_0_12 (o : BitVec 8) (h : Head) (xd xh xc xs xb : BitVec 6) (t : Toks) (dir : BitVec 2) (pad : BitVec 8) (subf : BitVec 16) :
    BitVec.extractLsb' 0 12 (encQ o h xd xh xc xs xb t dir pad subf) = BitVec.extractLsb' 0 12 subf := by
  unfold encQ encHead
  repeat (first | rw [extract_high _ _ (by decide)] | rw [extract_low _ _ (by decide)])
@[simp] theorem encQ_0_8 (o : BitVec 8) (h : Head) (xd xh xc xs xb : BitVec 6) (t : Toks) (dir : BitVec 2) (pad : BitVec 8) (subf : BitVec 16) :
    BitVec.extractLsb' 0 8 (encQ o h xd xh xc xs xb t dir pad subf) = BitVec.extractLsb' 0 8 subf := by
  unfold encQ encHead
  repeat (first | rw [extract_high _ _ (by decide)] | rw [extract_low _ _ (by decide)])
@[simp] theorem encQ_0_6 (o : BitVec 8) (h : Head) (xd xh xc xs xb : BitVec 6) (t : Toks) (dir : BitVec 2) (pad : BitVec 8) (subf : BitVec 16) :
    BitVec.extractLsb' 0 6 (encQ o h xd xh xc xs xb t dir pad subf) = BitVec.extractLsb' 0 6 subf := by
  unfold encQ encHead
  repeat (first | rw [extract_high _ _ (by decide)] | rw [extract_low _ _ (by decide)])
@[simp] theorem encQ_0_4 (o : BitVec 8) (h : Head) (xd xh xc xs xb : BitVec 6) (t : Toks) (dir : BitVec 2) (pad : BitVec 8) (subf : BitVec 16) :
    BitVec.extractLsb' 0 4 (encQ o h xd xh xc xs xb t dir pad subf) = BitVec.extractLsb' 0 4 subf := by
  unfold encQ encHead
  repeat (first | rw [extract_high _ _ (by decide)] | rw [extract_low _ _ (by decide)])
@[simp] theorem encQ_0_1 (o : BitVec 8) (h : Head) (xd xh xc xs xb : BitVec 6) (t : Toks) (dir : BitVec 2) (pad : BitVec 8) (subf : BitVec 16) :
    BitVec.extractLsb' 0 1 (encQ o h xd xh xc xs xb t dir pad subf) = BitVec.extractLsb' 0 1 subf := by
  unfold encQ encHead
  repeat (first | rw [extract_high _ _ (by decide)] | rw [extract_low _ _ (by decide)])
@[simp] theorem encY_93_3 (o : BitVec 8) (h : Head) (xd xa : BitVec 6) (csr : BitVec 12) (sub : BitVec 8) (imm : BitVec 48) :
    BitVec.extractLsb' 93 3 (encY o h xd xa csr sub imm) = BitVec.extractLsb' 5 3 o := by
  unfold encY encHead
  repeat (first | rw [extract_high _ _ (by decide)] | rw [extract_low _ _ (by decide)])
@[simp] theorem encY_88_8 (o : BitVec 8) (h : Head) (xd xa : BitVec 6) (csr : BitVec 12) (sub : BitVec 8) (imm : BitVec 48) :
    BitVec.extractLsb' 88 8 (encY o h xd xa csr sub imm) = o := by
  unfold encY encHead
  repeat (first | rw [extract_high _ _ (by decide)] | rw [extract_low _ _ (by decide)])
  exact BitVec.extractLsb'_eq_self
@[simp] theorem encY_87_1 (o : BitVec 8) (h : Head) (xd xa : BitVec 6) (csr : BitVec 12) (sub : BitVec 8) (imm : BitVec 48) :
    BitVec.extractLsb' 87 1 (encY o h xd xa csr sub imm) = bit h.pf := by
  unfold encY encHead
  repeat (first | rw [extract_high _ _ (by decide)] | rw [extract_low _ _ (by decide)])
  exact BitVec.extractLsb'_eq_self
@[simp] theorem encY_86_1 (o : BitVec 8) (h : Head) (xd xa : BitVec 6) (csr : BitVec 12) (sub : BitVec 8) (imm : BitVec 48) :
    BitVec.extractLsb' 86 1 (encY o h xd xa csr sub imm) = bit h.pb := by
  unfold encY encHead
  repeat (first | rw [extract_high _ _ (by decide)] | rw [extract_low _ _ (by decide)])
  exact BitVec.extractLsb'_eq_self
@[simp] theorem encY_85_1 (o : BitVec 8) (h : Head) (xd xa : BitVec 6) (csr : BitVec 12) (sub : BitVec 8) (imm : BitVec 48) :
    BitVec.extractLsb' 85 1 (encY o h xd xa csr sub imm) = bit h.wf := by
  unfold encY encHead
  repeat (first | rw [extract_high _ _ (by decide)] | rw [extract_low _ _ (by decide)])
  exact BitVec.extractLsb'_eq_self
@[simp] theorem encY_84_1 (o : BitVec 8) (h : Head) (xd xa : BitVec 6) (csr : BitVec 12) (sub : BitVec 8) (imm : BitVec 48) :
    BitVec.extractLsb' 84 1 (encY o h xd xa csr sub imm) = bit h.wb := by
  unfold encY encHead
  repeat (first | rw [extract_high _ _ (by decide)] | rw [extract_low _ _ (by decide)])
  exact BitVec.extractLsb'_eq_self
@[simp] theorem encY_83_1 (o : BitVec 8) (h : Head) (xd xa : BitVec 6) (csr : BitVec 12) (sub : BitVec 8) (imm : BitVec 48) :
    BitVec.extractLsb' 83 1 (encY o h xd xa csr sub imm) = bit h.pneg := by
  unfold encY encHead
  repeat (first | rw [extract_high _ _ (by decide)] | rw [extract_low _ _ (by decide)])
  exact BitVec.extractLsb'_eq_self
@[simp] theorem encY_80_3 (o : BitVec 8) (h : Head) (xd xa : BitVec 6) (csr : BitVec 12) (sub : BitVec 8) (imm : BitVec 48) :
    BitVec.extractLsb' 80 3 (encY o h xd xa csr sub imm) = h.psel := by
  unfold encY encHead
  repeat (first | rw [extract_high _ _ (by decide)] | rw [extract_low _ _ (by decide)])
  exact BitVec.extractLsb'_eq_self
@[simp] theorem encY_74_6 (o : BitVec 8) (h : Head) (xd xa : BitVec 6) (csr : BitVec 12) (sub : BitVec 8) (imm : BitVec 48) :
    BitVec.extractLsb' 74 6 (encY o h xd xa csr sub imm) = xd := by
  unfold encY encHead
  repeat (first | rw [extract_high _ _ (by decide)] | rw [extract_low _ _ (by decide)])
  exact BitVec.extractLsb'_eq_self
@[simp] theorem encY_70_4 (o : BitVec 8) (h : Head) (xd xa : BitVec 6) (csr : BitVec 12) (sub : BitVec 8) (imm : BitVec 48) :
    BitVec.extractLsb' 70 4 (encY o h xd xa csr sub imm) = BitVec.extractLsb' 2 4 xa := by
  unfold encY encHead
  repeat (first | rw [extract_high _ _ (by decide)] | rw [extract_low _ _ (by decide)])
@[simp] theorem encY_68_6 (o : BitVec 8) (h : Head) (xd xa : BitVec 6) (csr : BitVec 12) (sub : BitVec 8) (imm : BitVec 48) :
    BitVec.extractLsb' 68 6 (encY o h xd xa csr sub imm) = xa := by
  unfold encY encHead
  repeat (first | rw [extract_high _ _ (by decide)] | rw [extract_low _ _ (by decide)])
  exact BitVec.extractLsb'_eq_self
@[simp] theorem encY_64_4 (o : BitVec 8) (h : Head) (xd xa : BitVec 6) (csr : BitVec 12) (sub : BitVec 8) (imm : BitVec 48) :
    BitVec.extractLsb' 64 4 (encY o h xd xa csr sub imm) = BitVec.extractLsb' 8 4 csr := by
  unfold encY encHead
  repeat (first | rw [extract_high _ _ (by decide)] | rw [extract_low _ _ (by decide)])
@[simp] theorem encY_62_6 (o : BitVec 8) (h : Head) (xd xa : BitVec 6) (csr : BitVec 12) (sub : BitVec 8) (imm : BitVec 48) :
    BitVec.extractLsb' 62 6 (encY o h xd xa csr sub imm) = BitVec.extractLsb' 6 6 csr := by
  unfold encY encHead
  repeat (first | rw [extract_high _ _ (by decide)] | rw [extract_low _ _ (by decide)])
@[simp] theorem encY_56_12 (o : BitVec 8) (h : Head) (xd xa : BitVec 6) (csr : BitVec 12) (sub : BitVec 8) (imm : BitVec 48) :
    BitVec.extractLsb' 56 12 (encY o h xd xa csr sub imm) = csr := by
  unfold encY encHead
  repeat (first | rw [extract_high _ _ (by decide)] | rw [extract_low _ _ (by decide)])
  exact BitVec.extractLsb'_eq_self
@[simp] theorem encY_56_6 (o : BitVec 8) (h : Head) (xd xa : BitVec 6) (csr : BitVec 12) (sub : BitVec 8) (imm : BitVec 48) :
    BitVec.extractLsb' 56 6 (encY o h xd xa csr sub imm) = BitVec.extractLsb' 0 6 csr := by
  unfold encY encHead
  repeat (first | rw [extract_high _ _ (by decide)] | rw [extract_low _ _ (by decide)])
@[simp] theorem encY_50_6 (o : BitVec 8) (h : Head) (xd xa : BitVec 6) (csr : BitVec 12) (sub : BitVec 8) (imm : BitVec 48) :
    BitVec.extractLsb' 50 6 (encY o h xd xa csr sub imm) = BitVec.extractLsb' 2 6 sub := by
  unfold encY encHead
  repeat (first | rw [extract_high _ _ (by decide)] | rw [extract_low _ _ (by decide)])
@[simp] theorem encY_48_8 (o : BitVec 8) (h : Head) (xd xa : BitVec 6) (csr : BitVec 12) (sub : BitVec 8) (imm : BitVec 48) :
    BitVec.extractLsb' 48 8 (encY o h xd xa csr sub imm) = sub := by
  unfold encY encHead
  repeat (first | rw [extract_high _ _ (by decide)] | rw [extract_low _ _ (by decide)])
  exact BitVec.extractLsb'_eq_self
@[simp] theorem encY_38_6 (o : BitVec 8) (h : Head) (xd xa : BitVec 6) (csr : BitVec 12) (sub : BitVec 8) (imm : BitVec 48) :
    BitVec.extractLsb' 38 6 (encY o h xd xa csr sub imm) = BitVec.extractLsb' 38 6 imm := by
  unfold encY encHead
  repeat (first | rw [extract_high _ _ (by decide)] | rw [extract_low _ _ (by decide)])
@[simp] theorem encY_32_16 (o : BitVec 8) (h : Head) (xd xa : BitVec 6) (csr : BitVec 12) (sub : BitVec 8) (imm : BitVec 48) :
    BitVec.extractLsb' 32 16 (encY o h xd xa csr sub imm) = BitVec.extractLsb' 32 16 imm := by
  unfold encY encHead
  repeat (first | rw [extract_high _ _ (by decide)] | rw [extract_low _ _ (by decide)])
@[simp] theorem encY_32_6 (o : BitVec 8) (h : Head) (xd xa : BitVec 6) (csr : BitVec 12) (sub : BitVec 8) (imm : BitVec 48) :
    BitVec.extractLsb' 32 6 (encY o h xd xa csr sub imm) = BitVec.extractLsb' 32 6 imm := by
  unfold encY encHead
  repeat (first | rw [extract_high _ _ (by decide)] | rw [extract_low _ _ (by decide)])
@[simp] theorem encY_26_6 (o : BitVec 8) (h : Head) (xd xa : BitVec 6) (csr : BitVec 12) (sub : BitVec 8) (imm : BitVec 48) :
    BitVec.extractLsb' 26 6 (encY o h xd xa csr sub imm) = BitVec.extractLsb' 26 6 imm := by
  unfold encY encHead
  repeat (first | rw [extract_high _ _ (by decide)] | rw [extract_low _ _ (by decide)])
@[simp] theorem encY_16_24 (o : BitVec 8) (h : Head) (xd xa : BitVec 6) (csr : BitVec 12) (sub : BitVec 8) (imm : BitVec 48) :
    BitVec.extractLsb' 16 24 (encY o h xd xa csr sub imm) = BitVec.extractLsb' 16 24 imm := by
  unfold encY encHead
  repeat (first | rw [extract_high _ _ (by decide)] | rw [extract_low _ _ (by decide)])
@[simp] theorem encY_16_7 (o : BitVec 8) (h : Head) (xd xa : BitVec 6) (csr : BitVec 12) (sub : BitVec 8) (imm : BitVec 48) :
    BitVec.extractLsb' 16 7 (encY o h xd xa csr sub imm) = BitVec.extractLsb' 16 7 imm := by
  unfold encY encHead
  repeat (first | rw [extract_high _ _ (by decide)] | rw [extract_low _ _ (by decide)])
@[simp] theorem encY_12_2 (o : BitVec 8) (h : Head) (xd xa : BitVec 6) (csr : BitVec 12) (sub : BitVec 8) (imm : BitVec 48) :
    BitVec.extractLsb' 12 2 (encY o h xd xa csr sub imm) = BitVec.extractLsb' 12 2 imm := by
  unfold encY encHead
  repeat (first | rw [extract_high _ _ (by decide)] | rw [extract_low _ _ (by decide)])
@[simp] theorem encY_8_4 (o : BitVec 8) (h : Head) (xd xa : BitVec 6) (csr : BitVec 12) (sub : BitVec 8) (imm : BitVec 48) :
    BitVec.extractLsb' 8 4 (encY o h xd xa csr sub imm) = BitVec.extractLsb' 8 4 imm := by
  unfold encY encHead
  repeat (first | rw [extract_high _ _ (by decide)] | rw [extract_low _ _ (by decide)])
@[simp] theorem encY_4_4 (o : BitVec 8) (h : Head) (xd xa : BitVec 6) (csr : BitVec 12) (sub : BitVec 8) (imm : BitVec 48) :
    BitVec.extractLsb' 4 4 (encY o h xd xa csr sub imm) = BitVec.extractLsb' 4 4 imm := by
  unfold encY encHead
  repeat (first | rw [extract_high _ _ (by decide)] | rw [extract_low _ _ (by decide)])
@[simp] theorem encY_4_1 (o : BitVec 8) (h : Head) (xd xa : BitVec 6) (csr : BitVec 12) (sub : BitVec 8) (imm : BitVec 48) :
    BitVec.extractLsb' 4 1 (encY o h xd xa csr sub imm) = BitVec.extractLsb' 4 1 imm := by
  unfold encY encHead
  repeat (first | rw [extract_high _ _ (by decide)] | rw [extract_low _ _ (by decide)])
@[simp] theorem encY_0_32 (o : BitVec 8) (h : Head) (xd xa : BitVec 6) (csr : BitVec 12) (sub : BitVec 8) (imm : BitVec 48) :
    BitVec.extractLsb' 0 32 (encY o h xd xa csr sub imm) = BitVec.extractLsb' 0 32 imm := by
  unfold encY encHead
  repeat (first | rw [extract_high _ _ (by decide)] | rw [extract_low _ _ (by decide)])
@[simp] theorem encY_0_8 (o : BitVec 8) (h : Head) (xd xa : BitVec 6) (csr : BitVec 12) (sub : BitVec 8) (imm : BitVec 48) :
    BitVec.extractLsb' 0 8 (encY o h xd xa csr sub imm) = BitVec.extractLsb' 0 8 imm := by
  unfold encY encHead
  repeat (first | rw [extract_high _ _ (by decide)] | rw [extract_low _ _ (by decide)])
@[simp] theorem encY_0_4 (o : BitVec 8) (h : Head) (xd xa : BitVec 6) (csr : BitVec 12) (sub : BitVec 8) (imm : BitVec 48) :
    BitVec.extractLsb' 0 4 (encY o h xd xa csr sub imm) = BitVec.extractLsb' 0 4 imm := by
  unfold encY encHead
  repeat (first | rw [extract_high _ _ (by decide)] | rw [extract_low _ _ (by decide)])
@[simp] theorem encY_0_1 (o : BitVec 8) (h : Head) (xd xa : BitVec 6) (csr : BitVec 12) (sub : BitVec 8) (imm : BitVec 48) :
    BitVec.extractLsb' 0 1 (encY o h xd xa csr sub imm) = BitVec.extractLsb' 0 1 imm := by
  unfold encY encHead
  repeat (first | rw [extract_high _ _ (by decide)] | rw [extract_low _ _ (by decide)])
@[simp] theorem encN_93_3 (o : BitVec 8) (h : Head) (xa : BitVec 6) (sl : BitVec 4) (fld : BitVec 6) (imm : BitVec 64) :
    BitVec.extractLsb' 93 3 (encN o h xa sl fld imm) = BitVec.extractLsb' 5 3 o := by
  unfold encN encHead
  repeat (first | rw [extract_high _ _ (by decide)] | rw [extract_low _ _ (by decide)])
@[simp] theorem encN_88_8 (o : BitVec 8) (h : Head) (xa : BitVec 6) (sl : BitVec 4) (fld : BitVec 6) (imm : BitVec 64) :
    BitVec.extractLsb' 88 8 (encN o h xa sl fld imm) = o := by
  unfold encN encHead
  repeat (first | rw [extract_high _ _ (by decide)] | rw [extract_low _ _ (by decide)])
  exact BitVec.extractLsb'_eq_self
@[simp] theorem encN_87_1 (o : BitVec 8) (h : Head) (xa : BitVec 6) (sl : BitVec 4) (fld : BitVec 6) (imm : BitVec 64) :
    BitVec.extractLsb' 87 1 (encN o h xa sl fld imm) = bit h.pf := by
  unfold encN encHead
  repeat (first | rw [extract_high _ _ (by decide)] | rw [extract_low _ _ (by decide)])
  exact BitVec.extractLsb'_eq_self
@[simp] theorem encN_86_1 (o : BitVec 8) (h : Head) (xa : BitVec 6) (sl : BitVec 4) (fld : BitVec 6) (imm : BitVec 64) :
    BitVec.extractLsb' 86 1 (encN o h xa sl fld imm) = bit h.pb := by
  unfold encN encHead
  repeat (first | rw [extract_high _ _ (by decide)] | rw [extract_low _ _ (by decide)])
  exact BitVec.extractLsb'_eq_self
@[simp] theorem encN_85_1 (o : BitVec 8) (h : Head) (xa : BitVec 6) (sl : BitVec 4) (fld : BitVec 6) (imm : BitVec 64) :
    BitVec.extractLsb' 85 1 (encN o h xa sl fld imm) = bit h.wf := by
  unfold encN encHead
  repeat (first | rw [extract_high _ _ (by decide)] | rw [extract_low _ _ (by decide)])
  exact BitVec.extractLsb'_eq_self
@[simp] theorem encN_84_1 (o : BitVec 8) (h : Head) (xa : BitVec 6) (sl : BitVec 4) (fld : BitVec 6) (imm : BitVec 64) :
    BitVec.extractLsb' 84 1 (encN o h xa sl fld imm) = bit h.wb := by
  unfold encN encHead
  repeat (first | rw [extract_high _ _ (by decide)] | rw [extract_low _ _ (by decide)])
  exact BitVec.extractLsb'_eq_self
@[simp] theorem encN_83_1 (o : BitVec 8) (h : Head) (xa : BitVec 6) (sl : BitVec 4) (fld : BitVec 6) (imm : BitVec 64) :
    BitVec.extractLsb' 83 1 (encN o h xa sl fld imm) = bit h.pneg := by
  unfold encN encHead
  repeat (first | rw [extract_high _ _ (by decide)] | rw [extract_low _ _ (by decide)])
  exact BitVec.extractLsb'_eq_self
@[simp] theorem encN_80_3 (o : BitVec 8) (h : Head) (xa : BitVec 6) (sl : BitVec 4) (fld : BitVec 6) (imm : BitVec 64) :
    BitVec.extractLsb' 80 3 (encN o h xa sl fld imm) = h.psel := by
  unfold encN encHead
  repeat (first | rw [extract_high _ _ (by decide)] | rw [extract_low _ _ (by decide)])
  exact BitVec.extractLsb'_eq_self
@[simp] theorem encN_74_6 (o : BitVec 8) (h : Head) (xa : BitVec 6) (sl : BitVec 4) (fld : BitVec 6) (imm : BitVec 64) :
    BitVec.extractLsb' 74 6 (encN o h xa sl fld imm) = xa := by
  unfold encN encHead
  repeat (first | rw [extract_high _ _ (by decide)] | rw [extract_low _ _ (by decide)])
  exact BitVec.extractLsb'_eq_self
@[simp] theorem encN_70_4 (o : BitVec 8) (h : Head) (xa : BitVec 6) (sl : BitVec 4) (fld : BitVec 6) (imm : BitVec 64) :
    BitVec.extractLsb' 70 4 (encN o h xa sl fld imm) = sl := by
  unfold encN encHead
  repeat (first | rw [extract_high _ _ (by decide)] | rw [extract_low _ _ (by decide)])
  exact BitVec.extractLsb'_eq_self
@[simp] theorem encN_64_6 (o : BitVec 8) (h : Head) (xa : BitVec 6) (sl : BitVec 4) (fld : BitVec 6) (imm : BitVec 64) :
    BitVec.extractLsb' 64 6 (encN o h xa sl fld imm) = fld := by
  unfold encN encHead
  repeat (first | rw [extract_high _ _ (by decide)] | rw [extract_low _ _ (by decide)])
  exact BitVec.extractLsb'_eq_self
@[simp] theorem encN_64_4 (o : BitVec 8) (h : Head) (xa : BitVec 6) (sl : BitVec 4) (fld : BitVec 6) (imm : BitVec 64) :
    BitVec.extractLsb' 64 4 (encN o h xa sl fld imm) = BitVec.extractLsb' 0 4 fld := by
  unfold encN encHead
  repeat (first | rw [extract_high _ _ (by decide)] | rw [extract_low _ _ (by decide)])
@[simp] theorem encN_56_6 (o : BitVec 8) (h : Head) (xa : BitVec 6) (sl : BitVec 4) (fld : BitVec 6) (imm : BitVec 64) :
    BitVec.extractLsb' 56 6 (encN o h xa sl fld imm) = BitVec.extractLsb' 56 6 imm := by
  unfold encN encHead
  repeat (first | rw [extract_high _ _ (by decide)] | rw [extract_low _ _ (by decide)])
@[simp] theorem encN_56_4 (o : BitVec 8) (h : Head) (xa : BitVec 6) (sl : BitVec 4) (fld : BitVec 6) (imm : BitVec 64) :
    BitVec.extractLsb' 56 4 (encN o h xa sl fld imm) = BitVec.extractLsb' 56 4 imm := by
  unfold encN encHead
  repeat (first | rw [extract_high _ _ (by decide)] | rw [extract_low _ _ (by decide)])
@[simp] theorem encN_50_6 (o : BitVec 8) (h : Head) (xa : BitVec 6) (sl : BitVec 4) (fld : BitVec 6) (imm : BitVec 64) :
    BitVec.extractLsb' 50 6 (encN o h xa sl fld imm) = BitVec.extractLsb' 50 6 imm := by
  unfold encN encHead
  repeat (first | rw [extract_high _ _ (by decide)] | rw [extract_low _ _ (by decide)])
@[simp] theorem encN_48_8 (o : BitVec 8) (h : Head) (xa : BitVec 6) (sl : BitVec 4) (fld : BitVec 6) (imm : BitVec 64) :
    BitVec.extractLsb' 48 8 (encN o h xa sl fld imm) = BitVec.extractLsb' 48 8 imm := by
  unfold encN encHead
  repeat (first | rw [extract_high _ _ (by decide)] | rw [extract_low _ _ (by decide)])
@[simp] theorem encN_44_12 (o : BitVec 8) (h : Head) (xa : BitVec 6) (sl : BitVec 4) (fld : BitVec 6) (imm : BitVec 64) :
    BitVec.extractLsb' 44 12 (encN o h xa sl fld imm) = BitVec.extractLsb' 44 12 imm := by
  unfold encN encHead
  repeat (first | rw [extract_high _ _ (by decide)] | rw [extract_low _ _ (by decide)])
@[simp] theorem encN_44_6 (o : BitVec 8) (h : Head) (xa : BitVec 6) (sl : BitVec 4) (fld : BitVec 6) (imm : BitVec 64) :
    BitVec.extractLsb' 44 6 (encN o h xa sl fld imm) = BitVec.extractLsb' 44 6 imm := by
  unfold encN encHead
  repeat (first | rw [extract_high _ _ (by decide)] | rw [extract_low _ _ (by decide)])
@[simp] theorem encN_44_4 (o : BitVec 8) (h : Head) (xa : BitVec 6) (sl : BitVec 4) (fld : BitVec 6) (imm : BitVec 64) :
    BitVec.extractLsb' 44 4 (encN o h xa sl fld imm) = BitVec.extractLsb' 44 4 imm := by
  unfold encN encHead
  repeat (first | rw [extract_high _ _ (by decide)] | rw [extract_low _ _ (by decide)])
@[simp] theorem encN_40_4 (o : BitVec 8) (h : Head) (xa : BitVec 6) (sl : BitVec 4) (fld : BitVec 6) (imm : BitVec 64) :
    BitVec.extractLsb' 40 4 (encN o h xa sl fld imm) = BitVec.extractLsb' 40 4 imm := by
  unfold encN encHead
  repeat (first | rw [extract_high _ _ (by decide)] | rw [extract_low _ _ (by decide)])
@[simp] theorem encN_38_6 (o : BitVec 8) (h : Head) (xa : BitVec 6) (sl : BitVec 4) (fld : BitVec 6) (imm : BitVec 64) :
    BitVec.extractLsb' 38 6 (encN o h xa sl fld imm) = BitVec.extractLsb' 38 6 imm := by
  unfold encN encHead
  repeat (first | rw [extract_high _ _ (by decide)] | rw [extract_low _ _ (by decide)])
@[simp] theorem encN_32_16 (o : BitVec 8) (h : Head) (xa : BitVec 6) (sl : BitVec 4) (fld : BitVec 6) (imm : BitVec 64) :
    BitVec.extractLsb' 32 16 (encN o h xa sl fld imm) = BitVec.extractLsb' 32 16 imm := by
  unfold encN encHead
  repeat (first | rw [extract_high _ _ (by decide)] | rw [extract_low _ _ (by decide)])
@[simp] theorem encN_32_6 (o : BitVec 8) (h : Head) (xa : BitVec 6) (sl : BitVec 4) (fld : BitVec 6) (imm : BitVec 64) :
    BitVec.extractLsb' 32 6 (encN o h xa sl fld imm) = BitVec.extractLsb' 32 6 imm := by
  unfold encN encHead
  repeat (first | rw [extract_high _ _ (by decide)] | rw [extract_low _ _ (by decide)])
@[simp] theorem encN_32_3 (o : BitVec 8) (h : Head) (xa : BitVec 6) (sl : BitVec 4) (fld : BitVec 6) (imm : BitVec 64) :
    BitVec.extractLsb' 32 3 (encN o h xa sl fld imm) = BitVec.extractLsb' 32 3 imm := by
  unfold encN encHead
  repeat (first | rw [extract_high _ _ (by decide)] | rw [extract_low _ _ (by decide)])
@[simp] theorem encN_26_6 (o : BitVec 8) (h : Head) (xa : BitVec 6) (sl : BitVec 4) (fld : BitVec 6) (imm : BitVec 64) :
    BitVec.extractLsb' 26 6 (encN o h xa sl fld imm) = BitVec.extractLsb' 26 6 imm := by
  unfold encN encHead
  repeat (first | rw [extract_high _ _ (by decide)] | rw [extract_low _ _ (by decide)])
@[simp] theorem encN_16_24 (o : BitVec 8) (h : Head) (xa : BitVec 6) (sl : BitVec 4) (fld : BitVec 6) (imm : BitVec 64) :
    BitVec.extractLsb' 16 24 (encN o h xa sl fld imm) = BitVec.extractLsb' 16 24 imm := by
  unfold encN encHead
  repeat (first | rw [extract_high _ _ (by decide)] | rw [extract_low _ _ (by decide)])
@[simp] theorem encN_16_16 (o : BitVec 8) (h : Head) (xa : BitVec 6) (sl : BitVec 4) (fld : BitVec 6) (imm : BitVec 64) :
    BitVec.extractLsb' 16 16 (encN o h xa sl fld imm) = BitVec.extractLsb' 16 16 imm := by
  unfold encN encHead
  repeat (first | rw [extract_high _ _ (by decide)] | rw [extract_low _ _ (by decide)])
@[simp] theorem encN_16_7 (o : BitVec 8) (h : Head) (xa : BitVec 6) (sl : BitVec 4) (fld : BitVec 6) (imm : BitVec 64) :
    BitVec.extractLsb' 16 7 (encN o h xa sl fld imm) = BitVec.extractLsb' 16 7 imm := by
  unfold encN encHead
  repeat (first | rw [extract_high _ _ (by decide)] | rw [extract_low _ _ (by decide)])
@[simp] theorem encN_16_3 (o : BitVec 8) (h : Head) (xa : BitVec 6) (sl : BitVec 4) (fld : BitVec 6) (imm : BitVec 64) :
    BitVec.extractLsb' 16 3 (encN o h xa sl fld imm) = BitVec.extractLsb' 16 3 imm := by
  unfold encN encHead
  repeat (first | rw [extract_high _ _ (by decide)] | rw [extract_low _ _ (by decide)])
@[simp] theorem encN_15_1 (o : BitVec 8) (h : Head) (xa : BitVec 6) (sl : BitVec 4) (fld : BitVec 6) (imm : BitVec 64) :
    BitVec.extractLsb' 15 1 (encN o h xa sl fld imm) = BitVec.extractLsb' 15 1 imm := by
  unfold encN encHead
  repeat (first | rw [extract_high _ _ (by decide)] | rw [extract_low _ _ (by decide)])
@[simp] theorem encN_13_2 (o : BitVec 8) (h : Head) (xa : BitVec 6) (sl : BitVec 4) (fld : BitVec 6) (imm : BitVec 64) :
    BitVec.extractLsb' 13 2 (encN o h xa sl fld imm) = BitVec.extractLsb' 13 2 imm := by
  unfold encN encHead
  repeat (first | rw [extract_high _ _ (by decide)] | rw [extract_low _ _ (by decide)])
@[simp] theorem encN_12_2 (o : BitVec 8) (h : Head) (xa : BitVec 6) (sl : BitVec 4) (fld : BitVec 6) (imm : BitVec 64) :
    BitVec.extractLsb' 12 2 (encN o h xa sl fld imm) = BitVec.extractLsb' 12 2 imm := by
  unfold encN encHead
  repeat (first | rw [extract_high _ _ (by decide)] | rw [extract_low _ _ (by decide)])
@[simp] theorem encN_12_1 (o : BitVec 8) (h : Head) (xa : BitVec 6) (sl : BitVec 4) (fld : BitVec 6) (imm : BitVec 64) :
    BitVec.extractLsb' 12 1 (encN o h xa sl fld imm) = BitVec.extractLsb' 12 1 imm := by
  unfold encN encHead
  repeat (first | rw [extract_high _ _ (by decide)] | rw [extract_low _ _ (by decide)])
@[simp] theorem encN_10_3 (o : BitVec 8) (h : Head) (xa : BitVec 6) (sl : BitVec 4) (fld : BitVec 6) (imm : BitVec 64) :
    BitVec.extractLsb' 10 3 (encN o h xa sl fld imm) = BitVec.extractLsb' 10 3 imm := by
  unfold encN encHead
  repeat (first | rw [extract_high _ _ (by decide)] | rw [extract_low _ _ (by decide)])
@[simp] theorem encN_8_4 (o : BitVec 8) (h : Head) (xa : BitVec 6) (sl : BitVec 4) (fld : BitVec 6) (imm : BitVec 64) :
    BitVec.extractLsb' 8 4 (encN o h xa sl fld imm) = BitVec.extractLsb' 8 4 imm := by
  unfold encN encHead
  repeat (first | rw [extract_high _ _ (by decide)] | rw [extract_low _ _ (by decide)])
@[simp] theorem encN_6_4 (o : BitVec 8) (h : Head) (xa : BitVec 6) (sl : BitVec 4) (fld : BitVec 6) (imm : BitVec 64) :
    BitVec.extractLsb' 6 4 (encN o h xa sl fld imm) = BitVec.extractLsb' 6 4 imm := by
  unfold encN encHead
  repeat (first | rw [extract_high _ _ (by decide)] | rw [extract_low _ _ (by decide)])
@[simp] theorem encN_4_4 (o : BitVec 8) (h : Head) (xa : BitVec 6) (sl : BitVec 4) (fld : BitVec 6) (imm : BitVec 64) :
    BitVec.extractLsb' 4 4 (encN o h xa sl fld imm) = BitVec.extractLsb' 4 4 imm := by
  unfold encN encHead
  repeat (first | rw [extract_high _ _ (by decide)] | rw [extract_low _ _ (by decide)])
@[simp] theorem encN_4_1 (o : BitVec 8) (h : Head) (xa : BitVec 6) (sl : BitVec 4) (fld : BitVec 6) (imm : BitVec 64) :
    BitVec.extractLsb' 4 1 (encN o h xa sl fld imm) = BitVec.extractLsb' 4 1 imm := by
  unfold encN encHead
  repeat (first | rw [extract_high _ _ (by decide)] | rw [extract_low _ _ (by decide)])
@[simp] theorem encN_0_64 (o : BitVec 8) (h : Head) (xa : BitVec 6) (sl : BitVec 4) (fld : BitVec 6) (imm : BitVec 64) :
    BitVec.extractLsb' 0 64 (encN o h xa sl fld imm) = imm := by
  unfold encN encHead
  repeat (first | rw [extract_high _ _ (by decide)] | rw [extract_low _ _ (by decide)])
  exact BitVec.extractLsb'_eq_self
@[simp] theorem encN_0_32 (o : BitVec 8) (h : Head) (xa : BitVec 6) (sl : BitVec 4) (fld : BitVec 6) (imm : BitVec 64) :
    BitVec.extractLsb' 0 32 (encN o h xa sl fld imm) = BitVec.extractLsb' 0 32 imm := by
  unfold encN encHead
  repeat (first | rw [extract_high _ _ (by decide)] | rw [extract_low _ _ (by decide)])
@[simp] theorem encN_0_20 (o : BitVec 8) (h : Head) (xa : BitVec 6) (sl : BitVec 4) (fld : BitVec 6) (imm : BitVec 64) :
    BitVec.extractLsb' 0 20 (encN o h xa sl fld imm) = BitVec.extractLsb' 0 20 imm := by
  unfold encN encHead
  repeat (first | rw [extract_high _ _ (by decide)] | rw [extract_low _ _ (by decide)])
@[simp] theorem encN_0_16 (o : BitVec 8) (h : Head) (xa : BitVec 6) (sl : BitVec 4) (fld : BitVec 6) (imm : BitVec 64) :
    BitVec.extractLsb' 0 16 (encN o h xa sl fld imm) = BitVec.extractLsb' 0 16 imm := by
  unfold encN encHead
  repeat (first | rw [extract_high _ _ (by decide)] | rw [extract_low _ _ (by decide)])
@[simp] theorem encN_0_12 (o : BitVec 8) (h : Head) (xa : BitVec 6) (sl : BitVec 4) (fld : BitVec 6) (imm : BitVec 64) :
    BitVec.extractLsb' 0 12 (encN o h xa sl fld imm) = BitVec.extractLsb' 0 12 imm := by
  unfold encN encHead
  repeat (first | rw [extract_high _ _ (by decide)] | rw [extract_low _ _ (by decide)])
@[simp] theorem encN_0_8 (o : BitVec 8) (h : Head) (xa : BitVec 6) (sl : BitVec 4) (fld : BitVec 6) (imm : BitVec 64) :
    BitVec.extractLsb' 0 8 (encN o h xa sl fld imm) = BitVec.extractLsb' 0 8 imm := by
  unfold encN encHead
  repeat (first | rw [extract_high _ _ (by decide)] | rw [extract_low _ _ (by decide)])
@[simp] theorem encN_0_6 (o : BitVec 8) (h : Head) (xa : BitVec 6) (sl : BitVec 4) (fld : BitVec 6) (imm : BitVec 64) :
    BitVec.extractLsb' 0 6 (encN o h xa sl fld imm) = BitVec.extractLsb' 0 6 imm := by
  unfold encN encHead
  repeat (first | rw [extract_high _ _ (by decide)] | rw [extract_low _ _ (by decide)])
@[simp] theorem encN_0_4 (o : BitVec 8) (h : Head) (xa : BitVec 6) (sl : BitVec 4) (fld : BitVec 6) (imm : BitVec 64) :
    BitVec.extractLsb' 0 4 (encN o h xa sl fld imm) = BitVec.extractLsb' 0 4 imm := by
  unfold encN encHead
  repeat (first | rw [extract_high _ _ (by decide)] | rw [extract_low _ _ (by decide)])
@[simp] theorem encN_0_1 (o : BitVec 8) (h : Head) (xa : BitVec 6) (sl : BitVec 4) (fld : BitVec 6) (imm : BitVec 64) :
    BitVec.extractLsb' 0 1 (encN o h xa sl fld imm) = BitVec.extractLsb' 0 1 imm := by
  unfold encN encHead
  repeat (first | rw [extract_high _ _ (by decide)] | rw [extract_low _ _ (by decide)])

@[simp] theorem wOpc_eq (w : IWord) : wOpc w = w.extractLsb' 88 8 := rfl
@[simp] theorem wHead_eq (w : IWord) : wHead w =
    { pf := w.extractLsb' 87 1 == 1#1, pb := w.extractLsb' 86 1 == 1#1, wf := w.extractLsb' 85 1 == 1#1,
      wb := w.extractLsb' 84 1 == 1#1, pneg := w.extractLsb' 83 1 == 1#1, psel := w.extractLsb' 80 3 } := rfl
@[simp] theorem wR1_eq (w : IWord) : wR1 w = w.extractLsb' 74 6 := rfl
@[simp] theorem wR2_eq (w : IWord) : wR2 w = w.extractLsb' 68 6 := rfl
@[simp] theorem wR3_eq (w : IWord) : wR3 w = w.extractLsb' 62 6 := rfl
@[simp] theorem wR4_eq (w : IWord) : wR4 w = w.extractLsb' 56 6 := rfl
@[simp] theorem wQb_eq (w : IWord) : wQb w = w.extractLsb' 50 6 := rfl
@[simp] theorem wImm48_eq (w : IWord) : wImm48 w = w.extractLsb' 0 48 := rfl
@[simp] theorem wD_eq (w : IWord) : wD w = w.extractLsb' 68 12 := rfl
@[simp] theorem wA_eq (w : IWord) : wA w = w.extractLsb' 56 12 := rfl
@[simp] theorem wB_eq (w : IWord) : wB w = w.extractLsb' 44 12 := rfl
@[simp] theorem wTy_eq (w : IWord) : wTy w = Machine.tyOfCode (w.extractLsb' 40 4) := rfl
@[simp] theorem wToksM_eq (w : IWord) :
    wToksM w = ⟨w.extractLsb' 28 6, w.extractLsb' 22 6, w.extractLsb' 16 6, w.extractLsb' 34 6⟩ := rfl
@[simp] theorem wToksQ_eq (w : IWord) :
    wToksQ w = ⟨w.extractLsb' 44 6, w.extractLsb' 38 6, w.extractLsb' 32 6, w.extractLsb' 26 6⟩ := rfl
@[simp] theorem encLanes_eq (o : BitVec 8) (h : Head) (d a b : Spec) (ty : Ty) (v : Ovf) (r : Rnd) (sub : BitVec 3) (l : Lanes) :
    encLanes o h d a b ty v r sub l = encV o h d a b (Machine.tyCode ty) (ovfCode v) (rndCode r) sub (0#29 ++ lanesCode l) := rfl
@[simp] theorem noToks_eq : noToks = ⟨63, 63, 63, 63⟩ := rfl

@[simp] theorem bit_back (b : Bool) : (bit b == 1#1) = b := by cases b <;> rfl
@[simp] theorem rnd_back (r : Rnd) : rndOf (rndCode r) = some r := by cases r <;> rfl
@[simp] theorem rnd_zero : rndOf 0#3 = some .rn := rfl
@[simp] theorem ovf_back (o : Ovf) : ovfOf (ovfCode o) = o := by cases o <;> rfl
@[simp] theorem cond_back (c : Cond) : condOf (condCode c) = some c := by cases c <;> rfl
@[simp] theorem vcond_back (c : VCond) : vcondOf (vcondCode c) = some c := by cases c <;> rfl
@[simp] theorem lanes_back (l : Lanes) : lanesOf (lanesCode l) = some l := by
  cases l with
  | all => rfl
  | mk n => revert n; decide
@[simp] theorem ld_back (z : LdSize) : ldOf (ldCode z) = some z := by cases z <;> rfl
@[simp] theorem st_back (z : StSize) : stOf (stCode z) = some z := by cases z <;> rfl
@[simp] theorem amo_back (o : AmoOp) : amoOf (amoCode o) = some o := by cases o <;> rfl
@[simp] theorem amoSize_back (z : AmoSize) : amoSizeOf (amoSizeCode z) = some z := by cases z <;> rfl
@[simp] theorem scope_back (c : Scope) : scopeOf (scopeCode c) = some c := by cases c <;> rfl
@[simp] theorem buf2_back (b : Buf) : bufOf2 (bufCode2 b) = some b := by cases b <;> rfl
@[simp] theorem buf3_back (b : Buf) : bufOf3 (bufCode3 b) = some b := by cases b <;> rfl
@[simp] theorem pad_back (p : Pad) : padOf (padCode p) = some p := by cases p <;> rfl
@[simp] theorem win_back (w : Win) : winOf (winCode w) = some w := by cases w <;> rfl
@[simp] theorem red_back (r : RedOp) : redOf (redCode r) = some r := by cases r <;> rfl
@[simp] theorem scan_back (r : ScanOp) : scanOf (scanCode r) = some r := by cases r <;> rfl
@[simp] theorem coll_back (r : CollOp) : collOf (collCode r) = some r := by cases r <;> rfl
@[simp] theorem acc_back (a : Acc) : accOf (accCode a) = some a := by cases a <;> rfl
@[simp] theorem ty_back (t : Ty) : Machine.tyOfCode (Machine.tyCode t) = t := by cases t <;> rfl

end Sys2Proof.Laws
end

