-- ==== Sys2Proof/Laws/Memory.lean ====
section
/-! SUPPORT. The canonical form of memory, kept by every write, and what a write leaves to be read. -/

namespace Sys2Proof.Machine

/-! ### The canonical form -/

theorem wfFrom_weaken {lo lo' : Nat} (h : lo' ≤ lo) : ∀ {l : List Host.Cell}, wfFrom lo l = true → wfFrom lo' l = true
  | [], _ => rfl
  | (k, v) :: t, hl => by
    simp only [wfFrom, Bool.and_eq_true, decide_eq_true_eq] at hl ⊢
    exact ⟨⟨by omega, hl.1.2⟩, hl.2⟩

theorem wfFrom_filter (p : Host.Cell → Bool) : ∀ {lo : Nat} {l : List Host.Cell}, wfFrom lo l = true → wfFrom lo (l.filter p) = true
  | _, [], _ => rfl
  | lo, (k, v) :: t, hl => by
    have hl' := hl
    simp only [wfFrom, Bool.and_eq_true, decide_eq_true_eq] at hl
    by_cases hp : p (k, v) = true
    · rw [List.filter_cons_of_pos hp]
      simp only [wfFrom, Bool.and_eq_true, decide_eq_true_eq]
      exact ⟨hl.1, wfFrom_filter p hl.2⟩
    · rw [List.filter_cons_of_neg hp]
      exact wfFrom_weaken (by omega) (wfFrom_filter p hl.2)

/-- A list of cells below `b` followed by one from `b` on. -/
theorem wfFrom_append {b : Nat} : ∀ {lo : Nat} {l r : List Host.Cell}, wfFrom lo l = true → (∀ c ∈ l, c.1 < b) → lo ≤ b →
    wfFrom b r = true → wfFrom lo (l ++ r) = true
  | _, [], _, _, _, hlo, hr => wfFrom_weaken hlo hr
  | lo, (k, v) :: t, r, hl, hb, _, hr => by
    simp only [wfFrom, Bool.and_eq_true, decide_eq_true_eq, List.cons_append] at hl ⊢
    have hk : k < b := hb (k, v) (by simp)
    exact ⟨hl.1, wfFrom_append hl.2 (fun c hc => hb c (by simp [hc])) (by omega) hr⟩

theorem cellsOf_wf : ∀ (a : Nat) (bs : List Byte), wfFrom a (cellsOf a bs) = true
  | _, [] => rfl
  | a, b :: t => by
    unfold cellsOf
    split
    · exact wfFrom_weaken (by omega) (cellsOf_wf (a + 1) t)
    · rename_i hb
      simp [wfFrom, hb, cellsOf_wf (a + 1) t]

theorem cellsOf_range : ∀ {a : Nat} {bs : List Byte} {c : Host.Cell}, c ∈ cellsOf a bs → a ≤ c.1 ∧ c.1 < a + bs.length
  | a, [], c, h => by simp [cellsOf] at h
  | a, b :: t, c, h => by
    unfold cellsOf at h
    split at h
    · have := cellsOf_range h; simp only [List.length_cons]; omega
    · rcases List.mem_cons.1 h with rfl | h
      · simp only [List.length_cons]; omega
      · have := cellsOf_range h; simp only [List.length_cons]; omega

theorem wfFrom_of_ge {b : Nat} : ∀ {lo : Nat} {l : List Host.Cell}, wfFrom lo l = true → (∀ c ∈ l, b ≤ c.1) → wfFrom b l = true
  | _, [], _, _ => rfl
  | lo, (k, v) :: t, hl, hb => by
    simp only [wfFrom, Bool.and_eq_true, decide_eq_true_eq] at hl ⊢
    exact ⟨⟨hb (k, v) (by simp), hl.1.2⟩, hl.2⟩

/-- A write keeps the canonical form. -/
theorem Memory.write_wf {m : Memory} (a : Nat) (bs : List Byte) (h : m.wf = true) : (Memory.write m a bs).wf = true := by
  have hhi : wfFrom (a + bs.length) (m.filter (fun c => decide (a + bs.length ≤ c.1))) = true :=
    wfFrom_of_ge (wfFrom_filter _ h) (fun c hc => by simpa using (List.mem_filter.1 hc).2)
  have hmid : wfFrom a (cellsOf a bs ++ m.filter (fun c => decide (a + bs.length ≤ c.1))) = true :=
    wfFrom_append (cellsOf_wf a bs) (fun c hc => (cellsOf_range hc).2) (by omega) hhi
  exact wfFrom_append (wfFrom_filter _ h) (fun c hc => by simpa using (List.mem_filter.1 hc).2) (by omega) hmid

/-- Blocks written in order keep it. -/
theorem writeAll_wf : ∀ {m : Memory} (ws : List (Nat × List Byte)), m.wf = true → (writeAll m ws).wf = true
  | _, [], h => h
  | _, (a, bs) :: t, h => writeAll_wf t (Memory.write_wf a bs h)

/-- What a meaning commits keeps it. -/
theorem commit_wf {s : State} (r : Res) (h : s.mem.wf = true) : (s.commit r).mem.wf = true := writeAll_wf r.writes h

/-! ### Reading after a write -/

@[simp] theorem read_nil (a : Nat) : Memory.read [] a = 0#8 := rfl

theorem read_cons (c : Host.Cell) (m : List Host.Cell) (a : Nat) :
    Memory.read (c :: m) a = if c.1 = a then c.2 else Memory.read m a := by
  unfold Memory.read
  by_cases h : c.1 = a
  · rw [List.find?_cons_of_pos (by simpa using h), if_pos h]; rfl
  · rw [List.find?_cons_of_neg (by simpa using h), if_neg h]

theorem read_append (l r : List Host.Cell) (a : Nat) :
    Memory.read (l ++ r) a = if l.any (fun c => c.1 == a) then Memory.read l a else Memory.read r a := by
  induction l with
  | nil => simp
  | cons c t ih =>
    rw [List.cons_append, read_cons, read_cons, ih]
    by_cases h : c.1 = a <;> simp [h]

theorem read_none {l : List Host.Cell} {a : Nat} (h : l.any (fun c => c.1 == a) = false) : Memory.read l a = 0#8 := by
  induction l with
  | nil => rfl
  | cons c t ih =>
    simp only [List.any_cons, Bool.or_eq_false_iff, beq_eq_false_iff_ne] at h
    rw [read_cons, if_neg h.1, ih h.2]

theorem read_filter {p : Host.Cell → Bool} {a : Nat} : ∀ {l : List Host.Cell}, (∀ c ∈ l, c.1 = a → p c = true) →
    Memory.read (l.filter p) a = Memory.read l a
  | [], _ => rfl
  | c :: t, h => by
    have ih : Memory.read (t.filter p) a = Memory.read t a := read_filter (fun d hd => h d (by simp [hd]))
    by_cases hc : p c = true
    · rw [List.filter_cons_of_pos hc, read_cons, read_cons, ih]
    · rw [List.filter_cons_of_neg hc, read_cons, ih]
      by_cases ha : c.1 = a
      · exact absurd (h c (by simp) ha) hc
      · rw [if_neg ha]

theorem any_filter_false {p : Host.Cell → Bool} {a : Nat} {l : List Host.Cell} (h : ∀ c ∈ l, c.1 = a → p c = false) :
    (l.filter p).any (fun c => c.1 == a) = false := by
  rw [List.any_eq_false]
  intro c hc
  have hm := List.mem_filter.1 hc
  intro he
  have := h c hm.1 (by simpa using he)
  rw [hm.2] at this
  cases this

theorem read_cellsOf : ∀ (a : Nat) (bs : List Byte) (i : Nat), Memory.read (cellsOf a bs) (a + i) = bs.getD i 0#8
  | _, [], _ => rfl
  | a, b :: t, 0 => by
    have hnone : (cellsOf (a + 1) t).any (fun c => c.1 == a) = false := by
      rw [List.any_eq_false]
      intro c hc he
      have := cellsOf_range hc
      simp only [beq_iff_eq] at he
      omega
    unfold cellsOf
    split
    · rename_i hb
      change Memory.read (cellsOf (a + 1) t) a = b
      rw [read_none hnone, hb]
    · rw [read_cons, if_pos (by rfl)]; rfl
  | a, b :: t, i + 1 => by
    have ih := read_cellsOf (a + 1) t i
    have he : a + (i + 1) = a + 1 + i := by omega
    unfold cellsOf
    split
    · rw [he, ih, List.getD_cons_succ]
    · rw [read_cons, if_neg (by omega), he, ih, List.getD_cons_succ]

/-- A byte outside the block reads as before. -/
theorem read_write_outside (m : Memory) (a : Nat) (bs : List Byte) (x : Nat) (h : x < a ∨ a + bs.length ≤ x) :
    Memory.read (Memory.write m a bs) x = Memory.read m x := by
  have hmid : (cellsOf a bs).any (fun c => c.1 == x) = false := by
    rw [List.any_eq_false]
    intro c hc he
    have := cellsOf_range hc
    simp only [beq_iff_eq] at he
    omega
  unfold Memory.write
  rcases h with h | h
  · have hlo : Memory.read (m.filter (fun c => decide (c.1 < a))) x = Memory.read m x :=
      read_filter (fun c _ hx => by simp; omega)
    by_cases hany : (m.filter (fun c => decide (c.1 < a))).any (fun c => c.1 == x) = true
    · rw [read_append, if_pos hany, hlo]
    · rw [read_append, if_neg hany, read_append, if_neg (by rw [hmid]; simp), read_none, ← hlo, read_none (Bool.eq_false_of_not_eq_true hany)]
      exact any_filter_false (fun c _ hx => by simp; omega)
  · rw [read_append, if_neg, read_append, if_neg (by rw [hmid]; simp)]
    · exact read_filter (fun c _ hx => by simp; omega)
    · rw [any_filter_false (fun c _ hx => by simp; omega)]; simp

/-- A byte of the block reads as written. -/
theorem read_write_inside (m : Memory) (a : Nat) (bs : List Byte) (i : Nat) (h : i < bs.length) :
    Memory.read (Memory.write m a bs) (a + i) = bs.getD i 0#8 := by
  unfold Memory.write
  rw [read_append, if_neg, read_append]
  · by_cases hany : (cellsOf a bs).any (fun c => c.1 == a + i) = true
    · rw [if_pos hany, read_cellsOf]
    · rw [if_neg hany, read_none (any_filter_false (fun c _ hx => by simp; omega)), ← read_cellsOf a bs i, read_none (Bool.eq_false_of_not_eq_true hany)]
  · rw [any_filter_false (fun c _ hx => by simp; omega)]; simp

/-- Reading a block is reading its bytes. -/
theorem readFrom_nil : ∀ (a n : Nat), readFrom [] a n = List.replicate n 0#8
  | _, 0 => rfl
  | _, n + 1 => by simp [readFrom, readFrom_nil 0 n, List.replicate_succ]

end Sys2Proof.Machine
end

