-- ==== Sys2Proof/Laws/State.lean ====
section
/-! SUPPORT. One lemma per field per update of the state, and the table lookups after a write. -/

namespace Sys2Proof.Machine

/-! ### Tables -/

@[simp] theorem Tab.get?_nil {α : Type} (k : Nat) : Tab.get? ([] : Tab α) k = none := rfl
@[simp] theorem Tab.get?_set_self {α : Type} (t : Tab α) (k : Nat) (v : α) : (t.set k v).get? k = some v := by
  induction t with
  | nil => simp [Tab.set, Tab.get?]
  | cons e t ih =>
    obtain ⟨j, w⟩ := e
    unfold Tab.set
    split
    · simp [Tab.get?]
    · split
      · simp [Tab.get?]
      · rename_i h _; simp [Tab.get?, h, ih]
theorem Tab.get?_set_ne {α : Type} (t : Tab α) {k j : Nat} (v : α) (h : j ≠ k) : (t.set k v).get? j = t.get? j := by
  induction t with
  | nil => simp [Tab.set, Tab.get?, h]
  | cons e t ih =>
    obtain ⟨i, w⟩ := e
    unfold Tab.set
    split
    · rename_i hk; subst hk; simp [Tab.get?, h]
    · split
      · simp [Tab.get?, h]
      · simp only [Tab.get?, ih]
@[simp] theorem Tab.getD_set_self {α : Type} (t : Tab α) (k : Nat) (v d : α) : (t.set k v).getD k d = v := by simp [Tab.getD]
theorem Tab.getD_set_ne {α : Type} (t : Tab α) {k j : Nat} (v d : α) (h : j ≠ k) : (t.set k v).getD j d = t.getD j d := by
  simp [Tab.getD, Tab.get?_set_ne t v h]

/-! ### States -/

@[simp] theorem State.keep_mem (s : State) (c : Chip) : (s.keep c).mem = s.mem := rfl
@[simp] theorem State.keep_chip (s : State) (c : Chip) : (s.keep c).chip = c := rfl
@[simp] theorem State.keep_keep (s : State) (c d : Chip) : (s.keep c).keep d = s.keep d := rfl
@[simp] theorem State.commit_mem (s : State) (r : Res) : (s.commit r).mem = writeAll s.mem r.writes := rfl
@[simp] theorem State.commit_chip (s : State) (r : Res) : (s.commit r).chip = r.chip := rfl
@[simp] theorem writeAll_nil (m : Memory) : writeAll m [] = m := rfl
theorem State.commit_nil (s : State) (ch : Chip) : s.commit { chip := ch, writes := [] } = s.keep ch := rfl

/-! ### Parts -/

@[simp] theorem Chip.strand?_setStrand (ch : Chip) (c sl : Nat) (st : Strand) : (ch.setStrand c sl st).strand? c sl = some st := by
  simp [Chip.strand?, Chip.setStrand]
theorem Chip.strand?_setStrand_ne (ch : Chip) {c sl c' sl' : Nat} (st : Strand) (h : skey c' sl' ≠ skey c sl) :
    (ch.setStrand c sl st).strand? c' sl' = ch.strand? c' sl' := by
  simp [Chip.strand?, Chip.setStrand, Tab.get?_set_ne _ _ h]
@[simp] theorem Chip.owner_setOwner (ch : Chip) (o : Nat) (w : Owner) : (ch.setOwner o w).owner o = w := by simp [Chip.owner, Chip.setOwner]
theorem Chip.owner_setOwner_ne (ch : Chip) {o p : Nat} (w : Owner) (h : p ≠ o) : (ch.setOwner o w).owner p = ch.owner p := by
  simp [Chip.owner, Chip.setOwner, Tab.getD_set_ne _ _ _ h]
@[simp] theorem Chip.owner_setStrand (ch : Chip) (c sl o : Nat) (st : Strand) : (ch.setStrand c sl st).owner o = ch.owner o := rfl
@[simp] theorem Chip.core_setStrand (ch : Chip) (c sl k : Nat) (st : Strand) : (ch.setStrand c sl st).core k = ch.core k := rfl
@[simp] theorem Chip.core_setCore (ch : Chip) (c : Nat) (k : Core) : (ch.setCore c k).core c = k := by simp [Chip.core, Chip.setCore]
@[simp] theorem Chip.part_setPart (ch : Chip) (n : Nat) (p : Part) : (ch.setPart n p).part n = p := by simp [Chip.part, Chip.setPart]
@[simp] theorem Chip.chan_setChan (ch : Chip) (n : Nat) (k : Chan) : (ch.setChan n k).chan n = k := by simp [Chip.chan, Chip.setChan]
@[simp] theorem Chip.stk_setStk (ch : Chip) (n : Nat) (k : Stack) : (ch.setStk n k).stk n = k := by simp [Chip.stk, Chip.setStk]
@[simp] theorem Chip.work?_setWork (ch : Chip) (w : Nat) (k : Work) : (ch.setWork w k).work? w = some k := by simp [Chip.work?, Chip.setWork]
@[simp] theorem Strand.seq_setSeq (st : Strand) (q : SeqId) (v : Seq) : (st.setSeq q v).seq q = v := by cases q <;> rfl
theorem Strand.seq_setSeq_ne (st : Strand) {q r : SeqId} (v : Seq) (h : r ≠ q) : (st.setSeq q v).seq r = st.seq r := by
  cases q <;> cases r <;> first | rfl | exact absurd rfl h
@[simp] theorem Strand.seq_later (st : Strand) (q r : SeqId) (n : Nat) (l : List Land) (t : Option PTrap) :
    (st.later q n l t).seq r = st.seq r := by cases r <;> rfl
@[simp] theorem Strand.seq_laterX (st : Strand) (q r : SeqId) (n : Nat) (x : Reg) (v : Word) (t : Option Nat) (p : Bool) :
    (st.laterX q n x v t p).seq r = st.seq r := by cases r <;> rfl

/-! ### Fields -/

@[simp] theorem Chip.setStrand_gts (ch : Chip) (c sl : Nat) (st : Strand) : (ch.setStrand c sl st).gts = ch.gts := rfl
@[simp] theorem Chip.setStrand_devnum (ch : Chip) (c sl : Nat) (st : Strand) : (ch.setStrand c sl st).devnum = ch.devnum := rfl
@[simp] theorem Chip.setStrand_cores (ch : Chip) (c sl : Nat) (st : Strand) : (ch.setStrand c sl st).cores = ch.cores := rfl
@[simp] theorem Chip.setStrand_owners (ch : Chip) (c sl : Nat) (st : Strand) : (ch.setStrand c sl st).owners = ch.owners := rfl
@[simp] theorem Chip.setStrand_works (ch : Chip) (c sl : Nat) (st : Strand) : (ch.setStrand c sl st).works = ch.works := rfl
@[simp] theorem Chip.setStrand_workNext (ch : Chip) (c sl : Nat) (st : Strand) : (ch.setStrand c sl st).workNext = ch.workNext := rfl
@[simp] theorem Chip.setStrand_locks (ch : Chip) (c sl : Nat) (st : Strand) : (ch.setStrand c sl st).locks = ch.locks := rfl
@[simp] theorem Chip.setStrand_latches (ch : Chip) (c sl : Nat) (st : Strand) : (ch.setStrand c sl st).latches = ch.latches := rfl
@[simp] theorem Chip.setStrand_stores (ch : Chip) (c sl : Nat) (st : Strand) : (ch.setStrand c sl st).stores = ch.stores := rfl
@[simp] theorem Chip.setStrand_storeCounts (ch : Chip) (c sl : Nat) (st : Strand) : (ch.setStrand c sl st).storeCounts = ch.storeCounts := rfl
@[simp] theorem Chip.setStrand_chans (ch : Chip) (c sl : Nat) (st : Strand) : (ch.setStrand c sl st).chans = ch.chans := rfl
@[simp] theorem Chip.setStrand_hbm (ch : Chip) (c sl : Nat) (st : Strand) : (ch.setStrand c sl st).hbm = ch.hbm := rfl
@[simp] theorem Chip.setStrand_msel (ch : Chip) (c sl : Nat) (st : Strand) : (ch.setStrand c sl st).msel = ch.msel := rfl
@[simp] theorem Chip.setStrand_parts (ch : Chip) (c sl : Nat) (st : Strand) : (ch.setStrand c sl st).parts = ch.parts := rfl
@[simp] theorem Chip.setStrand_walks (ch : Chip) (c sl : Nat) (st : Strand) : (ch.setStrand c sl st).walks = ch.walks := rfl
@[simp] theorem Chip.setStrand_saved (ch : Chip) (c sl : Nat) (st : Strand) : (ch.setStrand c sl st).saved = ch.saved := rfl
@[simp] theorem Chip.setStrand_keyGen (ch : Chip) (c sl : Nat) (st : Strand) : (ch.setStrand c sl st).keyGen = ch.keyGen := rfl
@[simp] theorem Chip.setStrand_lineKeys (ch : Chip) (c sl : Nat) (st : Strand) : (ch.setStrand c sl st).lineKeys = ch.lineKeys := rfl
@[simp] theorem Chip.setStrand_poisoned (ch : Chip) (c sl : Nat) (st : Strand) : (ch.setStrand c sl st).poisoned = ch.poisoned := rfl
@[simp] theorem Chip.setStrand_sramBad (ch : Chip) (c sl : Nat) (st : Strand) : (ch.setStrand c sl st).sramBad = ch.sramBad := rfl
@[simp] theorem Chip.setStrand_late (ch : Chip) (c sl : Nat) (st : Strand) : (ch.setStrand c sl st).late = ch.late := rfl
@[simp] theorem Chip.setStrand_released (ch : Chip) (c sl : Nat) (st : Strand) : (ch.setStrand c sl st).released = ch.released := rfl
@[simp] theorem Chip.setStrand_extents (ch : Chip) (c sl : Nat) (st : Strand) : (ch.setStrand c sl st).extents = ch.extents := rfl
@[simp] theorem Chip.setStrand_accounts (ch : Chip) (c sl : Nat) (st : Strand) : (ch.setStrand c sl st).accounts = ch.accounts := rfl
@[simp] theorem Chip.setStrand_clocks (ch : Chip) (c sl : Nat) (st : Strand) : (ch.setStrand c sl st).clocks = ch.clocks := rfl
@[simp] theorem Chip.setStrand_host (ch : Chip) (c sl : Nat) (st : Strand) : (ch.setStrand c sl st).host = ch.host := rfl
@[simp] theorem Chip.setStrand_agenda (ch : Chip) (c sl : Nat) (st : Strand) : (ch.setStrand c sl st).agenda = ch.agenda := rfl
@[simp] theorem Chip.setStrand_inputs (ch : Chip) (c sl : Nat) (st : Strand) : (ch.setStrand c sl st).inputs = ch.inputs := rfl
@[simp] theorem Chip.setStrand_cur (ch : Chip) (c sl : Nat) (st : Strand) : (ch.setStrand c sl st).cur = ch.cur := rfl
@[simp] theorem Chip.setStrand_verdict (ch : Chip) (c sl : Nat) (st : Strand) : (ch.setStrand c sl st).verdict = ch.verdict := rfl
@[simp] theorem Chip.setStrand_fresh (ch : Chip) (c sl : Nat) (st : Strand) : (ch.setStrand c sl st).fresh = ch.fresh := rfl
@[simp] theorem Chip.setStrand_before (ch : Chip) (c sl : Nat) (st : Strand) : (ch.setStrand c sl st).before = ch.before := rfl
@[simp] theorem Chip.setCore_gts (ch : Chip) (c : Nat) (k : Core) : (ch.setCore c k).gts = ch.gts := rfl
@[simp] theorem Chip.setCore_devnum (ch : Chip) (c : Nat) (k : Core) : (ch.setCore c k).devnum = ch.devnum := rfl
@[simp] theorem Chip.setCore_owners (ch : Chip) (c : Nat) (k : Core) : (ch.setCore c k).owners = ch.owners := rfl
@[simp] theorem Chip.setCore_strands (ch : Chip) (c : Nat) (k : Core) : (ch.setCore c k).strands = ch.strands := rfl
@[simp] theorem Chip.setCore_works (ch : Chip) (c : Nat) (k : Core) : (ch.setCore c k).works = ch.works := rfl
@[simp] theorem Chip.setCore_workNext (ch : Chip) (c : Nat) (k : Core) : (ch.setCore c k).workNext = ch.workNext := rfl
@[simp] theorem Chip.setCore_locks (ch : Chip) (c : Nat) (k : Core) : (ch.setCore c k).locks = ch.locks := rfl
@[simp] theorem Chip.setCore_latches (ch : Chip) (c : Nat) (k : Core) : (ch.setCore c k).latches = ch.latches := rfl
@[simp] theorem Chip.setCore_stores (ch : Chip) (c : Nat) (k : Core) : (ch.setCore c k).stores = ch.stores := rfl
@[simp] theorem Chip.setCore_storeCounts (ch : Chip) (c : Nat) (k : Core) : (ch.setCore c k).storeCounts = ch.storeCounts := rfl
@[simp] theorem Chip.setCore_chans (ch : Chip) (c : Nat) (k : Core) : (ch.setCore c k).chans = ch.chans := rfl
@[simp] theorem Chip.setCore_hbm (ch : Chip) (c : Nat) (k : Core) : (ch.setCore c k).hbm = ch.hbm := rfl
@[simp] theorem Chip.setCore_msel (ch : Chip) (c : Nat) (k : Core) : (ch.setCore c k).msel = ch.msel := rfl
@[simp] theorem Chip.setCore_parts (ch : Chip) (c : Nat) (k : Core) : (ch.setCore c k).parts = ch.parts := rfl
@[simp] theorem Chip.setCore_walks (ch : Chip) (c : Nat) (k : Core) : (ch.setCore c k).walks = ch.walks := rfl
@[simp] theorem Chip.setCore_saved (ch : Chip) (c : Nat) (k : Core) : (ch.setCore c k).saved = ch.saved := rfl
@[simp] theorem Chip.setCore_keyGen (ch : Chip) (c : Nat) (k : Core) : (ch.setCore c k).keyGen = ch.keyGen := rfl
@[simp] theorem Chip.setCore_lineKeys (ch : Chip) (c : Nat) (k : Core) : (ch.setCore c k).lineKeys = ch.lineKeys := rfl
@[simp] theorem Chip.setCore_poisoned (ch : Chip) (c : Nat) (k : Core) : (ch.setCore c k).poisoned = ch.poisoned := rfl
@[simp] theorem Chip.setCore_sramBad (ch : Chip) (c : Nat) (k : Core) : (ch.setCore c k).sramBad = ch.sramBad := rfl
@[simp] theorem Chip.setCore_late (ch : Chip) (c : Nat) (k : Core) : (ch.setCore c k).late = ch.late := rfl
@[simp] theorem Chip.setCore_released (ch : Chip) (c : Nat) (k : Core) : (ch.setCore c k).released = ch.released := rfl
@[simp] theorem Chip.setCore_extents (ch : Chip) (c : Nat) (k : Core) : (ch.setCore c k).extents = ch.extents := rfl
@[simp] theorem Chip.setCore_accounts (ch : Chip) (c : Nat) (k : Core) : (ch.setCore c k).accounts = ch.accounts := rfl
@[simp] theorem Chip.setCore_clocks (ch : Chip) (c : Nat) (k : Core) : (ch.setCore c k).clocks = ch.clocks := rfl
@[simp] theorem Chip.setCore_host (ch : Chip) (c : Nat) (k : Core) : (ch.setCore c k).host = ch.host := rfl
@[simp] theorem Chip.setCore_agenda (ch : Chip) (c : Nat) (k : Core) : (ch.setCore c k).agenda = ch.agenda := rfl
@[simp] theorem Chip.setCore_inputs (ch : Chip) (c : Nat) (k : Core) : (ch.setCore c k).inputs = ch.inputs := rfl
@[simp] theorem Chip.setCore_cur (ch : Chip) (c : Nat) (k : Core) : (ch.setCore c k).cur = ch.cur := rfl
@[simp] theorem Chip.setCore_verdict (ch : Chip) (c : Nat) (k : Core) : (ch.setCore c k).verdict = ch.verdict := rfl
@[simp] theorem Chip.setCore_fresh (ch : Chip) (c : Nat) (k : Core) : (ch.setCore c k).fresh = ch.fresh := rfl
@[simp] theorem Chip.setCore_before (ch : Chip) (c : Nat) (k : Core) : (ch.setCore c k).before = ch.before := rfl
@[simp] theorem Chip.setOwner_gts (ch : Chip) (o : Nat) (w : Owner) : (ch.setOwner o w).gts = ch.gts := rfl
@[simp] theorem Chip.setOwner_devnum (ch : Chip) (o : Nat) (w : Owner) : (ch.setOwner o w).devnum = ch.devnum := rfl
@[simp] theorem Chip.setOwner_cores (ch : Chip) (o : Nat) (w : Owner) : (ch.setOwner o w).cores = ch.cores := rfl
@[simp] theorem Chip.setOwner_strands (ch : Chip) (o : Nat) (w : Owner) : (ch.setOwner o w).strands = ch.strands := rfl
@[simp] theorem Chip.setOwner_works (ch : Chip) (o : Nat) (w : Owner) : (ch.setOwner o w).works = ch.works := rfl
@[simp] theorem Chip.setOwner_workNext (ch : Chip) (o : Nat) (w : Owner) : (ch.setOwner o w).workNext = ch.workNext := rfl
@[simp] theorem Chip.setOwner_locks (ch : Chip) (o : Nat) (w : Owner) : (ch.setOwner o w).locks = ch.locks := rfl
@[simp] theorem Chip.setOwner_latches (ch : Chip) (o : Nat) (w : Owner) : (ch.setOwner o w).latches = ch.latches := rfl
@[simp] theorem Chip.setOwner_stores (ch : Chip) (o : Nat) (w : Owner) : (ch.setOwner o w).stores = ch.stores := rfl
@[simp] theorem Chip.setOwner_storeCounts (ch : Chip) (o : Nat) (w : Owner) : (ch.setOwner o w).storeCounts = ch.storeCounts := rfl
@[simp] theorem Chip.setOwner_chans (ch : Chip) (o : Nat) (w : Owner) : (ch.setOwner o w).chans = ch.chans := rfl
@[simp] theorem Chip.setOwner_hbm (ch : Chip) (o : Nat) (w : Owner) : (ch.setOwner o w).hbm = ch.hbm := rfl
@[simp] theorem Chip.setOwner_msel (ch : Chip) (o : Nat) (w : Owner) : (ch.setOwner o w).msel = ch.msel := rfl
@[simp] theorem Chip.setOwner_parts (ch : Chip) (o : Nat) (w : Owner) : (ch.setOwner o w).parts = ch.parts := rfl
@[simp] theorem Chip.setOwner_walks (ch : Chip) (o : Nat) (w : Owner) : (ch.setOwner o w).walks = ch.walks := rfl
@[simp] theorem Chip.setOwner_saved (ch : Chip) (o : Nat) (w : Owner) : (ch.setOwner o w).saved = ch.saved := rfl
@[simp] theorem Chip.setOwner_keyGen (ch : Chip) (o : Nat) (w : Owner) : (ch.setOwner o w).keyGen = ch.keyGen := rfl
@[simp] theorem Chip.setOwner_lineKeys (ch : Chip) (o : Nat) (w : Owner) : (ch.setOwner o w).lineKeys = ch.lineKeys := rfl
@[simp] theorem Chip.setOwner_poisoned (ch : Chip) (o : Nat) (w : Owner) : (ch.setOwner o w).poisoned = ch.poisoned := rfl
@[simp] theorem Chip.setOwner_sramBad (ch : Chip) (o : Nat) (w : Owner) : (ch.setOwner o w).sramBad = ch.sramBad := rfl
@[simp] theorem Chip.setOwner_late (ch : Chip) (o : Nat) (w : Owner) : (ch.setOwner o w).late = ch.late := rfl
@[simp] theorem Chip.setOwner_released (ch : Chip) (o : Nat) (w : Owner) : (ch.setOwner o w).released = ch.released := rfl
@[simp] theorem Chip.setOwner_extents (ch : Chip) (o : Nat) (w : Owner) : (ch.setOwner o w).extents = ch.extents := rfl
@[simp] theorem Chip.setOwner_accounts (ch : Chip) (o : Nat) (w : Owner) : (ch.setOwner o w).accounts = ch.accounts := rfl
@[simp] theorem Chip.setOwner_clocks (ch : Chip) (o : Nat) (w : Owner) : (ch.setOwner o w).clocks = ch.clocks := rfl
@[simp] theorem Chip.setOwner_host (ch : Chip) (o : Nat) (w : Owner) : (ch.setOwner o w).host = ch.host := rfl
@[simp] theorem Chip.setOwner_agenda (ch : Chip) (o : Nat) (w : Owner) : (ch.setOwner o w).agenda = ch.agenda := rfl
@[simp] theorem Chip.setOwner_inputs (ch : Chip) (o : Nat) (w : Owner) : (ch.setOwner o w).inputs = ch.inputs := rfl
@[simp] theorem Chip.setOwner_cur (ch : Chip) (o : Nat) (w : Owner) : (ch.setOwner o w).cur = ch.cur := rfl
@[simp] theorem Chip.setOwner_verdict (ch : Chip) (o : Nat) (w : Owner) : (ch.setOwner o w).verdict = ch.verdict := rfl
@[simp] theorem Chip.setOwner_fresh (ch : Chip) (o : Nat) (w : Owner) : (ch.setOwner o w).fresh = ch.fresh := rfl
@[simp] theorem Chip.setOwner_before (ch : Chip) (o : Nat) (w : Owner) : (ch.setOwner o w).before = ch.before := rfl
@[simp] theorem Chip.setPart_gts (ch : Chip) (n : Nat) (p : Part) : (ch.setPart n p).gts = ch.gts := rfl
@[simp] theorem Chip.setPart_devnum (ch : Chip) (n : Nat) (p : Part) : (ch.setPart n p).devnum = ch.devnum := rfl
@[simp] theorem Chip.setPart_cores (ch : Chip) (n : Nat) (p : Part) : (ch.setPart n p).cores = ch.cores := rfl
@[simp] theorem Chip.setPart_owners (ch : Chip) (n : Nat) (p : Part) : (ch.setPart n p).owners = ch.owners := rfl
@[simp] theorem Chip.setPart_strands (ch : Chip) (n : Nat) (p : Part) : (ch.setPart n p).strands = ch.strands := rfl
@[simp] theorem Chip.setPart_works (ch : Chip) (n : Nat) (p : Part) : (ch.setPart n p).works = ch.works := rfl
@[simp] theorem Chip.setPart_workNext (ch : Chip) (n : Nat) (p : Part) : (ch.setPart n p).workNext = ch.workNext := rfl
@[simp] theorem Chip.setPart_locks (ch : Chip) (n : Nat) (p : Part) : (ch.setPart n p).locks = ch.locks := rfl
@[simp] theorem Chip.setPart_latches (ch : Chip) (n : Nat) (p : Part) : (ch.setPart n p).latches = ch.latches := rfl
@[simp] theorem Chip.setPart_stores (ch : Chip) (n : Nat) (p : Part) : (ch.setPart n p).stores = ch.stores := rfl
@[simp] theorem Chip.setPart_storeCounts (ch : Chip) (n : Nat) (p : Part) : (ch.setPart n p).storeCounts = ch.storeCounts := rfl
@[simp] theorem Chip.setPart_chans (ch : Chip) (n : Nat) (p : Part) : (ch.setPart n p).chans = ch.chans := rfl
@[simp] theorem Chip.setPart_hbm (ch : Chip) (n : Nat) (p : Part) : (ch.setPart n p).hbm = ch.hbm := rfl
@[simp] theorem Chip.setPart_msel (ch : Chip) (n : Nat) (p : Part) : (ch.setPart n p).msel = ch.msel := rfl
@[simp] theorem Chip.setPart_walks (ch : Chip) (n : Nat) (p : Part) : (ch.setPart n p).walks = ch.walks := rfl
@[simp] theorem Chip.setPart_saved (ch : Chip) (n : Nat) (p : Part) : (ch.setPart n p).saved = ch.saved := rfl
@[simp] theorem Chip.setPart_keyGen (ch : Chip) (n : Nat) (p : Part) : (ch.setPart n p).keyGen = ch.keyGen := rfl
@[simp] theorem Chip.setPart_lineKeys (ch : Chip) (n : Nat) (p : Part) : (ch.setPart n p).lineKeys = ch.lineKeys := rfl
@[simp] theorem Chip.setPart_poisoned (ch : Chip) (n : Nat) (p : Part) : (ch.setPart n p).poisoned = ch.poisoned := rfl
@[simp] theorem Chip.setPart_sramBad (ch : Chip) (n : Nat) (p : Part) : (ch.setPart n p).sramBad = ch.sramBad := rfl
@[simp] theorem Chip.setPart_late (ch : Chip) (n : Nat) (p : Part) : (ch.setPart n p).late = ch.late := rfl
@[simp] theorem Chip.setPart_released (ch : Chip) (n : Nat) (p : Part) : (ch.setPart n p).released = ch.released := rfl
@[simp] theorem Chip.setPart_extents (ch : Chip) (n : Nat) (p : Part) : (ch.setPart n p).extents = ch.extents := rfl
@[simp] theorem Chip.setPart_accounts (ch : Chip) (n : Nat) (p : Part) : (ch.setPart n p).accounts = ch.accounts := rfl
@[simp] theorem Chip.setPart_clocks (ch : Chip) (n : Nat) (p : Part) : (ch.setPart n p).clocks = ch.clocks := rfl
@[simp] theorem Chip.setPart_host (ch : Chip) (n : Nat) (p : Part) : (ch.setPart n p).host = ch.host := rfl
@[simp] theorem Chip.setPart_agenda (ch : Chip) (n : Nat) (p : Part) : (ch.setPart n p).agenda = ch.agenda := rfl
@[simp] theorem Chip.setPart_inputs (ch : Chip) (n : Nat) (p : Part) : (ch.setPart n p).inputs = ch.inputs := rfl
@[simp] theorem Chip.setPart_cur (ch : Chip) (n : Nat) (p : Part) : (ch.setPart n p).cur = ch.cur := rfl
@[simp] theorem Chip.setPart_verdict (ch : Chip) (n : Nat) (p : Part) : (ch.setPart n p).verdict = ch.verdict := rfl
@[simp] theorem Chip.setPart_fresh (ch : Chip) (n : Nat) (p : Part) : (ch.setPart n p).fresh = ch.fresh := rfl
@[simp] theorem Chip.setPart_before (ch : Chip) (n : Nat) (p : Part) : (ch.setPart n p).before = ch.before := rfl
@[simp] theorem Chip.setChan_gts (ch : Chip) (n : Nat) (k : Chan) : (ch.setChan n k).gts = ch.gts := rfl
@[simp] theorem Chip.setChan_devnum (ch : Chip) (n : Nat) (k : Chan) : (ch.setChan n k).devnum = ch.devnum := rfl
@[simp] theorem Chip.setChan_cores (ch : Chip) (n : Nat) (k : Chan) : (ch.setChan n k).cores = ch.cores := rfl
@[simp] theorem Chip.setChan_owners (ch : Chip) (n : Nat) (k : Chan) : (ch.setChan n k).owners = ch.owners := rfl
@[simp] theorem Chip.setChan_strands (ch : Chip) (n : Nat) (k : Chan) : (ch.setChan n k).strands = ch.strands := rfl
@[simp] theorem Chip.setChan_works (ch : Chip) (n : Nat) (k : Chan) : (ch.setChan n k).works = ch.works := rfl
@[simp] theorem Chip.setChan_workNext (ch : Chip) (n : Nat) (k : Chan) : (ch.setChan n k).workNext = ch.workNext := rfl
@[simp] theorem Chip.setChan_locks (ch : Chip) (n : Nat) (k : Chan) : (ch.setChan n k).locks = ch.locks := rfl
@[simp] theorem Chip.setChan_latches (ch : Chip) (n : Nat) (k : Chan) : (ch.setChan n k).latches = ch.latches := rfl
@[simp] theorem Chip.setChan_stores (ch : Chip) (n : Nat) (k : Chan) : (ch.setChan n k).stores = ch.stores := rfl
@[simp] theorem Chip.setChan_storeCounts (ch : Chip) (n : Nat) (k : Chan) : (ch.setChan n k).storeCounts = ch.storeCounts := rfl
@[simp] theorem Chip.setChan_hbm (ch : Chip) (n : Nat) (k : Chan) : (ch.setChan n k).hbm = ch.hbm := rfl
@[simp] theorem Chip.setChan_msel (ch : Chip) (n : Nat) (k : Chan) : (ch.setChan n k).msel = ch.msel := rfl
@[simp] theorem Chip.setChan_parts (ch : Chip) (n : Nat) (k : Chan) : (ch.setChan n k).parts = ch.parts := rfl
@[simp] theorem Chip.setChan_walks (ch : Chip) (n : Nat) (k : Chan) : (ch.setChan n k).walks = ch.walks := rfl
@[simp] theorem Chip.setChan_saved (ch : Chip) (n : Nat) (k : Chan) : (ch.setChan n k).saved = ch.saved := rfl
@[simp] theorem Chip.setChan_keyGen (ch : Chip) (n : Nat) (k : Chan) : (ch.setChan n k).keyGen = ch.keyGen := rfl
@[simp] theorem Chip.setChan_lineKeys (ch : Chip) (n : Nat) (k : Chan) : (ch.setChan n k).lineKeys = ch.lineKeys := rfl
@[simp] theorem Chip.setChan_poisoned (ch : Chip) (n : Nat) (k : Chan) : (ch.setChan n k).poisoned = ch.poisoned := rfl
@[simp] theorem Chip.setChan_sramBad (ch : Chip) (n : Nat) (k : Chan) : (ch.setChan n k).sramBad = ch.sramBad := rfl
@[simp] theorem Chip.setChan_late (ch : Chip) (n : Nat) (k : Chan) : (ch.setChan n k).late = ch.late := rfl
@[simp] theorem Chip.setChan_released (ch : Chip) (n : Nat) (k : Chan) : (ch.setChan n k).released = ch.released := rfl
@[simp] theorem Chip.setChan_extents (ch : Chip) (n : Nat) (k : Chan) : (ch.setChan n k).extents = ch.extents := rfl
@[simp] theorem Chip.setChan_accounts (ch : Chip) (n : Nat) (k : Chan) : (ch.setChan n k).accounts = ch.accounts := rfl
@[simp] theorem Chip.setChan_clocks (ch : Chip) (n : Nat) (k : Chan) : (ch.setChan n k).clocks = ch.clocks := rfl
@[simp] theorem Chip.setChan_host (ch : Chip) (n : Nat) (k : Chan) : (ch.setChan n k).host = ch.host := rfl
@[simp] theorem Chip.setChan_agenda (ch : Chip) (n : Nat) (k : Chan) : (ch.setChan n k).agenda = ch.agenda := rfl
@[simp] theorem Chip.setChan_inputs (ch : Chip) (n : Nat) (k : Chan) : (ch.setChan n k).inputs = ch.inputs := rfl
@[simp] theorem Chip.setChan_cur (ch : Chip) (n : Nat) (k : Chan) : (ch.setChan n k).cur = ch.cur := rfl
@[simp] theorem Chip.setChan_verdict (ch : Chip) (n : Nat) (k : Chan) : (ch.setChan n k).verdict = ch.verdict := rfl
@[simp] theorem Chip.setChan_fresh (ch : Chip) (n : Nat) (k : Chan) : (ch.setChan n k).fresh = ch.fresh := rfl
@[simp] theorem Chip.setChan_before (ch : Chip) (n : Nat) (k : Chan) : (ch.setChan n k).before = ch.before := rfl
@[simp] theorem Chip.setStk_gts (ch : Chip) (n : Nat) (k : Stack) : (ch.setStk n k).gts = ch.gts := rfl
@[simp] theorem Chip.setStk_devnum (ch : Chip) (n : Nat) (k : Stack) : (ch.setStk n k).devnum = ch.devnum := rfl
@[simp] theorem Chip.setStk_cores (ch : Chip) (n : Nat) (k : Stack) : (ch.setStk n k).cores = ch.cores := rfl
@[simp] theorem Chip.setStk_owners (ch : Chip) (n : Nat) (k : Stack) : (ch.setStk n k).owners = ch.owners := rfl
@[simp] theorem Chip.setStk_strands (ch : Chip) (n : Nat) (k : Stack) : (ch.setStk n k).strands = ch.strands := rfl
@[simp] theorem Chip.setStk_works (ch : Chip) (n : Nat) (k : Stack) : (ch.setStk n k).works = ch.works := rfl
@[simp] theorem Chip.setStk_workNext (ch : Chip) (n : Nat) (k : Stack) : (ch.setStk n k).workNext = ch.workNext := rfl
@[simp] theorem Chip.setStk_locks (ch : Chip) (n : Nat) (k : Stack) : (ch.setStk n k).locks = ch.locks := rfl
@[simp] theorem Chip.setStk_latches (ch : Chip) (n : Nat) (k : Stack) : (ch.setStk n k).latches = ch.latches := rfl
@[simp] theorem Chip.setStk_stores (ch : Chip) (n : Nat) (k : Stack) : (ch.setStk n k).stores = ch.stores := rfl
@[simp] theorem Chip.setStk_storeCounts (ch : Chip) (n : Nat) (k : Stack) : (ch.setStk n k).storeCounts = ch.storeCounts := rfl
@[simp] theorem Chip.setStk_chans (ch : Chip) (n : Nat) (k : Stack) : (ch.setStk n k).chans = ch.chans := rfl
@[simp] theorem Chip.setStk_msel (ch : Chip) (n : Nat) (k : Stack) : (ch.setStk n k).msel = ch.msel := rfl
@[simp] theorem Chip.setStk_parts (ch : Chip) (n : Nat) (k : Stack) : (ch.setStk n k).parts = ch.parts := rfl
@[simp] theorem Chip.setStk_walks (ch : Chip) (n : Nat) (k : Stack) : (ch.setStk n k).walks = ch.walks := rfl
@[simp] theorem Chip.setStk_saved (ch : Chip) (n : Nat) (k : Stack) : (ch.setStk n k).saved = ch.saved := rfl
@[simp] theorem Chip.setStk_keyGen (ch : Chip) (n : Nat) (k : Stack) : (ch.setStk n k).keyGen = ch.keyGen := rfl
@[simp] theorem Chip.setStk_lineKeys (ch : Chip) (n : Nat) (k : Stack) : (ch.setStk n k).lineKeys = ch.lineKeys := rfl
@[simp] theorem Chip.setStk_poisoned (ch : Chip) (n : Nat) (k : Stack) : (ch.setStk n k).poisoned = ch.poisoned := rfl
@[simp] theorem Chip.setStk_sramBad (ch : Chip) (n : Nat) (k : Stack) : (ch.setStk n k).sramBad = ch.sramBad := rfl
@[simp] theorem Chip.setStk_late (ch : Chip) (n : Nat) (k : Stack) : (ch.setStk n k).late = ch.late := rfl
@[simp] theorem Chip.setStk_released (ch : Chip) (n : Nat) (k : Stack) : (ch.setStk n k).released = ch.released := rfl
@[simp] theorem Chip.setStk_extents (ch : Chip) (n : Nat) (k : Stack) : (ch.setStk n k).extents = ch.extents := rfl
@[simp] theorem Chip.setStk_accounts (ch : Chip) (n : Nat) (k : Stack) : (ch.setStk n k).accounts = ch.accounts := rfl
@[simp] theorem Chip.setStk_clocks (ch : Chip) (n : Nat) (k : Stack) : (ch.setStk n k).clocks = ch.clocks := rfl
@[simp] theorem Chip.setStk_host (ch : Chip) (n : Nat) (k : Stack) : (ch.setStk n k).host = ch.host := rfl
@[simp] theorem Chip.setStk_agenda (ch : Chip) (n : Nat) (k : Stack) : (ch.setStk n k).agenda = ch.agenda := rfl
@[simp] theorem Chip.setStk_inputs (ch : Chip) (n : Nat) (k : Stack) : (ch.setStk n k).inputs = ch.inputs := rfl
@[simp] theorem Chip.setStk_cur (ch : Chip) (n : Nat) (k : Stack) : (ch.setStk n k).cur = ch.cur := rfl
@[simp] theorem Chip.setStk_verdict (ch : Chip) (n : Nat) (k : Stack) : (ch.setStk n k).verdict = ch.verdict := rfl
@[simp] theorem Chip.setStk_fresh (ch : Chip) (n : Nat) (k : Stack) : (ch.setStk n k).fresh = ch.fresh := rfl
@[simp] theorem Chip.setStk_before (ch : Chip) (n : Nat) (k : Stack) : (ch.setStk n k).before = ch.before := rfl
@[simp] theorem Chip.setWork_gts (ch : Chip) (w : Nat) (k : Work) : (ch.setWork w k).gts = ch.gts := rfl
@[simp] theorem Chip.setWork_devnum (ch : Chip) (w : Nat) (k : Work) : (ch.setWork w k).devnum = ch.devnum := rfl
@[simp] theorem Chip.setWork_cores (ch : Chip) (w : Nat) (k : Work) : (ch.setWork w k).cores = ch.cores := rfl
@[simp] theorem Chip.setWork_owners (ch : Chip) (w : Nat) (k : Work) : (ch.setWork w k).owners = ch.owners := rfl
@[simp] theorem Chip.setWork_strands (ch : Chip) (w : Nat) (k : Work) : (ch.setWork w k).strands = ch.strands := rfl
@[simp] theorem Chip.setWork_workNext (ch : Chip) (w : Nat) (k : Work) : (ch.setWork w k).workNext = ch.workNext := rfl
@[simp] theorem Chip.setWork_locks (ch : Chip) (w : Nat) (k : Work) : (ch.setWork w k).locks = ch.locks := rfl
@[simp] theorem Chip.setWork_latches (ch : Chip) (w : Nat) (k : Work) : (ch.setWork w k).latches = ch.latches := rfl
@[simp] theorem Chip.setWork_stores (ch : Chip) (w : Nat) (k : Work) : (ch.setWork w k).stores = ch.stores := rfl
@[simp] theorem Chip.setWork_storeCounts (ch : Chip) (w : Nat) (k : Work) : (ch.setWork w k).storeCounts = ch.storeCounts := rfl
@[simp] theorem Chip.setWork_chans (ch : Chip) (w : Nat) (k : Work) : (ch.setWork w k).chans = ch.chans := rfl
@[simp] theorem Chip.setWork_hbm (ch : Chip) (w : Nat) (k : Work) : (ch.setWork w k).hbm = ch.hbm := rfl
@[simp] theorem Chip.setWork_msel (ch : Chip) (w : Nat) (k : Work) : (ch.setWork w k).msel = ch.msel := rfl
@[simp] theorem Chip.setWork_parts (ch : Chip) (w : Nat) (k : Work) : (ch.setWork w k).parts = ch.parts := rfl
@[simp] theorem Chip.setWork_walks (ch : Chip) (w : Nat) (k : Work) : (ch.setWork w k).walks = ch.walks := rfl
@[simp] theorem Chip.setWork_saved (ch : Chip) (w : Nat) (k : Work) : (ch.setWork w k).saved = ch.saved := rfl
@[simp] theorem Chip.setWork_keyGen (ch : Chip) (w : Nat) (k : Work) : (ch.setWork w k).keyGen = ch.keyGen := rfl
@[simp] theorem Chip.setWork_lineKeys (ch : Chip) (w : Nat) (k : Work) : (ch.setWork w k).lineKeys = ch.lineKeys := rfl
@[simp] theorem Chip.setWork_poisoned (ch : Chip) (w : Nat) (k : Work) : (ch.setWork w k).poisoned = ch.poisoned := rfl
@[simp] theorem Chip.setWork_sramBad (ch : Chip) (w : Nat) (k : Work) : (ch.setWork w k).sramBad = ch.sramBad := rfl
@[simp] theorem Chip.setWork_late (ch : Chip) (w : Nat) (k : Work) : (ch.setWork w k).late = ch.late := rfl
@[simp] theorem Chip.setWork_released (ch : Chip) (w : Nat) (k : Work) : (ch.setWork w k).released = ch.released := rfl
@[simp] theorem Chip.setWork_extents (ch : Chip) (w : Nat) (k : Work) : (ch.setWork w k).extents = ch.extents := rfl
@[simp] theorem Chip.setWork_accounts (ch : Chip) (w : Nat) (k : Work) : (ch.setWork w k).accounts = ch.accounts := rfl
@[simp] theorem Chip.setWork_clocks (ch : Chip) (w : Nat) (k : Work) : (ch.setWork w k).clocks = ch.clocks := rfl
@[simp] theorem Chip.setWork_host (ch : Chip) (w : Nat) (k : Work) : (ch.setWork w k).host = ch.host := rfl
@[simp] theorem Chip.setWork_agenda (ch : Chip) (w : Nat) (k : Work) : (ch.setWork w k).agenda = ch.agenda := rfl
@[simp] theorem Chip.setWork_inputs (ch : Chip) (w : Nat) (k : Work) : (ch.setWork w k).inputs = ch.inputs := rfl
@[simp] theorem Chip.setWork_cur (ch : Chip) (w : Nat) (k : Work) : (ch.setWork w k).cur = ch.cur := rfl
@[simp] theorem Chip.setWork_verdict (ch : Chip) (w : Nat) (k : Work) : (ch.setWork w k).verdict = ch.verdict := rfl
@[simp] theorem Chip.setWork_fresh (ch : Chip) (w : Nat) (k : Work) : (ch.setWork w k).fresh = ch.fresh := rfl
@[simp] theorem Chip.setWork_before (ch : Chip) (w : Nat) (k : Work) : (ch.setWork w k).before = ch.before := rfl

@[simp] theorem Chip.addWork_gts (ch : Chip) (k : Work) : (ch.addWork k).1.gts = ch.gts := rfl
@[simp] theorem Chip.addWork_devnum (ch : Chip) (k : Work) : (ch.addWork k).1.devnum = ch.devnum := rfl
@[simp] theorem Chip.addWork_cores (ch : Chip) (k : Work) : (ch.addWork k).1.cores = ch.cores := rfl
@[simp] theorem Chip.addWork_owners (ch : Chip) (k : Work) : (ch.addWork k).1.owners = ch.owners := rfl
@[simp] theorem Chip.addWork_strands (ch : Chip) (k : Work) : (ch.addWork k).1.strands = ch.strands := rfl
@[simp] theorem Chip.addWork_locks (ch : Chip) (k : Work) : (ch.addWork k).1.locks = ch.locks := rfl
@[simp] theorem Chip.addWork_latches (ch : Chip) (k : Work) : (ch.addWork k).1.latches = ch.latches := rfl
@[simp] theorem Chip.addWork_stores (ch : Chip) (k : Work) : (ch.addWork k).1.stores = ch.stores := rfl
@[simp] theorem Chip.addWork_storeCounts (ch : Chip) (k : Work) : (ch.addWork k).1.storeCounts = ch.storeCounts := rfl
@[simp] theorem Chip.addWork_chans (ch : Chip) (k : Work) : (ch.addWork k).1.chans = ch.chans := rfl
@[simp] theorem Chip.addWork_hbm (ch : Chip) (k : Work) : (ch.addWork k).1.hbm = ch.hbm := rfl
@[simp] theorem Chip.addWork_msel (ch : Chip) (k : Work) : (ch.addWork k).1.msel = ch.msel := rfl
@[simp] theorem Chip.addWork_parts (ch : Chip) (k : Work) : (ch.addWork k).1.parts = ch.parts := rfl
@[simp] theorem Chip.addWork_walks (ch : Chip) (k : Work) : (ch.addWork k).1.walks = ch.walks := rfl
@[simp] theorem Chip.addWork_saved (ch : Chip) (k : Work) : (ch.addWork k).1.saved = ch.saved := rfl
@[simp] theorem Chip.addWork_keyGen (ch : Chip) (k : Work) : (ch.addWork k).1.keyGen = ch.keyGen := rfl
@[simp] theorem Chip.addWork_lineKeys (ch : Chip) (k : Work) : (ch.addWork k).1.lineKeys = ch.lineKeys := rfl
@[simp] theorem Chip.addWork_poisoned (ch : Chip) (k : Work) : (ch.addWork k).1.poisoned = ch.poisoned := rfl
@[simp] theorem Chip.addWork_sramBad (ch : Chip) (k : Work) : (ch.addWork k).1.sramBad = ch.sramBad := rfl
@[simp] theorem Chip.addWork_late (ch : Chip) (k : Work) : (ch.addWork k).1.late = ch.late := rfl
@[simp] theorem Chip.addWork_released (ch : Chip) (k : Work) : (ch.addWork k).1.released = ch.released := rfl
@[simp] theorem Chip.addWork_extents (ch : Chip) (k : Work) : (ch.addWork k).1.extents = ch.extents := rfl
@[simp] theorem Chip.addWork_accounts (ch : Chip) (k : Work) : (ch.addWork k).1.accounts = ch.accounts := rfl
@[simp] theorem Chip.addWork_clocks (ch : Chip) (k : Work) : (ch.addWork k).1.clocks = ch.clocks := rfl
@[simp] theorem Chip.addWork_host (ch : Chip) (k : Work) : (ch.addWork k).1.host = ch.host := rfl
@[simp] theorem Chip.addWork_agenda (ch : Chip) (k : Work) : (ch.addWork k).1.agenda = ch.agenda := rfl
@[simp] theorem Chip.addWork_inputs (ch : Chip) (k : Work) : (ch.addWork k).1.inputs = ch.inputs := rfl
@[simp] theorem Chip.addWork_cur (ch : Chip) (k : Work) : (ch.addWork k).1.cur = ch.cur := rfl
@[simp] theorem Chip.addWork_verdict (ch : Chip) (k : Work) : (ch.addWork k).1.verdict = ch.verdict := rfl
@[simp] theorem Chip.addWork_fresh (ch : Chip) (k : Work) : (ch.addWork k).1.fresh = ch.fresh := rfl
@[simp] theorem Chip.addWork_before (ch : Chip) (k : Work) : (ch.addWork k).1.before = ch.before := rfl
@[simp] theorem Chip.addWork_snd (ch : Chip) (k : Work) : (ch.addWork k).2 = ch.workNext := rfl
@[simp] theorem Chip.addWork_workNext (ch : Chip) (k : Work) : (ch.addWork k).1.workNext = ch.workNext + 1 := rfl
@[simp] theorem Chip.addWork_works (ch : Chip) (k : Work) : (ch.addWork k).1.works = ch.works.set ch.workNext k := rfl

@[simp] theorem Strand.setSeq_place (s : Strand) (q : SeqId) (v : Seq) : (s.setSeq q v).place = s.place := by cases q <;> rfl
@[simp] theorem Strand.setSeq_run (s : Strand) (q : SeqId) (v : Seq) : (s.setSeq q v).run = s.run := by cases q <;> rfl
@[simp] theorem Strand.setSeq_bank (s : Strand) (q : SeqId) (v : Seq) : (s.setSeq q v).bank = s.bank := by cases q <;> rfl
@[simp] theorem Strand.setSeq_bankPoison (s : Strand) (q : SeqId) (v : Seq) : (s.setSeq q v).bankPoison = s.bankPoison := by cases q <;> rfl
@[simp] theorem Strand.setSeq_bankTags (s : Strand) (q : SeqId) (v : Seq) : (s.setSeq q v).bankTags = s.bankTags := by cases q <;> rfl
@[simp] theorem Strand.setSeq_sh (s : Strand) (q : SeqId) (v : Seq) : (s.setSeq q v).sh = s.sh := by cases q <;> rfl
@[simp] theorem Strand.setSeq_csr (s : Strand) (q : SeqId) (v : Seq) : (s.setSeq q v).csr = s.csr := by cases q <;> rfl
@[simp] theorem Strand.setSeq_due (s : Strand) (q : SeqId) (v : Seq) : (s.setSeq q v).due = s.due := by cases q <;> rfl
@[simp] theorem Strand.setSeq_traps (s : Strand) (q : SeqId) (v : Seq) : (s.setSeq q v).traps = s.traps := by cases q <;> rfl
@[simp] theorem Strand.setSeq_lane (s : Strand) (q : SeqId) (v : Seq) : (s.setSeq q v).lane = s.lane := by cases q <;> rfl
@[simp] theorem Strand.setSeq_monitors (s : Strand) (q : SeqId) (v : Seq) : (s.setSeq q v).monitors = s.monitors := by cases q <;> rfl
@[simp] theorem Strand.setSeq_regions (s : Strand) (q : SeqId) (v : Seq) : (s.setSeq q v).regions = s.regions := by cases q <;> rfl
@[simp] theorem Strand.setSeq_replay (s : Strand) (q : SeqId) (v : Seq) : (s.setSeq q v).replay = s.replay := by cases q <;> rfl
@[simp] theorem Strand.setSeq_vclock (s : Strand) (q : SeqId) (v : Seq) : (s.setSeq q v).vclock = s.vclock := by cases q <;> rfl
@[simp] theorem Strand.setSeq_vseen (s : Strand) (q : SeqId) (v : Seq) : (s.setSeq q v).vseen = s.vseen := by cases q <;> rfl
@[simp] theorem Strand.setSeq_vlate (s : Strand) (q : SeqId) (v : Seq) : (s.setSeq q v).vlate = s.vlate := by cases q <;> rfl
@[simp] theorem Strand.setSeq_vbytes (s : Strand) (q : SeqId) (v : Seq) : (s.setSeq q v).vbytes = s.vbytes := by cases q <;> rfl
@[simp] theorem Strand.setSeq_bLatch (s : Strand) (q : SeqId) (v : Seq) : (s.setSeq q v).bLatch = s.bLatch := by cases q <;> rfl
@[simp] theorem Strand.later_place (s : Strand) (q : SeqId) (n : Nat) (l : List Land) (t : Option PTrap) : (s.later q n l t).place = s.place := rfl
@[simp] theorem Strand.laterX_place (s : Strand) (q : SeqId) (n : Nat) (r : Reg) (v : Word) (t : Option Nat) (p : Bool) : (s.laterX q n r v t p).place = s.place := rfl
@[simp] theorem Strand.later_run (s : Strand) (q : SeqId) (n : Nat) (l : List Land) (t : Option PTrap) : (s.later q n l t).run = s.run := rfl
@[simp] theorem Strand.laterX_run (s : Strand) (q : SeqId) (n : Nat) (r : Reg) (v : Word) (t : Option Nat) (p : Bool) : (s.laterX q n r v t p).run = s.run := rfl
@[simp] theorem Strand.later_ct (s : Strand) (q : SeqId) (n : Nat) (l : List Land) (t : Option PTrap) : (s.later q n l t).ct = s.ct := rfl
@[simp] theorem Strand.laterX_ct (s : Strand) (q : SeqId) (n : Nat) (r : Reg) (v : Word) (t : Option Nat) (p : Bool) : (s.laterX q n r v t p).ct = s.ct := rfl
@[simp] theorem Strand.later_ld (s : Strand) (q : SeqId) (n : Nat) (l : List Land) (t : Option PTrap) : (s.later q n l t).ld = s.ld := rfl
@[simp] theorem Strand.laterX_ld (s : Strand) (q : SeqId) (n : Nat) (r : Reg) (v : Word) (t : Option Nat) (p : Bool) : (s.laterX q n r v t p).ld = s.ld := rfl
@[simp] theorem Strand.later_cp (s : Strand) (q : SeqId) (n : Nat) (l : List Land) (t : Option PTrap) : (s.later q n l t).cp = s.cp := rfl
@[simp] theorem Strand.laterX_cp (s : Strand) (q : SeqId) (n : Nat) (r : Reg) (v : Word) (t : Option Nat) (p : Bool) : (s.laterX q n r v t p).cp = s.cp := rfl
@[simp] theorem Strand.later_st (s : Strand) (q : SeqId) (n : Nat) (l : List Land) (t : Option PTrap) : (s.later q n l t).st = s.st := rfl
@[simp] theorem Strand.laterX_st (s : Strand) (q : SeqId) (n : Nat) (r : Reg) (v : Word) (t : Option Nat) (p : Bool) : (s.laterX q n r v t p).st = s.st := rfl
@[simp] theorem Strand.later_bank (s : Strand) (q : SeqId) (n : Nat) (l : List Land) (t : Option PTrap) : (s.later q n l t).bank = s.bank := rfl
@[simp] theorem Strand.laterX_bank (s : Strand) (q : SeqId) (n : Nat) (r : Reg) (v : Word) (t : Option Nat) (p : Bool) : (s.laterX q n r v t p).bank = s.bank := rfl
@[simp] theorem Strand.later_bankPoison (s : Strand) (q : SeqId) (n : Nat) (l : List Land) (t : Option PTrap) : (s.later q n l t).bankPoison = s.bankPoison := rfl
@[simp] theorem Strand.laterX_bankPoison (s : Strand) (q : SeqId) (n : Nat) (r : Reg) (v : Word) (t : Option Nat) (p : Bool) : (s.laterX q n r v t p).bankPoison = s.bankPoison := rfl
@[simp] theorem Strand.later_bankTags (s : Strand) (q : SeqId) (n : Nat) (l : List Land) (t : Option PTrap) : (s.later q n l t).bankTags = s.bankTags := rfl
@[simp] theorem Strand.laterX_bankTags (s : Strand) (q : SeqId) (n : Nat) (r : Reg) (v : Word) (t : Option Nat) (p : Bool) : (s.laterX q n r v t p).bankTags = s.bankTags := rfl
@[simp] theorem Strand.later_sh (s : Strand) (q : SeqId) (n : Nat) (l : List Land) (t : Option PTrap) : (s.later q n l t).sh = s.sh := rfl
@[simp] theorem Strand.laterX_sh (s : Strand) (q : SeqId) (n : Nat) (r : Reg) (v : Word) (t : Option Nat) (p : Bool) : (s.laterX q n r v t p).sh = s.sh := rfl
@[simp] theorem Strand.later_csr (s : Strand) (q : SeqId) (n : Nat) (l : List Land) (t : Option PTrap) : (s.later q n l t).csr = s.csr := rfl
@[simp] theorem Strand.laterX_csr (s : Strand) (q : SeqId) (n : Nat) (r : Reg) (v : Word) (t : Option Nat) (p : Bool) : (s.laterX q n r v t p).csr = s.csr := rfl
@[simp] theorem Strand.later_traps (s : Strand) (q : SeqId) (n : Nat) (l : List Land) (t : Option PTrap) : (s.later q n l t).traps = s.traps := rfl
@[simp] theorem Strand.laterX_traps (s : Strand) (q : SeqId) (n : Nat) (r : Reg) (v : Word) (t : Option Nat) (p : Bool) : (s.laterX q n r v t p).traps = s.traps := rfl
@[simp] theorem Strand.later_lane (s : Strand) (q : SeqId) (n : Nat) (l : List Land) (t : Option PTrap) : (s.later q n l t).lane = s.lane := rfl
@[simp] theorem Strand.laterX_lane (s : Strand) (q : SeqId) (n : Nat) (r : Reg) (v : Word) (t : Option Nat) (p : Bool) : (s.laterX q n r v t p).lane = s.lane := rfl
@[simp] theorem Strand.later_monitors (s : Strand) (q : SeqId) (n : Nat) (l : List Land) (t : Option PTrap) : (s.later q n l t).monitors = s.monitors := rfl
@[simp] theorem Strand.laterX_monitors (s : Strand) (q : SeqId) (n : Nat) (r : Reg) (v : Word) (t : Option Nat) (p : Bool) : (s.laterX q n r v t p).monitors = s.monitors := rfl
@[simp] theorem Strand.later_regions (s : Strand) (q : SeqId) (n : Nat) (l : List Land) (t : Option PTrap) : (s.later q n l t).regions = s.regions := rfl
@[simp] theorem Strand.laterX_regions (s : Strand) (q : SeqId) (n : Nat) (r : Reg) (v : Word) (t : Option Nat) (p : Bool) : (s.laterX q n r v t p).regions = s.regions := rfl
@[simp] theorem Strand.later_replay (s : Strand) (q : SeqId) (n : Nat) (l : List Land) (t : Option PTrap) : (s.later q n l t).replay = s.replay := rfl
@[simp] theorem Strand.laterX_replay (s : Strand) (q : SeqId) (n : Nat) (r : Reg) (v : Word) (t : Option Nat) (p : Bool) : (s.laterX q n r v t p).replay = s.replay := rfl
@[simp] theorem Strand.later_vclock (s : Strand) (q : SeqId) (n : Nat) (l : List Land) (t : Option PTrap) : (s.later q n l t).vclock = s.vclock := rfl
@[simp] theorem Strand.laterX_vclock (s : Strand) (q : SeqId) (n : Nat) (r : Reg) (v : Word) (t : Option Nat) (p : Bool) : (s.laterX q n r v t p).vclock = s.vclock := rfl
@[simp] theorem Strand.later_vseen (s : Strand) (q : SeqId) (n : Nat) (l : List Land) (t : Option PTrap) : (s.later q n l t).vseen = s.vseen := rfl
@[simp] theorem Strand.laterX_vseen (s : Strand) (q : SeqId) (n : Nat) (r : Reg) (v : Word) (t : Option Nat) (p : Bool) : (s.laterX q n r v t p).vseen = s.vseen := rfl
@[simp] theorem Strand.later_vlate (s : Strand) (q : SeqId) (n : Nat) (l : List Land) (t : Option PTrap) : (s.later q n l t).vlate = s.vlate := rfl
@[simp] theorem Strand.laterX_vlate (s : Strand) (q : SeqId) (n : Nat) (r : Reg) (v : Word) (t : Option Nat) (p : Bool) : (s.laterX q n r v t p).vlate = s.vlate := rfl
@[simp] theorem Strand.later_vbytes (s : Strand) (q : SeqId) (n : Nat) (l : List Land) (t : Option PTrap) : (s.later q n l t).vbytes = s.vbytes := rfl
@[simp] theorem Strand.laterX_vbytes (s : Strand) (q : SeqId) (n : Nat) (r : Reg) (v : Word) (t : Option Nat) (p : Bool) : (s.laterX q n r v t p).vbytes = s.vbytes := rfl
@[simp] theorem Strand.later_bLatch (s : Strand) (q : SeqId) (n : Nat) (l : List Land) (t : Option PTrap) : (s.later q n l t).bLatch = s.bLatch := rfl
@[simp] theorem Strand.laterX_bLatch (s : Strand) (q : SeqId) (n : Nat) (r : Reg) (v : Word) (t : Option Nat) (p : Bool) : (s.laterX q n r v t p).bLatch = s.bLatch := rfl

end Sys2Proof.Machine
end

