-- ==== Sys2Proof/Laws/Issue.lean ====
section
/-! SUPPORT. Everything issuing a word can do: it always answers a next state; with no effect of its own in memory it
leaves memory as it was; when nothing stops it, the state is the word's effect with the bookkeeping of an issue. -/

namespace Sys2Proof.Machine

@[simp] theorem State.issuedAs_mem (s : State) (h opc cls ch f w) : (s.issuedAs h opc cls ch f w).mem = s.mem := rfl
@[simp] theorem State.issuedWith_mem (s : State) (h opc cls st) : (s.issuedWith h opc cls st).mem = s.mem := rfl
@[simp] theorem State.trapped_mem (s : State) (st c fa tv) : (s.trapped st c fa tv).mem = s.mem := rfl
@[simp] theorem State.blockedAt_mem (s : State) (l w ch) : (s.blockedAt l w ch).mem = s.mem := rfl
@[simp] theorem State.ctx_st (s : State) (st : Strand) : (s.ctx st).st = st := rfl
@[simp] theorem State.ctx_q (s : State) (st : Strand) : (s.ctx st).q = s.chip.cur.q := rfl
@[simp] theorem State.ctx_core (s : State) (st : Strand) : (s.ctx st).core = s.chip.cur.core := rfl
@[simp] theorem State.ctx_slot (s : State) (st : Strand) : (s.ctx st).slot = s.chip.cur.slot := rfl
@[simp] theorem State.ctx_mem (s : State) (st : Strand) : (s.ctx st).mem = s.mem := rfl
@[simp] theorem State.ctx_chip (s : State) (st : Strand) : (s.ctx st).chip = s.chip := rfl

/-- Only opcode and class of a word's entry matter once it issues. -/
theorem retire_info (m : Memory) (ch : Chip) (c sl q h f w) (i j : Info) (ho : i.opc = j.opc) (hc : i.cls = j.cls) :
    retire m ch c sl q h i f w = retire m ch c sl q h j f w := by
  unfold retire; rw [ho, hc]

/-- A word that nothing stops issues with the effect its body gives. -/
theorem issue_go {s : State} {h : Head} {i : Info} {pre : Ctx → Option Cause} {body : Ctx → Effect} {q : SeqId} {st : Strand}
    {r : Res} {f : Flow} {w : HeadWait} (rd : Ready s h q st) (hg : i.grp.has q = true) (hd : i.denied st = false)
    (ho : i.ok = true) (hp : pre (s.ctx st) = none) (hb : body (s.ctx st) = .go r f w) :
    issue s h i pre body = .next (s.commit { r with chip := s.retired h i.opc i.cls r.chip f w }) := by
  obtain ⟨hs, hq, ht, ha⟩ := rd
  subst hq
  unfold issue
  simp only [State.ctx] at hp hb
  simp only [hs, hg, hd, ho, hp, hb, ht, ha, Bool.not_true, Bool.false_and, if_false, Bool.false_eq_true]
  simp only [State.retired]
  rw [retire_info _ _ _ _ _ _ _ _ i { grp := .any, cls := i.cls, ok := true, opc := i.opc } rfl rfl]

/-- A word that nothing stops, with a precise fault of its own, traps. -/
theorem issue_fault {s : State} {h : Head} {i : Info} {pre : Ctx → Option Cause} {body : Ctx → Effect} {q : SeqId} {st : Strand}
    {c : Cause} {fa tv : Word} (rd : Ready s h q st) (hg : i.grp.has q = true) (hd : i.denied st = false)
    (ho : i.ok = true) (hp : pre (s.ctx st) = none) (hb : body (s.ctx st) = .fault c fa tv) :
    issue s h i pre body = .next (s.trapped st c fa tv) := by
  obtain ⟨hs, hq, ht, ha⟩ := rd
  subst hq
  unfold issue
  simp only [State.ctx] at hp hb
  simp only [hs, hg, hd, ho, hp, hb, ht, ha, Bool.not_true, Bool.false_and, if_false, Bool.false_eq_true, State.trapped]

/-- A word that blocks. -/
theorem issue_block {s : State} {h : Head} {i : Info} {pre : Ctx → Option Cause} {body : Ctx → Effect} {q : SeqId} {st : Strand}
    {l : Option Cause} {w : HeadWait} {ch : Chip} (rd : Ready s h q st) (hg : i.grp.has q = true) (hd : i.denied st = false)
    (ho : i.ok = true) (hp : pre (s.ctx st) = none) (hb : body (s.ctx st) = .block l w ch) :
    issue s h i pre body = .next (s.blockedAt l w ch) := by
  obtain ⟨hs, hq, ht, ha⟩ := rd
  subst hq
  unfold issue
  simp only [State.ctx] at hp hb
  simp only [hs, hg, hd, ho, hp, hb, ht, ha, Bool.not_true, Bool.false_and, if_false, Bool.false_eq_true, State.blockedAt]

/-- Every state a word can leave: unchanged, or a machine kept with memory, or its effect committed. -/
theorem issue_cases {s t : State} {h : Head} {i : Info} {pre : Ctx → Option Cause} {body : Ctx → Effect}
    (e : issue s h i pre body = .next t) :
    t.mem = s.mem ∨ ∃ st r f w, s.chip.strand? s.chip.cur.core s.chip.cur.slot = some st ∧ body (s.ctx st) = .go r f w ∧
      t.mem = writeAll s.mem r.writes := by
  cases hs : s.chip.strand? s.chip.cur.core s.chip.cur.slot with
  | none => simp only [issue, hs] at e; cases e; exact .inl rfl
  | some st =>
    simp only [issue, hs] at e
    repeat' split at e
    all_goals first
      | (cases e; exact .inl rfl)
      | (rename_i r f w hb _; cases e; exact .inr ⟨st, r, f, w, rfl, hb, rfl⟩)

/-- A word always answers a next state. -/
theorem issue_next (s : State) (h : Head) (i : Info) (pre : Ctx → Option Cause) (body : Ctx → Effect) :
    ∃ t, issue s h i pre body = .next t := by
  cases hs : s.chip.strand? s.chip.cur.core s.chip.cur.slot with
  | none => exact ⟨s, by simp only [issue, hs]⟩
  | some st =>
    simp only [issue, hs]
    repeat' split
    all_goals exact ⟨_, rfl⟩

/-- A word whose effect writes no memory leaves memory as it was. -/
theorem issue_mem {s t : State} {h : Head} {i : Info} {pre : Ctx → Option Cause} {body : Ctx → Effect}
    (hw : ∀ x r f w, body x = .go r f w → r.writes = []) (e : issue s h i pre body = .next t) : t.mem = s.mem := by
  rcases issue_cases e with hm | ⟨st, r, f, w, -, hb, hm⟩
  · exact hm
  · rw [hm, hw _ _ _ _ hb]; rfl

/-- Issuing keeps memory canonical. -/
theorem issue_wf {s t : State} {h : Head} {i : Info} {pre : Ctx → Option Cause} {body : Ctx → Effect} (hw : s.mem.wf = true)
    (e : issue s h i pre body = .next t) : t.mem.wf = true := by
  rcases issue_cases e with hm | ⟨st, r, f, w, -, -, hm⟩
  · rw [hm]; exact hw
  · rw [hm]; exact writeAll_wf _ hw

end Sys2Proof.Machine
end

