-- ==== Sys2Proof/Laws/PerInstr.lean ====
section
/-! SUPPORT. Per instruction: the decoder reads back what the encoder writes (04 R58 to R66, R76). -/

namespace Sys2Proof.Laws.RoundTrip

/-- A well-formed instruction with a word decodes from that word. -/
def Statement (i : Instr) : Prop := i.WF → ∀ w, encode i = some w → decode w = some i

theorem of_parse {i : Instr} {w : IWord} (he : encode i = some w) (hp : parse w = some i) : Statement i := by
  intro hw v hv
  obtain rfl : w = v := Option.some.inj (he.symm.trans hv)
  have hw' : i.wf = true := hw
  simp [decode, hp, hw', he]

theorem nop (h : Head) : Statement (.nop h) :=
  of_parse rfl (by simp [parse, parseScalar])
theorem add (h : Head) (xd xa xb : Reg) : Statement (.add h xd xa xb) :=
  of_parse rfl (by simp [parse, parseScalar])
theorem sub (h : Head) (xd xa xb : Reg) : Statement (.sub h xd xa xb) :=
  of_parse rfl (by simp [parse, parseScalar])
theorem and (h : Head) (xd xa xb : Reg) : Statement (.and h xd xa xb) :=
  of_parse rfl (by simp [parse, parseScalar])
theorem or (h : Head) (xd xa xb : Reg) : Statement (.or h xd xa xb) :=
  of_parse rfl (by simp [parse, parseScalar])
theorem xor (h : Head) (xd xa xb : Reg) : Statement (.xor h xd xa xb) :=
  of_parse rfl (by simp [parse, parseScalar])
theorem andn (h : Head) (xd xa xb : Reg) : Statement (.andn h xd xa xb) :=
  of_parse rfl (by simp [parse, parseScalar])
theorem shl (h : Head) (xd xa xb : Reg) : Statement (.shl h xd xa xb) :=
  of_parse rfl (by simp [parse, parseScalar])
theorem shr (h : Head) (xd xa xb : Reg) : Statement (.shr h xd xa xb) :=
  of_parse rfl (by simp [parse, parseScalar])
theorem sra (h : Head) (xd xa xb : Reg) : Statement (.sra h xd xa xb) :=
  of_parse rfl (by simp [parse, parseScalar])
theorem min (h : Head) (xd xa xb : Reg) : Statement (.min h xd xa xb) :=
  of_parse rfl (by simp [parse, parseScalar])
theorem max (h : Head) (xd xa xb : Reg) : Statement (.max h xd xa xb) :=
  of_parse rfl (by simp [parse, parseScalar])
theorem minn (h : Head) (xd xa xb : Reg) : Statement (.minn h xd xa xb) :=
  of_parse rfl (by simp [parse, parseScalar])
theorem maxn (h : Head) (xd xa xb : Reg) : Statement (.maxn h xd xa xb) :=
  of_parse rfl (by simp [parse, parseScalar])
theorem slt (h : Head) (xd xa xb : Reg) : Statement (.slt h xd xa xb) :=
  of_parse rfl (by simp [parse, parseScalar])
theorem sltn (h : Head) (xd xa xb : Reg) : Statement (.sltn h xd xa xb) :=
  of_parse rfl (by simp [parse, parseScalar])
theorem addi (h : Head) (xd xa : Reg) (imm : BitVec 48) : Statement (.addi h xd xa imm) :=
  of_parse rfl (by simp [parse, parseScalar])
theorem mul (h : Head) (xd xa xb : Reg) : Statement (.mul h xd xa xb) :=
  of_parse rfl (by simp [parse, parseScalar])
theorem mulh (h : Head) (xd xa xb : Reg) : Statement (.mulh h xd xa xb) :=
  of_parse rfl (by simp [parse, parseScalar])
theorem mulhn (h : Head) (xd xa xb : Reg) : Statement (.mulhn h xd xa xb) :=
  of_parse rfl (by simp [parse, parseScalar])
theorem div (h : Head) (xd xa xb : Reg) : Statement (.div h xd xa xb) :=
  of_parse rfl (by simp [parse, parseScalar])
theorem divn (h : Head) (xd xa xb : Reg) : Statement (.divn h xd xa xb) :=
  of_parse rfl (by simp [parse, parseScalar])
theorem rem (h : Head) (xd xa xb : Reg) : Statement (.rem h xd xa xb) :=
  of_parse rfl (by simp [parse, parseScalar])
theorem remn (h : Head) (xd xa xb : Reg) : Statement (.remn h xd xa xb) :=
  of_parse rfl (by simp [parse, parseScalar])
theorem li (h : Head) (xd : Reg) (imm : BitVec 48) : Statement (.li h xd imm) :=
  of_parse rfl (by simp [parse, parseScalar])
theorem lih (h : Head) (xd : Reg) (imm : BitVec 16) : Statement (.lih h xd imm) :=
  of_parse rfl (by
    simp [parse, parseScalar]
    repeat (first | rw [extract_high _ _ (by decide)] | rw [extract_low _ _ (by decide)])
    all_goals simp)
theorem clz (h : Head) (xd xa : Reg) : Statement (.clz h xd xa) :=
  of_parse rfl (by simp [parse, parseScalar])
theorem popc (h : Head) (xd xa : Reg) : Statement (.popc h xd xa) :=
  of_parse rfl (by simp [parse, parseScalar])
theorem sext (h : Head) (xd xa : Reg) (w : BitVec 7) : Statement (.sext h xd xa w) :=
  of_parse rfl (by
    simp [parse, parseScalar]
    repeat (first | rw [extract_high _ _ (by decide)] | rw [extract_low _ _ (by decide)])
    all_goals simp)
theorem zext (h : Head) (xd xa : Reg) (w : BitVec 7) : Statement (.zext h xd xa w) :=
  of_parse rfl (by
    simp [parse, parseScalar]
    repeat (first | rw [extract_high _ _ (by decide)] | rw [extract_low _ _ (by decide)])
    all_goals simp)
theorem pcmp (h : Head) (pd : BitVec 3) (xa xb : Reg) (cond : Cond) : Statement (.pcmp h pd xa xb cond) :=
  of_parse rfl (by
    simp [parse, parseScalar]
    repeat (first | rw [extract_high _ _ (by decide)] | rw [extract_low _ _ (by decide)])
    all_goals simp)
theorem pand (h : Head) (pd pa pb : BitVec 3) : Statement (.pand h pd pa pb) :=
  of_parse rfl (by
    simp [parse, parseScalar]
    repeat (first | rw [extract_high _ _ (by decide)] | rw [extract_low _ _ (by decide)])
    all_goals simp)
theorem por (h : Head) (pd pa pb : BitVec 3) : Statement (.por h pd pa pb) :=
  of_parse rfl (by
    simp [parse, parseScalar]
    repeat (first | rw [extract_high _ _ (by decide)] | rw [extract_low _ _ (by decide)])
    all_goals simp)
theorem pxor (h : Head) (pd pa pb : BitVec 3) : Statement (.pxor h pd pa pb) :=
  of_parse rfl (by
    simp [parse, parseScalar]
    repeat (first | rw [extract_high _ _ (by decide)] | rw [extract_low _ _ (by decide)])
    all_goals simp)
theorem pnot (h : Head) (pd pa : BitVec 3) : Statement (.pnot h pd pa) :=
  of_parse rfl (by
    simp [parse, parseScalar]
    repeat (first | rw [extract_high _ _ (by decide)] | rw [extract_low _ _ (by decide)])
    all_goals simp)
theorem br (h : Head) (cond : Cond) (xa xb : Reg) (off : BitVec 32) : Statement (.br h cond xa xb off) :=
  of_parse rfl (by simp [parse, parseScalar])
theorem brp (h : Head) (p : BitVec 3) (off : BitVec 32) : Statement (.brp h p off) :=
  of_parse rfl (by
    simp [parse, parseScalar]
    repeat (first | rw [extract_high _ _ (by decide)] | rw [extract_low _ _ (by decide)])
    all_goals simp)
theorem brpClr (h : Head) (p : BitVec 3) (off : BitVec 32) : Statement (.brpClr h p off) :=
  of_parse rfl (by
    simp [parse, parseScalar]
    repeat (first | rw [extract_high _ _ (by decide)] | rw [extract_low _ _ (by decide)])
    all_goals simp)
theorem jmp (h : Head) (off : BitVec 32) : Statement (.jmp h off) :=
  of_parse rfl (by simp [parse, parseScalar])
theorem jmpx (h : Head) (xa : Reg) (off : BitVec 32) : Statement (.jmpx h xa off) :=
  of_parse rfl (by simp [parse, parseScalar])
theorem call (h : Head) (xd : Reg) (off : BitVec 32) : Statement (.call h xd off) :=
  of_parse rfl (by simp [parse, parseScalar])
theorem ret (h : Head) (xa : Reg) : Statement (.ret h xa) :=
  of_parse rfl (by simp [parse, parseScalar])
theorem loop (h : Head) (xa : Reg) (len : BitVec 16) (count : BitVec 32) : Statement (.loop h xa len count) :=
  of_parse rfl (by
    simp [parse, parseScalar]
    repeat (first | rw [extract_high _ _ (by decide)] | rw [extract_low _ _ (by decide)])
    all_goals simp)
theorem tick (h : Head) (xd : Reg) : Statement (.tick h xd) :=
  of_parse rfl (by simp [parse, parseScalar])
theorem gtsr (h : Head) (xd : Reg) : Statement (.gtsr h xd) :=
  of_parse rfl (by simp [parse, parseScalar])
theorem waitt (h : Head) (xa : Reg) : Statement (.waitt h xa) :=
  of_parse rfl (by simp [parse, parseScalar])
theorem waitc (h : Head) (tok : BitVec 6) : Statement (.waitc h tok) :=
  of_parse rfl (by
    simp [parse, parseScalar]
    repeat (first | rw [extract_high _ _ (by decide)] | rw [extract_low _ _ (by decide)])
    all_goals simp)
theorem ldx (h : Head) (size : LdSize) (xd xa xb : Reg) (off : BitVec 48) : Statement (.ldx h size xd xa xb off) :=
  of_parse rfl (by simp [parse, parseMem])
theorem stx (h : Head) (size : StSize) (xd xa xb : Reg) (off : BitVec 48) : Statement (.stx h size xd xa xb off) :=
  of_parse rfl (by simp [parse, parseMem])
theorem ldxS (h : Head) (size : LdSize) (xd xa xb : Reg) (off : BitVec 48) : Statement (.ldxS h size xd xa xb off) :=
  of_parse rfl (by simp [parse, parseMem])
theorem chk (h : Head) (xa : Reg) : Statement (.chk h xa) :=
  of_parse rfl (by simp [parse, parseMem])
theorem chkG (h : Head) (spec : Spec) : Statement (.chkG h spec) :=
  of_parse rfl (by
    simp [parse, parseMem]
    repeat (first | rw [extract_high _ _ (by decide)] | rw [extract_low _ _ (by decide)])
    all_goals simp)
theorem sptest (h : Head) (xd xa : Reg) : Statement (.sptest h xd xa) :=
  of_parse rfl (by simp [parse, parseMem])
theorem spcast (h : Head) (xd xa : Reg) (win : Win) (p : BitVec 3) : Statement (.spcast h xd xa win p) :=
  of_parse rfl (by
    simp [parse, parseMem]
    repeat (first | rw [extract_high _ _ (by decide)] | rw [extract_low _ _ (by decide)])
    all_goals simp)
theorem amo (h : Head) (op : AmoOp) (size : AmoSize) (xd xa xb xp : Reg) : Statement (.amo h op size xd xa xb xp) :=
  of_parse rfl (by
    simp [parse, parseMem]
    repeat (first | rw [extract_high _ _ (by decide)] | rw [extract_low _ _ (by decide)])
    all_goals simp)
theorem cas (h : Head) (size : AmoSize) (xd xa xb xp : Reg) : Statement (.cas h size xd xa xb xp) :=
  of_parse rfl (by
    simp [parse, parseMem]
    repeat (first | rw [extract_high _ _ (by decide)] | rw [extract_low _ _ (by decide)])
    all_goals simp)
theorem fence (h : Head) (pred succ : BitVec 6) (scope : Scope) : Statement (.fence h pred succ scope) :=
  of_parse rfl (by
    simp [parse, parseMem]
    repeat (first | rw [extract_high _ _ (by decide)] | rw [extract_low _ _ (by decide)])
    all_goals simp)
theorem marm (h : Head) (xa : Reg) : Statement (.marm h xa) :=
  of_parse rfl (by simp [parse, parseMem])
theorem mwait (h : Head) (xd : Reg) : Statement (.mwait h xd) :=
  of_parse rfl (by simp [parse, parseMem])
theorem mwaitTimeout (core slot : Nat) : Statement (.mwaitTimeout core slot) := fun _ _ h => by cases h
theorem txbInit (h : Head) (xa xb : Reg) : Statement (.txbInit h xa xb) :=
  of_parse rfl (by simp [parse, parseMem])
theorem txbArrive (h : Head) (xa xb : Reg) : Statement (.txbArrive h xa xb) :=
  of_parse rfl (by simp [parse, parseMem])
theorem txbExpect (h : Head) (xa xb : Reg) : Statement (.txbExpect h xa xb) :=
  of_parse rfl (by simp [parse, parseMem])
theorem txbWait (h : Head) (xa xb : Reg) : Statement (.txbWait h xa xb) :=
  of_parse rfl (by simp [parse, parseMem])
theorem cpyIn (h : Head) (xd xh xc xs xb : Reg) (t : Toks) (buf : Buf) (pad : Pad) (at64 : BitVec 13) : Statement (.cpyIn h xd xh xc xs xb t buf pad at64) :=
  of_parse rfl (by
    simp [parse, parseMem]
    repeat (first | rw [extract_high _ _ (by decide)] | rw [extract_low _ _ (by decide)])
    all_goals simp)
theorem cpyOut (h : Head) (xd xh xc xs xb : Reg) (t : Toks) (buf : Buf) (at64 : BitVec 13) : Statement (.cpyOut h xd xh xc xs xb t buf at64) :=
  of_parse rfl (by
    simp [parse, parseMem]
    repeat (first | rw [extract_high _ _ (by decide)] | rw [extract_low _ _ (by decide)])
    all_goals simp)
theorem cpyG (h : Head) (xd xh xc xs xb : Reg) (t : Toks) (buf : Buf) (pad : Pad) (at64 : BitVec 13) : Statement (.cpyG h xd xh xc xs xb t buf pad at64) :=
  of_parse rfl (by
    simp [parse, parseMem]
    repeat (first | rw [extract_high _ _ (by decide)] | rw [extract_low _ _ (by decide)])
    all_goals simp)
theorem cpyMC (h : Head) (xd xh xc xs xb : Reg) (t : Toks) (buf : Buf) (pad : Pad) (at64 : BitVec 13) : Statement (.cpyMC h xd xh xc xs xb t buf pad at64) :=
  of_parse rfl (by
    simp [parse, parseMem]
    repeat (first | rw [extract_high _ _ (by decide)] | rw [extract_low _ _ (by decide)])
    all_goals simp)
theorem cpyLL (h : Head) (xd xh xs xb : Reg) (t : Toks) (buf : Buf) (at64 : BitVec 13) : Statement (.cpyLL h xd xh xs xb t buf at64) :=
  of_parse rfl (by
    simp [parse, parseMem]
    repeat (first | rw [extract_high _ _ (by decide)] | rw [extract_low _ _ (by decide)])
    all_goals simp)
theorem cpyCancel (h : Head) (tok : BitVec 6) : Statement (.cpyCancel h tok) :=
  of_parse rfl (by
    simp [parse, parseMem]
    repeat (first | rw [extract_high _ _ (by decide)] | rw [extract_low _ _ (by decide)])
    all_goals simp)
theorem cpyStat (h : Head) (xd : Reg) (tok : BitVec 6) : Statement (.cpyStat h xd tok) :=
  of_parse rfl (by
    simp [parse, parseMem]
    repeat (first | rw [extract_high _ _ (by decide)] | rw [extract_low _ _ (by decide)])
    all_goals simp)
theorem secld (h : Head) (xd xa : Reg) (sec : BitVec 12) (dst : BitVec 14) : Statement (.secld h xd xa sec dst) :=
  of_parse rfl (by
    simp [parse, parseMem]
    repeat (first | rw [extract_high _ _ (by decide)] | rw [extract_low _ _ (by decide)])
    all_goals simp)
theorem secwait (h : Head) (sec : BitVec 12) (q : BitVec 2) : Statement (.secwait h sec q) :=
  of_parse rfl (by
    simp [parse, parseMem]
    repeat (first | rw [extract_high _ _ (by decide)] | rw [extract_low _ _ (by decide)])
    all_goals simp)
theorem qpush (h : Head) (xa : Reg) : Statement (.qpush h xa) :=
  of_parse rfl (by simp [parse, parseMem])
theorem vld (h : Head) (d : Spec) (xa : Reg) (off : BitVec 20) (buf : Buf) : Statement (.vld h d xa off buf) :=
  of_parse rfl (by
    simp [parse, parseLdSt]
    repeat (first | rw [extract_high _ _ (by decide)] | rw [extract_low _ _ (by decide)])
    all_goals simp)
theorem vlds (h : Head) (d : Spec) (sn : BitVec 4) : Statement (.vlds h d sn) :=
  of_parse rfl (by
    simp [parse, parseLdSt]
    repeat (first | rw [extract_high _ _ (by decide)] | rw [extract_low _ _ (by decide)])
    all_goals simp)
theorem vldp (h : Head) (d : Spec) (xa xb : Reg) (off : BitVec 32) : Statement (.vldp h d xa xb off) :=
  of_parse rfl (by
    simp [parse, parseLdSt]
    repeat (first | rw [extract_high _ _ (by decide)] | rw [extract_low _ _ (by decide)])
    all_goals simp)
theorem vldS (h : Head) (d : Spec) (xa xb : Reg) (off : BitVec 32) : Statement (.vldS h d xa xb off) :=
  of_parse rfl (by
    simp [parse, parseLdSt]
    repeat (first | rw [extract_high _ _ (by decide)] | rw [extract_low _ _ (by decide)])
    all_goals simp)
theorem vgath (h : Head) (d i : Spec) (sn : BitVec 4) : Statement (.vgath h d i sn) :=
  of_parse rfl (by
    simp [parse, parseLdSt]
    repeat (first | rw [extract_high _ _ (by decide)] | rw [extract_low _ _ (by decide)])
    all_goals simp)
theorem qix (h : Head) (i : Spec) : Statement (.qix h i) :=
  of_parse rfl (by simp [parse, parseLdSt])
theorem sclA (h : Head) (xa : Reg) (sl : BitVec 4) (n : BitVec 6) (g c : BitVec 16) : Statement (.sclA h xa sl n g c) :=
  of_parse rfl (by
    simp [parse, parseLdSt]
    repeat (first | rw [extract_high _ _ (by decide)] | rw [extract_low _ _ (by decide)])
    all_goals simp)
theorem sclB (h : Head) (xa : Reg) (sl : BitVec 4) (n : BitVec 6) (g c : BitVec 16) : Statement (.sclB h xa sl n g c) :=
  of_parse rfl (by
    simp [parse, parseLdSt]
    repeat (first | rw [extract_high _ _ (by decide)] | rw [extract_low _ _ (by decide)])
    all_goals simp)
theorem vbrd (h : Head) (ty : Ty) (d : Spec) (xa : Reg) (off : BitVec 20) (buf : Buf) : Statement (.vbrd h ty d xa off buf) :=
  of_parse rfl (by
    simp [parse, parseLdSt]
    repeat (first | rw [extract_high _ _ (by decide)] | rw [extract_low _ _ (by decide)])
    all_goals simp)
theorem vst (h : Head) (a : Spec) (xb : Reg) (off : BitVec 20) (buf : Buf) : Statement (.vst h a xb off buf) :=
  of_parse rfl (by
    simp [parse, parseLdSt]
    repeat (first | rw [extract_high _ _ (by decide)] | rw [extract_low _ _ (by decide)])
    all_goals simp)
theorem vstp (h : Head) (xd : Reg) (a : Spec) (xb : Reg) (off : BitVec 32) : Statement (.vstp h xd a xb off) :=
  of_parse rfl (by
    simp [parse, parseLdSt]
    repeat (first | rw [extract_high _ _ (by decide)] | rw [extract_low _ _ (by decide)])
    all_goals simp)
theorem vscat (h : Head) (sn : BitVec 4) (a i : Spec) : Statement (.vscat h sn a i) :=
  of_parse rfl (by
    simp [parse, parseLdSt]
    repeat (first | rw [extract_high _ _ (by decide)] | rw [extract_low _ _ (by decide)])
    all_goals simp)
theorem wst (h : Head) (xd xh xc xs : Reg) (src : Spec) : Statement (.wst h xd xh xc xs src) :=
  of_parse rfl (by
    simp [parse, parseLdSt]
    repeat (first | rw [extract_high _ _ (by decide)] | rw [extract_low _ _ (by decide)])
    all_goals simp)
theorem wstG (h : Head) (xd xh xs : Reg) (src : Spec) : Statement (.wstG h xd xh xs src) :=
  of_parse rfl (by
    simp [parse, parseLdSt]
    repeat (first | rw [extract_high _ _ (by decide)] | rw [extract_low _ _ (by decide)])
    all_goals simp)
theorem wstc (h : Head) (xd xh xc : Reg) (t : Toks) (c : BitVec 6) (ty : Ty) (rnd : Rnd) (ovf : Ovf) (nochk : Bool) : Statement (.wstc h xd xh xc t c ty rnd ovf nochk) :=
  of_parse rfl (by
    simp [parse, parseLdSt]
    repeat (first | rw [extract_high _ _ (by decide)] | rw [extract_low _ _ (by decide)])
    all_goals simp)
theorem wdrain (h : Head) (xa : Reg) : Statement (.wdrain h xa) :=
  of_parse rfl (by simp [parse, parseLdSt])
theorem wbud (h : Head) (xd : Reg) : Statement (.wbud h xd) :=
  of_parse rfl (by simp [parse, parseLdSt])
theorem wfence (h : Head) (scope : Scope) : Statement (.wfence h scope) :=
  of_parse rfl (by
    simp [parse, parseLdSt]
    repeat (first | rw [extract_high _ _ (by decide)] | rw [extract_low _ _ (by decide)])
    all_goals simp)
theorem vadd (h : Head) (ty : Ty) (rnd : Rnd) (ovf : Ovf) (d a b : Spec) (ln : Lanes) : Statement (.vadd h ty rnd ovf d a b ln) :=
  of_parse rfl (by
    simp [parse, parseVec]
    repeat (first | rw [extract_high _ _ (by decide)] | rw [extract_low _ _ (by decide)])
    all_goals simp)
theorem vsub (h : Head) (ty : Ty) (rnd : Rnd) (ovf : Ovf) (d a b : Spec) (ln : Lanes) : Statement (.vsub h ty rnd ovf d a b ln) :=
  of_parse rfl (by
    simp [parse, parseVec]
    repeat (first | rw [extract_high _ _ (by decide)] | rw [extract_low _ _ (by decide)])
    all_goals simp)
theorem vmul (h : Head) (ty : Ty) (rnd : Rnd) (ovf : Ovf) (d a b : Spec) (ln : Lanes) : Statement (.vmul h ty rnd ovf d a b ln) :=
  of_parse rfl (by
    simp [parse, parseVec]
    repeat (first | rw [extract_high _ _ (by decide)] | rw [extract_low _ _ (by decide)])
    all_goals simp)
theorem vfma (h : Head) (ty : Ty) (rnd : Rnd) (ovf : Ovf) (d a b : Spec) (ln : Lanes) : Statement (.vfma h ty rnd ovf d a b ln) :=
  of_parse rfl (by
    simp [parse, parseVec]
    repeat (first | rw [extract_high _ _ (by decide)] | rw [extract_low _ _ (by decide)])
    all_goals simp)
theorem vfms (h : Head) (ty : Ty) (rnd : Rnd) (ovf : Ovf) (d a b : Spec) (ln : Lanes) : Statement (.vfms h ty rnd ovf d a b ln) :=
  of_parse rfl (by
    simp [parse, parseVec]
    repeat (first | rw [extract_high _ _ (by decide)] | rw [extract_low _ _ (by decide)])
    all_goals simp)
theorem vfnma (h : Head) (ty : Ty) (rnd : Rnd) (ovf : Ovf) (d a b : Spec) (ln : Lanes) : Statement (.vfnma h ty rnd ovf d a b ln) :=
  of_parse rfl (by
    simp [parse, parseVec]
    repeat (first | rw [extract_high _ _ (by decide)] | rw [extract_low _ _ (by decide)])
    all_goals simp)
theorem vdiv (h : Head) (ty : Ty) (rnd : Rnd) (ovf : Ovf) (d a b : Spec) (ln : Lanes) : Statement (.vdiv h ty rnd ovf d a b ln) :=
  of_parse rfl (by
    simp [parse, parseVec]
    repeat (first | rw [extract_high _ _ (by decide)] | rw [extract_low _ _ (by decide)])
    all_goals simp)
theorem vsqrt (h : Head) (ty : Ty) (rnd : Rnd) (ovf : Ovf) (d a : Spec) (ln : Lanes) : Statement (.vsqrt h ty rnd ovf d a ln) :=
  of_parse rfl (by
    simp [parse, parseVec]
    repeat (first | rw [extract_high _ _ (by decide)] | rw [extract_low _ _ (by decide)])
    all_goals simp)
theorem vrcp (h : Head) (ty : Ty) (rnd : Rnd) (ovf : Ovf) (d a : Spec) (ln : Lanes) : Statement (.vrcp h ty rnd ovf d a ln) :=
  of_parse rfl (by
    simp [parse, parseVec]
    repeat (first | rw [extract_high _ _ (by decide)] | rw [extract_low _ _ (by decide)])
    all_goals simp)
theorem vrsq (h : Head) (ty : Ty) (rnd : Rnd) (ovf : Ovf) (d a : Spec) (ln : Lanes) : Statement (.vrsq h ty rnd ovf d a ln) :=
  of_parse rfl (by
    simp [parse, parseVec]
    repeat (first | rw [extract_high _ _ (by decide)] | rw [extract_low _ _ (by decide)])
    all_goals simp)
theorem vmin (h : Head) (ty : Ty) (d a b : Spec) (ln : Lanes) : Statement (.vmin h ty d a b ln) :=
  of_parse rfl (by
    simp [parse, parseVec]
    repeat (first | rw [extract_high _ _ (by decide)] | rw [extract_low _ _ (by decide)])
    all_goals simp)
theorem vmax (h : Head) (ty : Ty) (d a b : Spec) (ln : Lanes) : Statement (.vmax h ty d a b ln) :=
  of_parse rfl (by
    simp [parse, parseVec]
    repeat (first | rw [extract_high _ _ (by decide)] | rw [extract_low _ _ (by decide)])
    all_goals simp)
theorem vabs (h : Head) (ty : Ty) (ovf : Ovf) (d a : Spec) (ln : Lanes) : Statement (.vabs h ty ovf d a ln) :=
  of_parse rfl (by
    simp [parse, parseVec]
    repeat (first | rw [extract_high _ _ (by decide)] | rw [extract_low _ _ (by decide)])
    all_goals simp)
theorem vneg (h : Head) (ty : Ty) (ovf : Ovf) (d a : Spec) (ln : Lanes) : Statement (.vneg h ty ovf d a ln) :=
  of_parse rfl (by
    simp [parse, parseVec]
    repeat (first | rw [extract_high _ _ (by decide)] | rw [extract_low _ _ (by decide)])
    all_goals simp)
theorem vcmp (h : Head) (cond : VCond) (ty : Ty) (m : BitVec 2) (a b : Spec) (ln : Lanes) : Statement (.vcmp h cond ty m a b ln) :=
  of_parse rfl (by
    simp [parse, parseVec]
    repeat (first | rw [extract_high _ _ (by decide)] | rw [extract_low _ _ (by decide)])
    all_goals simp)
theorem vsel (h : Head) (ty : Ty) (d a b : Spec) (m : BitVec 2) : Statement (.vsel h ty d a b m) :=
  of_parse rfl (by
    simp [parse, parseVec, lanesCode]
    rw [extract_low _ _ (by decide), extract_low _ _ (by decide)]; simp)
theorem vand (h : Head) (ty : Ty) (d a b : Spec) (ln : Lanes) : Statement (.vand h ty d a b ln) :=
  of_parse rfl (by
    simp [parse, parseVec]
    repeat (first | rw [extract_high _ _ (by decide)] | rw [extract_low _ _ (by decide)])
    all_goals simp)
theorem vor (h : Head) (ty : Ty) (d a b : Spec) (ln : Lanes) : Statement (.vor h ty d a b ln) :=
  of_parse rfl (by
    simp [parse, parseVec]
    repeat (first | rw [extract_high _ _ (by decide)] | rw [extract_low _ _ (by decide)])
    all_goals simp)
theorem vxor (h : Head) (ty : Ty) (d a b : Spec) (ln : Lanes) : Statement (.vxor h ty d a b ln) :=
  of_parse rfl (by
    simp [parse, parseVec]
    repeat (first | rw [extract_high _ _ (by decide)] | rw [extract_low _ _ (by decide)])
    all_goals simp)
theorem vshl (h : Head) (ty : Ty) (d a b : Spec) (ln : Lanes) : Statement (.vshl h ty d a b ln) :=
  of_parse rfl (by
    simp [parse, parseVec]
    repeat (first | rw [extract_high _ _ (by decide)] | rw [extract_low _ _ (by decide)])
    all_goals simp)
theorem vshr (h : Head) (ty : Ty) (d a b : Spec) (ln : Lanes) : Statement (.vshr h ty d a b ln) :=
  of_parse rfl (by
    simp [parse, parseVec]
    repeat (first | rw [extract_high _ _ (by decide)] | rw [extract_low _ _ (by decide)])
    all_goals simp)
theorem vsra (h : Head) (ty : Ty) (d a b : Spec) (ln : Lanes) : Statement (.vsra h ty d a b ln) :=
  of_parse rfl (by
    simp [parse, parseVec]
    repeat (first | rw [extract_high _ _ (by decide)] | rw [extract_low _ _ (by decide)])
    all_goals simp)
theorem vcvt (h : Head) (td ts : Ty) (rnd : Rnd) (ovf : Ovf) (d a : Spec) (part : BitVec 3) (ln : Lanes) : Statement (.vcvt h td ts rnd ovf d a part ln) :=
  of_parse rfl (by
    simp [parse, parseVec]
    repeat (first | rw [extract_high _ _ (by decide)] | rw [extract_low _ _ (by decide)])
    all_goals simp)
theorem vred (h : Head) (op : RedOp) (ty : Ty) (rnd : Rnd) (ovf : Ovf) (d a : Spec) (ln : Lanes) : Statement (.vred h op ty rnd ovf d a ln) :=
  of_parse rfl (by
    simp [parse, parseVec]
    repeat (first | rw [extract_high _ _ (by decide)] | rw [extract_low _ _ (by decide)])
    all_goals simp)
theorem vscan (h : Head) (op : ScanOp) (ty : Ty) (rnd : Rnd) (ovf : Ovf) (d a : Spec) (ln : Lanes) : Statement (.vscan h op ty rnd ovf d a ln) :=
  of_parse rfl (by
    simp [parse, parseVec]
    repeat (first | rw [extract_high _ _ (by decide)] | rw [extract_low _ _ (by decide)])
    all_goals simp)
theorem vcompact (h : Head) (ty : Ty) (d a : Spec) (ln : Lanes) : Statement (.vcompact h ty d a ln) :=
  of_parse rfl (by
    simp [parse, parseVec]
    repeat (first | rw [extract_high _ _ (by decide)] | rw [extract_low _ _ (by decide)])
    all_goals simp)
theorem vperm (h : Head) (ty : Ty) (d a b : Spec) (ln : Lanes) : Statement (.vperm h ty d a b ln) :=
  of_parse rfl (by
    simp [parse, parseVec]
    repeat (first | rw [extract_high _ _ (by decide)] | rw [extract_low _ _ (by decide)])
    all_goals simp)
theorem vmov (h : Head) (ty : Ty) (d a : Spec) (ln : Lanes) : Statement (.vmov h ty d a ln) :=
  of_parse rfl (by
    simp [parse, parseVec]
    repeat (first | rw [extract_high _ _ (by decide)] | rw [extract_low _ _ (by decide)])
    all_goals simp)
theorem vmovi (h : Head) (ty : Ty) (d : Spec) (imm : BitVec 32) : Statement (.vmovi h ty d imm) :=
  of_parse rfl (by simp [parse, parseVec])
theorem viota (h : Head) (ty : Ty) (d : Spec) (ln : Lanes) : Statement (.viota h ty d ln) :=
  of_parse rfl (by
    simp [parse, parseVec]
    repeat (first | rw [extract_high _ _ (by decide)] | rw [extract_low _ _ (by decide)])
    all_goals simp)
theorem vqpop (h : Head) (ty : Ty) (d : Spec) (ln : Lanes) : Statement (.vqpop h ty d ln) :=
  of_parse rfl (by
    simp [parse, parseVec]
    repeat (first | rw [extract_high _ _ (by decide)] | rw [extract_low _ _ (by decide)])
    all_goals simp)
theorem vlut (h : Head) (ty : Ty) (d a b : Spec) (ln : Lanes) : Statement (.vlut h ty d a b ln) :=
  of_parse rfl (by
    simp [parse, parseVec]
    repeat (first | rw [extract_high _ _ (by decide)] | rw [extract_low _ _ (by decide)])
    all_goals simp)
theorem vexp2 (h : Head) (ty : Ty) (rnd : Rnd) (ovf : Ovf) (d a : Spec) (ln : Lanes) : Statement (.vexp2 h ty rnd ovf d a ln) :=
  of_parse rfl (by
    simp [parse, parseVec]
    repeat (first | rw [extract_high _ _ (by decide)] | rw [extract_low _ _ (by decide)])
    all_goals simp)
theorem vlog2 (h : Head) (ty : Ty) (rnd : Rnd) (ovf : Ovf) (d a : Spec) (ln : Lanes) : Statement (.vlog2 h ty rnd ovf d a ln) :=
  of_parse rfl (by
    simp [parse, parseVec]
    repeat (first | rw [extract_high _ _ (by decide)] | rw [extract_low _ _ (by decide)])
    all_goals simp)
theorem vclass (h : Head) (ty : Ty) (d a : Spec) (ln : Lanes) : Statement (.vclass h ty d a ln) :=
  of_parse rfl (by
    simp [parse, parseVec]
    repeat (first | rw [extract_high _ _ (by decide)] | rw [extract_low _ _ (by decide)])
    all_goals simp)
theorem vsplitExp (h : Head) (d a : Spec) (ln : Lanes) : Statement (.vsplitExp h d a ln) :=
  of_parse rfl (by
    simp [parse, parseVec]
    repeat (first | rw [extract_high _ _ (by decide)] | rw [extract_low _ _ (by decide)])
    all_goals simp)
theorem vsplit (h : Head) (d a b : Spec) (sl : BitVec 4) (ln : Lanes) : Statement (.vsplit h d a b sl ln) :=
  of_parse rfl (by
    simp [parse, parseVec]
    repeat (first | rw [extract_high _ _ (by decide)] | rw [extract_low _ _ (by decide)])
    all_goals simp)
theorem vcombAcc (h : Head) (d a : Spec) (w : BitVec 4) (q : BitVec 2) (clr : Bool) (ln : Lanes) : Statement (.vcombAcc h d a w q clr ln) :=
  of_parse rfl (by
    simp [parse, parseVec]
    repeat (first | rw [extract_high _ _ (by decide)] | rw [extract_low _ _ (by decide)])
    all_goals simp)
theorem vcombFin (h : Head) (rnd : Rnd) (ovf : Ovf) (d a b : Spec) (r : BitVec 4) (hh : Bool) (ln : Lanes) : Statement (.vcombFin h rnd ovf d a b r hh ln) :=
  of_parse rfl (by
    simp [parse, parseVec]
    repeat (first | rw [extract_high _ _ (by decide)] | rw [extract_low _ _ (by decide)])
    all_goals simp)
theorem mma (h : Head) (c : BitVec 6) (sa sb : BitVec 4) (ta tb : Ty) (acc : Acc) (breuse : Bool) (t : Toks) : Statement (.mma h c sa sb ta tb acc breuse t) :=
  of_parse rfl (by
    simp [parse, parseMat]
    repeat (first | rw [extract_high _ _ (by decide)] | rw [extract_low _ _ (by decide)])
    all_goals simp)
theorem mmas (h : Head) (c : BitVec 6) (sa sb sx : BitVec 4) (ta tb : Ty) (acc : Acc) (breuse : Bool) (t : Toks) : Statement (.mmas h c sa sb sx ta tb acc breuse t) :=
  of_parse rfl (by
    simp [parse, parseMat]
    repeat (first | rw [extract_high _ _ (by decide)] | rw [extract_low _ _ (by decide)])
    all_goals simp)
theorem mclr (h : Head) (c : BitVec 6) : Statement (.mclr h c) :=
  of_parse rfl (by simp [parse, parseMat])
theorem mldc (h : Head) (c : BitVec 6) (src : Spec) (q : BitVec 2) : Statement (.mldc h c src q) :=
  of_parse rfl (by
    simp [parse, parseMat]
    repeat (first | rw [extract_high _ _ (by decide)] | rw [extract_low _ _ (by decide)])
    all_goals simp)
theorem mdrain (h : Head) (c : BitVec 6) (dst : Spec) (q : BitVec 2) (nochk : Bool) (t : Toks) : Statement (.mdrain h c dst q nochk t) :=
  of_parse rfl (by
    simp [parse, parseMat]
    repeat (first | rw [extract_high _ _ (by decide)] | rw [extract_low _ _ (by decide)])
    all_goals simp)
theorem mchk (h : Head) (c : BitVec 6) : Statement (.mchk h c) :=
  of_parse rfl (by simp [parse, parseMat])
theorem mcomp (h : Head) (cd cs : BitVec 6) (ty : Ty) : Statement (.mcomp h cd cs ty) :=
  of_parse rfl (by
    simp [parse, parseMat]
    repeat (first | rw [extract_high _ _ (by decide)] | rw [extract_low _ _ (by decide)])
    all_goals simp)
theorem mbmp (h : Head) (cd cs : BitVec 6) (ty : Ty) (col : BitVec 5) : Statement (.mbmp h cd cs ty col) :=
  of_parse rfl (by
    simp [parse, parseMat]
    repeat (first | rw [extract_high _ _ (by decide)] | rw [extract_low _ _ (by decide)])
    all_goals simp)
theorem ttLoc (h : Head) (c : BitVec 6) (xd : Reg) : Statement (.ttLoc h c xd) :=
  of_parse rfl (by
    simp [parse, parseMat]
    repeat (first | rw [extract_high _ _ (by decide)] | rw [extract_low _ _ (by decide)])
    all_goals simp)
theorem ttFix (h : Head) (c : BitVec 6) : Statement (.ttFix h c) :=
  of_parse rfl (by simp [parse, parseMat])
theorem ttReplay (h : Head) : Statement (.ttReplay h) :=
  of_parse rfl (by simp [parse, parseMat])
theorem ctabW (h : Head) (src : Spec) : Statement (.ctabW h src) :=
  of_parse rfl (by simp [parse, parseMat])
theorem ctabSwap (h : Head) : Statement (.ctabSwap h) :=
  of_parse rfl (by simp [parse, parseMat])
theorem clgrp (h : Head) (xd xa : Reg) (g : BitVec 4) : Statement (.clgrp h xd xa g) :=
  of_parse rfl (by
    simp [parse, parseSys]
    repeat (first | rw [extract_high _ _ (by decide)] | rw [extract_low _ _ (by decide)])
    all_goals simp)
theorem clgrpRelease (h : Head) (xd : Reg) (g : BitVec 4) : Statement (.clgrpRelease h xd g) :=
  of_parse rfl (by
    simp [parse, parseSys]
    repeat (first | rw [extract_high _ _ (by decide)] | rw [extract_low _ _ (by decide)])
    all_goals simp)
theorem clred (h : Head) (op : CollOp) (td ts : Ty) (g : BitVec 4) (xd xh xc xs xb : Reg) (t : Toks) : Statement (.clred h op td ts g xd xh xc xs xb t) :=
  of_parse rfl (by
    simp [parse, parseSys]
    repeat (first | rw [extract_high _ _ (by decide)] | rw [extract_low _ _ (by decide)])
    all_goals simp)
theorem clbc (h : Head) (g : BitVec 4) (xd xh xc xs xb : Reg) (t : Toks) : Statement (.clbc h g xd xh xc xs xb t) :=
  of_parse rfl (by
    simp [parse, parseSys]
    repeat (first | rw [extract_high _ _ (by decide)] | rw [extract_low _ _ (by decide)])
    all_goals simp)
theorem clstat (h : Head) (xd xa : Reg) : Statement (.clstat h xd xa) :=
  of_parse rfl (by simp [parse, parseSys])
theorem trap (h : Head) (n : BitVec 8) : Statement (.trap h n) :=
  of_parse rfl (by
    simp [parse, parseSys]
    repeat (first | rw [extract_high _ _ (by decide)] | rw [extract_low _ _ (by decide)])
    all_goals simp)
theorem eret (h : Head) : Statement (.eret h) :=
  of_parse rfl (by simp [parse, parseSys])
theorem csrr (h : Head) (xd : Reg) (csr : BitVec 12) : Statement (.csrr h xd csr) :=
  of_parse rfl (by simp [parse, parseSys])
theorem csrw (h : Head) (xd xa : Reg) (csr : BitVec 12) : Statement (.csrw h xd xa csr) :=
  of_parse rfl (by simp [parse, parseSys])
theorem csrs (h : Head) (xd xa : Reg) (csr : BitVec 12) : Statement (.csrs h xd xa csr) :=
  of_parse rfl (by simp [parse, parseSys])
theorem csrc (h : Head) (xd xa : Reg) (csr : BitVec 12) : Statement (.csrc h xd xa csr) :=
  of_parse rfl (by simp [parse, parseSys])
theorem halt (h : Head) : Statement (.halt h) :=
  of_parse rfl (by simp [parse, parseSys])
theorem prept (h : Head) (mask : BitVec 32) : Statement (.prept h mask) :=
  of_parse rfl (by
    simp [parse, parseSys]
    repeat (first | rw [extract_high _ _ (by decide)] | rw [extract_low _ _ (by decide)])
    all_goals simp)
theorem yield (h : Head) : Statement (.yield h) :=
  of_parse rfl (by simp [parse, parseSys])
theorem cropen (h : Head) (n : BitVec 4) (off : BitVec 32) : Statement (.cropen h n off) :=
  of_parse rfl (by simp [parse, parseSys])
theorem crclose (h : Head) (n : BitVec 4) : Statement (.crclose h n) :=
  of_parse rfl (by simp [parse, parseSys])
theorem view (h : Head) (xa : Reg) (sl : BitVec 4) (imm : BitVec 64) : Statement (.view h xa sl imm) :=
  of_parse rfl (by simp [parse, parseSys])
theorem scfg (h : Head) (xa : Reg) (sl : BitVec 4) (fld : BitVec 6) (imm : BitVec 64) : Statement (.scfg h xa sl fld imm) :=
  of_parse rfl (by simp [parse, parseSys])
theorem nestSet (h : Head) (xa : Reg) (lvl : BitVec 4) (fld : BitVec 6) (imm : BitVec 64) : Statement (.nestSet h xa lvl fld imm) :=
  of_parse rfl (by simp [parse, parseSys])
theorem nestGo (h : Head) : Statement (.nestGo h) :=
  of_parse rfl (by simp [parse, parseSys])
theorem nestStat (h : Head) (xd : Reg) : Statement (.nestStat h xd) :=
  of_parse rfl (by simp [parse, parseSys])
theorem splAdmit (h : Head) (xd xa : Reg) (sup : Bool) (ndev : BitVec 7) (grp : BitVec 16) : Statement (.splAdmit h xd xa sup ndev grp) :=
  of_parse rfl (by
    simp [parse, parseSys]
    repeat (first | rw [extract_high _ _ (by decide)] | rw [extract_low _ _ (by decide)])
    all_goals simp)
theorem splRetire (h : Head) (xd xa : Reg) : Statement (.splRetire h xd xa) :=
  of_parse rfl (by simp [parse, parseSys])
theorem splRephase (h : Head) (xd xa : Reg) (delta : BitVec 4) (wait : BitVec 24) : Statement (.splRephase h xd xa delta wait) :=
  of_parse rfl (by
    simp [parse, parseSys]
    repeat (first | rw [extract_high _ _ (by decide)] | rw [extract_low _ _ (by decide)])
    all_goals simp)
theorem splFreeze (h : Head) (xd xa : Reg) : Statement (.splFreeze h xd xa) :=
  of_parse rfl (by simp [parse, parseSys])
theorem splThaw (h : Head) (xd xa : Reg) : Statement (.splThaw h xd xa) :=
  of_parse rfl (by simp [parse, parseSys])
theorem splQuery (h : Head) (xd xa : Reg) (sel : BitVec 4) : Statement (.splQuery h xd xa sel) :=
  of_parse rfl (by
    simp [parse, parseSys]
    repeat (first | rw [extract_high _ _ (by decide)] | rw [extract_low _ _ (by decide)])
    all_goals simp)
theorem ctxSave (h : Head) (xd xa : Reg) (prept : Bool) : Statement (.ctxSave h xd xa prept) :=
  of_parse rfl (by
    simp [parse, parseSys]
    repeat (first | rw [extract_high _ _ (by decide)] | rw [extract_low _ _ (by decide)])
    all_goals simp)
theorem ctxLoad (h : Head) (xd xa : Reg) : Statement (.ctxLoad h xd xa) :=
  of_parse rfl (by simp [parse, parseSys])
theorem ctxKill (h : Head) (xd xa : Reg) : Statement (.ctxKill h xd xa) :=
  of_parse rfl (by simp [parse, parseSys])
theorem keyRoll (h : Head) (xd : Reg) (slot : BitVec 8) : Statement (.keyRoll h xd slot) :=
  of_parse rfl (by
    simp [parse, parseSys]
    repeat (first | rw [extract_high _ _ (by decide)] | rw [extract_low _ _ (by decide)])
    all_goals simp)
theorem keyRollBlockEnd (core slot : Nat) : Statement (.keyRollBlockEnd core slot) := fun _ _ h => by cases h
theorem memoryInterfaceApply (die : Nat) : Statement (.memoryInterfaceApply die) := fun _ _ h => by cases h
theorem illegalWord (core slot : Nat) (q : SeqId) (w : IWord) : Statement (.illegalWord core slot q w) := fun _ _ h => by cases h
theorem pcBound (core slot : Nat) (q : SeqId) : Statement (.pcBound core slot q) := fun _ _ h => by cases h
theorem istoreEcc (core slot : Nat) (q : SeqId) : Statement (.istoreEcc core slot q) := fun _ _ h => by cases h
theorem sectionStart (core slot : Nat) (q : SeqId) : Statement (.sectionStart core slot q) := fun _ _ h => by cases h
theorem blockLimitExpiry (core slot : Nat) (q : SeqId) : Statement (.blockLimitExpiry core slot q) := fun _ _ h => by cases h
theorem gtsTick : Statement .gtsTick := fun _ _ h => by cases h
theorem dueResultLands (core slot : Nat) : Statement (.dueResultLands core slot) := fun _ _ h => by cases h
theorem nestShadowLive (core slot : Nat) : Statement (.nestShadowLive core slot) := fun _ _ h => by cases h
theorem mdrainDrain (work : Nat) : Statement (.mdrainDrain work) := fun _ _ h => by cases h
theorem wstcDrain (work : Nat) : Statement (.wstcDrain work) := fun _ _ h => by cases h
theorem trapEntry (core slot : Nat) : Statement (.trapEntry core slot) := fun _ _ h => by cases h
theorem stallEnd (core slot : Nat) : Statement (.stallEnd core slot) := fun _ _ h => by cases h
theorem replayStall (core slot : Nat) : Statement (.replayStall core slot) := fun _ _ h => by cases h
theorem containmentUnwind (core slot region cause : Nat) : Statement (.containmentUnwind core slot region cause) := fun _ _ h => by cases h
theorem tlbWalkComplete (walk : Nat) : Statement (.tlbWalkComplete walk) := fun _ _ h => by cases h
theorem meshFlitStep (work : Nat) : Statement (.meshFlitStep work) := fun _ _ h => by cases h
theorem linkFlitStep (step : LinkStep) : Statement (.linkFlitStep step) := fun _ _ h => by cases h
theorem copySectorLands (work : Nat) : Statement (.copySectorLands work) := fun _ _ h => by cases h
theorem secldLands (work : Nat) : Statement (.secldLands work) := fun _ _ h => by cases h
theorem laneBeat (core slot : Nat) : Statement (.laneBeat core slot) := fun _ _ h => by cases h
theorem laneBudgetRefill (core slot : Nat) : Statement (.laneBudgetRefill core slot) := fun _ _ h => by cases h
theorem wlaneBackpressure (core slot : Nat) : Statement (.wlaneBackpressure core slot) := fun _ _ h => by cases h
theorem chanReadCommand (work : Nat) : Statement (.chanReadCommand work) := fun _ _ h => by cases h
theorem chanReadDelivery (work : Nat) (corrected uncorrected : Bool) : Statement (.chanReadDelivery work corrected uncorrected) := fun _ _ h => by cases h
theorem chanWriteCommand (work : Nat) : Statement (.chanWriteCommand work) := fun _ _ h => by cases h
theorem writeQueueDrain (chan : Nat) : Statement (.writeQueueDrain chan) := fun _ _ h => by cases h
theorem portResponse (work : Nat) : Statement (.portResponse work) := fun _ _ h => by cases h
theorem hostMemoryAccess (write : Bool) (addr : Nat) (data : List Byte) : Statement (.hostMemoryAccess write addr data) := fun _ _ h => by cases h
theorem refresh (chan : Nat) : Statement (.refresh chan) := fun _ _ h => by cases h
theorem patrolScrub (chan : Nat) (corrected uncorrected : Bool) : Statement (.patrolScrub chan corrected uncorrected) := fun _ _ h => by cases h
theorem patrolPassComplete (chan : Nat) : Statement (.patrolPassComplete chan) := fun _ _ h => by cases h
theorem alertBackoff (chan bank : Nat) : Statement (.alertBackoff chan bank) := fun _ _ h => by cases h
theorem alertServiceCommand (chan : Nat) : Statement (.alertServiceCommand chan) := fun _ _ h => by cases h
theorem spareRowCopy (chan : Nat) : Statement (.spareRowCopy chan) := fun _ _ h => by cases h
theorem spareCopyEscalation (chan : Nat) : Statement (.spareCopyEscalation chan) := fun _ _ h => by cases h
theorem hotWindowEnd (stack : Nat) : Statement (.hotWindowEnd stack) := fun _ _ h => by cases h
theorem hotPageMigrationCopy (stack : Nat) : Statement (.hotPageMigrationCopy stack) := fun _ _ h => by cases h
theorem migrationCommit (stack : Nat) : Statement (.migrationCommit stack) := fun _ _ h => by cases h
theorem hotIneligibleExpiry (stack frame : Nat) : Statement (.hotIneligibleExpiry stack frame) := fun _ _ h => by cases h
theorem collRequestArrives (ask : CollAsk) : Statement (.collRequestArrives ask) := fun _ _ h => by cases h
theorem collChunkLands (work : Nat) : Statement (.collChunkLands work) := fun _ _ h => by cases h
theorem haltReported (core slot : Nat) : Statement (.haltReported core slot) := fun _ _ h => by cases h
theorem ownerOrigin (owner : Nat) : Statement (.ownerOrigin owner) := fun _ _ h => by cases h
theorem admitTimeout (grp : Nat) : Statement (.admitTimeout grp) := fun _ _ h => by cases h
theorem freezeBegin (ask : FreezeAsk) : Statement (.freezeBegin ask) := fun _ _ h => by cases h
theorem thawResume (owner : Nat) : Statement (.thawResume owner) := fun _ _ h => by cases h
theorem rephaseRelease (owner : Nat) : Statement (.rephaseRelease owner) := fun _ _ h => by cases h
theorem rephaseResume (owner : Nat) : Statement (.rephaseResume owner) := fun _ _ h => by cases h
theorem rephaseAbandon (owner : Nat) : Statement (.rephaseAbandon owner) := fun _ _ h => by cases h
theorem preptWindowExpiry (owner : Nat) : Statement (.preptWindowExpiry owner) := fun _ _ h => by cases h
theorem collectComplete (owner : Nat) : Statement (.collectComplete owner) := fun _ _ h => by cases h
theorem contextSaveUnit (owner : Nat) : Statement (.contextSaveUnit owner) := fun _ _ h => by cases h
theorem contextLoadUnit (owner : Nat) : Statement (.contextLoadUnit owner) := fun _ _ h => by cases h
theorem krecordAppend (part : Nat) (hyper : Bool) : Statement (.krecordAppend part hyper) := fun _ _ h => by cases h
theorem kansResume (core slot : Nat) : Statement (.kansResume core slot) := fun _ _ h => by cases h
theorem kansDeliver (core slot : Nat) : Statement (.kansDeliver core slot) := fun _ _ h => by cases h
theorem kansSwitchOut (core slot : Nat) : Statement (.kansSwitchOut core slot) := fun _ _ h => by cases h
theorem kansKill (core slot : Nat) : Statement (.kansKill core slot) := fun _ _ h => by cases h
theorem dharv (high group : BitVec 32) : Statement (.dharv high group) := fun _ _ h => by cases h
theorem tlbinv (part : Nat) (page : Nat) (all : Bool) : Statement (.tlbinv part page all) := fun _ _ h => by cases h
theorem tlbinvComplete (part : Nat) : Statement (.tlbinvComplete part) := fun _ _ h => by cases h
theorem rcbBind (part : Nat) (value : BitVec 64) : Statement (.rcbBind part value) := fun _ _ h => by cases h
theorem pcoreWrite (part m : Nat) (value : BitVec 64) : Statement (.pcoreWrite part m value) := fun _ _ h => by cases h
theorem partitionFence (part : Nat) : Statement (.partitionFence part) := fun _ _ h => by cases h
theorem registerWrite (reg : CtlReg) (value : BitVec 64) : Statement (.registerWrite reg value) := fun _ _ h => by cases h
theorem launchPacket (path : LaunchPath) (window : Nat) (words : List (BitVec 64)) : Statement (.launchPacket path window words) := fun _ _ h => by cases h
theorem launchDispatch (part : Nat) : Statement (.launchDispatch part) := fun _ _ h => by cases h
theorem bar2Access (write : Bool) (addr : Nat) (data : List Byte) : Statement (.bar2Access write addr data) := fun _ _ h => by cases h
theorem setDevnum (n : Nat) : Statement (.setDevnum n) := fun _ _ h => by cases h
theorem loadFirmwareImage (image : List Nat) (version : Nat) : Statement (.loadFirmwareImage image version) := fun _ _ h => by cases h
theorem readBootMeasurements : Statement .readBootMeasurements := fun _ _ h => by cases h
theorem cxlMailboxCommand (opcode payload : Nat) : Statement (.cxlMailboxCommand opcode payload) := fun _ _ h => by cases h
theorem boot : Statement .boot := fun _ _ h => by cases h
theorem alignExchange (port : Nat) (offset : Int) (partner : Nat) : Statement (.alignExchange port offset partner) := fun _ _ h => by cases h
theorem alignExchangeMissed (port : Nat) : Statement (.alignExchangeMissed port) := fun _ _ h => by cases h
theorem powerBrake (asserted : Bool) : Statement (.powerBrake asserted) := fun _ _ h => by cases h
theorem spdmRequest (ask : SpdmAsk) (payload : Nat) : Statement (.spdmRequest ask payload) := fun _ _ h => by cases h
theorem isavikWrite (dev : Nat) (addr : Nat) (data : List Byte) : Statement (.isavikWrite dev addr data) := fun _ _ h => by cases h
theorem voltageBinRaise (core : Nat) : Statement (.voltageBinRaise core) := fun _ _ h => by cases h

end Sys2Proof.Laws.RoundTrip
end

