-- ==== Sys2Proof/Tests/Slice0.lean ====
section
/-! SUPPORT. Tests of this author: ill-formed terms that WellFormed refuses, words that decode to what the spec's encoding says, states that meet the
hypotheses of each statement, and values worked by hand. -/

set_option maxRecDepth 4000

namespace Sys2Proof.Tests
open Machine

/-! ### Ill-formed terms are refused -/

/-- A head with no token action and p0. -/
def demoHead : Head := ⟨false, false, false, false, false, 0⟩
/-- Token fields that name no token. -/
def demoToks : Toks := ⟨63, 63, 63, 63⟩

/-- One ill-formed term for each limit on a scalar or control word (07 R131, R136, R143, R150, R151; 06 R105). -/
theorem test_wf_refuses_scalar :
    ∀ i ∈ [Instr.sext demoHead 1 2 0, .zext demoHead 1 2 65, .loop demoHead 1 0 0, .loop demoHead 1 4096 0, .loop demoHead 1 4 3,
      .ldx demoHead .s64 5 1 5 0, .ldxS demoHead .s64 5 1 5 0, .amo demoHead .add .w32 5 1 2 5, .cas demoHead .w64 5 1 2 5, .fence demoHead 0 1 .clu,
      .fence demoHead 1 0 .clu], i.wf = false := by decide

/-- One ill-formed term for each limit on a copy, load or store word (09 R215; 10 R239, R242; 11 R257). -/
theorem test_wf_refuses_memory :
    ∀ i ∈ [Instr.cpyG demoHead 1 2 0 4 5 demoToks .abuf .zero 0, .cpyG demoHead 1 2 9 4 5 demoToks .abuf .zero 0, .sclA demoHead 0 0 0 0 0,
      .sclB demoHead 0 0 33 0 0, .sclA demoHead 1 0 4 1 0, .vbrd demoHead .tf6 0 1 0 .abuf, .wstc demoHead 1 2 3 demoToks 32 .bf16 .rn .sat false,
      .wstc demoHead 1 2 3 demoToks 0 .f64 .rn .sat false, .wstc demoHead 1 2 3 demoToks 0 .bf16 .rn .trap false], i.wf = false := by decide

/-- One ill-formed term for each limit on a vector word (04 R64; 13 R272 to R291). -/
theorem test_wf_refuses_vector :
    ∀ i ∈ [Instr.vadd demoHead .c4 .rn .sat 0 1 2 .all, .vmul demoHead .i32 .rz .sat 0 1 2 .all, .vfma demoHead .i32 .rn .sat 0 1 2 .all,
      .vsqrt demoHead .i8 .rn .sat 0 1 .all, .vmin demoHead .c4 0 1 2 .all, .vabs demoHead .f32 .inf 0 1 .all, .vcmp demoHead .eq .i4 0 1 2 .all,
      .vsel demoHead .c4 0 1 2 0, .vand demoHead .f32 0 1 2 .all, .vshl demoHead .f32 0 1 2 .all, .vcvt demoHead .c4 .f32 .rn .sat 0 1 0 .all,
      .vred demoHead .and .f32 .rn .sat 0 1 .all, .vscan demoHead .min .f32 .rz .sat 0 1 .all, .vmov demoHead .c4 0 1 .all,
      .vperm demoHead .c4 0 1 2 .all, .vmovi demoHead .c4 0 1, .viota demoHead .f32 0 .all, .vqpop demoHead .c4 0 .all,
      .vclass demoHead .i32 0 1 .all, .vsplit demoHead 0 1 2 2 .all, .vsplit demoHead 0 1 2 9 .all, .vcombAcc demoHead 0 1 1 0 false .all,
      .vcombAcc demoHead 0 1 10 0 false .all], i.wf = false := by decide

/-- One ill-formed term for each limit on the other words (07 R158 to R170; 14 R296 to R312; 19 R341; 21 R358 to R367). -/
theorem test_wf_refuses_system :
    ∀ i ∈ [Instr.mma demoHead 32 0 0 .i8 .i8 .add false demoToks, .mma demoHead 0 0 0 .f64 .f64 .add false demoToks,
      .mmas demoHead 0 0 0 0 .f64 .f64 .add false demoToks, .mclr demoHead 32, .mldc demoHead 32 0 0, .mdrain demoHead 32 0 0 false demoToks,
      .mcomp demoHead 0 1 .bf16, .mbmp demoHead 0 1 .f64 0, .ttLoc demoHead 32 1, .clred demoHead .add .i8 .f64 0 1 2 3 4 5 demoToks,
      .csrr demoHead 1 0x004, .csrw demoHead 1 2 0x004, .cropen demoHead 8 0, .view demoHead 1 0 1, .scfg demoHead 0 0 10 0,
      .nestSet demoHead 0 6 0 1, .nestSet demoHead 0 0 5 1, .splAdmit demoHead 1 2 false 0 0, .splAdmit demoHead 1 2 false 2 0,
      .splRephase demoHead 1 2 0 0, .splQuery demoHead 1 2 4], i.wf = false := by decide

/-! ### Words written out from 04 R61 to R69 and the entries' own encodings -/

theorem test_decode_scalar :
    decode 0x022018600000000000000001 = some (.addi { demoHead with wf := true } 6 6 1) ∧
    decode 0x1A0000D00000000000000000 = some (.waitt demoHead 0x0D) ∧
    decode 0x200031534300000000000008 = some (.ldx demoHead .s64 0x0C 0x15 0x0D 8) ∧
    decode 0x280000000000000000010202 = some (.fence demoHead 2 2 .clu) := by
  refine ⟨?_, ?_, ?_, ?_⟩ <;> decide
theorem test_decode_engines :
    decode 0x300029455603FFFF11000000 = some (.cpyIn demoHead 0x0A 0x14 0x15 0x16 0 ⟨63, 63, 63, 4⟩ .abuf .handle 0) ∧
    decode 0x411030200500000000000000 = some (.vlds { demoHead with wb := true } 0x302 5) ∧
    decode 0x502000020001400100000400 = some (.vst { demoHead with wf := true } 0x200 0x14 0x400 .abuf) ∧
    decode 0x5400314540001FFFFC0002C0 = some (.wstc demoHead 0x0C 0x14 0x15 ⟨1, 63, 63, 63⟩ 0 .bf16 .rn .sat false) ∧
    decode 0x550000D00000000000000000 = some (.wdrain demoHead 0x0D) := by
  refine ⟨?_, ?_, ?_, ?_, ?_⟩ <;> decide
theorem test_decode_vector :
    decode 0x600020000310394000000000 = some (.vadd demoHead .f32 .rn .inf 0x200 0x003 0x103 .all) ∧
    decode 0x6E0000100010080200000000 = some (.vcmp demoHead .lt .f64 1 0x000 0x100 .all) ∧
    decode 0x830040000030080000000030 = some (.vsplit demoHead 0x400 0x000 0x300 3 .all) ∧
    decode 0x840060000000020000000030 = some (.vcombAcc demoHead 0x600 0x000 3 0 false .all) := by
  refine ⟨?_, ?_, ?_, ?_⟩ <;> decide
theorem test_decode_matrix :
    decode 0xA000000433000007FFFF0000 = some (.mma demoHead 0 0 1 .tf8 .tf8 .add false ⟨63, 63, 63, 1⟩) ∧
    decode 0xA4000D00000002FC1FFF0000 = some (.mdrain demoHead 3 0x400 2 false ⟨1, 63, 63, 63⟩) ∧
    decode 0xA8000850000000FFFFFF0000 = some (.ttLoc demoHead 2 5) := by
  refine ⟨?_, ?_, ?_⟩ <;> decide
theorem test_decode_collective_and_supervisor :
    decode 0xC1002945565FFFFF080009B0 = some (.clred demoHead .add .f32 .bf16 0 0x0A 0x14 0x15 0x16 0x17 ⟨63, 63, 63, 2⟩) ∧
    decode 0xC3001C800000000000000000 = some (.clstat demoHead 7 8) ∧
    decode 0xE0001C800005000000000002 = some (.splQuery demoHead 7 8 2) ∧
    decode 0xE80014600000000000000001 = some (.ctxSave demoHead 5 6 true) := by
  refine ⟨?_, ?_, ?_, ?_⟩ <;> decide
/-- The reserved bits of an ADD (04 R61; 07 R128), an unassigned opcode (04 R76) and a width of 65 (07 R131) are refused. -/
theorem test_decode_refuses :
    decode 0x010020000000000000000001 = none ∧ decode 0xFF0000000000000000000000 = none ∧
    decode (((0x06#8 ++ 0#88 : IWord) ||| (2 : IWord) <<< 50) ||| 65) = none := by
  refine ⟨?_, ?_, ?_⟩ <;> decide

/-! ### States that meet the hypotheses of the statements: `witness_<Name>` is of `Obligations.<Name>` -/

/-- Views of the demonstration strand: 0 vectors of 1024 bytes; 1 to 6 elements of 2, 4, 8, 16, 32 and 64 bytes. -/
def demoViews : Tab Word :=
  [(0, BitVec.ofNat 64 (64 * 2 ^ 36 + 1024 * 2 ^ 20)), (1, BitVec.ofNat 64 (256 * 2 ^ 36 + 2 * 2 ^ 20 + 2 ^ 16)),
    (2, BitVec.ofNat 64 (256 * 2 ^ 36 + 4 * 2 ^ 20 + 2 * 2 ^ 16)), (3, BitVec.ofNat 64 (256 * 2 ^ 36 + 8 * 2 ^ 20 + 3 * 2 ^ 16)),
    (4, BitVec.ofNat 64 (256 * 2 ^ 36 + 16 * 2 ^ 20 + 4 * 2 ^ 16)), (5, BitVec.ofNat 64 (256 * 2 ^ 36 + 32 * 2 ^ 20 + 5 * 2 ^ 16)),
    (6, BitVec.ofNat 64 (256 * 2 ^ 36 + 64 * 2 ^ 20 + 6 * 2 ^ 16))]
/-- A strand at the first body word of its section on every sequencer. -/
def demo : Strand :=
  let st := ((((Strand.atAdmission Place.whole [0, 0, 0, 0]).atWord .ct).atWord .ld).atWord .cp).atWord .st
  { st with sh := { st.sh with views := demoViews } }
/-- A strand with registers of one sequencer set. -/
def withX (st : Strand) (q : SeqId) (l : Tab Word) : Strand := st.setSeq q { st.seq q with x := l }
/-- A strand with poisoned CT registers. -/
def withPoison (st : Strand) (p : BitVec 64) : Strand := { st with ct := { st.ct with poison := p } }
/-- A strand in its handler. -/
def inHandler (st : Strand) : Strand := { st with run := { st.run with h := true } }
/-- The machine of the demonstration strand: a supervisor owner that owns every slot it can. -/
def demoChip : Chip := { Chip.reset with owners := [(0, Owner.whole 0)] }
/-- A machine at a sequencer of a strand in slot 0 of core 0. -/
def demoOn (m : Memory) (ch : Chip) (q : SeqId) (st : Strand) : State :=
  { mem := m, chip := { ch with strands := [(0, st)], cur := ⟨0, 0, q⟩ } }
/-- The same on the plain machine. -/
def demoAt (q : SeqId) (st : Strand) : State := demoOn [] demoChip q st

/-- A word without token actions, under p0, can issue there, whatever else the strand and the machine hold. -/
theorem ready_demoOn (m : Memory) (ch : Chip) (q : SeqId) (st : Strand) : Ready (demoOn m ch q st) demoHead q st :=
  ⟨rfl, rfl, by simp [Rings.ready, demoHead], by simp [demoHead, Strand.rp]⟩

theorem witness_AluResults : Ready (demoAt .cp demo) demoHead .cp demo ∧ (encode (.sltn demoHead 1 2 3)).isSome = true :=
  ⟨ready_demoOn .., by decide⟩
theorem witness_ProductsAndQuotients :
    let st := withX demo .ct [(2, 0x8000000000000000), (3, BitVec.allOnes 64)]
    Ready (demoAt .ct st) demoHead .ct st ∧ st.rx .ct 2 = 0x8000000000000000#64 ∧ st.rx .ct 3 = BitVec.allOnes 64 ∧ st.rx .ct 3 ≠ 0 ∧
      st.rx .ct 4 = 0 ∧ (encode (.remn demoHead 1 2 3)).isSome = true := by
  refine ⟨ready_demoOn .., ?_⟩; decide
theorem witness_BitCounts : Ready (demoAt .ld demo) demoHead .ld demo ∧ (1 ≤ (1#7).toNat ∧ (64#7).toNat ≤ 64) ∧
    ((0#7).toNat = 0 ∧ 64 < (65#7).toNat) ∧ (encode (.clz demoHead 1 2)).isSome = true ∧ (encode (.zext demoHead 1 2 64)).isSome = true :=
  ⟨ready_demoOn .., by decide⟩
theorem witness_TimeReads : Ready (demoAt .st demo) demoHead .st demo ∧ (encode (.gtsr demoHead 1)).isSome = true :=
  ⟨ready_demoOn .., by decide⟩
theorem witness_ImmediateAndPredicateWords :
    let st := withPoison demo 4
    Ready (demoAt .ct st) demoHead .ct st ∧ (st.px .ct 2 || st.px .ct 1) = true ∧ (st.px .ct 1 || st.px .ct 3) = false ∧
      (encode (.lih demoHead 1 0xFFFF)).isSome = true := by
  refine ⟨ready_demoOn .., ?_⟩; decide
theorem witness_Transfers :
    let st := withPoison demo 4
    let sq := st.ct
    let wait := { st with ct := { sq with pending := some 3 } }
    let slot := { st with ct := { sq with delay := true } }
    let ends := { st with ct := { sq with loops := [⟨1, 1, 2⟩] } }
    Ready (demoAt .ct st) demoHead .ct st ∧ (sq.pending = none ∧ sq.loops.head? = none) ∧ (st.px .ct 1 || st.px .ct 3) = false ∧
      (condHolds .eq (st.rx .ct 1) (st.rx .ct 3) = true ∧ condHolds .ne (st.rx .ct 1) (st.rx .ct 3) = false) ∧ st.px .ct 2 = true ∧
      (st.rp .ct 0 = true ∧ st.rp .ct 1 = false) ∧
      (targetOk [] 0 st .ct 0 = true ∧ targetOk [] 0 st .ct 8 = true ∧ targetOk [] 0 st .ct 9 = false) ∧
      (Ready (demoAt .ct wait) demoHead .ct wait ∧ wait.ct.pending ≠ none) ∧ (Ready (demoAt .ct slot) demoHead .ct slot ∧ slot.ct.delay = true ∧ sq.delay = false) ∧
      (Ready (demoAt .ct ends) demoHead .ct ends ∧ ends.ct.loops.head? = some ⟨1, ends.ct.pc, 2⟩) := by
  refine ⟨ready_demoOn .., by decide, by decide, by decide, by decide, by decide, by decide, ⟨ready_demoOn .., by decide⟩, ⟨ready_demoOn .., by decide⟩,
    ready_demoOn .., by decide⟩
theorem witness_NextWordsAndLoops :
    let st := withPoison demo 4
    let four := { st with ct := { st.ct with loops := List.replicate 4 ⟨1, 5, 2⟩ } }
    let slot (n : Nat) : Seq := { st.ct with pc := 5, pending := some 3, loops := [⟨1, 5, n⟩] }
    let comes := { st.place with coming := [3] }
    Ready (demoAt .ct st) demoHead .ct st ∧ (currentSection [] 0 st .ct).isSome = true ∧ st.ct.transferHere = true ∧
      ((currentSection [] 0 st .ct).map (·.lastPos) = some 8 ∧ st.ct.pc.toNat + 7 ≤ 8 ∧ ¬ st.ct.pc.toNat + 8 ≤ 8) ∧
      ((Instr.loop demoHead 0 7 0).WF ∧ (Instr.loop demoHead 2 7 0).WF) ∧ (st.px .ct 1 = false ∧ st.px .ct 2 = true) ∧
      (Ready (demoAt .ct four) demoHead .ct four ∧ four.ct.transferHere = true ∧ ¬ four.ct.loops.length < 4) ∧
      (st.place.isHdr 3 = false ∧ comes.isHdr 3 = true ∧ ((slot 1).advance st.place .next).loops = [] ∧ ((slot 2).advance st.place .next).loops = [⟨1, 5, 1⟩] ∧
        ((slot 2).advance comes .next).atHdr = true) := by
  refine ⟨ready_demoOn .., by decide, by decide, by decide, by decide, by decide, ⟨ready_demoOn .., by decide, by decide⟩, by decide⟩

/-- A pointer to a private, scratchpad (ABUF) or cluster-shared byte of core 0. -/
def privPtr (o : Nat) : Word := BitVec.ofNat 64 (0xE0 * 2 ^ 56 + o)
def abufPtr (o : Nat) : Word := BitVec.ofNat 64 (0xD0 * 2 ^ 56 + 2 ^ 20 + o)
def cluPtr (o : Nat) : Word := BitVec.ofNat 64 (0xC0 * 2 ^ 56 + o)
/-- A translation of page 1 of owner 0. -/
def demoPage : TlbEntry :=
  { owner := 0, page := 1, frame := 0x10000, r := true, w := true, repl := false, mig := false, peer := false, key := 0, leaf := 0 }
/-- A machine whose TLB maps page 1 of owner 0 to a page of HBM, and page 2 to a released page of a pool, and holds a faulted walk of page 3. -/
def demoTlb : Chip :=
  { demoChip with
    cores := [(0, { Core.fresh with tlb := [demoPage, { demoPage with page := 2, frame := 2 ^ 42 }] })]
    released := [(2 ^ 42, 2 ^ 42 + 65536)]
    walks := [{ core := 0, slot := 0, owner := 0, page := 3, write := false, doneBeat := 1, result := some (.xlatStage1, 3) }] }
/-- A machine with uncorrectable errors in the first sectors of core 0's register space and in its ABUF. -/
def badSram : Chip := { demoChip with sramBad := [rsAddr 0 / 64, (abufAddr 0 + 0x100) / 64] }
/-- CT registers of the demonstration strand that hold pointers: 1 private, 2 ABUF, 3 cluster-shared, 4 to 7 global (mapped, released,
faulting, missing), 8 null, 9 another core's ABUF; 10 is poisoned; 11 holds 64 and 12 a tile's extents. -/
def ptrStrand : Strand :=
  withPoison (withX demo .ct [(1, privPtr 0), (2, abufPtr 0x100), (3, cluPtr 0x100), (4, 0x10000), (5, 0x20000), (6, 0x30000), (7, 0x40000),
    (8, 0xFF00000000000000), (9, abufPtr 0x100 + 2 ^ 32), (11, 64), (12, 0x0001000100010040)]) 0x400
/-- Work of the demonstration strand. -/
def demoWork (k : WorkKind) (letter : Nat) : Work := ((demoAt .ct demo).ctx demo).work k letter true []
/-- A machine with one piece of work running. -/
def demoBusy (k : WorkKind) (letter : Nat) : Chip := { demoChip with works := [(1, demoWork k letter)], workNext := 2 }

theorem witness_WaitWords :
    let ch := demoBusy (.mma 0) 3
    let named := { demo with sh := { demo.sh with tokens := [(1, 1)] } }
    Ready (demoAt .cp demo) demoHead .cp demo ∧ Ready (demoAt .ct ptrStrand) demoHead .ct ptrStrand ∧ ptrStrand.px .ct 11 = false ∧ ptrStrand.px .ct 10 = true ∧
      demoChip.worksOf 0 0 = [] ∧ demo.sh.tokens.get? 1 = none ∧
      Ready (demoOn [] ch .cp named) demoHead .cp named ∧ named.sh.tokens.get? 1 = some 1 ∧ (ch.work? 1).map (·.seenDone ch.gts) = some false ∧
      (ch.worksOf 0 0).map (·.2.letters.promised) = [true] := by
  refine ⟨ready_demoOn .., ready_demoOn .., by decide, by decide, by decide, by decide, ready_demoOn .., by decide, by decide, by decide⟩
theorem witness_PointerLayoutsAndChecks :
    (ptrOf 0xFFFFFFFFFFFF = .global (2 ^ 48 - 1) ∧ ptrOf (2 ^ 48) = .bad ∧ ptrOf (cluPtr 0x3FFFF) = .cluster 0 0x3FFFF ∧ ptrOf (cluPtr 0x40000) = .bad ∧
      ptrOf (abufPtr 0x3FFFF) = .scratch 0 1 0x3FFFF ∧ ptrOf (abufPtr 0x40000) = .bad ∧ ptrOf (privPtr 0xFFFF) = .priv 0 0 0xFFFF ∧ ptrOf (privPtr 0x10000) = .bad) ∧
    (ptrAddBad (privPtr 0) (-1) = true ∧ ptrAddBad (privPtr 0xFFFF) 1 = true ∧ ptrAddBad (privPtr 0xFFF8) 7 = false) ∧
    (ptrOf (ptrAdd (BitVec.ofNat 64 (0xD0 * 2 ^ 56 + 2 * 2 ^ 20)) 0) = .scratch 0 2 0 ∧ (∃ c o, ptrOf (ptrAdd (abufPtr 0 + 2 ^ 32) 0) = .scratch c 1 o ∧ c ≠ 0) ∧
      (∃ c w o, ptrOf (ptrAdd (privPtr 0 + 2 ^ 32) 0) = .priv c w o ∧ (c ≠ 0 ∨ w ≠ demo.place.owner))) := by
  refine ⟨by decide, by decide, by decide, ⟨1, 0, by decide⟩, ⟨0, 1, 0, by decide⟩⟩
theorem witness_ScalarLoads :
    let x := (demoOn [] demoTlb .ct ptrStrand).ctx ptrStrand
    let goes (r : Reg) := reach x (ptrStrand.rx .ct r) 0 8 8 true false
    Ready (demoOn [] demoTlb .ct ptrStrand) demoHead .ct ptrStrand ∧ (Instr.ldx demoHead .s64 20 1 21 0).WF ∧ ptrStrand.px .ct 10 = true ∧ ptrStrand.px .ct 1 = false ∧
      goes 1 = .priv 0 ∧ goes 2 = .scratch 1 0x100 ∧ (demoTlb.sramBadAt (windowBase 0 ptrStrand) 8 = false ∧ badSram.sramBadAt (windowBase 0 ptrStrand) 8 = true ∧
        demoTlb.errorAt (scratchAddr 0 1 0x100) 8 = none ∧ badSram.errorAt (scratchAddr 0 1 0x100) 8 = some .sramUncorrected) ∧ goes 3 = .chip 0 0x100 ∧
      goes 4 = .global 0x10000 [demoPage] ∧ goes 5 = .fault .capacityReleased 0x20000 0 ∧ goes 6 = .fault .xlatStage1 0x30000 0 ∧ goes 7 = .miss 4 false ∧
      goes 8 = .fault .windowInvalid 0xFF00000000000000 0 ∧ goes 9 = .fault .scratchForeign (abufPtr 0x100 + 2 ^ 32) 0 := by
  refine ⟨ready_demoOn .., by decide, by decide, by decide, by decide, by decide, by decide, by decide, by decide, by decide, by decide, by decide, by decide, by decide⟩
theorem witness_ScalarStores :
    let x := (demoOn [] demoTlb .ct ptrStrand).ctx ptrStrand
    let goes (r : Reg) := reach x (ptrStrand.rx .ct r) 0 4 4 false true
    Ready (demoOn [] demoTlb .ct ptrStrand) demoHead .ct ptrStrand ∧ ptrStrand.px .ct 10 = true ∧ ptrStrand.px .ct 1 = false ∧
      goes 1 = .priv 0 ∧ goes 2 = .scratch 1 0x100 ∧ goes 3 = .chip 0 0x100 ∧ goes 4 = .global 0x10000 [demoPage] ∧ goes 7 = .miss 4 true ∧
      goes 9 = .fault .scratchForeign (abufPtr 0x100 + 2 ^ 32) 0 := by
  refine ⟨ready_demoOn .., by decide, by decide, by decide, by decide, by decide, by decide, by decide, by decide⟩
theorem witness_PointerWords :
    let st := { ptrStrand with sh := { ptrStrand.sh with granules := 2 } }
    Ready (demoAt .ct st) demoHead .ct st ∧ st.px .ct 1 = false ∧ st.px .ct 10 = true ∧ st.checkOperands [vsrc 0] = none ∧
      st.poisonedRange (st.opAddr 0) 1024 = true ∧ ptrStrand.poisonedRange (ptrStrand.opAddr 0) 1024 = false ∧
      [8, 4, 3, 2, 9, 1].map (fun r => spaceCode 0 st (st.rx .ct r)) = [7, 0, 1, 2, 3, 4] ∧
      (st.rx .ct 2).extractLsb' 56 8 = winCode .scratch ∧ ptrOf (st.rx .ct 2) = .scratch 0 1 0x100 ∧ ptrOf (st.rx .ct 3) = .cluster (inCluster 0) 0x100 := by
  refine ⟨ready_demoOn .., by decide, by decide, by decide, by decide, by decide, by decide, by decide, by decide, by decide⟩
theorem witness_Atomics :
    let x := (demoOn [] demoTlb .ct ptrStrand).ctx ptrStrand
    let goes (r : Reg) := reach x (ptrStrand.rx .ct r) 0 8 8 true true
    Ready (demoOn [] demoTlb .ct ptrStrand) demoHead .ct ptrStrand ∧ (Instr.amo demoHead .add .w64 20 3 11 21).WF ∧ (Instr.cas demoHead .w64 11 3 12 21).WF ∧
      ptrStrand.px .ct 10 = true ∧ ptrStrand.px .ct 3 = false ∧ (ptrStrand.px .ct 11 || ptrStrand.px .ct 10) = true ∧
      (∃ k o, ptrOf (ptrStrand.rx .ct 3) = .cluster k o) ∧ ptrOf (ptrStrand.rx .ct 1) = .priv 0 0 0 ∧ goes 3 = .chip 0 0x100 ∧
      goes 4 = .global 0x10000 [demoPage] ∧ goes 7 = .miss 4 true ∧ goes 5 = .fault .capacityReleased 0x20000 0 ∧ (2 ^ 64 - 1 : Nat) < 2 ^ (8 * 8) := by
  refine ⟨ready_demoOn .., by decide, by decide, by decide, by decide, by decide, ⟨0, 0x100, by decide⟩, by decide, by decide, by decide, by decide, by decide, by decide⟩
theorem witness_FencesAndMonitors :
    let ch := demoBusy (.access (.store [0]) (abufAddr 1) []) 1
    let s := demoOn [] ch .ct demo
    let waits := { demo with ct := { demo.ct with wait := .fence 0 [1] } }
    let armed := { ptrStrand with monitors := [⟨5, false, false, []⟩] }
    let late := { armed with run := { armed.run with tau := 1048576 }, ct := { armed.ct with wait := .mwait 0 } }
    let held := { inHandler armed with run := { (inHandler armed).run with hclk := 1048576 }, ct := { armed.ct with wait := .mwait 0 } }
    let mem := Memory.write [] (istoreAddr 0 + 12) (bytesOfWord ((encode (.mwait demoHead 1)).getD 0))
    Ready s demoHead .ct demo ∧ (Instr.fence demoHead 2 1 .clu).WF ∧ (∀ t l, demo.ct.wait ≠ .fence t l) ∧
      predecessors (s.ctx demo) (fun k => k.letters.bits &&& 2 != 0#6) .clu = [1] ∧ performedAt ch 1 .clu = false ∧
      predecessors ((demoAt .ct demo).ctx demo) (fun k => k.letters.bits &&& 2 != 0#6) .clu = [] ∧
      (Ready (demoOn [] ch .ct waits) demoHead .ct waits ∧ waits.ct.wait = .fence 0 [1]) ∧
      Ready (demoOn [] demoTlb .ct armed) demoHead .ct armed ∧ armed.px .ct 10 = true ∧ armed.px .ct 3 = false ∧
      checkPtr 0 armed (armed.rx .ct 3) 0 1 1 = .ok (.cluster 0 0x100) ∧ checkPtr 0 armed (armed.rx .ct 4) 0 1 1 = .ok (.global 0x10000) ∧
      (∃ a n e l, translate demoTlb 0 0 0 0x10000 1 false = .hit ((a, n, e) :: l) ∧ demoTlb.releasedAt a = false) ∧
      ptrOf (armed.rx .ct 1) = .priv 0 0 0 ∧ demo.monitors = [] ∧ (armed.monitors ≠ [] ∧ (∀ m ∈ armed.monitors, m.fired = false ∧ m.restored = false) ∧ ¬ 0 + 1048576 ≤ armed.run.tau) ∧
      (Ready (demoOn mem demoChip .ct late) demoHead .ct late ∧ 0 + 1048576 ≤ late.run.tau ∧ late.ct.wait = .mwait 0 ∧
        decode (wordAt mem 0 late.place late.ct.pc.toNat) = some (.mwait demoHead 1)) ∧
      (Ready (demoOn mem demoChip .ct held) demoHead .ct held ∧ held.run.h = true ∧ 0 + 1048576 ≤ held.run.hclk) := by
  refine ⟨ready_demoOn .., by decide, (by intro t l h; cases h), by decide, by decide, by decide, ⟨ready_demoOn .., by decide⟩, ready_demoOn .., by decide, by decide,
    rfl, rfl, ⟨_, _, _, _, rfl, by decide⟩, by decide, by decide, by decide, ⟨ready_demoOn .., by decide⟩, ready_demoOn .., by decide⟩
theorem witness_Barriers :
    let ch := demoBusy (.access (.txbWait 0 true true) (abufAddr 0 + 0x100) []) 5
    let st := withX demo .ct [(2, abufPtr 0x100), (3, cluPtr 0x100), (11, 64)]
    let waits := { st with ct := { st.ct with wait := .txb 1 } }
    Ready (demoAt .ct st) demoHead .ct st ∧ st.px .ct 2 = false ∧ barrierPtr 0 (st.rx .ct 2) = .ok (0, abufAddr 0 + 0x100, true) ∧
      barrierPtr 0 (st.rx .ct 3) = .ok (0, abufAddr 0 + 0x100, false) ∧ ((demoChip.owner st.place.owner).stride .mesh).isSome = true ∧
      (st.rx .ct 11).extractLsb' 0 48 ≠ 0 ∧ (st.rx .ct 12).extractLsb' 0 48 = 0 ∧ (∀ w, st.ct.wait ≠ .txb w) ∧
      (Ready (demoOn [] ch .ct waits) demoHead .ct waits ∧ waits.ct.wait = .txb 1 ∧
        (ch.work? 1).map (fun k => (k.overAt ch.gts, k.steps.isEmpty)) = some (false, true)) ∧
      (Barrier.init (0x0000000100000001)).apend = 1 := by
  refine ⟨ready_demoOn .., by decide, by decide, by decide, by decide, by decide, by decide, (by intro w h; cases h), ⟨ready_demoOn .., by decide, by decide⟩, by decide⟩

/-- Memory with one handle at index 0: 64 bytes of I8 at a pool address, readable and writable by owner 0. -/
def demoMem : Memory :=
  Memory.write [] 0 (leBytes 8 (2 ^ 42 + 3 * 2 ^ 54 + 2 ^ 63) ++ leBytes 8 (64 + 2 ^ 16 + 2 ^ 32 + 2 ^ 48) ++ List.replicate 24 0 ++ leBytes 8 (2 ^ 48) ++
    List.replicate 16 0)
/-- A machine with a handle table of one entry. -/
def demoHandles : Chip := { demoChip with parts := [(0, { Part.reset with htlen := 1 })] }
/-- That handle. -/
def demoHandle : Handle :=
  { fmt := .i8, ndim := 0, base := 2 ^ 42, dims := [64, 1, 1, 1], strides := [0, 0, 0], padv := 0, key := 0, ilv := 0, va := 0 }
/-- A copy of the demonstration strand. -/
def demoCopy : WorkKind := .copy 0 demoHandle .abuf 0 0 64 [(true, 2 ^ 42)] .handle [0] 0
/-- A machine with 32 copies open. -/
def demoFull : Chip :=
  { demoHandles with works := (List.range 32).map (fun i => (i + 1, demoWork demoCopy 2)), workNext := 33 }

theorem witness_CopyWords :
    let st := withX ptrStrand .ct [(2, abufPtr 0x100), (3, cluPtr 0x100), (11, 64), (12, 0x0001000100010040), (13, 0x0001000000400000), (14, BitVec.ofNat 64 (1 + 2 ^ 24))]
    let s := demoOn demoMem demoHandles .ct st
    Ready s demoHead .ct st ∧ readHandle demoMem demoHandles (demoHandles.part 0) 0 (st.rx .ct 1) = some (demoHandle, true, true) ∧
      classOf (s.ctx st) demoHandle 0 = none ∧ (openCopies (s.ctx st)).length < 32 ∧ (∀ r ∈ [1, 0, 12, 2], st.px .ct r = false) ∧
      copyBarrier (s.ctx st) 0 = .ok none ∧ copyBarrier (s.ctx st) 2 = .ok (some (abufAddr 0 + 0x100)) ∧
      extentBad demoHandle (fields16 (st.rx .ct 0)) (fields16 (st.rx .ct 12)) = false ∧
      (4095 * 64 + footprint demoHandle 64 1 ≤ bufSize .abuf ∧ ¬ 4096 * 64 + footprint demoHandle 64 1 ≤ bufSize .abuf) ∧
      (Instr.cpyG demoHead 20 1 16 13 0 demoToks .abuf .zero 0).WF ∧ ((st.rx .ct 13).extractLsb' 48 8).toNat = 1 ∧ (st.rx .ct 13).extractLsb' 56 8 = 0 ∧
      ((withPoison st 2).px .ct 1 = true ∧ ∀ i < 8, 4 * i < 1 → (withPoison st 2).px .ct (0 + BitVec.ofNat 6 i) = false) ∧
      multicastDests (s.ctx st) (st.rx .ct 14) = some [0] ∧
      (ptrOf (st.rx .ct 3) = .cluster 0 0x100 ∧ ptrOf (st.rx .ct 2) ≠ .cluster 0 0x100 ∧ 0x100 % 64 = 0 ∧ (st.rx .ct 11).toNat = 64 ∧ ((s.chip.owner 0).stride .mesh).isSome = true) := by
  refine ⟨ready_demoOn .., ?_⟩; decide
theorem witness_CopyStartsAndChecks :
    let st := withX ptrStrand .ct [(1, 0), (2, abufPtr 0x100), (5, 5), (6, 64 * 2 ^ 48), (9, cluPtr 0x3FFF8), (12, 0x0001000100010040), (13, 0x0001000100010041)]
    let s := demoOn demoMem demoHandles .ct st
    let full := demoOn demoMem demoFull .ct st
    let x := s.ctx st
    let read (r : Reg) := readHandle demoMem demoHandles (demoHandles.part 0) 0 (st.rx .ct r)
    Ready s demoHead .ct st ∧ st.px .ct 10 = true ∧ (∀ r ∈ [1, 0, 12, 2], st.px .ct r = false) ∧
      (read 5 = none ∧ read 1 = some (demoHandle, true, true)) ∧
      (extentBad demoHandle (fields16 (st.rx .ct 6)) (fields16 (st.rx .ct 12)) = true ∧ extentBad demoHandle (fields16 (st.rx .ct 0)) (fields16 (st.rx .ct 12)) = false) ∧
      (bufSize .abuf < 4096 * 64 + footprint demoHandle 64 (tileRowList demoHandle (fields16 0) (fields16 (st.rx .ct 12))).length ∧
        ¬ bufSize .abuf < 4095 * 64 + footprint demoHandle 64 (tileRowList demoHandle (fields16 0) (fields16 (st.rx .ct 12))).length) ∧
      copyBarrier x 9 = .error (.align, cluPtr 0x3FFF8) ∧ copyBarrier x 2 = .ok (some (abufAddr 0 + 0x100)) ∧
      (Ready full demoHead .ct st ∧ 32 ≤ (openCopies (full.ctx st)).length ∧ classOf (full.ctx st) demoHandle (st.rx .ct 1) = none) := by
  refine ⟨ready_demoOn .., by decide, by decide, by decide, by decide, by decide, by decide, by decide, ready_demoOn .., by decide, by decide⟩
theorem witness_CopyStartsAndChecks_plan :
    let c : CopyPlan := { kind := demoCopy, plan := fun p _ => p, locks := [(0, 0, 64)], waits := [], total := 1, counted := 0, bar := none, fa := 0 }
    c.bar = none ∧ ∀ p b, { (c.plan p b).chip with chans := p.chip.chans } = p.chip := ⟨rfl, fun _ _ => rfl⟩
theorem witness_CopyControlAndSections :
    let named := { ptrStrand with sh := { ptrStrand.sh with tokens := [(1, 1)] } }
    let ch := { demoHandles with works := [(1, { demoWork demoCopy 2 with produces := some 1 })], workNext := 2 }
    let x := (demoOn [] ch .ct named).ctx named
    let full := { ptrStrand with sh := { ptrStrand.sh with q3 := List.replicate 16 0 } }
    let o := demoTlb.owner 0
    let go (k : Nat) := reachGlobal demoTlb 0 0 ptrStrand o 0x10000 k true false (ptrStrand.rx .ct 4)
    Ready (demoOn [] ch .ct named) demoHead .ct named ∧ (openCopies x).length = 1 ∧ latestProducer x Work.isCopy 2 = none ∧
      (latestProducer x Work.isCopy 1).isSome = true ∧ Ready (demoOn [] demoTlb .ct ptrStrand) demoHead .ct ptrStrand ∧
      (ptrStrand.px .ct 4 = false ∧ ptrOf (ptrStrand.rx .ct 4) = .global 0x10000 ∧ go 12 = .global 0x10000 [demoPage] ∧ go (12 * 1) = .global 0x10000 [demoPage]) ∧
      (1000 + 1 ≤ positions ptrStrand.place.iskb) ∧ (∀ q ∈ [SeqId.ct, .ld, .cp, .st], ¬ (1000 ≤ (ptrStrand.seq q).pc.toNat ∧ (ptrStrand.seq q).pc.toNat < 1001)) ∧
      (∀ q ∈ [SeqId.ct, .ld, .cp, .st], ((ptrStrand.seq q).sec.map (fun k => decide (k.lastPos + 1 < 1000))) = some true) ∧
      ptrStrand.px .ct 10 = true ∧ (prereqMet ptrStrand.ct.ret 0xFFF = true ∧ prereqMet ptrStrand.ct.ret 1 = false) ∧
      (ptrStrand.sh.q3.length < 16 ∧ Ready (demoAt .ct full) demoHead .ct full ∧ 16 ≤ full.sh.q3.length) := by
  refine ⟨ready_demoOn .., by decide, by decide, by decide, ready_demoOn .., by decide, by decide, by decide, by decide, by decide, by decide, by decide,
    ready_demoOn .., by decide⟩
theorem witness_CsrAccess :
    let user := { demo with place := { demo.place with sup := false } }
    let st := withPoison demo 4
    Ready (demoAt .ct st) demoHead .ct st ∧ Ready (demoAt .ct user) demoHead .ct user ∧ (Instr.csrw demoHead 1 2 0x001).WF ∧
      (csrReach 0x001 true = true ∧ csrReach 0x800 true = true ∧ csrReach 0x800 user.place.sup = false) ∧ (st.px .ct 2 = true ∧ st.px .ct 1 = false) ∧
      (((4 : Word).extractLsb' 0 3).toNat ≤ 4 ∧ 4 < ((5 : Word).extractLsb' 0 3).toNat) ∧ ((2 : Word).extractLsb' 0 2 ≠ 3 ∧ (3 : Word).extractLsb' 0 2 = 3) ∧
      (tolOk 0x3A800000 = true ∧ tolOk 0x7FC00000 = false) := by
  refine ⟨ready_demoOn .., ready_demoOn .., by decide, by decide, by decide, by decide, by decide, by decide⟩
theorem witness_SystemAndRegionWords :
    let hs := inHandler demo
    let ch := { demoChip with works := [(1, { demoWork demoCopy 2 with inH := true, region := some 2 })], workNext := 2 }
    let p : Preempt := { ctx := 0, g := 0, windowEnd := 1, gf := 0, unit := 0, unitDue := 0, since := 0, issuer := none }
    let win := { demoChip with owners := [(0, { Owner.whole 0 with state := .window, preempt := some p })] }
    let wait := { demo with ct := { demo.ct with pending := some 3 } }
    let slot := { demo with ct := { demo.ct with delay := true } }
    let open2 := { demo with regions := [⟨2, 3⟩] }
    let full := { demo with regions := (List.range 8).map (fun n => ⟨n, 3⟩) }
    let busy (ch : Chip) := (ch.worksOf 0 0).any (fun e => e.2.inH && !e.2.seenDone ch.gts)
    (Ready (demoAt .ct demo) demoHead .ct demo ∧ demo.run.h = false ∧ (demoChip.owner 0).state ≠ .window) ∧
      (Ready (demoAt .ct hs) demoHead .ct hs ∧ hs.run.h = true ∧ busy demoChip = false) ∧ (Ready (demoOn [] ch .ct hs) demoHead .ct hs ∧ busy ch = true) ∧
      (Ready (demoOn [] win .ct demo) demoHead .ct demo ∧ (win.owner 0).state = .window ∧ (win.owner 0).preempt = some p ∧ p.g ≤ win.gts ∧ win.gts < p.windowEnd) ∧
      (Instr.cropen demoHead 7 0).WF ∧ (targetOk [] 0 demo .ct 8 = true ∧ targetOk [] 0 demo .ct 9 = false) ∧
      (Ready (demoAt .ct wait) demoHead .ct wait ∧ wait.ct.pending ≠ none) ∧ (Ready (demoAt .ct slot) demoHead .ct slot ∧ slot.ct.delay = true) ∧
      (demo.ct.pending = none ∧ demo.ct.delay = false ∧ demo.regions = [] ∧ demo.innermost ≠ some 2) ∧
      (Ready (demoOn [] ch .ct open2) demoHead .ct open2 ∧ open2.innermost = some 2 ∧
        (ch.worksOf 0 0).any (fun e => e.2.region == some 2 && !e.2.seenDone ch.gts) = true ∧
        (demoChip.worksOf 0 0).any (fun e => e.2.region == some 2 && !e.2.seenDone demoChip.gts) = false) ∧
      (Ready (demoAt .ct full) demoHead .ct full ∧ ¬ full.regions.length < 8) := by
  refine ⟨⟨ready_demoOn .., by decide⟩, ⟨ready_demoOn .., by decide⟩, ⟨ready_demoOn .., by decide⟩, ⟨ready_demoOn .., by decide⟩, by decide, by decide,
    ⟨ready_demoOn .., by decide⟩, ⟨ready_demoOn .., by decide⟩, by decide, ⟨ready_demoOn .., by decide⟩, ready_demoOn .., by decide⟩
theorem witness_ConfigWords :
    let st := withX demo .ct [(1, BitVec.ofNat 64 (2 ^ 36)), (2, BitVec.allOnes 64)]
    let pend := { st with sh := { st.sh with nest := { st.sh.nest with pendingShadow := true } } }
    Ready (demoAt .ct st) demoHead .ct st ∧ ((Instr.view demoHead 1 0 0).WF ∧ viewListed (st.rx .ct 1) = true ∧ viewListed (st.rx .ct 2) = false) ∧
      ((Instr.scfg demoHead 0 15 9 0).WF ∧ (Instr.scfg demoHead 2 0 0 0).WF ∧ streamValueListed 9 0 = true ∧ streamValueListed 0 (st.rx .ct 2) = false) ∧
      ((Instr.nestSet demoHead 0 5 0x1F 0).WF ∧ (Instr.nestSet demoHead 2 0 0 0).WF ∧ nestValueListed 0x1F 0 = true ∧ nestValueListed 0 (st.rx .ct 2) = false) ∧
      st.sh.nest.pendingShadow = false ∧ Ready (demoAt .ct pend) demoHead .ct pend ∧ pend.sh.nest.pendingShadow = true := by
  refine ⟨ready_demoOn .., by decide, by decide, by decide, by decide, ready_demoOn .., by decide⟩

/-- A strand with streams 0 to 2 (ABUF, aligned; ABUF, misaligned; WBUF), LD registers 1 = 64, 2 = 8, 3 to the last byte, ST likewise. -/
def bufStrand : Strand :=
  let st := withX (withX demo .ld [(1, 64), (2, 8), (3, 0x3FC40)]) .st [(1, 64), (2, 8), (3, 0x3FC40), (5, privPtr 0), (6, abufPtr 0x400), (7, 0x10000)]
  { st with sh := { st.sh with streams := [(0, { Stream.zero with buf := 1, rstride := 64 }), (1, { Stream.zero with buf := 1, base := 8 })] } }
/-- The same with every granule poisoned. -/
def dirtyStrand : Strand := { bufStrand with sh := { bufStrand.sh with granules := BitVec.allOnes 1024 } }

theorem witness_BufferLoads :
    let sr := bufStrand.stream 0
    (checkRuns 128 [(64, 64)] = none ∧ checkRuns 128 [(65, 64)] = some (.align, 65) ∧ checkRuns 128 [(64, 65)] = some (.streamRange, 128)) ∧
      Ready (demoAt .ld bufStrand) demoHead .ld bufStrand ∧ bufStrand.checkOperands [vdst 0] = none ∧
      ((bufStrand.rx .ld 1).toNat + 0) % 64 = 0 ∧ ((bufStrand.rx .ld 2).toNat + 0) % 64 ≠ 0 ∧
      ((bufStrand.rx .ld 3).toNat % 64 = 0 ∧ bufSize .abuf < (bufStrand.rx .ld 3).toNat + 1024 ∧ (bufStrand.rx .ld 1).toNat + 1024 ≤ bufSize .abuf) ∧
      ((Instr.vbrd demoHead .i16 0 2 0 .abuf).WF ∧ (bufStrand.rx .ld 2).toNat % tySize .i16 = 0 ∧ demoChip.poisonedAt (abufAddr 0 + 8) 2 = false) ∧
      checkRuns (bufSize sr.buffer) [(sr.at0, 1024)] = none ∧ bufStrand.checkOperands [vdst 0, esrc 0x500 5] = none ∧
      bufStrand.poisonedRange (bufStrand.opAddr 0x500) 32 = false ∧ (bufStrand.stream 2).buffer = .wbuf ∧ sr.buffer = .abuf ∧
      checkRuns (bufSize .abuf) ((List.range 16).map (fun _ => (sr.at0, 64))) = none ∧
      (Ready (demoAt .ld dirtyStrand) demoHead .ld dirtyStrand ∧ dirtyStrand.poisonedRange (dirtyStrand.opAddr 0x500) 32 = true) := by
  refine ⟨by decide, ready_demoOn .., by decide, by decide, by decide, by decide, by decide, by decide, by decide, by decide, by decide, by decide, by decide,
    ready_demoOn .., by decide⟩
theorem witness_PointerAndQueueLoads :
    let st := withX bufStrand .ld [(1, privPtr 0), (2, abufPtr 0x400), (3, cluPtr 0x400), (4, 0x10000), (5, 0x20000), (7, 0x40000), (11, 0x10000), (12, 0x3FFFF)]
    let x := (demoOn [] demoTlb .ld st).ctx st
    let goes (r : Reg) := reach x (st.rx .ld r) 0 1024 64 true false
    let load := { demoWork (.access (.vload 0 false) (abufAddr 1) []) 0 with q := .ld }
    let full := { demoTlb with works := (List.range 16).map (fun i => (i + 1, load)), workNext := 17 }
    let q0 := { st with sh := { st.sh with q0 := List.replicate 8 [] } }
    let q1 := { st with sh := { st.sh with q1 := List.replicate 481 0 } }
    Ready (demoOn [] demoTlb .ld st) demoHead .ld st ∧ st.checkOperands [vdst 0] = none ∧
      (goes 1 = .priv 0 ∧ goes 2 = .scratch 1 0x400 ∧ goes 3 = .chip 0 0x400 ∧ goes 4 = .global 0x10000 [demoPage] ∧ goes 7 = .miss 4 false ∧
        goes 5 = .fault .capacityReleased 0x20000 0) ∧ (st.granuleBits 0 1024).any id = false ∧
      (sectorPoison demoTlb (scratchAddr 0 1 0x400) 1024).any id = false ∧ openLoads x < 16 ∧
      (Ready (demoOn [] full .ld st) demoHead .ld st ∧ ¬ openLoads ((demoOn [] full .ld st).ctx st) < 16) ∧
      (st.checkOperands [esrc 0x600 6] = none ∧ st.poisonedRange (st.opAddr 0x600) 64 = false ∧ st.sh.q0.length < 8) ∧
      (Ready (demoAt .ld q0) demoHead .ld q0 ∧ 8 ≤ q0.sh.q0.length) ∧ ((Instr.sclA demoHead 12 0 32 0 0).WF ∧ (Instr.sclB demoHead 0 0 32 7 0xFFFF).WF) ∧
      ((st.rx .ld 12).extractLsb' 32 32 = 0 ∧ bufSize .abuf < (0xFFFF + 3 * 0x10000) + 32 ∧ 0 + 32 ≤ bufSize .abuf) ∧
      (Ready (demoAt .ld q1) demoHead .ld q1 ∧ 512 < q1.sh.q1.length + 32 ∧ st.sh.q1.length + 32 ≤ 512) := by
  refine ⟨ready_demoOn .., by decide, by decide, by decide, by decide, by decide, ⟨ready_demoOn .., by decide⟩, by decide, ⟨ready_demoOn .., by decide⟩,
    by decide, by decide, ready_demoOn .., by decide⟩
theorem witness_BufferStores :
    let st := bufStrand
    let sr := st.stream 0
    let to_ (r : Reg) := checkPtr 0 st (st.rx .st r) 0 1024 64
    Ready (demoAt .st st) demoHead .st st ∧ st.checkOperands [vsrc 0] = none ∧ st.poisonedRange (st.opAddr 0) 1024 = false ∧
      ((st.rx .st 2).toNat % 64 ≠ 0 ∧ (st.rx .st 1).toNat % 64 = 0 ∧ (st.rx .st 1).toNat + 1024 ≤ 0x40000 ∧ 0x40000 < (st.rx .st 3).toNat + 1024) ∧
      (to_ 5 = .ok (.priv 0) ∧ to_ 6 = .ok (.scratch 1 0x400) ∧ to_ 2 = .error (.align, 8)) ∧ st.checkOperands [vsrc 0, esrc 0x520 5] = none ∧
      st.poisonedRange (st.opAddr 0x520) 32 = false ∧ sr.buffer = .abuf ∧ checkRuns 0x40000 ((List.range 16).map (fun _ => (sr.at0, 64))) = none ∧
      (Ready (demoAt .st dirtyStrand) demoHead .st dirtyStrand ∧ dirtyStrand.poisonedRange (dirtyStrand.opAddr 0) 1024 = true) := by
  refine ⟨ready_demoOn .., by decide, by decide, by decide, by decide, by decide, by decide, by decide, by decide, ready_demoOn .., by decide⟩
/-- A strand that may use its lane: budget left. -/
def laneStrand : Strand :=
  let st := withX demo .st [(1, 0), (3, 0x0001000100010040), (5, cluPtr 0x400), (6, 64), (7, 0x10000)]
  { st with lane := { st.lane with brem := 2048 } }
theorem witness_LaneStores :
    let st := laneStrand
    let s := demoOn demoMem { demoTlb with parts := demoHandles.parts } .st st
    let x := s.ctx st
    Ready s demoHead .st st ∧ st.checkOperands [vsrc 0] = none ∧ readHandle demoMem s.chip (s.chip.part 0) 0 (st.rx .st 1) = some (demoHandle, true, true) ∧
      extentBad demoHandle (fields16 0) (fields16 (st.rx .st 3)) = false ∧ footprint demoHandle 64 1 ≤ 1024 ∧ st.poisonedRange (st.opAddr 0) 64 = false ∧
      laneTest x 64 = none ∧ classOf x demoHandle 0 = none ∧ checkPtr 0 st (st.rx .st 5) 0 64 64 = .ok (.cluster 0 0x400) ∧ (st.rx .st 6).toNat = 64 ∧
      ((s.chip.owner 0).stride .mesh).isSome = true ∧ checkPtr 0 st (st.rx .st 7) 0 1024 64 = .ok (.global 0x10000) ∧ laneTest x 1024 = none ∧
      reachGlobal s.chip 0 0 st (s.chip.owner 0) 0x10000 1024 false true 0x10000 = .global 0x10000 [demoPage] ∧
      (Instr.wstc demoHead 20 1 0 demoToks 31 .i8 .rn .sat false).WF ∧ matrixPort x [31] = none ∧ demoHandle.fmt = .i8 := by
  refine ⟨ready_demoOn .., by decide, by decide, by decide, by decide, by decide, rfl, rfl, by decide, by decide, by decide, by decide, rfl, by decide, by decide, rfl, rfl⟩
theorem witness_LaneTestsAndWaits :
    let st := laneStrand
    let x := (demoAt .st st).ctx st
    let e : LaneStore := { num := 1, work := 1, staged := 1024, beats := 32, sent := 0, notBefore := 0 }
    let fullSt := { st with lane := { st.lane with queue := List.replicate 16 e, wissued := 3, wdone := 2 } }
    let full := (demoAt .st fullSt).ctx fullSt
    let retry (f b : Bool) (t : Option Nat) := { fullSt with st := { fullSt.st with wait := .laneRetry f b t } }
    let late := { retry false true (some 0) with run := { fullSt.run with tau := 65536 } }
    let empty := { st with lane := { st.lane with brem := 0, lanebud := 0x0000000000000001 } }
    let ch := demoBusy (.laneStore 1 [] 0 0 [] true) 1
    let fences := { st with st := { st.st with wait := .fence 0 [1] } }
    (31 : Nat) + 31 < 64 ∧ (x.owner.stride .wlane).isNone = false ∧
      ((st.lane.brem < (65536 + 31 + 32) / 32) ∧ ¬ (st.lane.brem < (65536 + 31) / 32)) ∧ (∀ f b t, x.sq.wait ≠ .laneRetry f b t) ∧ ¬ (16 ≤ st.lane.queue.length) ∧
      (16 ≤ fullSt.lane.queue.length ∧ (∀ f b t, full.sq.wait ≠ .laneRetry f b t) ∧ (∀ u, full.sq.wait ≠ .laneFull u)) ∧ (retry true true none).st.wait = .laneRetry true true none ∧
      (late.st.wait = .laneRetry false true (some 0) ∧ 0 + laneBpwait late.lane ≤ late.run.tau ∧ (retry false true (some 0)).run.tau < 0 + laneBpwait fullSt.lane) ∧
      (empty.lane.brem < 1 ∧ 1 ≤ empty.lane.lanebud.toNat % 2 ^ 32 ∧ ¬ 2 ≤ empty.lane.lanebud.toNat % 2 ^ 32) ∧
      Ready (demoAt .st fullSt) demoHead .st fullSt ∧ (fullSt.lane.wissued < 4 ∧ 3 ≤ fullSt.lane.wissued ∧ fullSt.lane.wdone < 3 ∧ 2 ≤ fullSt.lane.wdone) ∧
      (Ready (demoOn [] ch .st fences) demoHead .st fences ∧ fences.st.wait = .fence 0 [1] ∧ performedAt ch 1 .pkg = false) ∧
      predecessors ((demoAt .st st).ctx st) Work.isLane .pkg = [] := by
  refine ⟨by decide, by decide, by decide, (by intro f b t h; cases h), by decide, ⟨by decide, (by intro f b t h; cases h), (by intro u h; cases h)⟩, rfl, by decide, by decide, ready_demoOn .., by decide,
    ⟨ready_demoOn .., by decide⟩, by decide⟩
/-- Memory whose first F32 of the window of core 0 is a signalling NaN. -/
def snanMem : Memory := Memory.write [] (rsAddr 0) (leBytes 4 0x7F800001)
theorem witness_LaneArithmetic :
    let x := (demoOn snanMem demoChip .cp demo).ctx demo
    let lanes (sp : Spec) := snanLane x .f32 (laneOn x .all 4) [elemsOf x sp 4]
    Ready (demoOn snanMem demoChip .cp demo) demoHead .cp demo ∧ demo.checkOperands ([vsrc 0, vsrc 1] ++ [vdst 2]) = none ∧ lanes 0 = some 0 ∧ lanes 1 = none ∧
      (∀ i ∈ [Instr.vadd demoHead .i64 .rn .nan 2 0 1 .all, .vfma demoHead .f32 .rdyn .inf 2 0 1 .all, .vdiv demoHead .f64 .ra .sat 2 0 1 .all,
        .vsqrt demoHead .f16 .rp .trap 2 0 (.mk 3), .vmin demoHead .n8 2 0 1 .all, .vabs demoHead .f32 .sat 2 0 .all, .vneg demoHead .i8 .trap 2 0 .all], i.WF) := by
  refine ⟨ready_demoOn .., by decide, by decide, by decide, by decide⟩
theorem witness_LaneBits : Ready (demoAt .cp demo) demoHead .cp demo ∧ demo.checkOperands [vsrc 0, vsrc 1, vdst 2] = none ∧ demo.checkOperands [vsrc 0, vdst 0] = none ∧
    (∀ i ∈ [Instr.vand demoHead .i8 2 0 1 .all, .vshl demoHead .n64 2 0 1 (.mk 0), .vmov demoHead .tf8 0 0 .all, .vclass demoHead .bf16 0 0 .all,
      .vsel demoHead .f32 2 0 1 3], i.WF) := by
  refine ⟨ready_demoOn .., by decide, by decide, by decide⟩
theorem witness_CompareConvertReduce :
    let dirty := { demo with sh := { demo.sh with granules := BitVec.allOnes 1024 } }
    let x := (demoAt .cp demo).ctx demo
    Ready (demoAt .cp demo) demoHead .cp demo ∧ demo.checkOperands [vsrc 0, vsrc 1] = none ∧ demo.checkOperands [vsrc 0, edst 0x200 (logSize .f32)] = none ∧
      snanLane x .f32 (laneOn x .all 4) [elemsOf x 0 4, elemsOf x 1 4] = none ∧
      (∀ i ∈ [Instr.vcmp demoHead .un .f32 3 0 1 .all, .vcvt demoHead .f32 .i8 .rn .sat 2 0 3 .all, .vred demoHead .xor .i32 .rn .sat 0x200 0 .all,
        .vscan demoHead .max .f32 .rn .inf 2 0 .all], i.WF) ∧
      (Ready (demoAt .cp dirty) demoHead .cp dirty ∧ laneOn ((demoAt .cp dirty).ctx dirty) .all 4 0 = true ∧ dirty.poisonedRange (dirty.opAddr 0) 4 = true) := by
  refine ⟨ready_demoOn .., by decide, by decide, by decide, by decide, ready_demoOn .., by decide, by decide⟩
theorem witness_LaneMovement :
    let st := { demo with sh := { demo.sh with q3 := [7] } }
    Ready (demoAt .cp demo) demoHead .cp demo ∧ demo.checkOperands [vsrc 0, vsrc 1, vdst 2] = none ∧ demo.checkOperands [vdst 2] = none ∧ demo.sh.q3 = [] ∧
      (∀ i ∈ [Instr.vcompact demoHead .i8 2 0 .all, .vperm demoHead .f32 2 0 1 .all, .vlut demoHead .i16 2 0 1 .all, .vmovi demoHead .f64 2 0xFFFFFFFF,
        .viota demoHead .n8 2 (.mk 0), .vqpop demoHead .i32 2 .all], i.WF) ∧ (Ready (demoAt .cp st) demoHead .cp st ∧ st.sh.q3 = 7 :: []) := by
  refine ⟨ready_demoOn .., by decide, by decide, by decide, by decide, ready_demoOn .., by decide⟩
theorem witness_SliceWords :
    let x := (demoAt .cp demo).ctx demo
    Ready (demoAt .cp demo) demoHead .cp demo ∧ demo.checkOperands [vsrc 0, edst 0x300 3] = none ∧ demo.checkOperands [vsrc 0, esrc 0x380 3, vdst 2] = none ∧
      snanLane x .f64 (laneOn x .all 8) [elemsOf x 0 8] = none ∧ ((Instr.vsplit demoHead 2 0 0x380 3 .all).WF ∧ (Instr.vsplit demoHead 2 0 0x380 8 .all).WF) ∧
      ((Instr.vcombAcc demoHead 2 0 2 3 true .all).WF ∧ (Instr.vcombAcc demoHead 2 0 9 0 false .all).WF ∧ (Instr.vcombFin demoHead .rn .inf 2 0 1 0 true .all).WF) ∧
      demo.checkOperands [vsrc 0, vsrc 1, vdst 2] = none ∧ (0 < 8 ∧ |8 * (-(2 : Int) ^ 60 + 1)| < 2 ^ 63) := by
  refine ⟨ready_demoOn .., by decide, by decide, by decide, by decide, by decide, by decide, by decide⟩
theorem witness_NumberRules :
    let x := (demoAt .cp demo).ctx demo
    let all := { demo with csr := { demo.csr with ftrapen := 0x3F } }
    let en (r : Raised) := r.flags &&& (all.csr.ftrapen &&& 0x1F#6)
    ((0 : Nat) < 3 ∧ (0 : Int) ≤ 1 ∧ (0 : Int) < 1 ∧ 3 % 2 ^ 1 ≠ 0 ∧ 2 % 2 ^ 1 = 0) ∧ tyIsInt .i8 = true ∧ (leastOf .i8 ≤ 127 ∧ (127 : Int) ≤ mostOf .i8) ∧ mostOf .i8 < 128 ∧
      (-129 : Int) < leastOf .i8 ∧ (∃ e ∈ [((3 : Nat), fIov, true)], e.2.2 = true) ∧ (∀ e ∈ [((3 : Nat), fInvalid, false)], ¬ e.2.2 = true) ∧
      ((en [(3, 1, false)]).getLsbD 0 = true ∧ (en [(3, 2, false)]).getLsbD 0 = false ∧ (en [(3, 2, false)]).getLsbD 1 = true ∧ (en [(3, 16, false)]).getLsbD 4 = true ∧
        (en [(3, 16, false)]).getLsbD 3 = false) ∧ x.st.csr.ftrapen &&& 0x1F#6 = 0 := by
  refine ⟨by decide, by decide, by decide, by decide, by decide, by decide, by decide, by decide, by decide⟩
/-- A strand with I8 streams: A in ABUF (0), B in WBUF (1), gathered A (2), another axis (3), a misaligned A (4), and TF8 ones (5, 6). -/
def mmaStrand : Strand :=
  let a : Stream := { Stream.zero with buf := 1, rstride := 256, fmt := tyCode .i8 }
  let b : Stream := { Stream.zero with rstride := 256, fmt := tyCode .i8 }
  { demo with sh := { demo.sh with streams :=
    [(0, a), (1, b), (2, { a with gather := 1 }), (3, { b with axis := 1 }), (4, { a with base := 8 }), (5, { a with fmt := tyCode .tf8 }), (6, { b with fmt := tyCode .tf8 })] } }
theorem witness_MmaWords :
    let st := mmaStrand
    let x := (demoAt .cp st).ctx st
    let g (sa sb : BitVec 4) (ty : Ty) (st : Strand) := mmaArgs ((demoAt .cp st).ctx st) false 31 sa sb 0 ty ty .add false demoToks
    let rows (g : MmaArgs) := checkRuns3 ((if g.ra.gather = 1#1 then [] else g.aRuns (g.starts st.sh)) ++ g.bxRuns)
    let none_ := { st with place := { st.place with ctmask := 0 } }
    let some_ := { st with place := { st.place with ctmask := 0x7FFFFFFF } }
    let out := { st with sh := { st.sh with q1out := [8] } }
    let occupied := { st with run := { st.run with mmaUntil := 1 } }
    let q0 := { st with sh := { st.sh with q0 := [List.replicate 32 0] } }
    Ready (demoAt .cp st) demoHead .cp st ∧ (Instr.mma demoHead 31 0 1 .i8 .i8 .add false demoToks).WF ∧ (Instr.mmas demoHead 31 0 1 0 .tf8 .tf8 .add false demoToks).WF ∧
      (Ready (demoAt .cp none_) demoHead .cp none_ ∧ none_.place.ctmask = 0) ∧
      (Ready (demoAt .cp some_) demoHead .cp some_ ∧ some_.place.ctmask ≠ 0 ∧ some_.place.ctmask.getLsbD 31 = false ∧ st.place.ctmask.getLsbD 31 = true) ∧
      ((st.stream 0).fmt = tyCode .i8 ∧ (st.stream 5).fmt ≠ tyCode .i8 ∧ (st.stream 3).axis ≠ 0#1 ∧ (st.stream 0).buffer = .abuf ∧ (st.stream 1).buffer = .wbuf) ∧
      (rows (g 0 1 .i8 st) = none ∧ rows (g 4 1 .i8 st) = some (.align, 8)) ∧ ((g 0 1 .i8 st).scales = 0 ∧ (g 5 6 .tf8 st).scales = 8 ∧ st.sh.q1.length < 8 ∧ st.sh.q1out = []) ∧
      (Ready (demoAt .cp out) demoHead .cp out ∧ out.sh.q1out ≠ []) ∧ ((g 2 1 .i8 st).ra.gather = 1#1 ∧ st.sh.q0 = []) ∧
      (Ready (demoAt .cp q0) demoHead .cp q0 ∧ q0.sh.q0 ≠ [] ∧ checkRuns3 ((g 2 1 .i8 q0).aRuns ((g 2 1 .i8 q0).starts q0.sh)) = none) ∧
      (Ready (demoAt .cp occupied) demoHead .cp occupied ∧ occupied.run.tau < occupied.run.mmaUntil) ∧ (st.run.mmaUntil ≤ st.run.tau ∧ consumed x demoToks = []) ∧
      (g 0 1 .i8 st).held x = false ∧ (∀ e ∈ (g 0 1 .i8 st).aRead st.sh, demoChip.errorAt (abufAddr 0 + e.1) e.2 = none) ∧
      (∀ e ∈ (g 0 1 .i8 st).bRead st.sh, demoChip.errorAt (wbufAddr 0 + e.1) e.2 = none) := by
  refine ⟨ready_demoOn .., by decide, by decide, ⟨ready_demoOn .., by decide⟩, ⟨ready_demoOn .., by decide⟩, by decide, by decide, by decide, ⟨ready_demoOn .., by decide⟩,
    by decide, ⟨ready_demoOn .., by decide⟩, ⟨ready_demoOn .., by decide⟩, by decide, by decide, by decide, by decide⟩
theorem witness_IntegerSums :
    let row : List Byte := List.replicate 256 1
    let t : CTile := { words := List.replicate 1024 0, tel := Tile.clear }
    t.words.length = 1024 ∧ (List.replicate 32 row).length = 32 ∧ (∀ r ∈ List.replicate 32 row ++ List.replicate 32 row, r.length = 256) ∧
      ([2 ^ 32 - 1, 0] : List Nat) ≠ [] ∧ (List.replicate 16 0 : List Nat).length ≤ 16 ∧ (∀ v ∈ [2 ^ 32 - 1, 0], v < 2 ^ 32) := by
  refine ⟨by simp, by simp, ?_, by decide, by decide, by decide⟩
  intro r hr
  rcases List.mem_append.1 hr with h | h <;> rw [List.eq_of_mem_replicate h] <;> simp
theorem witness_TileWords :
    let none_ := { demo with place := { demo.place with ctmask := 0 } }
    let one := { demo with place := { demo.place with ctmask := 1 } }
    let dirty := { demo with sh := { demo.sh with granules := BitVec.allOnes 1024 } }
    Ready (demoAt .cp demo) demoHead .cp demo ∧ (∀ i ∈ [Instr.mclr demoHead 31, .mchk demoHead 31, .ttLoc demoHead 31 0, .ttFix demoHead 31, .mldc demoHead 31 0 3,
        .mdrain demoHead 31 0 3 false demoToks, .mcomp demoHead 31 30 .f32, .mbmp demoHead 31 30 .bf16 31], i.WF) ∧
      (Ready (demoAt .cp none_) demoHead .cp none_ ∧ none_.place.ctmask = 0) ∧ (Ready (demoAt .cp one) demoHead .cp one ∧ one.place.ctmask ≠ 0 ∧ one.place.ctmask.getLsbD 31 = false) ∧
      (demo.place.ctmask.getLsbD 31 = true ∧ demo.place.ctmask.getLsbD 30 = true) ∧ demo.checkOperands [vsrc 0] = none ∧ demo.checkOperands [vdst 0] = none ∧
      vecPoison ((demoAt .cp demo).ctx demo) 0 = false ∧ (Ready (demoAt .cp dirty) demoHead .cp dirty ∧ vecPoison ((demoAt .cp dirty).ctx dirty) 0 = true) ∧
      consumed ((demoAt .cp demo).ctx demo) demoToks = [] ∧ demo.checkOperands [esrc 0x500 5] = none ∧ demo.poisonedRange (demo.opAddr 0x500) 32 = false := by
  refine ⟨ready_demoOn .., by decide, ⟨ready_demoOn .., by decide⟩, ⟨ready_demoOn .., by decide⟩, by decide, by decide, by decide, by decide, ⟨ready_demoOn .., by decide⟩,
    by decide, by decide, by decide⟩
/-- A strand whose syndrome names tile 31, with masks of rows and columns. -/
def syndrome (rows cols : BitVec 32) (ovr : Bool) : Strand :=
  { demo with csr := { demo.csr with ttsyn := BitVec.ofNat 64 (31 + 32 + (if ovr then 64 else 0)), ttmask := rows ++ cols } }
theorem witness_TelltaleWords :
    let at_ (rows cols : BitVec 32) := locate (syndrome rows cols false).csr 31 (readTile [] demoChip 0 31)
    let armed := { syndrome 1 1 false with replay := { demo.replay with points := List.replicate 4 (some 0) } }
    let spent := { armed with replay := { armed.replay with count := ttRmax armed.csr } }
    Ready (demoAt .cp (syndrome 1 1 false)) demoHead .cp (syndrome 1 1 false) ∧ (Instr.ttLoc demoHead 31 1).WF ∧ demo.place.ctmask.getLsbD 31 = true ∧
      ((syndrome 1 1 true).csr.ttsyn.getLsbD 6 = true ∧ (syndrome 1 1 false).csr.ttsyn.getLsbD 6 = false) ∧
      [(1, 1), (1, 0), (0, 1), (1, 3), (3, 3)].map (fun p => (at_ p.1 p.2).cls) = [1, 2, 3, 4, 5] ∧ (locate demo.csr 31 (readTile [] demoChip 0 31)).cls = 0 ∧ (readTile [] demoChip 0 31).words.length = 1024 ∧
      demo.replay.armed = false ∧ (Ready (demoAt .cp armed) demoHead .cp armed ∧ armed.replay.armed = true ∧ armed.replay.count ≠ ttRmax armed.csr) ∧
      (Ready (demoAt .cp spent) demoHead .cp spent ∧ spent.replay.armed = true ∧ spent.replay.count = ttRmax spent.csr) := by
  refine ⟨ready_demoOn .., by decide, by decide, by decide, by decide, by decide, by decide +kernel, by decide, ⟨ready_demoOn .., by decide⟩, ready_demoOn .., by decide⟩
/-- The owners, groups and saved contexts of a machine that the words of the Splicer and of contexts meet: owner 1 runs, 2 is frozen, 3 halted, 4 ready
(context 4), 5 holds a save (5), 6 is saved (6); 7 is empty. -/
def spareOwner (k : OwnerState) (ctx : Option Nat) : Owner :=
  { Owner.whole 0 with
    state := k, hdr := { (Owner.whole 0).hdr with cores := [7], strides := [some 16, none, none, none, none] },
    preempt := ctx.map (fun c => { ctx := c, g := 0, windowEnd := 0, gf := 0, unit := 0, unitDue := 0, since := 0, issuer := none }) }
def demoOwners : Chip :=
  { demoChip with
    owners := [(0, Owner.whole 0), (1, spareOwner .running none), (2, { spareOwner .frozen none with freezeAt := some 0 }), (3, { spareOwner .halted none with hdr := { (spareOwner .halted none).hdr with phases := [1, 0, 0, 0, 0] } }),
      (4, spareOwner .ready (some 4)), (5, spareOwner .saveHeld (some 5)), (6, spareOwner .saved none)]
    parts := [(0, { Part.reset with savebase := 0x1000 })]
    saved := [(6, { owner := 6, strands := [], works := [], locks := [] })] }
/-- CT registers n = n for the eight owners, 9 with a reserved bit, and 20 + n with a context number of n. -/
def ownerRegs : Tab Word :=
  [(1, 1), (2, 2), (3, 3), (4, 4), (5, 5), (6, 6), (7, 7), (9, 9), (10, 1), (24, 0x404), (25, 0x505), (26, 0x606), (27, 0x706)]
/-- A group descriptor of one member, this core. -/
def groupWords : List Nat := [1, 0, 0, 0, 0, 0, 0, 0]
def demoGroup : Group := { tag := 0, self := 0, members := [(0, 0)] }

theorem witness_GroupWords :
    let st := withPoison (withX demo .ct [(2, abufPtr 0x100), (1, privPtr 0), (3, 63), (4, 1)]) 0x400
    let mem := Memory.write [] (abufAddr 0 + 0x100) (groupWords.flatMap (leBytes 8))
    let ch := { demoChip with works := [(1, { demoWork (.clbc 0 0 64 64) 5 with produces := some 1 })], workNext := 2 }
    let s := demoOn mem demoChip .ct st
    let words := (chunksOf 8 8 (mem.readBytes (scratchAddr 0 1 0x100) 64)).map leNat
    Ready s demoHead .ct st ∧ groupBusy (s.ctx st) 0 = false ∧ (Ready (demoOn mem ch .ct st) demoHead .ct st ∧ groupBusy ((demoOn mem ch .ct st).ctx st) 0 = true) ∧
      (st.px .ct 10 = true ∧ st.px .ct 2 = false) ∧ (checkPtr 0 st (st.rx .ct 1) 0 64 64 = .ok (.priv 0) ∧ checkPtr 0 st (st.rx .ct 2) 0 64 64 = .ok (.scratch 1 0x100)) ∧
      (s.chip.errorAt (scratchAddr 0 1 0x100) 64 = none ∧ badSram.errorAt (scratchAddr 0 1 0x100) 64 = some .sramUncorrected ∧
        ({ demoChip with poisoned := [(abufAddr 0 + 0x100) / 64] } : Chip).errorAt (scratchAddr 0 1 0x100) 64 = some .memUncorrected) ∧
      words = groupWords ∧ readGroup s.chip 0 words = .ok demoGroup ∧ readGroup s.chip 0 [0, 0, 0, 0, 0, 0, 0, 0] = .error 1 ∧ readGroup s.chip 1 words = .error 2 ∧
      readGroup s.chip 0 [17, 0, 0, 0, 0, 0, 0, 0] = .error 1 ∧ ((st.rx .ct 3).setWidth 6 = 63#6 ∧ (st.rx .ct 4).setWidth 6 ≠ 63#6) ∧
      latestProducer (s.ctx st) (fun k => k.collGroup.isSome) 1 = none ∧
      [WorkState.running, .done, .error .collPeerAbsent, .cancelled].map (fun w => (latestProducer
        ((demoOn mem { ch with works := ch.works.map (fun e => (e.1, { e.2 with state := w })) } .ct st).ctx st) (fun k => k.collGroup.isSome) 1).map (·.state)) =
        [some .running, some .done, some (.error .collPeerAbsent), some .cancelled] := by
  refine ⟨ready_demoOn .., by decide, ⟨ready_demoOn .., by decide⟩, by decide, by decide, by decide, by decide, by decide, by decide, by decide, by decide, by decide,
    by decide, by decide⟩
theorem witness_CollectiveWords :
    let st := withPoison (withX demo .ct [(1, 0x40), (2, 0x3FFC0), (3, 64), (4, 0x100000), (5, 8), (6, 0x80), (7, 65), (8, 1)]) 0x400
    let ch := { demoChip with cores := [(0, { Core.fresh with groups := [(0, demoGroup)] })] }
    let full := { ch with works := (List.range 8).map (fun i => (i + 1, demoWork (.clbc 0 0 64 64) 5)), workNext := 9 }
    let closed := { ch with owners := [(0, { Owner.whole 0 with hdr := { (Owner.whole 0).hdr with strides := [some 1, none, none, none, none] } })] }
    let n (r : Reg) := (st.rx .ct r).toNat
    Ready (demoOn [] ch .ct st) demoHead .ct st ∧ (Instr.clred demoHead .add .f32 .bf16 0 20 1 2 3 0 demoToks).WF ∧ (Instr.clbc demoHead 0 20 1 2 3 0 demoToks).WF ∧
      [1, 2, 10, 0].find? (st.px .ct) = some 10 ∧ (∀ r ∈ [1, 6, 3, 0], st.px .ct r = false) ∧ (demoChip.group? 0 0 0 = none ∧ ch.group? 0 0 0 = some demoGroup) ∧
      (2 ^ 20 ≤ n 4 ∧ n 1 < 2 ^ 20 ∧ n 5 % 64 ≠ 0 ∧ n 1 % 64 = 0 ∧ n 6 % 64 = 0) ∧ (n 3 * 1 % 64 = 0 ∧ n 7 * 1 % 64 ≠ 0) ∧
      (n 1 + n 3 ≤ 0x40000 ∧ n 2 + 64 ≤ 0x40000 ∧ 0x40000 < n 2 + 128 ∧ meets (n 1) (n 3) (n 6) (n 3) = false ∧ meets (n 1) (n 3) (n 1) (n 3) = true) ∧
      (collBarrier 1 = none ∧ collBarrier 0 = some none) ∧ (openColls ((demoOn [] ch .ct st).ctx st)).length < 8 ∧
      (Ready (demoOn [] full .ct st) demoHead .ct st ∧ 8 ≤ (openColls ((demoOn [] full .ct st).ctx st)).length) ∧
      (Ready (demoOn [] closed .ct st) demoHead .ct st ∧ ((closed.owner 0).stride .mesh).isNone = true) ∧ ((ch.owner 0).stride .mesh).isSome = true := by
  refine ⟨ready_demoOn .., by decide, by decide, by decide, by decide, by decide, by decide, by decide, by decide, by decide, by decide, ⟨ready_demoOn .., by decide⟩,
    ⟨ready_demoOn .., by decide⟩, by decide⟩
theorem witness_SplicerWords :
    let st := withX demo .ct ownerRegs
    let user := { st with place := { st.place with sup := false } }
    let ch := demoOwners
    let held := { ch with owners := ch.owners.set 1 { spareOwner .running none with rephase := some { delta := 1, limit := none, release := none } } }
    let thawing := { ch with owners := ch.owners.set 2 { spareOwner .frozen none with freezeAt := some 0, thawAt := some 16 } }
    let v (r : Reg) := st.rx .ct r
    let clear (d : Nat) : Bool := allClasses.all (fun c => match (ch.owner 1).stride c with
      | none => true | some t => passes ch (some 1) (ch.owner 1).hdr c t (((ch.owner 1).heldPhase ch.gts c + d) % t))
    (Ready (demoOn [] ch .ct st) demoHead .ct st ∧ st.place.sup = true ∧ st.px .ct 1 = false) ∧ (Ready (demoOn [] ch .ct user) demoHead .ct user ∧ user.place.sup = false) ∧
      (let p := withPoison st 2; Ready (demoOn [] ch .ct p) demoHead .ct p ∧ p.px .ct 1 = true) ∧
      ((Instr.splRephase demoHead 20 1 15 0).WF ∧ (Instr.splRephase demoHead 20 1 1 5).WF) ∧ (v 9 &&& ~~~7 ≠ 0 ∧ v 1 &&& ~~~7 = 0 ∧ v 24 &&& ~~~0xFF07 = 0) ∧
      ((ch.owner 3).state = .halted ∧ (ch.owner 1).state ≠ .halted ∧ (ch.owner 1).state = .running ∧ (ch.owner 1).freezeAt = none ∧ (ch.owner 1).rephase = none ∧
        ({ spareOwner .running none with freezeAt := some 5 } : Owner).state = .running) ∧
      ((held.owner 1).rephase ≠ none ∧ (ch.owner 1).rotation = 16 ∧ clear 1 = false ∧ clear 2 = true ∧ (demoChip.owner 7).state ≠ .running) ∧
      ((ch.owner 2).state = .frozen ∧ (ch.owner 2).thawAt = none ∧ (ch.owner 2).freezeAt = some 0 ∧ (v 2).extractLsb' 8 8 = 0 ∧ (v 24).extractLsb' 8 8 ≠ 0) ∧
      ((ch.owner 4).state = .ready ∧ (ch.owner 4).thawAt = none ∧ (ch.owner 4).preempt.map (·.ctx) = some ((v 24).extractLsb' 8 8).toNat) ∧
      ((thawing.owner 2).state = .frozen ∧ (thawing.owner 2).thawAt ≠ none ∧ ({ spareOwner .ready (some 4) with thawAt := some 16 } : Owner).preempt.map (·.ctx) = some 4) := by
  refine ⟨⟨ready_demoOn .., by decide⟩, ⟨ready_demoOn .., by decide⟩, ⟨ready_demoOn .., by decide⟩, by decide, by decide, by decide, by decide, by decide, by decide, by decide⟩
theorem witness_QueriesAndCollisions :
    let st := withX demo .ct ((12, 0) :: ownerRegs)
    Ready (demoOn [] demoOwners .ct st) demoHead .ct st ∧ st.place.sup = true ∧ ((Instr.splQuery demoHead 20 1 0).WF ∧ (Instr.splQuery demoHead 20 1 3).WF) ∧
      ((demoOwners.atIssue.owner 1).state ≠ .empty ∧ (demoOwners.atIssue.owner 7).state = .empty) ∧
      (((demoOn [] demoOwners .ct st).chip.atIssue.strand? 0 0).isSome = true ∧ (demoOn [] demoOwners .ct st).chip.atIssue.strand? 1 0 = none) ∧
      (instanceOf 0 383 = some (.issue, 383) ∧ instanceOf 0 384 = none) ∧ (1 ∈ [1, 2, 4, 8, 16] ∧ 16 ∈ [1, 2, 4, 8, 16] ∧ 15 < 16 ∧ 0 < 1) := by
  refine ⟨ready_demoOn .., by decide, by decide, by decide, by decide, by decide, by decide⟩
theorem witness_ContextWords :
    let st := withX demo .ct ownerRegs
    let user := { st with place := { st.place with sup := false } }
    let ch := demoOwners
    let nobase := { ch with parts := [] }
    let v (r : Reg) := st.rx .ct r
    let rolls (e : Nat) : Strand := { st with ct := { st.ct with wait := .keyRoll 3 e } }
    let h := inHandler st
    (Ready (demoOn [] ch .ct st) demoHead .ct st ∧ st.place.sup = true ∧ st.px .ct 1 = false) ∧ (Ready (demoOn [] ch .ct user) demoHead .ct user ∧ user.place.sup = false) ∧
      (v 9 &&& ~~~7 ≠ 0 ∧ v 10 &&& ~~~7 = 0 ∧ v 25 &&& ~~~0xFF07 = 0) ∧ ((ch.owner 7).state = .empty ∧ (ch.owner 1).canPreempt = true ∧ (ch.owner 6).canPreempt = false) ∧
      (ch.ctxUsed 4 = true ∧ ch.ctxUsed 0 = false) ∧ (((ch.part 0).savebase.extractLsb' 12 36).toNat ≠ 0 ∧ ((nobase.part 0).savebase.extractLsb' 12 36).toNat = 0) ∧
      ((ch.owner 5).state = .saveHeld ∧ (ch.owner 5).preempt.map (·.ctx) = some 5 ∧ ((v 25).extractLsb' 8 8).toNat = 5) ∧
      ((ch.owner 6).state = .saved ∧ ((ch.saved.get? 6).map (·.owner)) = some 6 ∧ (ch.saved.get? 7) = none) ∧
      (roomsFor ch (ch.owner 6).hdr = .ok [(0, 0, 0)] ∧ (searchPhases demoChip (some 6) (ch.owner 6).hdr (fun _ => true)).isSome = true) ∧
      ((∀ k e, st.ct.wait ≠ .keyRoll k e) ∧ keyBound Chip.reset 3 = false ∧ Ready (demoOn [] Chip.reset .ct st) demoHead .ct st) ∧
      (Ready (demoOn [] ch .ct (rolls 0)) demoHead .ct (rolls 0) ∧ Ready (demoOn [] ch .ct (rolls 64)) demoHead .ct (rolls 64)) ∧
      (Ready (demoOn [] ch .ct h) demoHead .ct h ∧ h.run.h = true ∧ ch.freeCtx = some 0 ∧ (ch.owner 0).canPreempt = true) := by
  refine ⟨⟨ready_demoOn .., by decide⟩, ⟨ready_demoOn .., by decide⟩, by decide, by decide, by decide, by decide, by decide, by decide, ⟨by decide, by decide⟩,
    ⟨(by intro k e h; cases h), by decide, ready_demoOn ..⟩, ⟨ready_demoOn .., ready_demoOn ..⟩, ready_demoOn .., by decide⟩
/-- Memory with an image at 0x8000 of one strand on core 1, reached through both stages of translation: stage 2 by tables at 0x1000, 0x2000 and
0x3000, stage 1 by 0x4000, 0x5000 and 0x6000, each with one entry that maps the lowest 2 MiB onto itself. -/
def imageMem : Memory :=
  writeAll [] [(0x1000, leBytes 8 0x200D), (0x2000, leBytes 8 0x300D), (0x3000, leBytes 8 15), (0x4000, leBytes 8 0x500D), (0x5000, leBytes 8 0x600D),
    (0x6000, leBytes 8 15), (0x8000, leBytes 8 (1 + 4 * 2 ^ 36 + (7 + 7 * 8 + 7 * 64 + 7 * 512) * 2 ^ 39 + 2 ^ 56) ++ leBytes 8 (2 ^ 48 + 2 ^ 56) ++ leBytes 8 0x9000),
    (0x8040, bytesOfWord (1#96 <<< 40)), (0x9000, leBytes 2 1)]
/-- The machine of a supervisor whose translation and core set reach that image. -/
def imageChip : Chip :=
  { demoChip with owners := [(0, { Owner.whole 0 with s1root := 0x4000 })], parts := [(0, { Part.reset with s2root := 0x1000, pcore := [2, 0, 0, 0, 0, 0] })] }
theorem witness_SplicerWords_admission :
    let st := withX demo .ct [(1, 0x8000), (2, 0x8008)]
    let img := readImage (readVirtual imageMem imageChip 0) (coreInPart imageChip 0) 0x8000 none
    let hdr := match img with | .ok i => i.hdr | .error _ => Header.none
    Ready (demoOn imageMem imageChip .ct st) demoHead .ct st ∧ st.place.sup = true ∧ (Instr.splAdmit demoHead 20 1 true 1 0).WF ∧ (Instr.splAdmit demoHead 20 1 false 2 1).WF ∧
      imagePtr (st.rx .ct 1) = some 0x8000 ∧ imagePtr (st.rx .ct 2) = none ∧
      (match admitRoom imageChip img with | .ok r => decide (r.2.1 = [(0, 0, 0)] ∧ r.2.2 = 1) | .error _ => false) = true ∧
      (match admitRoom imageChip (.error 1) with | .ok _ => false | .error e => e == 1) = true ∧
      (searchPhases imageChip none hdr (fun _ => true)).map (·.1) = some 0 ∧ (searchPhases imageChip none hdr (fun _ => false)).isNone = true ∧
      imageChip.timed = true ∧ ({ imageChip with devnum := 1 } : Chip).timed = false ∧ (∀ g t n, st.ct.wait ≠ .admitWait g t (some n)) ∧
      ({ st with ct := { st.ct with wait := .admitWait 1 0 (some 10) } }).ct.wait = .admitWait 1 0 (some 10) := by
  refine ⟨ready_demoOn .., by decide, by decide, by decide, by decide, by decide, by decide +kernel, by decide +kernel, by decide +kernel, by decide +kernel, by decide, by decide,
    (by intro g t a h; cases h), rfl⟩

/-! ### Events -/

theorem witness_HeadEvents :
    let s := demoAt .ct demo
    let user := { demo with place := { demo.place with sup := false } }
    let at_ (p : BitVec 14) : Strand := { demo with ct := { demo.ct with pc := p, atHdr := true, sec := none } }
    let wait := { at_ 0 with ct := { (at_ 0).ct with blockFrom := some 0 }, run := { demo.run with tau := 65536 } }
    let gone := { demo with place := { demo.place with absent := [1] } }
    let hdr (w : IWord) (m : Memory) : Memory := Memory.write m (istoreAddr 0) (bytesOfWord w)
    let here (m : Memory) := wordAt m 0 demo.place 0
    let free := hdr (0x000001FFFFFFFFF0 : IWord) []
    s.chip.strand? 0 0 = some demo ∧ (opcAssigned 0xFF = false ∧ opcAssigned 0x60 = true ∧ opcOnSeq 0x60 .ct = false ∧ opcOnSeq 0xE0 .ct = true ∧ opcPrivileged 0xE0 = true) ∧
      ((demoAt .ct user).chip.strand? 0 0 = some user ∧ user.place.sup = false) ∧ (opcAssigned 0x01 = true ∧ opcOnSeq 0x01 .ct = true ∧ opcPrivileged 0x01 = false) ∧
      (positions demo.place.iskb ≤ (at_ 10922).ct.pc.toNat ∧ (at_ 10921).ct.pc.toNat < positions demo.place.iskb) ∧
      (demo.place.absent.contains 1 = false ∧ gone.place.absent.contains 1 = true) ∧ (headerReserved (here []) = true ∧ headerReserved (here free) = false) ∧
      sectionResident demo.place 0 (sectionOf 0 (here free)) = true ∧ sectionResident gone.place 0 (sectionOf 0 (here free)) = false ∧
      ([28, 16, 4].map (fun i => (here free).extractLsb' i 12) = [0xFFF, 0xFFF, 0xFFF]) ∧ (prereqMet demo.ld.ret 0xFFF = true ∧ prereqMet demo.ld.ret 1 = false) ∧
      (wait.ct.blockFrom = some 0 ∧ wait.ct.atHdr = true ∧ 0 + 65536 ≤ wait.run.tau ∧ demo.run.tau < 0 + 65536) := by
  refine ⟨rfl, by decide, ⟨rfl, rfl⟩, by decide, by decide, by decide, by decide, by decide, by decide, by decide, by decide, by decide⟩
theorem witness_StrandEvents :
    let t : PTrap := { cause := .fpInvalid, faddr := 0, tval := 0, q := .cp, sec := 0, slot := 0 }
    let with_ (l : List PTrap) : Strand := { demo with traps := l }
    let ch (st : Strand) : Chip := (demoAt .ct st).chip
    let stalled (c : Option Nat) : Strand := { demo with run := { demo.run with stall := some ⟨.trap, 0, c⟩ } }
    let later := { demoChip with gts := 2 }
    let frozen := { demoChip with owners := [(0, { Owner.whole 0 with freezeAt := some 0 })] }
    let asked := { demo with replay := { points := List.replicate 4 (some 0), count := 0, noRecord := [], asked := true } }
    let inner := { demo with regions := [⟨5, 3⟩, ⟨2, 4⟩] }
    let pend := { demo with sh := { demo.sh with nest := { demo.sh.nest with pendingShadow := true } } }
    let mw (tau : Nat) := { demo with ct := { demo.ct with wait := .mwait 0 }, run := { demo.run with tau := tau } }
    let mem := Memory.write [] (istoreAddr 0 + 12) (bytesOfWord ((encode (.mwait demoHead 1)).getD 0))
    let roll (e : Nat) := { demo with ct := { demo.ct with wait := .keyRoll 3 e } }
    let again := { inHandler demo with run := { (inHandler demo).run with htrap := some .fpInvalid } }
    (demoAt .ct demo).chip.strand? 0 0 = some demo ∧ (ch demo).slotRuns demo = true ∧ demo.traps = [] ∧ (demo.run.h = false ∧ again.run.h = true ∧ again.run.htrap ≠ none) ∧ (with_ [t]).traps = t :: [] ∧ t.cause ≠ .swTrap ∧ t.cause ≠ .containmentUnwind ∧
      (ch (stalled none)).slotRuns (stalled none) = false ∧ ((demoChip.owner 0).live = true ∧ (demoChip.owner 0).frozenAt 0 = false ∧ (frozen.owner 0).frozenAt 0 = true) ∧
      ((stalled (some 1)).run.stall = some ⟨.trap, 0, some 1⟩ ∧ 1 ≤ later.gts ∧ later.gts = 0 + 1 * (later.owner 0).rotation ∧ (later.owner 0).rotation = 2) ∧
      ((ch asked).slotRuns asked = true ∧ asked.replay.asked = true) ∧ (∃ r ∈ inner.regions, r.num = 2) ∧ (inner.regions.map (·.num)).head? ≠ some 2 ∧
      ((ch pend).runs pend = true ∧ pend.sh.nest.pendingShadow = true ∧ pend.sh.nest.live = none) ∧
      (decode (wordAt mem 0 demo.place demo.ct.pc.toNat) = some (.mwait demoHead 1) ∧ (mw 1048576).ct.wait = .mwait 0 ∧ 0 + 1048576 ≤ (mw 1048576).run.tau ∧
        (mw 1048575).run.tau < 0 + 1048576) ∧ ((roll 64).ct.wait = .keyRoll 3 64 ∧ (roll 64).run.saved = none ∧ ¬ 64 ≤ demoChip.gts ∧ 1 ≤ later.gts) := by
  refine ⟨rfl, by decide, by decide, by decide, by decide, by decide, by decide, by decide, by decide, by decide, by decide, by decide, by decide, by decide, by decide, by decide⟩
theorem witness_WorkEvents :
    let step : PStep := { at_ := 0, chain := 0, act := .mesh 0 }
    let copy (a : Act) := { demoWork demoCopy 2 with steps := [{ step with act := a }] }
    let on (k : Work) : Chip := { demoChip with works := [(1, k)], workNext := 2, strands := [(0, demo)] }
    let drain := { demoWork (.mdrain 0 0 0 false) 3 with total := 1 }
    let wdrain := { demoWork (.wstc 2 0 demoHandle [0, 0, 0, 0] .i8 .rn .sat false 0) 3 with total := 1 }
    let e : LaneStore := { num := 1, work := 1, staged := 64, beats := 2, sent := 0, notBefore := 0 }
    let lane := { laneStrand with lane := { laneStrand.lane with queue := [e] } }
    let store := demoWork (.laneStore 1 [(some (abufAddr 1), 0)] 0 0 [] true) 1
    let full (tau : Nat) := { lane with st := { lane.st with wait := .laneFull 0 }, run := { lane.run with tau := tau } }
    demoChip.work? 1 = none ∧ (∀ a ∈ [Act.mesh 0, .link 0, .chanRead 0 0 0, .chanWrite 0 0 0, .portRequest 0, .sectorLands 0, .delivered 0],
        ((on (copy a)).nextStep 1 (copy a)).isSome = true) ∧ ((on (copy (.mesh 0))).nextStep 1 { copy (.mesh 0) with doneBeat := some 0 }).isNone = true ∧
      (on (copy (.delivered 0))).nextStep 1 (copy (.delivered 0)) = some (0, { step with act := .delivered 0 }) ∧
      (drainNow (on drain) demo drain = true ∧ drainNow (on drain) demo { drain with total := 0 } = false) ∧
      ((on drain).sramBadAt (tileAddr 0 0) 4096 = false ∧ ({ on drain with sramBad := [tileAddr 0 0 / 64] } : Chip).sramBadAt (tileAddr 0 0) 1024 = true) ∧ drainNow (on wdrain) demo wdrain = true ∧
      (laneStrand.lane.queue = [] ∧ lane.lane.queue = e :: [] ∧ (on store).work? e.work = some store) ∧
      ((demoChip.owner 0).ownsAt .wlane ((demoChip.owner 0).clock 0) = true ∧ e.notBefore ≤ (demoChip.owner 0).clock 0) ∧
      (demoChip.runs laneStrand = true ∧ laneStrand.run.tau % 2 ^ laneLogw laneStrand.lane = 0) ∧
      ((full 65536).st.wait = .laneFull 0 ∧ 0 + laneBpwait (full 0).lane ≤ (full 65536).run.tau ∧ (full 0).run.tau < 0 + laneBpwait (full 0).lane) := by
  refine ⟨rfl, by decide, by decide, by decide, by decide, by decide, by decide, by decide, by decide, by decide, by decide⟩
theorem witness_MaintenanceEvents :
    let ch := { demoChip with gts := 15 }
    let k : Chan := Chan.fresh
    let with_ (b : Nat) (k : Chan) : Chip := { demoChip with chans := [(0, k)], gts := b }
    let row (n : Nat) : RowCopy := { bank := 0, row := 0, spare := 0, next := n, since := 0 }
    let copies (n : Nat) : Chan := { k with copy := some (row n) }
    let g (n : Nat) : Migration := { frame := 0, target := 0x10000, leaf := 0, part := 0, next := n }
    let yields := { demoChip with owners := [(1, { Owner.whole 0 with hdr := { (Owner.whole 0).hdr with strides := [none, none, some 1, none, none] } })], chans := [(0, { k with alert := [(2, 5)], yields := [(1, 3)] })] }
    (yieldingOwner yields 0 = some 1 ∧ yields.gts % 16 ≠ 15 ∧ alertNow yields 0 = some (2, 5) ∧ yieldingOwner demoChip 0 = none) ∧
      (alertNow (with_ 15 { k with alert := [(2, 9)] }) 0 = some (2, 9) ∧ alertNow (with_ 15 { k with alert := [(2, 1)] }) 0 = some (2, 1) ∧ alertNow ch 0 = none) ∧
      (k.maintFree 15 = true ∧ (k.maintUse 15).maintFree 15 = false ∧ k.alertFirst = false ∧ { k with alert := [(2, 9)] }.alertFirst = true) ∧
      (ch.gts % 16 = 15 ∧ demoChip.gts % 16 ≠ 15) ∧ (k.queue = [] ∧ { k with queue := [(0, [])] }.queue ≠ []) ∧ (k.alert = [] ∧ k.copy = none) ∧
      (refreshBank k 15 8 = none ∧ refreshBank k 15 1 = none ∧ copyClaims ch 0 = false ∧ copyClaims (with_ 15 (copies 0)) 0 = true) ∧
      ((refreshBank k (2 ^ 25 - 1) 8).or (refreshBank k (2 ^ 25 - 1) 1) = some 0 ∧ (2 ^ 25 - 1) % 16 = 15) ∧
      (k.bankFree.getD (k.scrub % 32) 0 ≤ ch.gts ∧ k.scrub < chanSectors ∧ chanSectors ≤ { k with scrub := chanSectors }.scrub) ∧
      (8 ≤ k.owed 0 (2 ^ 25 - 1) ∧ k.owed 0 ch.gts < 8) ∧
      ((with_ 15 (copies 31)).chan 0 = copies 31 ∧ alertNow (with_ 15 (copies 31)) 0 = none ∧ (copies 31).maintFree 15 = true ∧ (row 30).next + 1 < 32) ∧
      ((row 31).since + 2 ^ 16 ≤ 2 ^ 25 - 1 ∧ ch.gts < (row 31).since + 2 ^ 16 ∧ ∀ y ∈ k.yields, y.2 = 0) ∧
      (({ ch with gts := 2 ^ 20 } : Chip).gts % 2 ^ 20 = 0 ∧ ch.gts % 2 ^ 20 ≠ 0) ∧
      ((migrationChan 0 (g 0)).isSome = true ∧ (migrationChan 0 (g 2047)).isSome = true ∧ migrationChan 0 (g 2048) = none ∧ (g 0).next % 2 = 0 ∧ (g 2047).next % 2 = 1 ∧
        2048 ≤ (g 2048).next ∧ ch.heldAt 0 65536 = false ∧ (with_ 15 { k with held := [(0, 1)] }).heldAt 0 65536 = true) ∧
      (handleOverlaps demoMem (demoHandles.part 0) (2 ^ 42) = true ∧ handleOverlaps demoMem (demoHandles.part 0) 0 = false) ∧
      (let t := { Stack.fresh with ineligible := [(3, 20)] };
        t.ineligible.get? 3 = some 20 ∧ ch.gts < 20 ∧ t.ineligible.get? 4 = none) := by
  refine ⟨by decide, by decide, by decide, by decide, by decide, by decide, by decide, by decide, by decide, by decide, by decide, by decide, by decide, by decide, by decide, by decide⟩
theorem witness_TranslationEvents :
    let w : Walk := { core := 0, slot := 0, owner := 0, page := 0, write := false, doneBeat := 1, result := none }
    let ch := { imageChip with walks := [w], gts := 1 }
    let e : Store := { id := 1, core := 0, die := 0, seqno := 1, clock := [0, 0, 0, 0], addr := 0, old := [0], applied := [], due := [0, 0, 0, 0] }
    let o := ch.owner 0
    let got (w : Walk) := translateWalk imageMem (((BitVec.ofNat 64 o.s1root).extractLsb' 12 36).toNat * 2 ^ 12) (ch.part o.part).s2root w.owner w.page w.write
    ch.walks[0]? = some w ∧ w.doneBeat ≠ 0 ∧ w.doneBeat ≤ ch.gts ∧ w.result = none ∧ (match got w with | .ok _ => true | .error _ => false) = true ∧
      (match got { w with page := 32 } with | .ok _ => false | .error _ => true) = true ∧ (ch.part 0).tlbinv = none ∧
      canApply { ch with stores := [e] } 0 e = true ∧ canApply { ch with stores := [e] } 0 { e with due := [9, 9, 9, 9] } = false ∧
      (inHbm 0 = true ∧ inHbm (2 ^ 42) = false ∧ ch.closed [] 0 = false) ∧
      (ch.heldAt 0 64 = false ∧ { ch with chans := [(0, { Chan.fresh with held := [(0, 1)] })] }.heldAt 0 64 = true) := by
  refine ⟨rfl, by decide, by decide, rfl, by decide +kernel, by decide +kernel, rfl, by decide, by decide, by decide, by decide⟩
theorem witness_OwnerEvents :
    let own (o : Owner) (b : Nat) : Chip := { demoChip with owners := [(1, o)], gts := b }
    let run := spareOwner .running none
    let p : Preempt := { ctx := 0, g := 1, windowEnd := 2, gf := 0, unit := 0, unitDue := 1, since := 0, issuer := none }
    let at_ (k : OwnerState) (p : Preempt) : Owner := { run with state := k, preempt := some p }
    let re (r : Rephase) : Owner := { run with rephase := some r }
    let halted := { demo with run := { demo.run with halted := true } }
    let rec_ : KRecord := { hyper := false, gts := 0, core := 0, slot := 0, words := [1, 0, 0, 0] }
    let kq (tail : BitVec 16) : Part := { Part.reset with records := [rec_], kqbase := 0x0002000000001000, kqtail := tail }
    let stalled := { demo with run := { demo.run with stall := some ⟨.record .privateForeign, 0, none⟩ } }
    let wait (b : Nat) := { demo with ct := { demo.ct with wait := .admitWait 7 b none } }
    let rec0 := { demoChip with strands := [(0, stalled)] }
    let rec1 (bytes : List Byte) (n : Nat) : SavedStrand :=
      { key := 0, strand := demo, mask := 0, tiles := [], tags := [], window := [], foot := [], record := bytes, spilled := n, staged := [] }
    let holds (r : SavedStrand) : Chip := { demoChip with saved := [(0, { owner := 1, strands := [r], works := [], locks := [] })] }
    let out := { demoWork (.copy 1 demoHandle .abuf 0 0 64 [(true, 2 ^ 42)] .handle [0] 0) 2 with owner := 1, steps := [{ at_ := 0, chain := 0, act := .portAnswer 0 }] }
    (1 < ({ run with ndev := 2 } : Owner).ndev ∧ run.ndev ≤ 1 ∧ run.state = .running ∧ run.rephase = none ∧ run.freezeAt = none) ∧
      ((holds (rec1 [] 0)).owners.length = 1 ∧ spillAt (holds (rec1 [] 0)) { p with unit := unitsEach } 1 = none ∧
        (spillAt (holds (rec1 [] 5000)) { p with unit := unitsEach } 1).isSome = true) ∧
      ((badRecord (holds (rec1 (List.replicate 264 0) 0)) 0).isSome = false ∧ (badRecord (holds (rec1 [] 0)) 0).isSome = true) ∧
      (outOpen { demoChip with works := [(1, out)] } 1 = true ∧ outOpen demoChip 1 = false) ∧
    ((own { run with state := .admitting, origin := 5 } 5).owner 1).origin = 5 ∧
      ((own { run with freezeAt := some 5 } 5).owner 1).freezeAt = some (own run 5).gts ∧ ((own { run with thawAt := some 5, state := .ready } 5).owner 1).thawAt = some 5 ∧
      ((own (re { delta := 1, limit := some 5, release := some 5 }) 5).owner 1).rephase = some { delta := 1, limit := some 5, release := some 5 } ∧ ((own (re { delta := 1, limit := some 5, release := none }) 5).owner 1).rephase.map (·.limit) = some (some 5) ∧
      ((wait 0).ct.wait = .admitWait 7 0 none ∧ 0 + 2 ^ 24 ≤ (own run (2 ^ 24)).gts ∧ (own run (2 ^ 24 - 1)).gts < 0 + 2 ^ 24) ∧
      ((at_ .window p).state = .window ∧ (at_ .window p).preempt = some p ∧ (own run 0).gts < p.g ∧ p.windowEnd ≤ (own run 2).gts) ∧
      ((own (at_ .save p) 1).gts ≥ p.unitDue ∧ (own (at_ .save p) 0).gts < p.unitDue ∧ run.hdr.cores[p.unit / unitsEach]? = some 7 ∧ run.hdr.cores[{ p with unit := 192 }.unit / unitsEach]? = none) ∧
      (match stage2 imageMem (imageChip.part 0).s2root (unitIpa 0 0 0 0) true with | some l => l.w && !unitHeld demoChip l (unitIpa 0 0 0 0) | none => false) = true ∧ stillSaving (own (at_ .load p) 1) 1 7 = false ∧
      unitMine (own (at_ .load p) 1) 1 7 0 = true ∧ (halted.run.halted = true ∧ halted.run.reported = false ∧ demo.run.halted = false) ∧
      nextRecord ((kq 0).records.filter (fun r => r.hyper == false)) = some rec_ ∧
      (1 < ((kq 0).kqbase.extractLsb' 48 16).toNat ∧ ((kq 0).kqhead.toNat + 1) % 2 ≠ (kq 0).kqtail.toNat ∧ ((kq 1).kqhead.toNat + 1) % 2 = (kq 1).kqtail.toNat) ∧
      awaited demoChip 0 0 = none ∧ (awaited rec0 0 0).map (·.2) = some .privateForeign ∧ (requestAny rec0 0 0).2 = false ∧ (requestAny demoOwners 1 0).2 = true := by
  refine ⟨by decide, by decide, by decide +kernel, by decide, rfl, rfl, rfl, rfl, by decide, by decide, by decide, by decide, by decide +kernel, by decide, by decide, by decide, by decide, by decide, by decide, by decide, by decide, by decide⟩
theorem witness_HostEvents :
    let ok : List (BitVec 64) := [1, 0, 0, 0, 0x0001000000000000, 0, 0, 0]
    let booted (h : HostSt) : Chip := { demoChip with host := { h with booted := true } }
    let fenced (n : Nat) := { demoChip with parts := [(0, { Part.reset with fencestat := n })] }
    (demoChip.holdsOwner 0 = true ∧ ({ Chip.reset with host := { HostSt.reset with booted := true } } : Chip).holdsOwner 0 = false ∧ (5 : Nat) < Part.reset.pcore.length) ∧ ((Chip.reset.part 0).fencestat ≠ 1 ∧ (Chip.reset.part 0).fencestat ≠ 2 ∧ ((fenced 1).part 0).fencestat = 1 ∧ ((fenced 2).part 0).fencestat = 2) ∧
      (ok.length = 8 ∧ ((ok.getD 0 0).extractLsb' 16 8).toNat ≤ 7 ∧ packetOk ok = true ∧ packetOk (List.replicate 8 (BitVec.allOnes 64)) = false ∧ (Chip.reset.part 0).fenced = false ∧ (Chip.reset.part 0).launches.length < 64) ∧
      nextPacket [] 0 (Chip.reset.part 0).launches = none ∧ (Chip.reset.host.bar2Open = true ∧ ({ HostSt.reset with bar2Open := false } : HostSt).bar2Open = false) ∧
      (placeOf 0 ≠ .none ∧ placeOf (2 ^ 47) = .none ∧ demoChip.closed [] 0 = false) ∧ ((booted HostSt.reset).host.booted = true ∧ (booted HostSt.reset).host.ports = [] ∧ (127 : Nat) < 128) ∧
      (Chip.reset.host.port 0).missed + 1 < 64 ∧ (Chip.reset.onCore 0 = [] ∧ ¬ ((Chip.reset.core 0).disabled = true ∧ (Chip.reset.core 0).bin = 450)) ∧
      ((spareOwner .admitting none).state = .admitting ∧ 0x3FFC0 + 64 ≤ bufSize .abuf ∧ (demoChip.owner 0).state ≠ .admitting) ∧
      ((demoHandles.owner 0).state ≠ .empty ∧ (demoHandles.part 0).fenced = false ∧ readHandle demoMem demoHandles (demoHandles.part 0) 0 0 = some (demoHandle, true, true) ∧
        demoHandles.heldAt (2 ^ 42) 64 = false) := by
  refine ⟨by decide, by decide, by decide, by decide, by decide, by decide, by decide, by decide, by decide, by decide, by decide⟩
theorem witness_EndOfBeat : (∀ e ∈ demoChip.owners, e.2.state ≠ .retiring ∧ e.2.acct = none) ∧ (demoAt .ct demo).chip.strand? 0 0 = some demo ∧
    (demoAt .ct demo).chip.runs demo = true ∧ (demoChip.owner 0).state ≠ .empty ∧ (demoChip.owner 0).state ≠ .admitting := by
  refine ⟨by decide, rfl, by decide, by decide, by decide⟩
theorem witness_IssueOrder :
    let s := demoAt .ct demo
    let i : Info := { grp := .any, cls := 1, ok := true, opc := 0x01 }
    let off : Head := { demoHead with psel := 1 }
    let tok : Head := { demoHead with wf := true }
    s.chip.strand? s.chip.cur.core s.chip.cur.slot = some demo ∧ i.grp.has .ct = true ∧ (Info.grp { i with grp := .cp }).has .ct = false ∧ i.denied demo = false ∧
      (supInfo 0xE0).denied { demo with place := { demo.place with sup := false } } = true ∧ noOperands (s.ctx demo) = none ∧ operands [vsrc 0, vsrc 2] (s.ctx demo) = some .illBank ∧
      (demo.rp .ct off.psel).xor off.pneg = false ∧ (demo.rp .ct demoHead.psel).xor demoHead.pneg = true ∧ demo.sh.rings.ready .ct tok = false ∧ demo.sh.rings.ready .ct demoHead = true := by
  refine ⟨rfl, by decide, by decide, by decide, by decide, by decide, by decide, by decide, by decide, by decide, by decide⟩
theorem witness_IssueBookkeeping :
    let ends (check : Bool) : Strand :=
      { demo with ct := { demo.ct with pc := 8, sec := demo.ct.sec.map (fun k => { k with check := check, count := 7 }) } }
    (demoAt .ct demo).chip.strand? 0 0 = some demo ∧ demo.run.h = false ∧ demo.ct.pending = none ∧ demo.ct.loops = [] ∧ demo.ct.sec.map (·.inBody (demo.ct.pc + 1).toNat) = some true ∧
      ((demoAt .ct (ends true)).chip.strand? 0 0 = some (ends true) ∧ (ends true).ct.sec.map (fun k => (k.inBody ((ends true).ct.pc + 1).toNat, k.lastPos)) = some (false, 8)) := by
  refine ⟨rfl, by decide, by decide, by decide, by decide, ⟨rfl, by decide⟩⟩
theorem witness_FrameOfWords :
    (∀ i ∈ [Instr.add demoHead 1 2 3, .vadd demoHead .f32 .rn .inf 2 0 1 .all, .stx demoHead .s8 1 2 3 0, .mclr demoHead 0, .halt demoHead],
      (encode i).isSome = true) ∧ (∃ t, exec (.add demoHead 1 2 3) (demoAt .ct demo) = .next t) :=
  ⟨by decide, _, rfl⟩
theorem witness_Landings :
    let due (hc : Bool) (n : Nat) (l : List Land) (t : Option PTrap) : Strand := { demo with due := [{ due := n, hclock := hc, tauIssue := 0, q := .ct, lands := l, trap := t }] }
    let t : PTrap := { cause := .fpInvalid, faddr := 0, tval := 0, q := .cp, sec := 0, slot := 0 }
    let st := due false 0 [.x .ct 63 1 none false] none
    let k := { demoWork (.access (.store [7]) (abufAddr 1) []) 1 with steps := [{ at_ := 0, chain := 0, act := .atHome }] }
    let ch := { demoChip with works := [(1, k)], workNext := 2 }
    ((demoAt .ct st).chip.strand? 0 0 = some st ∧ (demoAt .ct st).chip.runs st = true ∧ 0 ≤ st.run.tau ∧ ¬ 1 ≤ st.run.tau) ∧
      ((demoAt .ct (inHandler (due true 0 [.x .ct 64 1 none false] none))).chip.ownsIssue (inHandler (due true 0 [] none)) = true) ∧
      (due false 0 [.reg 0 [1], .flags 1] (some t)).due.map (·.trap) = [some t] ∧ (2 ^ 48 ≤ abufAddr 0 ∧ 2 ^ 48 ≤ abufAddr 1) ∧
      (ch.work? 1 = some k ∧ ch.nextStep 1 k = some (0, { at_ := 0, chain := 0, act := .atHome })) := by
  refine ⟨⟨rfl, by decide⟩, by decide, by decide, by decide, by decide⟩
theorem witness_TrapsAndReturns :
    let tv (n : BitVec 14) : Strand := { demo with csr := { demo.csr with tvec := n } }
    let mem := Memory.write [] (istoreAddr 0) (bytesOfWord (0x000001FFFFFFFFF0 : IWord))
    let away := { tv 1 with place := { demo.place with absent := [1] } }
    (demoAt .ct demo).chip.strand? 0 0 = some demo ∧ demo.run.h = false ∧ (inHandler demo).run.h = true ∧ demo.csr.tvec = 0 ∧ (tv 1).csr.tvec ≠ 0 ∧
      causeTo .fpInvalid = .strand ∧ causeTo .budgetExhausted ≠ .strand ∧ (sectionHolding mem 0 demo.place (tv 1).csr.tvec.toNat).isSome = true ∧
      (sectionHolding mem 0 demo.place (tv 2).csr.tvec.toNat).isSome = false ∧ (demo.place.absent.contains 1 = false ∧ away.place.absent.contains 1 = true) ∧
      ({ demo with run := { demo.run with saved := some ⟨none, false, false, [], .none, none⟩ } } : Strand).run.saved.isSome = true := by
  refine ⟨rfl, by decide, by decide, by decide, by decide, by decide, by decide, by decide, by decide, by decide, by decide⟩
theorem witness_StepKeepsMemory : (demoOn demoMem demoChip .ct demo).Inv ∧ demoMem ≠ [] ∧ State.reset.Inv := by
  refine ⟨by simp only [State.Inv]; decide, by decide, by simp only [State.Inv]; decide⟩
theorem witness_EncodingRoundTrip : (Instr.add demoHead 63 62 61).WF ∧ encode (.add demoHead 63 62 61) = some 0x0100FFEF4000000000000000 ∧
    (decode 0x0100FFEF4000000000000000).isSome = true := by decide
theorem witness_StepRunsDecoded :
    let w : IWord := 0x010020830000000000000000
    let s := State.reset.withFetchWord 96 w.toNat
    let st := (s.chip.strand? 0 0).getD demo
    (∃ rest, s.chip.agenda = .issue 0 0 .ct :: rest) ∧ s.chip.strand? 0 0 = some st ∧ (∀ n p tag, st.ct.wait ≠ .waitt n p tag) ∧ st.ct.pc.toNat < positions st.place.iskb ∧
      st.place.absent.contains st.ct.pc.toNat = false ∧ ¬ (SeqId.ct = .ct ∧ st.run.h = true) ∧ st.ct.atHdr = false ∧ wordAt s.mem 0 st.place st.ct.pc.toNat = w := by
  refine ⟨⟨_, rfl⟩, by decide, (by intro n p tag h; cases h), by decide, by decide, by decide, by decide, by decide⟩

/-! ### Values worked by hand from 05 R84 to R98 and the entries -/

/-- 1 + 1 = 2; 1 / 3 rounds to nearest with INEXACT; 1 / 0 is infinite with DIVZERO; 0 / 0 is INVALID (F32). -/
theorem test_float_arithmetic :
    fAdd fmtF32 .rn .inf false 0x3F800000 0x3F800000 = ⟨0x40000000, 0, false⟩ ∧ fDiv fmtF32 .rn .inf 0x3F800000 0x40400000 = ⟨0x3EAAAAAB, fInexact, false⟩ ∧
    (fDiv fmtF32 .rn .inf 0x3F800000 0).bits = 0x7F800000 ∧ (fDiv fmtF32 .rn .inf 0x3F800000 0).flags = fDivzero ∧ (fDiv fmtF32 .rn .inf 0 0).flags = fInvalid := by decide +kernel
/-- (1 + 2^-23)^2 − (1 + 2^-22) is 2^-46 exactly: one rounding (R98). -/
theorem test_float_fused : fFma fmtF32 .rn .inf false true 0x3F800001 0x3F800001 0x3F800002 = ⟨0x28800000, 0, false⟩ := by decide +kernel
/-- Ties go to even: F32 to BF16 of 1 + 2^-8 and 1 + 3 · 2^-8; the second rounds up (R90). -/
theorem test_convert_ties :
    (convert .bf16 .f32 .rn .inf 0x3F808000).bits = 0x3F80 ∧ (convert .bf16 .f32 .rn .inf 0x3F818000).bits = 0x3F82 ∧
    (convert .bf16 .f32 .ra .inf 0x3F808000).bits = 0x3F81 ∧ (convert .i8 .f32 .rz .sat 0xC3008000).bits = 0x80 := by decide +kernel
/-- 2^0.5, log2 8, 1/√4 and √2 in F32 (13 R274). -/
theorem test_float_functions :
    (fExp2 fmtF32 .rn .inf 0x3F000000).bits = 0x3FB504F3 ∧ (fLog2 fmtF32 .rn .inf 0x41000000).bits = 0x40400000 ∧
    (fRsq fmtF32 .rn .inf 0x40800000).bits = 0x3F000000 ∧ (fSqrt fmtF32 .rn .inf 0x40000000).bits = 0x3FB504F3 := by decide +kernel
/-- Integers are formed exactly and delivered under the policy: 100 + 100 in I8 (R270). -/
theorem test_integer_policies :
    (intResult .i8 .sat 200).bits = 127 ∧ (intResult .i8 .inf 200).bits = 0xC8 ∧ (intResult .i8 .nan 200).bits = 0x80 ∧ (intResult .i8 .trap 200).trap = true := by decide
/-- A barrier of one arrival advances its phase and reloads; a second arrival too many overflows (R156, R157). -/
theorem test_barrier :
    let b := Barrier.init 1
    (b.arrive 1).phase = 1 ∧ (b.arrive 1).apend = 1 ∧ (b.arrive 2).status = 128 := by decide
/-- Memory: a byte written reads back, one beside it does not change, and writing 0 leaves nothing listed. -/
theorem test_memory :
    Memory.read (Memory.write [] 5 [7, 8]) 6 = 8 ∧ Memory.read (Memory.write [] 5 [7]) 6 = 0 ∧ Memory.write (Memory.write [] 5 [7]) 5 [0] = [] := by decide
/-- From reset, the first step of a placed ADDI x8, x0, 5 latches 5 for x8 at τ + 1 (R129), and the word counts. -/
theorem test_step_addi :
    (match step (State.reset.withFetchWord 96 0x020020000000000000000005) with
      | .next t => (t.chip.strand? 0 0).map (fun st => (st.due.map (fun d => (d.due, d.lands)), st.ct.pc, t.chip.verdict))
      | _ => none) = some ([(1, [.x .ct 8 5 none false])], 2, .issued) := by decide +kernel
/-- Division by zero takes no trap (R130): the quotient is all ones, 20 beats later. -/
theorem test_step_div_zero :
    (match step (State.reset.withFetchWord 96 0x040020000000000000000000) with
      | .next t => (t.chip.strand? 0 0).map (fun st => st.due.map (fun d => (d.due, d.lands)))
      | _ => none) = some [(20, [.x .ct 8 (BitVec.allOnes 64) none false])] := by decide +kernel
/-- An unassigned opcode traps: with TVEC 0 the strand stalls on a record (R176, R179). -/
theorem test_step_illegal :
    (match step (State.reset.withFetchWord 96 0xFF0000000000000000000000) with
      | .next t => (t.chip.strand? 0 0).map (fun st => (st.csr.tcause.extractLsb' 0 8, st.run.stall.map (·.kind)))
      | _ => none) = some (BitVec.ofNat 8 (causeCode .illOpc), some (.record .illOpc)) := by decide +kernel

end Sys2Proof.Tests
end

section
/-! SUPPORT. What a word of the control engine does once it can issue (07 R128 to R133, R137), stated once for each of the
shared forms: two sources, one source, no source, and a word with a field outside its limits. -/

namespace Sys2Proof.Machine

/-- A word that nothing stops, changing its strand alone, issues with that strand. -/
theorem issue_done {s : State} {h : Head} {i : Info} {pre : Ctx → Option Cause} {body : Ctx → Effect} {q : SeqId} {st st' : Strand}
    (rd : Ready s h q st) (hg : i.grp.has q = true) (hd : i.denied st = false) (ho : i.ok = true) (hp : pre (s.ctx st) = none)
    (hb : body (s.ctx st) = (s.ctx st).done st') :
    issue s h i pre body = .next (s.issuedWith h i.opc i.cls st') :=
  issue_go rd hg hd ho hp hb

/-- A word with a field outside its limits is refused (04 R70 step 4). -/
theorem issue_notOk {s : State} {h : Head} {i : Info} {pre : Ctx → Option Cause} {body : Ctx → Effect} {q : SeqId} {st : Strand}
    (rd : Ready s h q st) (hg : i.grp.has q = true) (hd : i.denied st = false) (ho : i.ok = false) :
    issue s h i pre body = .next (s.trapped st .illRsvd (noAddr .illRsvd) 0) := by
  obtain ⟨hs, rfl, -, -⟩ := rd
  simp [issue, hs, hg, hd, ho, State.trapped]

section
variable {s : State} {h : Head} {q : SeqId} {st : Strand}

/-- A scalar word whose result reads the machine at issue latches it n beats later. -/
theorem issue_writeX {opc : BitVec 8} {cls n : Nat} {ok : Bool} {xd : Reg} {v : Ctx → Word} {p : Ctx → Bool}
    (rd : Ready s h q st) (ho : ok = true) :
    issue s h (scalarInfo opc cls ok) noOperands (fun x => x.writeX n xd (v x) (p x)) =
      .next (s.issuedWith h opc cls (st.laterX q n xd (v (s.ctx st)) none (p (s.ctx st)))) := by
  obtain rfl := rd.seq
  exact issue_done rd rfl rfl ho rfl rfl

/-- A word of two sources latches its function of them, poisoned when a source is (07 R133). -/
theorem scalar2_ready {opc : BitVec 8} {cls n : Nat} {xd xa xb : Reg} {f : Word → Word → Word} (rd : Ready s h q st) :
    scalar2 s h opc cls n xd xa xb f =
      .next (s.issuedWith h opc cls (st.laterX q n xd (f (st.rx q xa) (st.rx q xb)) none (st.px q xa || st.px q xb))) := by
  obtain rfl := rd.seq
  exact issue_writeX rd rfl

/-- A word of one source with its fields in their limits latches its function of it. -/
theorem scalar1_ready {opc : BitVec 8} {ok : Bool} {xd xa : Reg} {f : Word → Word} (rd : Ready s h q st) (ho : ok = true) :
    scalar1 s h opc ok xd xa f =
      .next (s.issuedWith h opc 1 (st.laterX q 1 xd (f (st.rx q xa)) none (st.px q xa))) := by
  obtain rfl := rd.seq
  exact issue_writeX rd ho

/-- TICK latches the strand time of its slot. -/
theorem execTick_ready {xd : Reg} (rd : Ready s h q st) :
    execTick h xd s = .next (s.issuedWith h 0x18 1 (st.laterX q 1 xd (BitVec.ofNat 64 st.run.tau))) := by
  obtain rfl := rd.seq
  exact issue_writeX (v := fun x => BitVec.ofNat 64 x.tau) (p := fun _ => false) rd rfl

/-- GTSR latches the GTS of its beat. -/
theorem execGtsr_ready {xd : Reg} (rd : Ready s h q st) :
    execGtsr h xd s = .next (s.issuedWith h 0x19 1 (st.laterX q 1 xd (BitVec.ofNat 64 s.chip.gts))) := by
  obtain rfl := rd.seq
  exact issue_writeX (v := fun x => BitVec.ofNat 64 x.now) (p := fun _ => false) rd rfl

/-- An instruction whose meaning `e` is a word of two sources gives the value v of its function at the two registers. -/
theorem exec_gives2 {i : Instr} {opc : BitVec 8} {cls n : Nat} {xd xa xb : Reg} {f : Word → Word → Word} {v : Word}
    (rd : Ready s h q st) (e : Outcome) (hi : exec i s = e) (he : e = scalar2 s h opc cls n xd xa xb f)
    (hv : f (st.rx q xa) (st.rx q xb) = v) :
    exec i s = .next (s.issuedWith h opc cls (st.laterX q n xd v none (st.px q xa || st.px q xb))) := by
  rw [hi, he, scalar2_ready rd, hv]

/-- An instruction whose meaning `e` is a word of one source gives the value v of its function at the register. -/
theorem exec_gives1 {i : Instr} {opc : BitVec 8} {ok : Bool} {xd xa : Reg} {f : Word → Word} {v : Word}
    (rd : Ready s h q st) (e : Outcome) (hi : exec i s = e) (he : e = scalar1 s h opc ok xd xa f) (ho : ok = true)
    (hv : f (st.rx q xa) = v) :
    exec i s = .next (s.issuedWith h opc 1 (st.laterX q 1 xd v none (st.px q xa))) := by
  rw [hi, he, scalar1_ready rd ho, hv]

/-- An instruction whose meaning `e` is a word of one source with a field outside its limits is refused. -/
theorem exec_refuses1 {i : Instr} {opc : BitVec 8} {ok : Bool} {xd xa : Reg} {f : Word → Word} (rd : Ready s h q st)
    (e : Outcome) (hi : exec i s = e) (he : e = scalar1 s h opc ok xd xa f) (ho : ok = false) :
    exec i s = .next (s.trapped st .illRsvd (noAddr .illRsvd) 0) := by
  rw [hi, he, scalar1, issue_notOk rd rfl rfl ho]

end
end Sys2Proof.Machine
end

section
/-! SUPPORT. The fields of an S word by the accessors of the decoder (04 R61). -/

namespace Sys2Proof.Laws

section
variable (o : BitVec 8) (h : Head) (xd xa xb sub : BitVec 6) (imm : BitVec 48)

@[simp] theorem wOpc_encS : wOpc (encS o h xd xa xb sub imm) = o := encS_88_8 ..
@[simp] theorem wR2_encS : wR2 (encS o h xd xa xb sub imm) = xa := encS_68_6 ..
@[simp] theorem wR3_encS : wR3 (encS o h xd xa xb sub imm) = xb := encS_62_6 ..
@[simp] theorem wR4_encS : wR4 (encS o h xd xa xb sub imm) = sub := encS_56_6 ..
@[simp] theorem wImm48_encS : wImm48 (encS o h xd xa xb sub imm) = imm := encS_0_48 ..

end

/-- IMM48 of a word that holds a width alone. -/
theorem toNat_imm48_width (n : BitVec 7) : (0#41 ++ n).toNat = n.toNat := by rw [BitVec.toNat_append]; simp

/-- A scalar instruction has the one word that the scalar part of the encoder gives it. -/
theorem eq_of_encScalar {i : Instr} {w v : IWord} (hv : encScalar i = some v) (hw : encode i = some w) : w = v := by
  simpa [encode, hv, eq_comm] using hw

end Sys2Proof.Laws
end

section
/-! SUPPORT. The functions of the scalar words as arithmetic on the values of their sources (07 R128 to R131). -/

namespace Sys2Proof.Machine

/-! ### Arithmetic and comparison (07 R128) -/

/-- A shift distance, bits 5..0 of xb. -/
theorem toNat_mod_64 (b : Word) : b.toNat % 64 = (b.extractLsb' 0 6).toNat := by simp [BitVec.extractLsb'_toNat]

theorem min_signed (a b : Word) : (if a.toInt ≤ b.toInt then a else b) = BitVec.ofInt 64 (min a.toInt b.toInt) := by
  rw [min_def]; split <;> exact BitVec.ofInt_toInt.symm

theorem max_signed (a b : Word) : (if a.toInt ≤ b.toInt then b else a) = BitVec.ofInt 64 (max a.toInt b.toInt) := by
  rw [max_def]; split <;> exact BitVec.ofInt_toInt.symm

theorem min_unsigned (a b : Word) : (if a.toNat ≤ b.toNat then a else b) = BitVec.ofNat 64 (min a.toNat b.toNat) := by
  rw [min_def]; split <;> simp

theorem max_unsigned (a b : Word) : (if a.toNat ≤ b.toNat then b else a) = BitVec.ofNat 64 (max a.toNat b.toNat) := by
  rw [max_def]; split <;> simp

theorem boolWord_decide (p : Prop) [Decidable p] : boolWord (decide p) = if p then 1 else 0 := by simp [boolWord]

/-! ### Products and quotients (07 R130) -/

theorem ofInt_sub {w : Nat} (x y : Int) : BitVec.ofInt w (x - y) = BitVec.ofInt w x - BitVec.ofInt w y := by
  rw [Int.sub_eq_add_neg, BitVec.ofInt_add, BitVec.ofInt_neg, BitVec.sub_eq_add_neg]

/-- The low half of the product is the same signed and unsigned. -/
theorem mul_signed (a b : Word) : a * b = BitVec.ofInt 64 (a.toInt * b.toInt) := by
  rw [BitVec.ofInt_mul, BitVec.ofInt_toInt, BitVec.ofInt_toInt]

section
variable {a b : Word}

theorem divS_zero (a : Word) : divS a 0 = BitVec.allOnes 64 := rfl
theorem divU_zero (a : Word) : divU a 0 = BitVec.allOnes 64 := rfl
theorem remS_zero (a : Word) : remS a 0 = a := rfl
theorem remU_zero (a : Word) : remU a 0 = a := rfl

theorem divS_of_ne (hb : b ≠ 0) : divS a b = BitVec.ofInt 64 (Int.tdiv a.toInt b.toInt) := if_neg hb
theorem divU_of_ne (hb : b ≠ 0) : divU a b = BitVec.ofNat 64 (a.toNat / b.toNat) := if_neg hb

/-- The signed remainder is xa less the quotient times xb. -/
theorem remS_of_ne (hb : b ≠ 0) : remS a b = BitVec.ofInt 64 (a.toInt - Int.tdiv a.toInt b.toInt * b.toInt) :=
  calc remS a b = a - divS a b * b := if_neg hb
    _ = a - BitVec.ofInt 64 (Int.tdiv a.toInt b.toInt) * b := by rw [divS_of_ne hb]
    _ = BitVec.ofInt 64 (a.toInt - Int.tdiv a.toInt b.toInt * b.toInt) := by
      rw [ofInt_sub, BitVec.ofInt_mul, BitVec.ofInt_toInt, BitVec.ofInt_toInt]

/-- Unsigned, xa less the quotient times xb is the remainder of the division. -/
theorem remU_of_ne (hb : b ≠ 0) : remU a b = BitVec.ofNat 64 (a.toNat % b.toNat) := by
  have hsum : a = BitVec.ofNat 64 (a.toNat % b.toNat) + BitVec.ofNat 64 (a.toNat / b.toNat) * b :=
    calc a = BitVec.ofNat 64 (a.toNat % b.toNat + a.toNat / b.toNat * b.toNat) := by
          rw [Nat.mod_add_div', BitVec.ofNat_toNat, BitVec.setWidth_eq]
      _ = BitVec.ofNat 64 (a.toNat % b.toNat) + BitVec.ofNat 64 (a.toNat / b.toNat) * b := by
          rw [BitVec.ofNat_add, BitVec.ofNat_mul, BitVec.ofNat_toNat 64 b, BitVec.setWidth_eq]
  calc remU a b = a - divU a b * b := if_neg hb
    _ = BitVec.ofNat 64 (a.toNat % b.toNat) := by rw [divU_of_ne hb]; exact BitVec.sub_eq_iff_eq_add.mpr hsum

end

/-- The quotient of the least number by −1 wraps to the least number, and leaves no remainder. -/
theorem divS_least : divS 0x8000000000000000#64 (BitVec.allOnes 64) = 0x8000000000000000#64 := by decide
theorem remS_least : remS 0x8000000000000000#64 (BitVec.allOnes 64) = 0 := by decide

/-! ### Bit operations (07 R131) -/

theorem clz_eq_64_iff (a : Word) : a.clz.toNat = 64 ↔ a = 0 :=
  (BitVec.toNat_inj (y := 64#64)).trans BitVec.clz_eq_iff_eq_zero

theorem clz_le_64 (a : Word) : a.clz.toNat ≤ 64 := BitVec.clz_le

/-- The leading zeros stand above the leading one, whose position is the logarithm. -/
theorem leadingZeros_eq_clz (a : Word) : leadingZeros a = BitVec.ofNat 64 a.clz.toNat := by
  unfold leadingZeros
  split
  next ha => subst ha; decide
  next ha =>
    have hclz : a.clz.toNat ≤ 63 := Nat.le_of_lt_succ (BitVec.clz_lt_iff_ne_zero.mpr ha)
    have hlog : Nat.log2 a.toNat = 63 - a.clz.toNat := by
      rw [Nat.log2_eq_iff (mt (BitVec.toNat_inj (y := 0)).mp ha), show 63 - a.clz.toNat + 1 = 64 - a.clz.toNat by omega]
      exact ⟨BitVec.two_pow_sub_clz_le_toNat_of_ne_zero (by decide) ha, BitVec.toNat_lt_two_pow_sub_clz⟩
    rw [hlog, Nat.sub_sub_self hclz]

/-- Every bit above the leading one is zero. -/
theorem getLsbD_of_lt_clz {a : Word} {k : Nat} (hk : k < a.clz.toNat) : a.getLsbD (63 - k) = false := by
  have hle := clz_le_64 a
  have hpow : 2 ^ (64 - a.clz.toNat) ≤ 2 ^ (63 - k) := Nat.pow_le_pow_right (by decide) (by omega)
  rw [← BitVec.testBit_toNat]
  exact Nat.testBit_lt_two_pow (Nat.lt_of_lt_of_le BitVec.toNat_lt_two_pow_sub_clz hpow)

/-- The bit after the leading zeros is a one. -/
theorem getLsbD_clz {a : Word} (h : a.clz.toNat < 64) : a.getLsbD (63 - a.clz.toNat) = true :=
  BitVec.getLsbD_true_clz_of_ne_zero (by decide) (mt (clz_eq_64_iff a).mpr (Nat.ne_of_lt h))

theorem onesCount_eq (a : Word) : onesCount a = BitVec.ofNat 64 ((List.range 64).filter (fun k => a.getLsbD k)).length := by
  rw [onesCount, List.countP_eq_length_filter]

/-- Sign extension of the low w bits: the sign bit decides between the two readings of the low part. -/
theorem sextN_eq_signExtend (a : Word) {w : Nat} (hw : 1 ≤ w) : sextN w a.toNat = (a.setWidth w).signExtend 64 := by
  obtain ⟨n, rfl⟩ : ∃ n, w = n + 1 := ⟨w - 1, by omega⟩
  have hsign : 2 * (a.toNat % 2 ^ (n + 1)) < 2 ^ (n + 1) ↔ a.toNat % 2 ^ (n + 1) < 2 ^ n := by
    rw [Nat.pow_succ]; omega
  simp only [sextN, BitVec.signExtend, BitVec.toInt_eq_toNat_cond, BitVec.toNat_setWidth, hsign, Nat.add_sub_cancel,
    Nat.add_one_ne_zero, if_false]
  split
  · exact (BitVec.ofInt_natCast ..).symm
  · rw [Nat.cast_pow]; rfl

theorem zext_eq_setWidth (a : Word) (w : Nat) : BitVec.ofNat 64 (a.toNat % 2 ^ w) = (a.setWidth w).setWidth 64 :=
  BitVec.eq_of_toNat_eq (by simp)

/-- The widths of SEXT and ZEXT are 1 to 64. -/
theorem wf_sext_eq (h : Head) (xd xa : Reg) (w : BitVec 7) :
    Instr.wf (.sext h xd xa w) = (decide (1 ≤ w.toNat) && decide (w.toNat ≤ 64)) := rfl

theorem wf_zext (h : Head) (xd xa : Reg) (w : BitVec 7) : Instr.wf (.zext h xd xa w) = Instr.wf (.sext h xd xa w) := rfl

theorem wf_sext (h : Head) (xd xa : Reg) {w : BitVec 7} (h1 : 1 ≤ w.toNat) (h64 : w.toNat ≤ 64) :
    Instr.wf (.sext h xd xa w) = true := by simp [wf_sext_eq, h1, h64]

theorem not_wf_sext (h : Head) (xd xa : Reg) {w : BitVec 7} (hw : w.toNat = 0 ∨ 64 < w.toNat) :
    Instr.wf (.sext h xd xa w) = false := by
  rw [wf_sext_eq, Bool.and_eq_false_iff, decide_eq_false_iff_not, decide_eq_false_iff_not]; omega

end Sys2Proof.Machine
end

section
/-! The statements about the scalar words of the control engine (07 R128 to R131, R137). -/

namespace Sys2Proof.Proofs
open Sys2Proof.Machine Sys2Proof.Laws

/-- Settles O1: every word of OPC 0x01 is a word of two sources, and its function is the one R128 names. -/
theorem aluResults : Obligations.AluResults := by
  refine ⟨fun s h q st xd xa xb rd => ?_, fun h xd xa xb e w he hw => ?_⟩
  · exact ⟨exec_gives2 rd (execAdd h xd xa xb s) rfl rfl rfl, exec_gives2 rd (execSub h xd xa xb s) rfl rfl rfl,
      exec_gives2 rd (execAnd h xd xa xb s) rfl rfl rfl, exec_gives2 rd (execOr h xd xa xb s) rfl rfl rfl,
      exec_gives2 rd (execXor h xd xa xb s) rfl rfl rfl, exec_gives2 rd (execAndn h xd xa xb s) rfl rfl rfl,
      exec_gives2 rd (execShl h xd xa xb s) rfl rfl (congrArg _ (toNat_mod_64 _)),
      exec_gives2 rd (execShr h xd xa xb s) rfl rfl (congrArg _ (toNat_mod_64 _)),
      exec_gives2 rd (execSra h xd xa xb s) rfl rfl (congrArg _ (toNat_mod_64 _)),
      exec_gives2 rd (execMin h xd xa xb s) rfl rfl (min_signed _ _), exec_gives2 rd (execMax h xd xa xb s) rfl rfl (max_signed _ _),
      exec_gives2 rd (execMinn h xd xa xb s) rfl rfl (min_unsigned _ _),
      exec_gives2 rd (execMaxn h xd xa xb s) rfl rfl (max_unsigned _ _),
      exec_gives2 rd (execSlt h xd xa xb s) rfl rfl (boolWord_decide _),
      exec_gives2 rd (execSltn h xd xa xb s) rfl rfl (boolWord_decide _)⟩
  · have henc : encScalar e.1 = some (encS 0x01 h xd xa xb e.2 0) := by
      simp only [List.mem_cons, List.not_mem_nil, or_false] at he
      rcases he with rfl | rfl | rfl | rfl | rfl | rfl | rfl | rfl | rfl | rfl | rfl | rfl | rfl | rfl | rfl <;> rfl
    obtain rfl := eq_of_encScalar henc hw
    simp

/-- Settles O2: products and quotients are words of two sources; the least number by −1 wraps. -/
theorem productsAndQuotients : Obligations.ProductsAndQuotients := by
  refine ⟨fun s h q st xd xa xb rd => ⟨?_, ?_, ?_, fun hb => ?_, fun hb => ?_, fun ha hb => ?_⟩, fun h xd xa xb e w he hw => ?_⟩
  · exact exec_gives2 rd (execMul h xd xa xb s) rfl rfl (mul_signed _ _)
  · exact exec_gives2 rd (execMulh h xd xa xb s) rfl rfl rfl
  · exact exec_gives2 rd (execMulhn h xd xa xb s) rfl rfl rfl
  · exact ⟨exec_gives2 rd (execDiv h xd xa xb s) rfl rfl (hb ▸ divS_zero _),
      exec_gives2 rd (execDivn h xd xa xb s) rfl rfl (hb ▸ divU_zero _),
      exec_gives2 rd (execRem h xd xa xb s) rfl rfl (hb ▸ remS_zero _),
      exec_gives2 rd (execRemn h xd xa xb s) rfl rfl (hb ▸ remU_zero _)⟩
  · exact ⟨exec_gives2 rd (execDiv h xd xa xb s) rfl rfl (divS_of_ne hb),
      exec_gives2 rd (execDivn h xd xa xb s) rfl rfl (divU_of_ne hb),
      exec_gives2 rd (execRem h xd xa xb s) rfl rfl (remS_of_ne hb),
      exec_gives2 rd (execRemn h xd xa xb s) rfl rfl (remU_of_ne hb)⟩
  · exact ⟨exec_gives2 rd (execDiv h xd xa xb s) rfl rfl ((congrArg₂ divS ha hb).trans divS_least),
      exec_gives2 rd (execRem h xd xa xb s) rfl rfl ((congrArg₂ remS ha hb).trans remS_least)⟩
  · have henc : encScalar e.1 = some (encS e.2.1 h xd xa xb e.2.2 0) := by
      simp only [List.mem_cons, List.not_mem_nil, or_false] at he
      rcases he with rfl | rfl | rfl | rfl | rfl | rfl | rfl <;> rfl
    obtain rfl := eq_of_encScalar henc hw
    simp

/-- Settles O3: the counts by the position of the leading one; SEXT and ZEXT read the low w bits signed and unsigned. -/
theorem bitCounts : Obligations.BitCounts := by
  refine ⟨fun s h q st xd xa w rd => ⟨?_, ?_, fun h1 h64 => ?_, fun hw => ?_⟩, fun h xd xa n w => ⟨?_, ?_⟩⟩
  · exact ⟨(st.rx q xa).clz.toNat, exec_gives1 rd (execClz h xd xa s) rfl rfl rfl (leadingZeros_eq_clz _), clz_le_64 _,
      clz_eq_64_iff _, fun k => getLsbD_of_lt_clz, getLsbD_clz⟩
  · exact exec_gives1 rd (execPopc h xd xa s) rfl rfl rfl (onesCount_eq _)
  · have hwf := wf_sext h xd xa h1 h64
    exact ⟨exec_gives1 rd (execSext h xd xa w s) rfl rfl hwf (sextN_eq_signExtend _ h1),
      exec_gives1 rd (execZext h xd xa w s) rfl rfl ((wf_zext ..).trans hwf) (zext_eq_setWidth _ _)⟩
  · have hwf := not_wf_sext h xd xa hw
    exact ⟨exec_refuses1 rd (execSext h xd xa w s) rfl rfl hwf,
      exec_refuses1 rd (execZext h xd xa w s) rfl rfl ((wf_zext ..).trans hwf)⟩
  · rintro (hw | hw)
    · obtain rfl := eq_of_encScalar (v := encS 0x06 h xd xa 0 0 0) rfl hw
      simp
    · obtain rfl := eq_of_encScalar (v := encS 0x06 h xd xa 0 1 0) rfl hw
      simp
  · rintro (hw | hw)
    · obtain rfl := eq_of_encScalar (v := encS 0x06 h xd xa 0 2 (0#41 ++ n)) rfl hw
      exact ⟨wOpc_encS .., wR3_encS .., (congrArg _ (wImm48_encS ..)).trans (toNat_imm48_width n)⟩
    · obtain rfl := eq_of_encScalar (v := encS 0x06 h xd xa 0 3 (0#41 ++ n)) rfl hw
      exact ⟨wOpc_encS .., wR3_encS .., (congrArg _ (wImm48_encS ..)).trans (toNat_imm48_width n)⟩

/-- Settles O4: both words latch what the machine holds at issue, the strand time of their slot and the GTS of their beat. -/
theorem timeReads : Obligations.TimeReads := by
  refine ⟨fun s h q st xd rd => ?_, fun h xd w => ⟨fun hw => ?_, fun hw => ?_⟩⟩
  · exact ⟨execTick_ready rd, execGtsr_ready rd⟩
  · obtain rfl := eq_of_encScalar (v := encS 0x18 h xd 0 0 0 0) rfl hw
    simp
  · obtain rfl := eq_of_encScalar (v := encS 0x19 h xd 0 0 0 0) rfl hw
    simp

end Sys2Proof.Proofs
end

section
/-! SUPPORT. The decoder answers exactly the well-formed instructions whose encoding a word is (04 R58, R61 to R69). -/

namespace Sys2Proof.Laws

/-- Every instruction decodes from the word its encoding gives. -/
theorem roundTrip (i : Instr) : RoundTrip.Statement i :=
  match i with
  | .nop .. => RoundTrip.nop _
  | .add .. => RoundTrip.add _ _ _ _
  | .sub .. => RoundTrip.sub _ _ _ _
  | .and .. => RoundTrip.and _ _ _ _
  | .or .. => RoundTrip.or _ _ _ _
  | .xor .. => RoundTrip.xor _ _ _ _
  | .andn .. => RoundTrip.andn _ _ _ _
  | .shl .. => RoundTrip.shl _ _ _ _
  | .shr .. => RoundTrip.shr _ _ _ _
  | .sra .. => RoundTrip.sra _ _ _ _
  | .min .. => RoundTrip.min _ _ _ _
  | .max .. => RoundTrip.max _ _ _ _
  | .minn .. => RoundTrip.minn _ _ _ _
  | .maxn .. => RoundTrip.maxn _ _ _ _
  | .slt .. => RoundTrip.slt _ _ _ _
  | .sltn .. => RoundTrip.sltn _ _ _ _
  | .addi .. => RoundTrip.addi _ _ _ _
  | .mul .. => RoundTrip.mul _ _ _ _
  | .mulh .. => RoundTrip.mulh _ _ _ _
  | .mulhn .. => RoundTrip.mulhn _ _ _ _
  | .div .. => RoundTrip.div _ _ _ _
  | .divn .. => RoundTrip.divn _ _ _ _
  | .rem .. => RoundTrip.rem _ _ _ _
  | .remn .. => RoundTrip.remn _ _ _ _
  | .li .. => RoundTrip.li _ _ _
  | .lih .. => RoundTrip.lih _ _ _
  | .clz .. => RoundTrip.clz _ _ _
  | .popc .. => RoundTrip.popc _ _ _
  | .sext .. => RoundTrip.sext _ _ _ _
  | .zext .. => RoundTrip.zext _ _ _ _
  | .pcmp .. => RoundTrip.pcmp _ _ _ _ _
  | .pand .. => RoundTrip.pand _ _ _ _
  | .por .. => RoundTrip.por _ _ _ _
  | .pxor .. => RoundTrip.pxor _ _ _ _
  | .pnot .. => RoundTrip.pnot _ _ _
  | .br .. => RoundTrip.br _ _ _ _ _
  | .brp .. => RoundTrip.brp _ _ _
  | .brpClr .. => RoundTrip.brpClr _ _ _
  | .jmp .. => RoundTrip.jmp _ _
  | .jmpx .. => RoundTrip.jmpx _ _ _
  | .call .. => RoundTrip.call _ _ _
  | .ret .. => RoundTrip.ret _ _
  | .loop .. => RoundTrip.loop _ _ _ _
  | .tick .. => RoundTrip.tick _ _
  | .gtsr .. => RoundTrip.gtsr _ _
  | .waitt .. => RoundTrip.waitt _ _
  | .waitc .. => RoundTrip.waitc _ _
  | .ldx .. => RoundTrip.ldx _ _ _ _ _ _
  | .stx .. => RoundTrip.stx _ _ _ _ _ _
  | .ldxS .. => RoundTrip.ldxS _ _ _ _ _ _
  | .chk .. => RoundTrip.chk _ _
  | .chkG .. => RoundTrip.chkG _ _
  | .sptest .. => RoundTrip.sptest _ _ _
  | .spcast .. => RoundTrip.spcast _ _ _ _ _
  | .amo .. => RoundTrip.amo _ _ _ _ _ _ _
  | .cas .. => RoundTrip.cas _ _ _ _ _ _
  | .fence .. => RoundTrip.fence _ _ _ _
  | .marm .. => RoundTrip.marm _ _
  | .mwait .. => RoundTrip.mwait _ _
  | .mwaitTimeout .. => RoundTrip.mwaitTimeout _ _
  | .txbInit .. => RoundTrip.txbInit _ _ _
  | .txbArrive .. => RoundTrip.txbArrive _ _ _
  | .txbExpect .. => RoundTrip.txbExpect _ _ _
  | .txbWait .. => RoundTrip.txbWait _ _ _
  | .cpyIn .. => RoundTrip.cpyIn _ _ _ _ _ _ _ _ _ _
  | .cpyOut .. => RoundTrip.cpyOut _ _ _ _ _ _ _ _ _
  | .cpyG .. => RoundTrip.cpyG _ _ _ _ _ _ _ _ _ _
  | .cpyMC .. => RoundTrip.cpyMC _ _ _ _ _ _ _ _ _ _
  | .cpyLL .. => RoundTrip.cpyLL _ _ _ _ _ _ _ _
  | .cpyCancel .. => RoundTrip.cpyCancel _ _
  | .cpyStat .. => RoundTrip.cpyStat _ _ _
  | .secld .. => RoundTrip.secld _ _ _ _ _
  | .secwait .. => RoundTrip.secwait _ _ _
  | .qpush .. => RoundTrip.qpush _ _
  | .vld .. => RoundTrip.vld _ _ _ _ _
  | .vlds .. => RoundTrip.vlds _ _ _
  | .vldp .. => RoundTrip.vldp _ _ _ _ _
  | .vldS .. => RoundTrip.vldS _ _ _ _ _
  | .vgath .. => RoundTrip.vgath _ _ _ _
  | .qix .. => RoundTrip.qix _ _
  | .sclA .. => RoundTrip.sclA _ _ _ _ _ _
  | .sclB .. => RoundTrip.sclB _ _ _ _ _ _
  | .vbrd .. => RoundTrip.vbrd _ _ _ _ _ _
  | .vst .. => RoundTrip.vst _ _ _ _ _
  | .vstp .. => RoundTrip.vstp _ _ _ _ _
  | .vscat .. => RoundTrip.vscat _ _ _ _
  | .wst .. => RoundTrip.wst _ _ _ _ _ _
  | .wstG .. => RoundTrip.wstG _ _ _ _ _
  | .wstc .. => RoundTrip.wstc _ _ _ _ _ _ _ _ _ _
  | .wdrain .. => RoundTrip.wdrain _ _
  | .wbud .. => RoundTrip.wbud _ _
  | .wfence .. => RoundTrip.wfence _ _
  | .vadd .. => RoundTrip.vadd _ _ _ _ _ _ _ _
  | .vsub .. => RoundTrip.vsub _ _ _ _ _ _ _ _
  | .vmul .. => RoundTrip.vmul _ _ _ _ _ _ _ _
  | .vfma .. => RoundTrip.vfma _ _ _ _ _ _ _ _
  | .vfms .. => RoundTrip.vfms _ _ _ _ _ _ _ _
  | .vfnma .. => RoundTrip.vfnma _ _ _ _ _ _ _ _
  | .vdiv .. => RoundTrip.vdiv _ _ _ _ _ _ _ _
  | .vsqrt .. => RoundTrip.vsqrt _ _ _ _ _ _ _
  | .vrcp .. => RoundTrip.vrcp _ _ _ _ _ _ _
  | .vrsq .. => RoundTrip.vrsq _ _ _ _ _ _ _
  | .vmin .. => RoundTrip.vmin _ _ _ _ _ _
  | .vmax .. => RoundTrip.vmax _ _ _ _ _ _
  | .vabs .. => RoundTrip.vabs _ _ _ _ _ _
  | .vneg .. => RoundTrip.vneg _ _ _ _ _ _
  | .vcmp .. => RoundTrip.vcmp _ _ _ _ _ _ _
  | .vsel .. => RoundTrip.vsel _ _ _ _ _ _
  | .vand .. => RoundTrip.vand _ _ _ _ _ _
  | .vor .. => RoundTrip.vor _ _ _ _ _ _
  | .vxor .. => RoundTrip.vxor _ _ _ _ _ _
  | .vshl .. => RoundTrip.vshl _ _ _ _ _ _
  | .vshr .. => RoundTrip.vshr _ _ _ _ _ _
  | .vsra .. => RoundTrip.vsra _ _ _ _ _ _
  | .vcvt .. => RoundTrip.vcvt _ _ _ _ _ _ _ _ _
  | .vred .. => RoundTrip.vred _ _ _ _ _ _ _ _
  | .vscan .. => RoundTrip.vscan _ _ _ _ _ _ _ _
  | .vcompact .. => RoundTrip.vcompact _ _ _ _ _
  | .vperm .. => RoundTrip.vperm _ _ _ _ _ _
  | .vmov .. => RoundTrip.vmov _ _ _ _ _
  | .vmovi .. => RoundTrip.vmovi _ _ _ _
  | .viota .. => RoundTrip.viota _ _ _ _
  | .vqpop .. => RoundTrip.vqpop _ _ _ _
  | .vlut .. => RoundTrip.vlut _ _ _ _ _ _
  | .vexp2 .. => RoundTrip.vexp2 _ _ _ _ _ _ _
  | .vlog2 .. => RoundTrip.vlog2 _ _ _ _ _ _ _
  | .vclass .. => RoundTrip.vclass _ _ _ _ _
  | .vsplitExp .. => RoundTrip.vsplitExp _ _ _ _
  | .vsplit .. => RoundTrip.vsplit _ _ _ _ _ _
  | .vcombAcc .. => RoundTrip.vcombAcc _ _ _ _ _ _ _
  | .vcombFin .. => RoundTrip.vcombFin _ _ _ _ _ _ _ _ _
  | .mma .. => RoundTrip.mma _ _ _ _ _ _ _ _ _
  | .mmas .. => RoundTrip.mmas _ _ _ _ _ _ _ _ _ _
  | .mclr .. => RoundTrip.mclr _ _
  | .mldc .. => RoundTrip.mldc _ _ _ _
  | .mdrain .. => RoundTrip.mdrain _ _ _ _ _ _
  | .mchk .. => RoundTrip.mchk _ _
  | .mcomp .. => RoundTrip.mcomp _ _ _ _
  | .mbmp .. => RoundTrip.mbmp _ _ _ _ _
  | .ttLoc .. => RoundTrip.ttLoc _ _ _
  | .ttFix .. => RoundTrip.ttFix _ _
  | .ttReplay .. => RoundTrip.ttReplay _
  | .ctabW .. => RoundTrip.ctabW _ _
  | .ctabSwap .. => RoundTrip.ctabSwap _
  | .clgrp .. => RoundTrip.clgrp _ _ _ _
  | .clgrpRelease .. => RoundTrip.clgrpRelease _ _ _
  | .clred .. => RoundTrip.clred _ _ _ _ _ _ _ _ _ _ _
  | .clbc .. => RoundTrip.clbc _ _ _ _ _ _ _ _
  | .clstat .. => RoundTrip.clstat _ _ _
  | .trap .. => RoundTrip.trap _ _
  | .eret .. => RoundTrip.eret _
  | .csrr .. => RoundTrip.csrr _ _ _
  | .csrw .. => RoundTrip.csrw _ _ _ _
  | .csrs .. => RoundTrip.csrs _ _ _ _
  | .csrc .. => RoundTrip.csrc _ _ _ _
  | .halt .. => RoundTrip.halt _
  | .prept .. => RoundTrip.prept _ _
  | .yield .. => RoundTrip.yield _
  | .cropen .. => RoundTrip.cropen _ _ _
  | .crclose .. => RoundTrip.crclose _ _
  | .view .. => RoundTrip.view _ _ _ _
  | .scfg .. => RoundTrip.scfg _ _ _ _ _
  | .nestSet .. => RoundTrip.nestSet _ _ _ _ _
  | .nestGo .. => RoundTrip.nestGo _
  | .nestStat .. => RoundTrip.nestStat _ _
  | .splAdmit .. => RoundTrip.splAdmit _ _ _ _ _ _
  | .splRetire .. => RoundTrip.splRetire _ _ _
  | .splRephase .. => RoundTrip.splRephase _ _ _ _ _
  | .splFreeze .. => RoundTrip.splFreeze _ _ _
  | .splThaw .. => RoundTrip.splThaw _ _ _
  | .splQuery .. => RoundTrip.splQuery _ _ _ _
  | .ctxSave .. => RoundTrip.ctxSave _ _ _ _
  | .ctxLoad .. => RoundTrip.ctxLoad _ _ _
  | .ctxKill .. => RoundTrip.ctxKill _ _ _
  | .keyRoll .. => RoundTrip.keyRoll _ _ _
  | .keyRollBlockEnd .. => RoundTrip.keyRollBlockEnd _ _
  | .memoryInterfaceApply .. => RoundTrip.memoryInterfaceApply _
  | .illegalWord .. => RoundTrip.illegalWord _ _ _ _
  | .pcBound .. => RoundTrip.pcBound _ _ _
  | .istoreEcc .. => RoundTrip.istoreEcc _ _ _
  | .sectionStart .. => RoundTrip.sectionStart _ _ _
  | .blockLimitExpiry .. => RoundTrip.blockLimitExpiry _ _ _
  | .gtsTick .. => RoundTrip.gtsTick
  | .dueResultLands .. => RoundTrip.dueResultLands _ _
  | .nestShadowLive .. => RoundTrip.nestShadowLive _ _
  | .mdrainDrain .. => RoundTrip.mdrainDrain _
  | .wstcDrain .. => RoundTrip.wstcDrain _
  | .trapEntry .. => RoundTrip.trapEntry _ _
  | .stallEnd .. => RoundTrip.stallEnd _ _
  | .replayStall .. => RoundTrip.replayStall _ _
  | .containmentUnwind .. => RoundTrip.containmentUnwind _ _ _ _
  | .tlbWalkComplete .. => RoundTrip.tlbWalkComplete _
  | .meshFlitStep .. => RoundTrip.meshFlitStep _
  | .linkFlitStep .. => RoundTrip.linkFlitStep _
  | .copySectorLands .. => RoundTrip.copySectorLands _
  | .secldLands .. => RoundTrip.secldLands _
  | .laneBeat .. => RoundTrip.laneBeat _ _
  | .laneBudgetRefill .. => RoundTrip.laneBudgetRefill _ _
  | .wlaneBackpressure .. => RoundTrip.wlaneBackpressure _ _
  | .chanReadCommand .. => RoundTrip.chanReadCommand _
  | .chanReadDelivery .. => RoundTrip.chanReadDelivery _ _ _
  | .chanWriteCommand .. => RoundTrip.chanWriteCommand _
  | .writeQueueDrain .. => RoundTrip.writeQueueDrain _
  | .portResponse .. => RoundTrip.portResponse _
  | .hostMemoryAccess .. => RoundTrip.hostMemoryAccess _ _ _
  | .refresh .. => RoundTrip.refresh _
  | .patrolScrub .. => RoundTrip.patrolScrub _ _ _
  | .patrolPassComplete .. => RoundTrip.patrolPassComplete _
  | .alertBackoff .. => RoundTrip.alertBackoff _ _
  | .alertServiceCommand .. => RoundTrip.alertServiceCommand _
  | .spareRowCopy .. => RoundTrip.spareRowCopy _
  | .spareCopyEscalation .. => RoundTrip.spareCopyEscalation _
  | .hotWindowEnd .. => RoundTrip.hotWindowEnd _
  | .hotPageMigrationCopy .. => RoundTrip.hotPageMigrationCopy _
  | .migrationCommit .. => RoundTrip.migrationCommit _
  | .hotIneligibleExpiry .. => RoundTrip.hotIneligibleExpiry _ _
  | .collRequestArrives .. => RoundTrip.collRequestArrives _
  | .collChunkLands .. => RoundTrip.collChunkLands _
  | .haltReported .. => RoundTrip.haltReported _ _
  | .ownerOrigin .. => RoundTrip.ownerOrigin _
  | .admitTimeout .. => RoundTrip.admitTimeout _
  | .freezeBegin .. => RoundTrip.freezeBegin _
  | .thawResume .. => RoundTrip.thawResume _
  | .rephaseRelease .. => RoundTrip.rephaseRelease _
  | .rephaseResume .. => RoundTrip.rephaseResume _
  | .rephaseAbandon .. => RoundTrip.rephaseAbandon _
  | .preptWindowExpiry .. => RoundTrip.preptWindowExpiry _
  | .collectComplete .. => RoundTrip.collectComplete _
  | .contextSaveUnit .. => RoundTrip.contextSaveUnit _
  | .contextLoadUnit .. => RoundTrip.contextLoadUnit _
  | .krecordAppend .. => RoundTrip.krecordAppend _ _
  | .kansResume .. => RoundTrip.kansResume _ _
  | .kansDeliver .. => RoundTrip.kansDeliver _ _
  | .kansSwitchOut .. => RoundTrip.kansSwitchOut _ _
  | .kansKill .. => RoundTrip.kansKill _ _
  | .dharv .. => RoundTrip.dharv _ _
  | .tlbinv .. => RoundTrip.tlbinv _ _ _
  | .tlbinvComplete .. => RoundTrip.tlbinvComplete _
  | .rcbBind .. => RoundTrip.rcbBind _ _
  | .pcoreWrite .. => RoundTrip.pcoreWrite _ _ _
  | .partitionFence .. => RoundTrip.partitionFence _
  | .registerWrite .. => RoundTrip.registerWrite _ _
  | .launchPacket .. => RoundTrip.launchPacket _ _ _
  | .launchDispatch .. => RoundTrip.launchDispatch _
  | .bar2Access .. => RoundTrip.bar2Access _ _ _
  | .setDevnum .. => RoundTrip.setDevnum _
  | .loadFirmwareImage .. => RoundTrip.loadFirmwareImage _ _
  | .readBootMeasurements .. => RoundTrip.readBootMeasurements
  | .cxlMailboxCommand .. => RoundTrip.cxlMailboxCommand _ _
  | .boot .. => RoundTrip.boot
  | .alignExchange .. => RoundTrip.alignExchange _ _ _
  | .alignExchangeMissed .. => RoundTrip.alignExchangeMissed _
  | .powerBrake .. => RoundTrip.powerBrake _
  | .spdmRequest .. => RoundTrip.spdmRequest _ _
  | .isavikWrite .. => RoundTrip.isavikWrite _ _ _
  | .voltageBinRaise .. => RoundTrip.voltageBinRaise _

/-- A word decodes only to a well-formed instruction whose encoding it is. -/
theorem wf_and_encode_of_decode {w : IWord} {i : Instr} (hd : decode w = some i) : i.WF ∧ encode i = some w := by
  unfold decode at hd
  split at hd
  next => cases hd
  next j _ =>
    split at hd
    next hc =>
      obtain rfl : j = i := Option.some.inj hd
      simpa [Instr.WF] using hc
    next => cases hd

end Sys2Proof.Laws
end

section
namespace Sys2Proof.Proofs
open Sys2Proof.Laws

/-- Settles O58: each instruction reads back from its own word, and the decoder compares a word with the encoding of what it read. -/
theorem encodingRoundTrip : Obligations.EncodingRoundTrip := by
  refine ⟨fun i w hwf he => roundTrip i hwf w he, fun w i hd => wf_and_encode_of_decode hd, fun w v i hw hv => ?_⟩
  have hew := (wf_and_encode_of_decode hw).2
  have hev := (wf_and_encode_of_decode hv).2
  exact Option.some.inj (hew.symm.trans hev)

end Sys2Proof.Proofs
end

section
/-! SUPPORT. Every word and every event answers a next state and keeps memory canonical: a word through `issue`, an event because each of its
branches is the machine as it was, a changed chip with memory kept, or blocks committed. -/

namespace Sys2Proof.Machine

/-- An outcome that is a next state which meets the invariant. -/
def Kept (o : Outcome) : Prop := ∃ t, o = .next t ∧ t.Inv

@[simp] theorem kept_next {t : State} : Kept (.next t) ↔ t.Inv := by simp [Kept]
@[simp] theorem State.inv_keep {s : State} {c : Chip} : (s.keep c).Inv ↔ s.Inv := Iff.rfl
theorem State.Inv.commit {s : State} (hs : s.Inv) (r : Res) : (s.commit r).Inv := commit_wf r hs

section
variable {s : State} (hs : s.Inv)
include hs

theorem issue_kept {h : Head} {i : Info} {pre : Ctx → Option Cause} {body : Ctx → Effect} : Kept (issue s h i pre body) := by
  obtain ⟨t, ht⟩ := issue_next s h i pre body
  exact ⟨t, ht, issue_wf hs ht⟩

theorem headTrap_kept {c sl : Nat} {q : SeqId} {cause : Cause} {fa tv : Word} : Kept (headTrap s c sl q cause fa tv) := by
  unfold headTrap
  split <;> simpa using hs

theorem workEvent_kept {w : Nat} {mine : Instr → Bool} : Kept (workEvent w mine s) := by
  simp only [workEvent]
  repeat' split
  all_goals simp only [kept_next, State.Inv.commit, hs]

theorem waitHeld_kept {i : Instr} : Kept (waitHeld s i) := kept_next.mpr hs
theorem execPcoreWrite_kept {part m : Nat} {v : BitVec 64} : Kept (execPcoreWrite part m v s) := by
  simp only [execPcoreWrite]
  repeat' split
  all_goals simp only [kept_next, State.inv_keep, hs]

theorem etherMove_kept {port owner off : Nat} {handle : Word} {out : Bool} {data : List Byte} {i : Instr} :
    Kept (etherMove s port owner handle off out data i) := by
  simp only [etherMove]
  repeat' split
  all_goals simp only [kept_next, State.inv_keep, State.Inv.commit, waitHeld_kept, hs]

/-- A write of a partition's register block, by its offset. -/
theorem blockWrite_kept {part off : Nat} {v : Word} : Kept (blockWrite part off v s) := by
  simp only [blockWrite, kansWrite, execKansResume, execKansDeliver, execKansSwitchOut, execKansKill, execPartitionFence, execRcbBind]
  repeat' split
  all_goals simp only [kept_next, State.inv_keep, State.Inv.commit, execPcoreWrite_kept, hs]

theorem execRegisterWrite_kept {reg : CtlReg} {value : BitVec 64} : Kept (execRegisterWrite reg value s) := by
  simp only [execRegisterWrite, bar0Write, loadBuffer]
  repeat' split
  all_goals simp only [kept_next, State.inv_keep, State.Inv.commit, blockWrite_kept, etherMove_kept, hs]

theorem execContextSaveUnit_kept {o : Nat} : Kept (execContextSaveUnit o s) := by
  simp only [execContextSaveUnit, execContextSaveUnit.held]
  repeat' split
  all_goals simp only [kept_next, State.inv_keep, State.Inv.commit, hs]

theorem execContextLoadUnit_kept {o : Nat} : Kept (execContextLoadUnit o s) := by
  simp only [execContextLoadUnit, execContextLoadUnit.held]
  repeat' split
  all_goals simp only [kept_next, State.inv_keep, State.Inv.commit, hs]

theorem execMwaitTimeout_kept {c sl : Nat} : Kept (execMwaitTimeout c sl s) := by
  simp only [execMwaitTimeout, execMwait]
  repeat' split
  all_goals simp only [kept_next, issue_kept, State.inv_keep, hs]
/-- Every word goes through `issue`. -/
theorem exec_kept (i : Instr) : Kept (exec i s) := by
  cases i with
  | nop | add | sub | and | or | xor | andn | shl | shr | sra | min | max | minn | maxn | slt | sltn | addi | mul | mulh | mulhn | div | divn | rem
  | remn | li | lih | clz | popc | sext | zext | pcmp | pand | por | pxor | pnot | br | brp | brpClr | jmp | jmpx | call | ret | loop | tick | gtsr
  | waitt | waitc | ldx | stx | ldxS | chk | chkG | sptest | spcast | amo | cas | fence | marm | mwait | txbInit | txbArrive | txbExpect | txbWait |
  cpyIn | cpyOut | cpyG | cpyMC | cpyLL | cpyCancel | cpyStat | secld | secwait | qpush | vld | vlds | vldp | vldS | vgath | qix | sclA | sclB |
  vbrd | vst | vstp | vscat | wst | wstG | wstc | wdrain | wbud | wfence | vadd | vsub | vmul | vfma | vfms | vfnma | vdiv | vsqrt | vrcp | vrsq |
  vmin | vmax | vabs | vneg | vcmp | vsel | vand | vor | vxor | vshl | vshr | vsra | vcvt | vred | vscan | vcompact | vperm | vmov | vmovi | viota |
  vqpop | vlut | vexp2 | vlog2 | vclass | vsplitExp | vsplit | vcombAcc | vcombFin | mma | mmas | mclr | mldc | mdrain | mchk | mcomp | mbmp | ttLoc
  | ttFix | ttReplay | ctabW | ctabSwap | clgrp | clgrpRelease | clred | clbc | clstat | trap | eret | csrr | csrw | csrs | csrc | halt | prept |
  yield | cropen | crclose | view | scfg | nestSet | nestGo | nestStat | splAdmit | splRetire | splRephase | splFreeze | splThaw | splQuery |
  ctxSave | ctxLoad | ctxKill | keyRoll =>
    simp only [exec, execNop, execAdd, execSub, execAnd, execOr, execXor, execAndn, execShl, execShr, execSra, execMin, execMax, execMinn, execMaxn, execSlt,
      execSltn, execAddi, execMul, execMulh, execMulhn, execDiv, execDivn, execRem, execRemn, execLi, execLih, execClz, execPopc, execSext,
      execZext, execPcmp, execPand, execPor, execPxor, execPnot, execBr, execBrp, execBrpClr, execJmp, execJmpx, execCall, execRet, execLoop,
      execTick, execGtsr, execWaitt, execWaitc, execLdx, execStx, execLdxS, execChk, execChkG, execSptest, execSpcast, execAmo, execCas, execFence,
      execMarm, execMwait, execTxbInit, execTxbArrive, execTxbExpect, execTxbWait, execCpyIn, execCpyOut, execCpyG, execCpyMC, execCpyLL,
      execCpyCancel, execCpyStat, execSecld, execSecwait, execQpush, execVld, execVlds, execVldp, execVldS, execVgath, execQix, execSclA, execSclB,
      execVbrd, execVst, execVstp, execVscat, execWst, execWstG, execWstc, execWdrain, execWbud, execWfence, execVadd, execVsub, execVmul, execVfma,
      execVfms, execVfnma, execVdiv, execVsqrt, execVrcp, execVrsq, execVmin, execVmax, execVabs, execVneg, execVcmp, execVsel, execVand, execVor,
      execVxor, execVshl, execVshr, execVsra, execVcvt, execVred, execVscan, execVcompact, execVperm, execVmov, execVmovi, execViota, execVqpop,
      execVlut, execVexp2, execVlog2, execVclass, execVsplitExp, execVsplit, execVcombAcc, execVcombFin, execMma, execMmas, execMclr, execMldc,
      execMdrain, execMchk, execMcomp, execMbmp, execTtLoc, execTtFix, execTtReplay, execCtabW, execCtabSwap, execClgrp, execClgrpRelease,
      execClred, execClbc, execClstat, execTrap, execEret, execCsrr, execCsrw, execCsrs, execCsrc, execHalt, execPrept, execYield, execCropen,
      execCrclose, execView, execScfg, execNestSet, execNestGo, execNestStat, execSplAdmit, execSplRetire, execSplRephase, execSplFreeze,
      execSplThaw, execSplQuery, execCtxSave, execCtxLoad, execCtxKill, execKeyRoll, scalar2, scalar1, predWord, branchIf, loadWord, atomicWord,
      barrierUpdate, copyWord, vloadWord, sclWord, lane2, fused, lane1, mmaWord, tileWord, collWord, csrWord, ownerWord, ctxWord]
    exact issue_kept hs
  | meshFlitStep | copySectorLands | secldLands | chanReadCommand | chanWriteCommand | portResponse | collChunkLands =>
    simp only [exec, execMeshFlitStep, execCopySectorLands, execSecldLands, execChanReadCommand, execChanWriteCommand, execPortResponse, execCollChunkLands]
    exact workEvent_kept hs
  | registerWrite => exact execRegisterWrite_kept hs
  | contextSaveUnit => exact execContextSaveUnit_kept hs
  | contextLoadUnit => exact execContextLoadUnit_kept hs
  | mwaitTimeout => exact execMwaitTimeout_kept hs
  | keyRollBlockEnd | memoryInterfaceApply | illegalWord | pcBound | istoreEcc | sectionStart | blockLimitExpiry | gtsTick | dueResultLands |
  nestShadowLive | mdrainDrain | wstcDrain | trapEntry | stallEnd | replayStall | containmentUnwind | tlbWalkComplete | linkFlitStep | laneBeat |
  laneBudgetRefill | wlaneBackpressure | chanReadDelivery | writeQueueDrain | hostMemoryAccess | refresh | patrolScrub | patrolPassComplete |
  alertBackoff | alertServiceCommand | spareRowCopy | spareCopyEscalation | hotWindowEnd | hotPageMigrationCopy | migrationCommit |
  hotIneligibleExpiry | collRequestArrives | haltReported | ownerOrigin | admitTimeout | freezeBegin | thawResume | rephaseRelease | rephaseResume |
  rephaseAbandon | preptWindowExpiry | collectComplete | krecordAppend | kansResume | kansDeliver | kansSwitchOut | kansKill | dharv | tlbinv |
  tlbinvComplete | rcbBind | pcoreWrite | partitionFence | launchPacket | launchDispatch | bar2Access | setDevnum | loadFirmwareImage |
  readBootMeasurements | cxlMailboxCommand | boot | alignExchange | alignExchangeMissed | powerBrake | spdmRequest | isavikWrite | voltageBinRaise =>
    simp only [exec, execKeyRollBlockEnd, execMemoryInterfaceApply, execIllegalWord, execPcBound, execIstoreEcc, execSectionStart, execBlockLimitExpiry,
      execGtsTick, execDueResultLands, execNestShadowLive, execMdrainDrain, execWstcDrain, execTrapEntry, execStallEnd, execReplayStall,
      execContainmentUnwind, execTlbWalkComplete, execLinkFlitStep, execLaneBeat, execLaneBudgetRefill, execWlaneBackpressure, execChanReadDelivery,
      execWriteQueueDrain, execHostMemoryAccess, execRefresh, execPatrolScrub, execPatrolPassComplete, execAlertBackoff, execAlertServiceCommand,
      execSpareRowCopy, execSpareCopyEscalation, execHotWindowEnd, execHotPageMigrationCopy, execMigrationCommit, execHotIneligibleExpiry,
      execCollRequestArrives, execHaltReported, execOwnerOrigin, execAdmitTimeout, execFreezeBegin, execThawResume, execRephaseRelease,
      execRephaseResume, execRephaseAbandon, execPreptWindowExpiry, execCollectComplete, execKrecordAppend, execKansResume, execKansDeliver,
      execKansSwitchOut, execKansKill, execDharv, execTlbinv, execTlbinvComplete, execRcbBind, execPcoreWrite, execPartitionFence, execLaunchPacket,
      execLaunchDispatch, execBar2Access, execSetDevnum, execLoadFirmwareImage, execReadBootMeasurements, execCxlMailboxCommand, execBoot,
      execAlignExchange, execAlignExchangeMissed, execPowerBrake, execSpdmRequest, execIsavikWrite, execVoltageBinRaise]
    repeat' split
    all_goals simp only [kept_next, State.inv_keep, State.Inv.commit, headTrap_kept, workEvent_kept, waitHeld_kept, hs]

/-! ### Steps, for any meaning of instructions that keeps the invariant -/

section
variable {run : Runner} (hr : ∀ i s, State.Inv s → Kept (run i s)) {c sl : Nat} {q : SeqId}
include hr

theorem runWord_kept : Kept (runWord run s c sl q) := by
  simp only [runWord]
  repeat' split
  all_goals simp only [kept_next, State.inv_keep, hr, hs]

theorem headWord_kept : Kept (headWord run s c sl q) := by
  simp only [headWord]
  split
  · simpa using hs
  split
  · exact hr _ _ hs
  split
  · split
    · exact runWord_kept hs hr
    · exact headTrap_kept hs
  split
  · exact runWord_kept hs hr
  obtain ⟨t, ht, hi⟩ := hr (.sectionStart c sl q) s hs
  simp only [ht]
  split
  · exact runWord_kept hi hr
  · exact kept_next.mpr hi

theorem takeUp_kept : Kept (takeUp run s c sl q) := by
  simp only [takeUp]
  split
  · exact kept_next.mpr hs
  split
  · split
    · exact kept_next.mpr hs
    · exact headTrap_kept (by exact hs)
    · exact headWord_kept (by exact hs) hr
  · exact headWord_kept (by exact hs) hr

/-- A slot lands results, makes a nest live and refills the lane's budget before anything else happens in it. -/
theorem slotStep_kept : Kept (slotStep run s c sl) := by
  obtain ⟨t, ht, hi⟩ := hr (.dueResultLands c sl) s hs
  obtain ⟨u, hu, hj⟩ := hr (.nestShadowLive c sl) t hi
  obtain ⟨v, hv, hk⟩ := hr (.laneBudgetRefill c sl) u hj
  have hm (ch : Chip) : State.Inv { mem := s.mem, chip := ch } := hs
  simp only [slotStep, ht, hu, hv]
  repeat' split
  all_goals simp only [kept_next, State.inv_keep, hm, hr, hk]

theorem stepWith_kept : Kept (stepWith run s) := by
  simp only [stepWith]
  split
  · exact kept_next.mpr hs
  split
  · exact hr _ _ hs
  · exact slotStep_kept (by exact hs) hr
  · exact takeUp_kept (by exact hs) hr
  · exact kept_next.mpr hs

end

theorem step_kept : Kept (step s) := stepWith_kept hs fun i _ ht => exec_kept ht i

end
end Sys2Proof.Machine
end

section
namespace Sys2Proof.Proofs
open Sys2Proof.Machine

/-- Settles O57: memory changes only by blocks that are committed, in a word's issue, an event's branch or a step's item. -/
theorem stepKeepsMemory : Obligations.StepKeepsMemory :=
  ⟨fun i _ hs => exec_kept hs i, fun _ hs => step_kept hs⟩

end Sys2Proof.Proofs
end

section
/-! SUPPORT. What a step does with the item of the beat that it takes up (04 R60, R70; log 2), for any meaning of instructions. -/

namespace Sys2Proof.Machine

section
variable {run : Runner} {s : State} {c sl : Nat} {q : SeqId} {st : Strand} {rest : List Todo}

theorem stepWith_nil (h : s.chip.agenda = []) : stepWith run s = .next (s.keep { s.chip with agenda := beatPlan }) := by
  simp only [stepWith, h]

theorem stepWith_event {i : Instr} (h : s.chip.agenda = .event i :: rest) :
    stepWith run s = run i (s.keep { s.chip with agenda := rest }) := by
  simp only [stepWith, h]

theorem stepWith_issue (h : s.chip.agenda = .issue c sl q :: rest) :
    stepWith run s = takeUp run (s.keep { s.chip with agenda := rest }) c sl q := by
  simp only [stepWith, h]

/-- A sequencer that holds no WAITT goes to its head. -/
theorem takeUp_of_not_waitt (hst : s.chip.strand? c sl = some st) (hw : ∀ n p tag, (st.seq q).wait ≠ .waitt n p tag) :
    takeUp run s c sl q = headWord run (s.keep { s.chip with verdict := .idle }) c sl q := by
  simp only [takeUp, hst]

/-- Inside the footprint, and in a handler's or a section's body, the head is a word. -/
theorem headWord_eq_runWord (hst : s.chip.strand? c sl = some st) (hpc : (st.seq q).pc.toNat < positions st.place.iskb)
    (hbody : if q = .ct ∧ st.run.h = true then inHandlerBody s.mem c st st.ct.pc.toNat = true else (st.seq q).atHdr = false) :
    headWord run s c sl q = runWord run s c sl q := by
  simp only [headWord, hst, if_neg (Nat.not_le.mpr hpc)]
  by_cases hand : q = .ct ∧ st.run.h = true
  · obtain ⟨rfl, hh⟩ := hand
    have hin : inHandlerBody s.mem c st st.ct.pc.toNat = true := by simpa [hh] using hbody
    simp [hh, hin, Strand.seq]
  · have hhdr : (st.seq q).atHdr = false := by simpa [hand] using hbody
    have hhand : (q == .ct && st.run.h) = false := by simpa using hand
    simp [hhand, hhdr]

/-- A resident word that decodes runs as its instruction. -/
theorem runWord_of_decode {i : Instr} (hst : s.chip.strand? c sl = some st)
    (hres : st.place.absent.contains (st.seq q).pc.toNat = false) (hd : decode (wordAt s.mem c st.place (st.seq q).pc.toNat) = some i) :
    runWord run s c sl q = run i (s.keep { s.chip with cur := ⟨c, sl, q⟩ }) := by
  simp only [runWord, hst, hres, hd, Bool.false_eq_true, if_false]

/-- A resident word that does not decode is the illegal word's event. -/
theorem runWord_of_decode_none (hst : s.chip.strand? c sl = some st)
    (hres : st.place.absent.contains (st.seq q).pc.toNat = false) (hd : decode (wordAt s.mem c st.place (st.seq q).pc.toNat) = none) :
    runWord run s c sl q = run (.illegalWord c sl q (wordAt s.mem c st.place (st.seq q).pc.toNat)) s := by
  simp only [runWord, hst, hres, hd, Bool.false_eq_true, if_false]

end
end Sys2Proof.Machine
end

section
/-! SUPPORT. Values at admission (07 R126). -/

namespace Sys2Proof.Machine

theorem rx_atAdmission (pl : Place) (pos : List (BitVec 14)) (q : SeqId) (r : Reg) : (Strand.atAdmission pl pos).rx q r = 0 := by
  have hx : ((Strand.atAdmission pl pos).seq q).x = [] := by cases q <;> rfl
  have hb : (Strand.atAdmission pl pos).bank = [] := rfl
  simp [Strand.rx, hx, hb, Tab.getD]

theorem rp_atAdmission (pl : Place) (pos : List (BitVec 14)) (q : SeqId) (n : BitVec 3) :
    (Strand.atAdmission pl pos).rp q n = decide (n = 0) := by
  have hp : ((Strand.atAdmission pl pos).seq q).p = 1 := by cases q <;> rfl
  rw [Strand.rp, hp]
  revert n
  decide

end Sys2Proof.Machine
end

section
/-! The statements about steps, decoded words and reset. -/

namespace Sys2Proof.Proofs
open Sys2Proof.Machine

/-- Settles O59: the head of a taken-up sequencer is a word of a body, and a word runs by what it decodes to. -/
theorem stepRunsDecoded : Obligations.StepRunsDecoded := by
  intro s core slot q rest st
  refine ⟨stepWith_nil, fun i => stepWith_event, fun ha hst hw hpc hres hbody => ?_⟩
  have hrun : step s = runWord exec (s.keep { s.chip with agenda := rest, verdict := .idle }) core slot q :=
    (stepWith_issue ha).trans ((takeUp_of_not_waitt (s := s.keep { s.chip with agenda := rest }) hst hw).trans
      (headWord_eq_runWord (s := s.keep { s.chip with agenda := rest, verdict := .idle }) hst hpc hbody))
  exact ⟨fun i hd => hrun.trans (runWord_of_decode hst hres hd), fun hd => hrun.trans (runWord_of_decode_none hst hres hd)⟩

/-- Settles O60: each word is evaluated. -/
theorem decodeWords : Obligations.DecodeWords := by
  refine ⟨?_, ?_, ?_, ?_, ?_, ?_⟩ <;> decide

/-- Settles O56: empty memory is canonical. -/
theorem resetKeepsInv : Obligations.ResetKeepsInv := rfl

/-- Settles O55: the tables of the machine are empty at reset, so each part reads as a fresh one; a strand is admitted with empty registers. -/
theorem resetValues : Obligations.ResetValues := by
  refine ⟨⟨rfl, rfl, rfl, rfl, fun _ => ⟨rfl, rfl, rfl, rfl⟩, fun _ => ⟨rfl, rfl⟩, fun _ => rfl⟩, fun pl pos => ?_⟩
  refine ⟨rfl, rfl, rfl, rfl, rfl, rfl, rfl, rfl, rfl, rfl, rx_atAdmission pl pos, rp_atAdmission pl pos, fun q => ?_, fun l hl => ?_⟩
  · cases q <;> exact ⟨rfl, rfl⟩
  · rw [List.eq_of_mem_replicate hl]; rfl

end Sys2Proof.Proofs
end

section
/-! SUPPORT. What a word leaves once it reaches its entry's own checks, by the effect its entry gives (04 R70). -/

namespace Sys2Proof.Machine

/-- The state a word leaves by its effect: a trap, a stall, a block, or its issue. -/
def State.ends (s : State) (h : Head) (i : Info) (st : Strand) : Effect → Outcome
  | .fault c fa tv => .next (s.trapped st c fa tv)
  | .stall k ch => .next (s.stalledAt k ch)
  | .block l w ch => .next (s.blockedAt l w ch)
  | .go r f w => .next (s.commit { r with chip := s.retired h i.opc i.cls r.chip f w })

section
variable {s : State} {h : Head} {i : Info} {q : SeqId} {st : Strand} {pre : Ctx → Option Cause} {body : Ctx → Effect}

@[simp] theorem State.ends_fault (c : Cause) (fa tv : Word) : s.ends h i st (.fault c fa tv) = .next (s.trapped st c fa tv) := rfl
@[simp] theorem State.ends_trapNow (c : Cause) : s.ends h i st (trapNow c) = .next (s.trapped st c (noAddr c) 0) := rfl
@[simp] theorem State.ends_stall (k : StallKind) (ch : Chip) : s.ends h i st (.stall k ch) = .next (s.stalledAt k ch) := rfl
@[simp] theorem State.ends_block (l : Option Cause) (w : HeadWait) (ch : Chip) :
    s.ends h i st (.block l w ch) = .next (s.blockedAt l w ch) := rfl
@[simp] theorem State.ends_go (ch : Chip) (f : Flow) (w : HeadWait) :
    s.ends h i st (.go { chip := ch, writes := [] } f w) = .next (s.issuedAs h i.opc i.cls ch f w) := rfl
@[simp] theorem State.ends_done (st' : Strand) : s.ends h i st ((s.ctx st).done st') = .next (s.issuedWith h i.opc i.cls st') := rfl
@[simp] theorem State.ends_nothing : s.ends h i st (s.ctx st).nothing = .next (s.issuedAs h i.opc i.cls s.chip .next .none) := rfl
@[simp] theorem State.ends_ite {p : Prop} [Decidable p] (a b : Effect) :
    s.ends h i st (if p then a else b) = if p then s.ends h i st a else s.ends h i st b := apply_ite ..
theorem State.ends_writeX (n : Nat) (r : Reg) (v : Word) (p : Bool) :
    s.ends h i st ((s.ctx st).writeX n r v p) = .next (s.issuedWith h i.opc i.cls (st.laterX s.chip.cur.q n r v none p)) := rfl

/-- A word of its group, allowed, with fields in their limits and good operands, ends as its entry says. -/
theorem issue_ends (rd : Ready s h q st) (hg : i.grp.has q = true) (hd : i.denied st = false) (ho : i.ok = true)
    (hp : pre (s.ctx st) = none) : issue s h i pre body = s.ends h i st (body (s.ctx st)) := by
  cases hb : body (s.ctx st) with
  | fault c fa tv => exact issue_fault rd hg hd ho hp hb
  | block l w ch => exact issue_block rd hg hd ho hp hb
  | go r f w => exact issue_go rd hg hd ho hp hb
  | stall k ch =>
    obtain ⟨hs, rfl, ht, ha⟩ := rd
    simp only [State.ctx] at hp hb
    simp only [issue, hs, hg, hd, ho, hp, hb, ht, ha, Bool.not_true, Bool.false_and, if_false, Bool.false_eq_true]
    rfl

/-- A word whose operands are refused traps under the cause of the refusal (04 R70 step 5). -/
theorem issue_pre {c : Cause} (rd : Ready s h q st) (hg : i.grp.has q = true) (hd : i.denied st = false) (ho : i.ok = true)
    (hp : pre (s.ctx st) = some c) : issue s h i pre body = .next (s.trapped st c (noAddr c) 0) := by
  obtain ⟨hs, rfl, -, -⟩ := rd
  simp only [State.ctx] at hp
  simp only [issue, hs, hg, hd, ho, hp, Bool.not_true, if_false, Bool.false_eq_true, State.trapped]

/-- A word that the strand may not issue traps under PRIV (04 R70 step 3). -/
theorem issue_denied (rd : Ready s h q st) (hg : i.grp.has q = true) (hd : i.denied st = true) :
    issue s h i pre body = .next (s.trapped st .priv (noAddr .priv) 0) := by
  obtain ⟨hs, rfl, -, -⟩ := rd
  simp only [issue, hs, hg, hd, Bool.not_true, if_false, if_true, Bool.false_eq_true, State.trapped]

theorem Ready.ctx_q (rd : Ready s h q st) : (s.ctx st).q = q := rd.seq
theorem Ready.ctx_sq (rd : Ready s h q st) : (s.ctx st).sq = st.seq q := by rw [← rd.seq]; rfl
theorem Ready.ctx_rx (rd : Ready s h q st) (r : Reg) : (s.ctx st).rx r = st.rx q r := by rw [← rd.seq]; rfl
theorem Ready.ctx_px (rd : Ready s h q st) (r : Reg) : (s.ctx st).px r = st.px q r := by rw [← rd.seq]; rfl
@[simp] theorem State.ctx_tau : (s.ctx st).tau = st.run.tau := rfl
@[simp] theorem State.ctx_now : (s.ctx st).now = s.chip.gts := rfl

end
end Sys2Proof.Machine
end

section
/-! SUPPORT. Predicate words, transfers, LOOP and the words of time (07 R132 to R140). -/

namespace Sys2Proof.Machine

section
variable {s : State} {h : Head} {q : SeqId} {st : Strand}

/-- A predicate word latches its function of the strand for τ+1. -/
theorem predWord_ready {pd : BitVec 3} {f : Ctx → Bool} (rd : Ready s h q st) :
    predWord s h pd f = .next (s.issuedWith h 0x07 1 (st.later q 1 [.pred q pd.toNat (f (s.ctx st))])) := by
  obtain rfl := rd.seq
  exact issue_done rd rfl rfl rfl rfl rfl

/-- PCMP compares what it reads, and consumes the poison of its sources. -/
theorem execPcmp_ready {pd : BitVec 3} {xa xb : Reg} {c : Cond} (rd : Ready s h q st) :
    execPcmp h pd xa xb c s = if (st.px q xa || st.px q xb) = true then .next (s.trapped st .poisonConsumed (noAddr .poisonConsumed) 0)
      else .next (s.issuedWith h 0x07 1 (st.later q 1 [.pred q pd.toNat (condHolds c (st.rx q xa) (st.rx q xb))])) := by
  rw [execPcmp, issue_ends rd rfl rfl rfl rfl, rd.ctx_px, rd.ctx_px, rd.ctx_rx, rd.ctx_rx, rd.ctx_q]
  split <;> rfl

/-- Where the word at the head is a transfer that may stand there. -/
theorem transferHere_eq_true_iff {sq : Seq} : sq.transferHere = true ↔
    sq.pending = none ∧ sq.delay = false ∧ ∀ l, sq.loops.head? = some l → l.last ≠ sq.pc := by
  cases hp : sq.pending <;> cases hd : sq.delay <;> cases hl : sq.loops <;> simp [Seq.transferHere, Seq.inDelay, hp, hd, hl]

theorem transferHere_eq_false_iff {sq : Seq} : sq.transferHere = false ↔
    sq.pending ≠ none ∨ sq.delay = true ∨ ∃ l, sq.loops.head? = some l ∧ l.last = sq.pc := by
  rw [← Bool.not_eq_true, transferHere_eq_true_iff]
  simp only [not_and_or, not_forall, Bool.not_eq_false, not_not, exists_prop, ne_eq]

theorem notInDelay_of_here (rd : Ready s h q st) (hh : (st.seq q).transferHere = true) : notInDelay (s.ctx st) = none := by
  rw [notInDelay, rd.ctx_sq, hh]; rfl

theorem notInDelay_of_not_here (rd : Ready s h q st) (hh : (st.seq q).transferHere = false) :
    notInDelay (s.ctx st) = some .illRsvd := by
  rw [notInDelay, rd.ctx_sq, hh]; rfl

/-- A transfer goes to a target it may be taken to, and traps at any other (04 R66). -/
theorem ends_goTo {i : Info} (rd : Ready s h q st) (st' : Strand) (t : Int) :
    s.ends h i st (goTo (s.ctx st) st' t) =
      if 0 ≤ t ∧ targetOk s.mem s.chip.cur.core st q t.toNat = true then
        .next (s.issuedAs h i.opc i.cls (s.withStrand st') (.jump (BitVec.ofNat 14 t.toNat)) .none)
      else .next (s.trapped st .windowInvalid (noAddr .windowInvalid) 0) := by
  have hiff : (t < 0 ∨ targetOk s.mem s.chip.cur.core st q t.toNat = false) ↔
      ¬ (0 ≤ t ∧ targetOk s.mem s.chip.cur.core st q t.toNat = true) := by
    rw [not_and_or, Int.not_le, Bool.not_eq_true]
  simp only [goTo, State.ctx_mem, State.ctx_core, State.ctx_st, rd.ctx_q, hiff, ite_not]
  split <;> rfl

end
end Sys2Proof.Machine
end

section
/-! SUPPORT. Predicate words, transfers, LOOP and the words of time (07 R132 to R140). -/

namespace Sys2Proof.Machine

section
variable {s : State} {h : Head} {q : SeqId} {st : Strand}

/-- A relative transfer that may stand here consumes poison, goes to its target, or only issues. -/
theorem branchIf_ready {opc : BitVec 8} {off : BitVec 32} {poison taken : Ctx → Bool} (rd : Ready s h q st)
    (hh : (st.seq q).transferHere = true) :
    branchIf s h opc off poison taken =
      if poison (s.ctx st) = true then .next (s.trapped st .poisonConsumed (noAddr .poisonConsumed) 0)
      else if taken (s.ctx st) = true then
        s.ends h (transferInfo opc) st (goTo (s.ctx st) st ((st.seq q).pc.toNat + off.toInt))
      else .next (s.issuedAs h opc 1 s.chip .next .none) := by
  rw [branchIf, issue_ends rd rfl rfl rfl (notInDelay_of_here rd hh)]
  simp only [relTarget, rd.ctx_sq, State.ctx_st]
  split
  · rfl
  · split <;> rfl

/-- An indirect transfer that may stand here consumes poison or goes to its target. -/
theorem indirect_ready {opc : BitVec 8} {xa : Reg} {f : Word → Int} (rd : Ready s h q st) (hh : (st.seq q).transferHere = true) :
    issue s h (transferInfo opc) notInDelay (fun x =>
        if x.px xa then trapNow .poisonConsumed else goTo x x.st (f (x.rx xa))) =
      if st.px q xa = true then .next (s.trapped st .poisonConsumed (noAddr .poisonConsumed) 0)
      else s.ends h (transferInfo opc) st (goTo (s.ctx st) st (f (st.rx q xa))) := by
  rw [issue_ends rd rfl rfl rfl (notInDelay_of_here rd hh)]
  simp only [rd.ctx_px, rd.ctx_rx]
  split <;> rfl

/-- An instruction whose meaning `e` is a transfer that may not stand here is reserved. -/
theorem exec_notHere {i : Instr} {opc : BitVec 8} {body : Ctx → Effect} (rd : Ready s h q st) (hh : (st.seq q).transferHere = false)
    (e : Outcome) (hi : exec i s = e) (he : e = issue s h (transferInfo opc) notInDelay body) :
    exec i s = .next (s.trapped st .illRsvd (noAddr .illRsvd) 0) := by
  rw [hi, he, issue_pre rd rfl rfl rfl (notInDelay_of_not_here rd hh)]

theorem branchIf_notHere {opc : BitVec 8} {off : BitVec 32} {poison taken : Ctx → Bool} (rd : Ready s h q st)
    (hh : (st.seq q).transferHere = false) :
    branchIf s h opc off poison taken = .next (s.trapped st .illRsvd (noAddr .illRsvd) 0) :=
  issue_pre rd rfl rfl rfl (notInDelay_of_not_here rd hh)

/-- An instruction that goes to t jumps there when it may, and traps when it may not. -/
theorem exec_goTo {i : Instr} {opc : BitVec 8} {st' : Strand} {t : Int} (rd : Ready s h q st)
    (hi : exec i s = s.ends h (transferInfo opc) st (goTo (s.ctx st) st' t)) :
    (0 ≤ t ∧ targetOk s.mem s.chip.cur.core st q t.toNat = true →
      exec i s = .next (s.issuedAs h opc 1 (s.withStrand st') (.jump (BitVec.ofNat 14 t.toNat)) .none)) ∧
    (¬ (0 ≤ t ∧ targetOk s.mem s.chip.cur.core st q t.toNat = true) →
      exec i s = .next (s.trapped st .windowInvalid (noAddr .windowInvalid) 0)) := by
  rw [hi, ends_goTo rd]
  exact ⟨fun hmay => if_pos hmay, fun hnot => if_neg hnot⟩

/-- WAITT consumes poison, or holds the next word to the later of its value and τ+1. -/
theorem execWaitt_ready {xa : Reg} (rd : Ready s h q st) :
    execWaitt h xa s = if st.px q xa = true then .next (s.trapped st .poisonConsumed (noAddr .poisonConsumed) 0)
      else .next (s.issuedAs h 0x1A 1 s.chip .next
        (.waitt (max (st.rx q xa).toNat (st.run.tau + 1)) (st.rx q xa).toNat (st.tagOf q xa))) := by
  rw [execWaitt, issue_ends rd rfl rfl rfl rfl]
  simp only [rd.ctx_px, rd.ctx_rx, rd.ctx_q, State.ctx_tau, State.ctx_st, State.ctx_chip]
  split <;> rfl

/-- A token names complete work when its latest producing work is seen complete, or gone. -/
theorem tokenDone_eq_true_iff {ch : Chip} {t : BitVec 6} (ht : t ≠ 63) : tokenDone ch st t = true ↔
    ∀ w k, st.sh.tokens.get? t.toNat = some w → ch.work? w = some k → k.seenDone ch.gts = true := by
  have ht' : t ≠ 63#6 := ht
  cases hw : st.sh.tokens.get? t.toNat with
  | none => simp [tokenDone, ht', hw]
  | some w =>
    simp only [tokenDone, ht', hw, if_false, Option.some.injEq]
    cases hk : ch.work? w with
    | none => simpa using fun v k (hv : w = v) => by subst hv; simp [hk]
    | some k => exact ⟨fun hd v l hv hl => by subst hv; rw [hk] at hl; cases hl; exact hd, fun hall => hall w k rfl hk⟩

/-- WAITC passes when what it names is complete, and blocks without limit otherwise. -/
theorem execWaitc_ready {tok : BitVec 6} (rd : Ready s h q st) :
    execWaitc h tok s =
      if (if tok = 63 then (s.chip.worksOf s.chip.cur.core s.chip.cur.slot).all (fun e => !e.2.letters.promised || e.2.seenDone s.chip.gts)
          else tokenDone s.chip st tok) = true then .next (s.issuedAs h 0x1B 1 s.chip .next .none)
      else .next (s.blockedAt none .none s.chip) := by
  rw [execWaitc, issue_ends rd rfl rfl rfl rfl]
  simp only [↓State.ends_ite, State.ends_nothing]
  rfl

/-- A body fits when it lies in the section and in the loop around it, below the fourth level (07 R136). -/
theorem loopFits_eq_none_iff {len : BitVec 16} {sec : Section} (rd : Ready s h q st) (hh : (st.seq q).transferHere = true)
    (hsec : currentSection s.mem s.chip.cur.core st q = some sec) :
    loopFits (s.ctx st) len = none ↔ (st.seq q).pc.toNat + len.toNat ≤ sec.lastPos ∧
      (∀ l, (st.seq q).loops.head? = some l → (st.seq q).pc.toNat + len.toNat ≤ l.last.toNat) ∧ (st.seq q).loops.length < 4 := by
  simp only [loopFits, notInDelay_of_here rd hh, State.ctx_mem, State.ctx_core, State.ctx_st, rd.ctx_q, rd.ctx_sq, hsec]
  cases hl : (st.seq q).loops <;> simp [and_assoc, Nat.lt_succ_iff]

theorem loopFits_eq (rd : Ready s h q st) (hh : (st.seq q).transferHere = true) (len : BitVec 16) :
    loopFits (s.ctx st) len = none ∨ loopFits (s.ctx st) len = some .illRsvd := by
  simp only [loopFits, notInDelay_of_here rd hh]
  exact (ite_eq_or_eq ..)

/-- LOOP that fits consumes poison, or pushes its entry or skips its body. -/
theorem execLoop_ready {xa : Reg} {len : BitVec 16} {count : BitVec 32} (rd : Ready s h q st)
    (hwf : (Instr.loop h xa len count).WF) (hfit : loopFits (s.ctx st) len = none) :
    execLoop h xa len count s =
      if st.px q xa = true then .next (s.trapped st .poisonConsumed (noAddr .poisonConsumed) 0)
      else
        let last : BitVec 14 := BitVec.ofNat 14 ((st.seq q).pc.toNat + len.toNat)
        let n := if xa = 0#6 then count.toNat else (st.rx q xa).toNat % 2 ^ 32
        .next (s.issuedAs h 0x16 1 s.chip (if n = 0 then .skip last else .loop last n) .none) := by
  rw [execLoop, issue_ends rd rfl rfl hwf hfit]
  simp only [↓State.ends_ite, rd.ctx_px, rd.ctx_rx, rd.ctx_sq, State.ctx_chip]
  rfl

/-- LOOP with a length of 0 or a body that does not fit is reserved. -/
theorem execLoop_refused {xa : Reg} {len : BitVec 16} {count : BitVec 32} (rd : Ready s h q st)
    (hbad : ¬ (Instr.loop h xa len count).WF ∨ loopFits (s.ctx st) len = some .illRsvd) :
    execLoop h xa len count s = .next (s.trapped st .illRsvd (noAddr .illRsvd) 0) := by
  by_cases hwf : (Instr.loop h xa len count).WF
  · exact issue_pre rd rfl rfl hwf (hbad.resolve_left (not_not.mpr hwf))
  · exact issue_notOk rd rfl rfl (Bool.not_eq_true _ ▸ hwf)

end
end Sys2Proof.Machine
end

section
/-! The statements about the words of control (07 R129 to R140). -/

namespace Sys2Proof.Proofs
open Sys2Proof.Machine Sys2Proof.Laws

/-- Settles O5: immediates are words of one source or none; a predicate word latches its function of the strand. -/
theorem immediateAndPredicateWords : Obligations.ImmediateAndPredicateWords := by
  refine ⟨⟨fun s h q st xd xa imm hi rd => ⟨?_, ?_, ?_⟩, fun h xd xa imm hi w => ⟨fun hw => ?_, fun hw => ?_, fun hw => ?_⟩⟩,
    fun s h q st pd pa pb xa xb c rd => ⟨?_, ?_, ?_, ?_, fun hp => ?_, fun hp => ?_⟩, fun a b => ?_⟩
  · exact exec_gives1 rd (execAddi h xd xa imm s) rfl rfl rfl rfl
  · change execLi h xd imm s = _
    exact issue_writeX (v := fun _ => imm.signExtend 64) (p := fun _ => false) rd rfl
  · change execLih h xd hi s = _
    rw [execLih, issue_ends rd rfl rfl rfl rfl, State.ends_writeX, rd.ctx_px, rd.ctx_rx, rd.seq]
    rfl
  · obtain rfl := eq_of_encScalar (v := encS 0x02 h xd xa 0 0 imm) rfl hw
    simp
  · obtain rfl := eq_of_encScalar (v := encS 0x05 h xd 0 0 0 imm) rfl hw
    simp
  · obtain rfl := eq_of_encScalar (v := encS 0x05 h xd 0 0 1 (0#32 ++ hi)) rfl hw
    refine ⟨wOpc_encS .., wR4_encS .., wR2_encS .., wR3_encS .., (wImm48_encS ..).trans (BitVec.eq_of_toNat_eq ?_)⟩
    have := BitVec.toNat_append (0#32) hi
    simp at this ⊢
    omega
  · change execPand h pd pa pb s = _
    rw [execPand, predWord_ready rd, rd.ctx_q, State.ctx_st]
  · change execPor h pd pa pb s = _
    rw [execPor, predWord_ready rd, rd.ctx_q, State.ctx_st]
  · change execPxor h pd pa pb s = _
    rw [execPxor, predWord_ready rd, rd.ctx_q, State.ctx_st]
  · change execPnot h pd pa s = _
    rw [execPnot, predWord_ready rd, rd.ctx_q, State.ctx_st]
  · exact (execPcmp_ready rd).trans (if_neg (by simp [hp]))
  · exact (execPcmp_ready rd).trans (if_pos hp)
  · simp [condHolds]

/-- Settles O6: a transfer that may stand at the head consumes poison, goes to its target or only issues; one that may not stand there is reserved. -/
theorem transfers : Obligations.Transfers := by
  intro s h q st c xa xb p off rd
  refine ⟨fun hp hd hl => ?_, fun hbad => ?_⟩
  · have hh := transferHere_eq_true_iff.mpr ⟨hp, hd, hl⟩
    have hbr := Eq.trans (a := exec (.br h c xa xb off) s) (b := execBr h c xa xb off s) rfl (branchIf_ready rd hh)
    have hbrp := Eq.trans (a := exec (.brp h p off) s) (b := execBrp h p off s) rfl (branchIf_ready rd hh)
    have hclr := Eq.trans (a := exec (.brpClr h p off) s) (b := execBrpClr h p off s) rfl (branchIf_ready rd hh)
    have hjmp := Eq.trans (a := exec (.jmp h off) s) (b := execJmp h off s) rfl (branchIf_ready rd hh)
    have hjmpx := Eq.trans (a := exec (.jmpx h xa off) s) (b := execJmpx h xa off s) rfl (indirect_ready (f := fun v => ((v + off.signExtend 64).toNat : Int)) rd hh)
    have hret := Eq.trans (a := exec (.ret h xa) s) (b := execRet h xa s) rfl (indirect_ready (f := fun v => (v.toNat : Int)) rd hh)
    have hcall : exec (.call h xa off) s = s.ends h (transferInfo 0x14) st
        (goTo (s.ctx st) (st.laterX q 1 xa (BitVec.ofNat 64 ((st.seq q).pc.toNat + 2))) ((st.seq q).pc.toNat + off.toInt)) := by
      change execCall h xa off s = _
      rw [execCall, issue_ends rd rfl rfl rfl (notInDelay_of_here rd hh)]
      simp only [relTarget, rd.ctx_sq, rd.ctx_q, State.ctx_st]
    simp only [rd.ctx_px, rd.ctx_rx, rd.ctx_q, State.ctx_st, Bool.false_eq_true, if_false, Bool.not_eq_true', if_true] at hbr hbrp hclr hjmp
    refine ⟨fun hpx => ⟨fun hc => ?_, fun hc => ?_⟩, fun hpx => ?_, fun hpp => ⟨?_, ?_⟩, fun hpp => ⟨?_, ?_⟩, ?_,
      fun hpx => ⟨?_, ?_⟩, fun hpx => ⟨?_, ?_⟩, ?_⟩
    · exact exec_goTo rd (hbr.trans (by rw [hpx, hc]; rfl))
    · exact hbr.trans (by rw [hpx, hc]; rfl)
    · exact hbr.trans (if_pos hpx)
    · exact exec_goTo rd (hbrp.trans (if_pos hpp))
    · exact hclr.trans (if_neg (by simp [hpp]))
    · exact hbrp.trans (if_neg (by simp [hpp]))
    · exact exec_goTo rd (hclr.trans (if_pos hpp))
    · exact exec_goTo rd hjmp
    · exact exec_goTo rd (hjmpx.trans (if_neg (by simp [hpx])))
    · exact exec_goTo rd (hret.trans (if_neg (by simp [hpx])))
    · exact hjmpx.trans (if_pos hpx)
    · exact hret.trans (if_pos hpx)
    · exact exec_goTo rd hcall
  · have hh := transferHere_eq_false_iff.mpr hbad
    exact ⟨Eq.trans (b := execBr h c xa xb off s) rfl (branchIf_notHere rd hh), Eq.trans (b := execBrp h p off s) rfl (branchIf_notHere rd hh),
      Eq.trans (b := execBrpClr h p off s) rfl (branchIf_notHere rd hh), Eq.trans (b := execJmp h off s) rfl (branchIf_notHere rd hh),
      exec_notHere rd hh (execJmpx h xa off s) rfl rfl, exec_notHere rd hh (execCall h xa off s) rfl rfl,
      exec_notHere rd hh (execRet h xa s) rfl rfl⟩

/-- Settles O7: the loop stack after a word is that of `loopEnd` at its position, cut by `loopsAt` when a transfer leaves; LOOP's refusals are its
fields' and its body's. -/
theorem nextWordsAndLoops : Obligations.NextWordsAndLoops := by
  refine ⟨fun sq pl t l rest => ⟨fun hp f hs he => ?_, fun hp => ?_⟩, fun s h q st xa len count sec rd hsec hh =>
    ⟨fun hwf hf hpx => ?_, fun hwf hf hpx => ?_, fun hbad => ?_⟩⟩
  · simp only [Seq.advance, hs, he, hp, or_self, if_false]
    refine ⟨trivial, trivial, fun hh => ?_, fun hh => ⟨hh, fun hl hlast hleft => ?_, fun hl hlast hleft hin => ?_⟩⟩
    · simp [hh]
    · simp [hh, hl, loopEnd, hlast, Nat.not_lt.mpr hleft, loopsAt]
    · have hin' : l.first.toNat ≤ t.toNat ∧ t.toNat ≤ sq.pc.toNat := hlast ▸ hin
      simp [hh, hl, loopEnd, hlast, hleft, loopsAt, hin']
  · simp only [Seq.advance, reduceCtorEq, or_self, if_false, hp]
    refine ⟨trivial, fun hl => ?_, fun last n => ⟨trivial, trivial⟩, fun last hl => ?_, fun hl hlast hleft => ?_, fun hl hlast hleft => ?_,
      fun hl hlast => ?_⟩
    · simp [hl, loopEnd]
    · simp [hl, loopEnd]
    · simp [hl, loopEnd, hlast, hleft]
    · simp [hl, loopEnd, hlast, Nat.not_lt.mpr hleft]
    · simp [hl, loopEnd, hlast]
  · exact (execLoop_ready rd hwf ((loopFits_eq_none_iff rd hh hsec).mpr hf)).trans (if_neg (by simp [hpx]))
  · exact (execLoop_ready rd hwf ((loopFits_eq_none_iff rd hh hsec).mpr hf)).trans (if_pos hpx)
  · refine execLoop_refused rd (hbad.imp (fun h0 hwf => ?_) (fun hf => ?_))
    · subst h0; simp [Instr.WF, Instr.wf] at hwf
    · exact (loopFits_eq rd hh len).resolve_left (mt (loopFits_eq_none_iff rd hh hsec).mp hf)

/-- Settles O8: WAITC's condition is what its token names, or with token 63 all promised work of the strand. -/
theorem waitWords : Obligations.WaitWords := by
  intro s h q st xa tok rd
  have hdone : (if tok = 63 then (s.chip.worksOf s.chip.cur.core s.chip.cur.slot).all (fun e => !e.2.letters.promised || e.2.seenDone s.chip.gts)
      else tokenDone s.chip st tok) = true ↔
      (if tok = 63 then ∀ e, e ∈ s.chip.worksOf s.chip.cur.core s.chip.cur.slot → e.2.letters.promised = true → e.2.seenDone s.chip.gts = true
       else ∀ w k, st.sh.tokens.get? tok.toNat = some w → s.chip.work? w = some k → k.seenDone s.chip.gts = true) := by
    split
    · simp only [List.all_eq_true, Bool.or_eq_true, Bool.not_eq_true', ← Bool.not_eq_true, ← imp_iff_not_or]
    · next ht => exact tokenDone_eq_true_iff ht
  refine ⟨?_, fun hp => ?_, fun hp => ?_, fun hc => ?_, fun hc => ?_⟩
  · change execNop h s = _
    rw [execNop, issue_ends rd rfl rfl rfl rfl, State.ends_nothing]; rfl
  · exact (execWaitt_ready rd).trans (if_neg (by simp [hp]))
  · exact (execWaitt_ready rd).trans (if_pos hp)
  · exact (execWaitc_ready rd).trans (if_pos (hdone.mpr hc))
  · exact (execWaitc_ready rd).trans (if_neg (mt hdone.mp hc))

end Sys2Proof.Proofs
end

section
/-! SUPPORT. What stops a sequencer before a word, and the start of a section (04 R70 to R74). -/

namespace Sys2Proof.Machine

section
variable {s : State} {core slot : Nat} {q : SeqId} {st : Strand}

/-- What stops a sequencer at its head is a trap of the strand's present slot. -/
theorem headTrap_of_strand (hs : s.chip.strand? core slot = some st) (c : Cause) (fa tv : Word) :
    headTrap s core slot q c fa tv =
      .next (s.keep { takeTrap s.mem s.chip core slot (st.mkTrap q c fa tv) with verdict := .trapped }) := by
  simp only [headTrap, hs]

/-- The three prerequisites of a header are those of the two sequencers after q and of the one before it (04 R72). -/
theorem prereqs_met_iff {w : IWord} :
    (List.zipWith (fun o n => prereqMet (st.seq o).ret n) [seqSucc q, seqSucc (seqSucc q), seqPred q] (prereqs w)).all id = true ↔
      prereqMet (st.seq (seqSucc q)).ret (w.extractLsb' 28 12) = true ∧
      prereqMet (st.seq (seqSucc (seqSucc q))).ret (w.extractLsb' 16 12) = true ∧
      prereqMet (st.seq (seqPred q)).ret (w.extractLsb' 4 12) = true := by
  simp [prereqs]

/-- A section that is there, with a good header and its prerequisites met, starts; otherwise it stalls, traps or blocks (04 R74). -/
theorem execSectionStart_of_strand (hs : s.chip.strand? core slot = some st) :
    let sq := st.seq q
    let w := wordAt s.mem core st.place sq.pc.toNat
    let sec := sectionOf sq.pc w
    let stalls := Host.Outcome.next (s.keep (stallNow s.chip core slot .notResident))
    execSectionStart core slot q s =
      if st.place.absent.contains sq.pc.toNat = true then stalls
      else if headerReserved w = true then headTrap s core slot q .illRsvd (noAddr .illRsvd) 0
      else if sectionResident st.place sq.pc.toNat sec = false then stalls
      else if ¬ (prereqMet (st.seq (seqSucc q)).ret (w.extractLsb' 28 12) = true ∧
          prereqMet (st.seq (seqSucc (seqSucc q))).ret (w.extractLsb' 16 12) = true ∧
          prereqMet (st.seq (seqPred q)).ret (w.extractLsb' 4 12) = true) then
        .next (s.keep (blockSlot s.mem s.chip core slot q (some .tokenOverflow) .none))
      else .next (s.keep { s.chip.setStrand core slot (recordPoint (st.setSeq q
        { sq with pc := sq.pc + 1, sec := some sec, atHdr := false, blockFrom := none, loops := [] }) q sec) with verdict := .idle }) := by
  simp only [execSectionStart, hs, ← prereqs_met_iff, Bool.not_eq_true', Bool.not_eq_true]

end
end Sys2Proof.Machine
end

section
/-! The statement about heads (01 R26; 04 R70 to R74; 08 R176). -/

namespace Sys2Proof.Proofs
open Sys2Proof.Machine

/-- Settles O42: the tests of a head in their order; each that fails is a trap, a stall or a block of the present slot. -/
theorem headEvents : Obligations.HeadEvents := by
  intro s core slot q st w hs
  have hill (e : Outcome) (he : e = execIllegalWord core slot q w s) : exec (.illegalWord core slot q w) s = e := he ▸ rfl
  have hstart := Eq.trans (a := exec (.sectionStart core slot q) s) (b := execSectionStart core slot q s) rfl
    (execSectionStart_of_strand (q := q) hs)
  refine ⟨fun ho => ?_, fun ho hq => ?_, fun ho hq hp hsup => ?_, fun ho hq hp hd1 hd2 => ?_, fun hpc => ?_, fun hpc => ?_, ?_,
    fun ha => ?_, fun ha hr => ?_, fun ha hr hsec => ?_, fun ha hr hsec => ⟨fun hm => ?_, fun hm => ?_⟩, fun f hb hh hlim => ?_,
    fun f hb hlim => ?_⟩
  · exact hill _ (by simp only [execIllegalWord, hs, headTrap_of_strand hs, ho, Bool.not_false, if_true])
  · exact hill _ (by simp only [execIllegalWord, hs, headTrap_of_strand hs, ho, hq, Bool.not_false, Bool.not_true, Bool.false_eq_true, if_true, if_false])
  · exact hill _ (by simp only [execIllegalWord, hs, headTrap_of_strand hs, ho, hq, hp, hsup, Bool.not_false, Bool.not_true,
      Bool.and_self, Bool.false_eq_true, if_true, if_false])
  · have hp' : (opcPrivileged (wOpc w) && !st.place.sup) = false := by
      cases hb : opcPrivileged (wOpc w) <;> simp_all
    have hd1' : ¬ (wOpc w = 0xD1#8 ∧ st.run.h = false) := fun hd => by simp [hd1 hd.1] at hd
    have hd2' : (wOpc w == 0xD2#8 && !csrReach (w.extractLsb' 56 12) st.place.sup) = false := by
      by_cases hd : wOpc w = 0xD2#8
      · simp [hd2 hd]
      · rw [beq_eq_false_iff_ne.mpr hd, Bool.false_and]
    exact hill _ (by simp only [execIllegalWord, hs, headTrap_of_strand hs, ho, hq, hp', hd1', hd2', Bool.not_true, if_false,
      Bool.false_eq_true])
  · change execPcBound core slot q s = _
    simp only [execPcBound, hs, if_pos hpc, headTrap_of_strand hs]
  · change execPcBound core slot q s = _
    simp only [execPcBound, hs, if_neg (Nat.not_le.mpr hpc)]
  · exact headTrap_of_strand hs ..
  · exact hstart.trans (if_pos (by simpa using ha))
  · exact hstart.trans ((if_neg (Bool.eq_false_iff.mp ha)).trans ((if_pos hr).trans (headTrap_of_strand hs ..)))
  · rw [hstart, if_neg (Bool.eq_false_iff.mp ha), if_neg (Bool.eq_false_iff.mp hr), if_pos hsec]
  · rw [hstart, if_neg (Bool.eq_false_iff.mp ha), if_neg (Bool.eq_false_iff.mp hr), if_neg (by simp [hsec]), if_pos hm]
  · rw [hstart, if_neg (Bool.eq_false_iff.mp ha), if_neg (Bool.eq_false_iff.mp hr), if_neg (by simp [hsec]), if_neg (not_not.mpr hm)]
  · change execBlockLimitExpiry core slot q s = _
    simp only [execBlockLimitExpiry, hs, hb, hh, headTrap_of_strand hs]
    exact if_pos ⟨hlim, trivial⟩
  · change execBlockLimitExpiry core slot q s = _
    simp only [execBlockLimitExpiry, hs, hb]
    exact if_neg fun hc => absurd hc.1 (Nat.not_le.mpr hlim)

end Sys2Proof.Proofs
end
section
/-! SUPPORT. The checks of R70 in their order, for any word. -/

namespace Sys2Proof.Machine

section
variable {s : State} {h : Head} {i : Info} {st : Strand} {pre : Ctx → Option Cause} {body : Ctx → Effect}

/-- The block of a word whose ring tokens cannot act (01 R24). -/
def State.tokenWait (s : State) (st : Strand) : Outcome :=
  .next (s.blockedAt (some .tokenOverflow) (st.seq s.chip.cur.q).wait s.chip)

/-- What a word that passed the first checks leaves, once its tokens need not be waited for before its own checks: its effect, except that
a word that would issue without its tokens waits (log 11). -/
def State.endsLate (s : State) (h : Head) (i : Info) (st : Strand) (ready : Bool) : Effect → Outcome
  | .go r f w => if ready = true then s.ends h i st (.go r f w) else s.tokenWait st
  | e => s.ends h i st e

section
variable (hs : s.chip.strand? s.chip.cur.core s.chip.cur.slot = some st)
include hs

theorem issue_of_not_has (hg : i.grp.has s.chip.cur.q = false) :
    issue s h i pre body = .next (s.trapped st .illSeq (noAddr .illSeq) 0) := by
  simp only [issue, hs, hg, Bool.not_false, if_true]; rfl

variable (hg : i.grp.has s.chip.cur.q = true)
include hg

theorem issue_of_denied (hd : i.denied st = true) : issue s h i pre body = .next (s.trapped st .priv (noAddr .priv) 0) := by
  simp only [issue, hs, hg, hd, Bool.not_true, Bool.false_eq_true, if_true, if_false]; rfl

variable (hd : i.denied st = false)
include hd

theorem issue_of_not_ok (ho : i.ok = false) : issue s h i pre body = .next (s.trapped st .illRsvd (noAddr .illRsvd) 0) := by
  simp only [issue, hs, hg, hd, ho, Bool.not_true, Bool.not_false, Bool.false_eq_true, if_true, if_false]; rfl

variable (ho : i.ok = true)
include ho

theorem issue_of_pre {c : Cause} (hp : pre (s.ctx st) = some c) : issue s h i pre body = .next (s.trapped st c (noAddr c) 0) := by
  simp only [State.ctx] at hp
  simp only [issue, hs, hg, hd, ho, hp, Bool.not_true, Bool.false_eq_true, if_false]; rfl

variable (hp : pre (s.ctx st) = none)
include hp

/-- An inactive word acts on its tokens alone (04 R59). -/
theorem issue_of_inactive (ha : (st.rp s.chip.cur.q h.psel).xor h.pneg = false) :
    issue s h i pre body =
      if st.sh.rings.ready s.chip.cur.q h = true then .next (s.issuedAs h i.opc i.cls s.chip .next .none) else s.tokenWait st := by
  simp only [State.ctx] at hp
  simp only [issue, hs, hg, hd, ho, hp, ha, Bool.not_true, Bool.not_false, Bool.false_eq_true, if_false, if_true]; rfl

theorem issue_of_not_ready (ha : (st.rp s.chip.cur.q h.psel).xor h.pneg = true) (hr : st.sh.rings.ready s.chip.cur.q h = false)
    (hl : i.late = false) : issue s h i pre body = s.tokenWait st := by
  simp only [State.ctx] at hp
  simp only [issue, hs, hg, hd, ho, hp, ha, hr, hl, Bool.not_true, Bool.not_false, Bool.and_self, Bool.false_eq_true, if_false, if_true]; rfl

theorem issue_of_active (ha : (st.rp s.chip.cur.q h.psel).xor h.pneg = true)
    (hr : st.sh.rings.ready s.chip.cur.q h = true ∨ i.late = true) :
    issue s h i pre body = s.endsLate h i st (st.sh.rings.ready s.chip.cur.q h) (body (s.ctx st)) := by
  have hpass : (!st.sh.rings.ready s.chip.cur.q h && !i.late) = false := by
    rcases hr with hr | hr <;> simp [hr]
  simp only [State.ctx] at hp
  simp only [issue, hs, hg, hd, ho, hp, ha, hpass, Bool.not_true, Bool.false_eq_true, if_false]
  cases hb : body (s.ctx st) with
  | go r f w => simp only [State.ctx] at hb; simp only [hb]; cases st.sh.rings.ready s.chip.cur.q h <;> rfl
  | _ => simp only [State.ctx] at hb; simp only [hb]; rfl

end
end
end Sys2Proof.Machine
end

section
/-! The statement about the order of the checks (04 R70). -/

namespace Sys2Proof.Proofs
open Sys2Proof.Machine

/-- Settles O50: one lemma for each check of R70, and one for what follows them. -/
theorem issueOrder : Obligations.IssueOrder := by
  intro s h i pre body st hs
  refine ⟨issue_of_not_has hs, fun hg => ⟨issue_of_denied hs hg, fun hd => ⟨issue_of_not_ok hs hg hd, fun ho =>
    ⟨fun c => issue_of_pre hs hg hd ho, fun hp => ⟨fun ha hr => ?_, fun hr hw => ?_, fun ha hr => ?_⟩⟩⟩⟩⟩
  · exact (issue_of_inactive hs hg hd ho hp ha).trans (if_pos hr)
  · cases ha : (st.rp s.chip.cur.q h.psel).xor h.pneg with
    | false => exact (issue_of_inactive hs hg hd ho hp ha).trans (if_neg (Bool.eq_false_iff.mp hr))
    | true => exact issue_of_not_ready hs hg hd ho hp ha hr (hw.resolve_left (by simp [ha]))
  · have hends := issue_of_active (body := body) hs hg hd ho hp ha hr
    refine ⟨fun c fa tv hb => ?_, fun k ch hb => ?_, fun l w ch hb => ?_, fun e f w hb hrt => ?_, fun e f w hb hrf => ?_⟩
    · rw [hends, hb]; rfl
    · rw [hends, hb]; rfl
    · rw [hends, hb]; rfl
    · rw [hends, hb]; exact if_pos hrt
    · rw [hends, hb]; exact if_neg (Bool.eq_false_iff.mp hrf)

end Sys2Proof.Proofs
end

section
/-! SUPPORT. What the issue of a word adds to its effect (04 R74, R75; 08 R201): the issuing sequencer moves on, tokens act, energy is
charged; the registers of every sequencer, and every other part of the machine, stay. -/

namespace Sys2Proof.Machine

/-- Two sequencers with the same registers, predicates, tags and poison bits. -/
def Seq.SameRegs (a b : Seq) : Prop := a.x = b.x ∧ a.p = b.p ∧ a.tags = b.tags ∧ a.poison = b.poison

theorem Seq.SameRegs.rfl {a : Seq} : a.SameRegs a := ⟨Eq.refl _, Eq.refl _, Eq.refl _, Eq.refl _⟩

theorem Seq.SameRegs.trans {a b c : Seq} (hab : a.SameRegs b) (hbc : b.SameRegs c) : a.SameRegs c := by
  obtain ⟨hx, hp, ht, hq⟩ := hab
  obtain ⟨hx', hp', ht', hq'⟩ := hbc
  exact ⟨hx.trans hx', hp.trans hp', ht.trans ht', hq.trans hq'⟩

theorem Seq.count_sameRegs (sq : Seq) (opc flags : Byte) : (sq.count opc flags).SameRegs sq := by
  unfold Seq.count; split <;> exact .rfl

theorem Seq.advance_sameRegs (sq : Seq) (pl : Place) (f : Flow) : (sq.advance pl f).SameRegs sq := by
  unfold Seq.advance
  split
  · exact .rfl
  · split
    · exact .rfl
    · cases f <;> exact .rfl

theorem Seq.close_sameRegs (m : Memory) (c : Nat) (pl : Place) (sq : Seq) (halt : Bool) : (sq.close m c pl halt).1.SameRegs sq := by
  unfold Seq.close
  split
  · exact .rfl
  · split
    · exact .rfl
    · simp only
      split <;> exact .rfl

/-- The issuing sequencer with what it then waits for and its section's count. -/
def Strand.counted (st : Strand) (q : SeqId) (h : Head) (opc : BitVec 8) (f : Flow) (w : HeadWait) : Seq :=
  let sq := if f = .eret then st.seq q else { st.seq q with wait := w, blockFrom := none, delay := transferOpc opc }
  if (q == .ct && st.run.h) || f == .eret then sq else sq.count opc (headByte h)

/-- The issuing sequencer after a word: what it then waits for, its section's count, the next word, the section's end. -/
def Strand.afterWord (st : Strand) (m : Memory) (c gts : Nat) (q : SeqId) (h : Head) (opc : BitVec 8) (f : Flow) (w : HeadWait) :
    Seq × Option PTrap × Option Section :=
  let sq := st.counted q h opc f w
  let sq := { sq.advance st.place f with worked := some (gts, (sq.sec.map (·.num)).getD 0) }
  if (q == .ct && st.run.h) || f == .eret then (sq, none, none) else sq.close m c st.place (f == .stop)

/-- The counters of the strand after a word: its energy, and the beat in which CT arrived at a section that waits for a re-phase (02 R36). -/
def Strand.runAfter (st : Strand) (ch : Chip) (c : Nat) (q : SeqId) (cls : Nat) (fin : Option Section) : Run :=
  let run := st.run.charge ((ch.core c).weight cls)
  match fin with
  | some s => if q = .ct ∧ s.rephase = true ∧ (ch.owner st.place.owner).rephase.isSome = true ∧ run.arrived = none then
      { run with arrived := some ch.gts } else run
  | none => run

section
variable {m : Memory} {ch : Chip} {c sl : Nat} {q : SeqId} {h : Head} {i : Info} {f : Flow} {w : HeadWait} {st : Strand}

/-- Energy is charged; the arrival alone may change besides. -/
theorem Strand.runAfter_eq (cls : Nat) (fin : Option Section) :
    st.runAfter ch c q cls fin =
      { st.run.charge ((ch.core c).weight cls) with arrived := (st.runAfter ch c q cls fin).arrived } := by
  unfold Strand.runAfter
  split
  · dsimp only; split <;> rfl
  · rfl

theorem Strand.counted_sameRegs (opc : BitVec 8) : (st.counted q h opc f w).SameRegs (st.seq q) := by
  have hset : (if f = .eret then st.seq q else { st.seq q with wait := w, blockFrom := none, delay := transferOpc opc }).SameRegs
      (st.seq q) := by split <;> exact .rfl
  change Seq.SameRegs (if _ then _ else _) _
  split
  · exact hset
  · exact (Seq.count_sameRegs ..).trans hset

theorem Strand.afterWord_sameRegs (gts : Nat) (opc : BitVec 8) : (st.afterWord m c gts q h opc f w).1.SameRegs (st.seq q) := by
  have hnext := (Seq.advance_sameRegs (st.counted q h opc f w) st.place f).trans (counted_sameRegs opc)
  unfold Strand.afterWord
  split
  · exact hnext
  · exact (Seq.close_sameRegs ..).trans hnext

/-- The strand after a word: its sequencer moved on, its tokens acted, its energy charged, with the trap of a failed check pending. -/
def Strand.retired (st : Strand) (m : Memory) (ch : Chip) (c : Nat) (q : SeqId) (h : Head) (opc : BitVec 8) (cls : Nat) (f : Flow)
    (w : HeadWait) : Strand :=
  { st.setSeq q (st.afterWord m c ch.gts q h opc f w).1 with
    run := st.runAfter ch c q cls (st.afterWord m c ch.gts q h opc f w).2.2,
    sh := { st.sh with rings := st.sh.rings.act q h },
    traps := match (st.afterWord m c ch.gts q h opc f w).2.1 with
      | some t => st.traps ++ [{ t with q := q }]
      | none => st.traps }

theorem retire_of_strand (hs : ch.strand? c sl = some st) :
    retire m ch c sl q h i f w = { ch.setStrand c sl (st.retired m ch c q h i.opc i.cls f w) with verdict := .issued } := by
  unfold retire
  simp only [hs, Strand.setSeq_sh, Strand.setSeq_traps]
  rfl

section
variable {opc : BitVec 8} {cls : Nat}

theorem Strand.retired_seq (r : SeqId) : (st.retired m ch c q h opc cls f w).seq r = (st.setSeq q (st.afterWord m c ch.gts q h opc f w).1).seq r := by
  cases r <;> rfl

theorem Strand.retired_seq_self : (st.retired m ch c q h opc cls f w).seq q = (st.afterWord m c ch.gts q h opc f w).1 :=
  (retired_seq q).trans (seq_setSeq ..)

theorem Strand.retired_seq_ne {r : SeqId} (hr : r ≠ q) : (st.retired m ch c q h opc cls f w).seq r = st.seq r :=
  (retired_seq r).trans (seq_setSeq_ne _ _ hr)

theorem Strand.retired_sameRegs (r : SeqId) : ((st.retired m ch c q h opc cls f w).seq r).SameRegs (st.seq r) := by
  by_cases hr : r = q
  · subst hr; rw [retired_seq_self]; exact afterWord_sameRegs ..
  · rw [retired_seq_ne hr]; exact .rfl

@[simp] theorem Strand.retired_bank : (st.retired m ch c q h opc cls f w).bank = st.bank := setSeq_bank ..
@[simp] theorem Strand.retired_due : (st.retired m ch c q h opc cls f w).due = st.due := setSeq_due ..
@[simp] theorem Strand.retired_csr : (st.retired m ch c q h opc cls f w).csr = st.csr := setSeq_csr ..
@[simp] theorem Strand.retired_lane : (st.retired m ch c q h opc cls f w).lane = st.lane := setSeq_lane ..
@[simp] theorem Strand.retired_place : (st.retired m ch c q h opc cls f w).place = st.place := setSeq_place ..
@[simp] theorem Strand.retired_regions : (st.retired m ch c q h opc cls f w).regions = st.regions := setSeq_regions ..
@[simp] theorem Strand.retired_monitors : (st.retired m ch c q h opc cls f w).monitors = st.monitors := setSeq_monitors ..

theorem Strand.retired_traps_of_none (hp : (st.afterWord m c ch.gts q h opc f w).2.1.map (·.cause) = none) :
    (st.retired m ch c q h opc cls f w).traps = st.traps := by
  simp only [Strand.retired, Option.map_eq_none_iff.mp hp]

theorem Strand.retired_traps_of_some {k : Cause} (hp : (st.afterWord m c ch.gts q h opc f w).2.1.map (·.cause) = some k) :
    ∃ p, (st.retired m ch c q h opc cls f w).traps = st.traps ++ [p] ∧ p.cause = k := by
  obtain ⟨t, ht, hk⟩ := Option.map_eq_some_iff.mp hp
  exact ⟨{ t with q := q }, by simp only [Strand.retired, ht], hk⟩

end

/-- A section with one more word of an opcode and flags counted (04 R75). -/
def Section.counted (s : Section) (opc flags : Byte) : Section :=
  { s with count := s.count + 1, crc := crcBytes s.crc [opc, flags, s.count.setWidth 8] }

/-- A sequencer past a word of a section's body. -/
def Seq.past (sq : Seq) (gts : Nat) (opc flags : Byte) (s : Section) : Seq :=
  { sq with
    pc := sq.pc + 1, wait := .none, blockFrom := none, delay := transferOpc opc, worked := some (gts, s.num),
    sec := some (s.counted opc flags) }

/-- In the body of a section, outside loops and delay slots, a word counts and the next position follows. -/
theorem Strand.afterWord_next {gts : Nat} {opc : BitVec 8} {sec : Section} (hsec : (st.seq q).sec = some sec)
    (hh : ¬ (q = .ct ∧ st.run.h = true)) (hp : (st.seq q).pending = none) (hl : (st.seq q).loops = []) :
    st.afterWord m c gts q h opc .next .none = Seq.close m c st.place ((st.seq q).past gts opc (headByte h) sec) false := by
  have hhand : (q == .ct && st.run.h) = false := by simpa using hh
  have hcount : st.counted q h opc .next .none = { st.seq q with
      wait := .none, blockFrom := none, delay := transferOpc opc, sec := some (sec.counted opc (headByte h)) } := by
    simp [Strand.counted, hhand, Seq.count, hsec, Section.counted]
  simp [Strand.afterWord, hcount, hhand, Seq.advance, hp, hl, loopEnd, Seq.past, Section.counted]
  rfl

theorem Seq.close_of_inBody {sq : Seq} {pl : Place} {sec : Section} (hs : sq.sec = some sec) (hin : sec.inBody sq.pc.toNat = true) :
    sq.close m c pl false = (sq, none, none) := by
  simp [Seq.close, hs, hin]

/-- The fault of a check word, when a section has one (04 R75). -/
def Section.checkFault (s : Section) (w : IWord) : Option Cause :=
  if s.check = false then none else if w.extractLsb' 64 32 ≠ s.count then some .segCount
  else if w.extractLsb' 0 64 ≠ s.crc then some .segSig else none

theorem Section.checkFault_of_no_check {s : Section} {w : IWord} (hk : s.check = false) : s.checkFault w = none := if_pos hk

theorem Section.checkFault_of_eq {s : Section} {w : IWord} (hc : w.extractLsb' 64 32 = s.count) (hs : w.extractLsb' 0 64 = s.crc) :
    s.checkFault w = none := by
  simp [Section.checkFault, hc, hs]

theorem Section.checkFault_of_count_ne {s : Section} {w : IWord} (hk : s.check = true) (hc : w.extractLsb' 64 32 ≠ s.count) :
    s.checkFault w = some .segCount := by
  simp [Section.checkFault, hk, hc]

theorem Section.checkFault_of_crc_ne {s : Section} {w : IWord} (hk : s.check = true) (hc : w.extractLsb' 64 32 = s.count)
    (hs : w.extractLsb' 0 64 ≠ s.crc) : s.checkFault w = some .segSig := by
  simp [Section.checkFault, hk, hc, hs]

/-- Control that left a section's body ends it: RET takes its number unless the check word differs. -/
theorem Seq.close_of_not_inBody {sq : Seq} {pl : Place} {sec : Section} (hs : sq.sec = some sec) (hin : sec.inBody sq.pc.toNat = false) :
    let r := sq.close m c pl false
    let fault := sec.checkFault (wordAt m c pl (sec.lastPos + 1))
    r.1.sec = none ∧ r.1.atHdr = true ∧ r.2.1.map (·.cause) = fault ∧ r.1.retNext = (if fault = none then some sec.num else sq.retNext) ∧
    (sec.check = false → r.1.pc = sq.pc) ∧
    (sec.check = true → sq.pc.toNat = sec.lastPos + 1 → r.1.pc = BitVec.ofNat 14 (sec.lastPos + 2)) := by
  simp only [Seq.close, hs, hin, Bool.or_false, Bool.false_eq_true, if_false]
  cases hck : sec.check with
  | false => simp [Section.checkFault, hck]
  | true =>
    by_cases hcount : BitVec.extractLsb' 64 32 (wordAt m c pl (sec.lastPos + 1)) = sec.count
    · by_cases hcrc : BitVec.extractLsb' 0 64 (wordAt m c pl (sec.lastPos + 1)) = sec.crc
      · simp +contextual [Section.checkFault, hck, hcount, hcrc]
      · simp +contextual [Section.checkFault, hck, hcount, hcrc]
    · simp +contextual [Section.checkFault, hck, hcount]

end
end Sys2Proof.Machine
end

section
/-! The statement about the bookkeeping of an issued word (04 R75). -/

namespace Sys2Proof.Proofs
open Sys2Proof.Machine

/-- Settles O51: the strand an issue leaves is that of `retire_of_strand`; at a section's end the check word decides. -/
theorem issueBookkeeping : Obligations.IssueBookkeeping := by
  intro s h opc cls ch st hs
  have hret : (s.issuedAs h opc cls ch .next .none).chip = _ := retire_of_strand hs
  refine ⟨fun a => rfl, fun c sl hne => ?_, ?_, ?_, ?_, ?_, ?_,
    st.retired s.mem ch s.chip.cur.core s.chip.cur.q h opc cls .next .none, ?_, fun r => ?_, Strand.retired_bank, Strand.retired_due,
    Strand.retired_csr, Strand.retired_lane, Strand.retired_place, Strand.retired_regions, Strand.retired_monitors, rfl,
    Strand.runAfter_eq .., fun sec hsec hh hp hl => ?_⟩
  · rw [hret]; exact Chip.strand?_setStrand_ne ch _ hne
  iterate 5 rw [hret]; rfl
  · rw [hret]; exact Chip.strand?_setStrand ..
  · obtain ⟨hx, hp, ht, hq⟩ := Strand.retired_sameRegs (m := s.mem) (ch := ch) (c := s.chip.cur.core) (q := s.chip.cur.q) (h := h)
      (f := .next) (w := .none) (st := st) (opc := opc) (cls := cls) r
    exact ⟨hx, hp, ht, hq, Strand.retired_seq_ne⟩
  · have hword := Strand.afterWord_next (m := s.mem) (c := s.chip.cur.core) (h := h) (gts := ch.gts) (opc := opc) hsec hh hp hl
    refine ⟨fun hin => ?_, fun hout => ?_⟩
    · rw [Seq.close_of_inBody rfl hin] at hword
      exact ⟨Strand.retired_traps_of_none (by rw [hword]; rfl), by rw [Strand.retired_seq_self, hword]; rfl⟩
    · obtain ⟨hnone, hhdr, hcause, hret, hpc, hpast⟩ := Seq.close_of_not_inBody (m := s.mem) (c := s.chip.cur.core) (pl := st.place)
        (sq := (st.seq s.chip.cur.q).past ch.gts opc (headByte h) sec) rfl hout
      rw [Strand.retired_seq_self]
      rw [← hword] at hnone hhdr hcause hret hpc hpast
      change _ = (if (sec.counted opc (headByte h)).checkFault (wordAt s.mem s.chip.cur.core st.place (sec.lastPos + 1)) = none then
        _ else _) at hret
      refine ⟨hnone, hhdr, fun hck => ?_, fun hck hlast => ⟨hpast hck hlast, fun hc hs => ?_, fun hc => ?_, fun hc hs => ?_⟩⟩
      · have hf := (sec.counted opc (headByte h)).checkFault_of_no_check (w := wordAt s.mem s.chip.cur.core st.place (sec.lastPos + 1)) hck
        exact ⟨Strand.retired_traps_of_none (hcause.trans hf), hret.trans (by rw [hf]; rfl), hpc hck⟩
      · have hf := Section.checkFault_of_eq (s := sec.counted opc (headByte h)) hc hs
        exact ⟨Strand.retired_traps_of_none (hcause.trans hf), hret.trans (by rw [hf]; rfl)⟩
      · have hf := Section.checkFault_of_count_ne (s := sec.counted opc (headByte h)) hck hc
        obtain ⟨p, hp, hk⟩ := Strand.retired_traps_of_some (hcause.trans hf)
        exact ⟨p, hp, hk, hret.trans (by rw [hf]; rfl)⟩
      · have hf := Section.checkFault_of_crc_ne (s := sec.counted opc (headByte h)) hck hc hs
        obtain ⟨p, hp, hk⟩ := Strand.retired_traps_of_some (hcause.trans hf)
        exact ⟨p, hp, hk, hret.trans (by rw [hf]; rfl)⟩

end Sys2Proof.Proofs
end

section
/-! SUPPORT. What does not move strands and owners: all but the monitors and held rows of strands, and the reservations of owners, stays (02 R33). -/

namespace Sys2Proof.Machine

theorem Tab.mem_of_get? {α : Type} {t : Tab α} {k : Nat} {v : α} (h : t.get? k = some v) : (k, v) ∈ t := by
  induction t with
  | nil => cases h
  | cons e t ih =>
    obtain ⟨j, w⟩ := e
    unfold Tab.get? at h
    split at h
    · next hk => cases h; subst hk; exact List.mem_cons_self
    · exact List.mem_cons_of_mem _ (ih h)

theorem Tab.mem_set {α : Type} {t : Tab α} {k : Nat} {v : α} {e : Nat × α} (h : e ∈ t.set k v) : e = (k, v) ∨ e ∈ t := by
  induction t with
  | nil => exact .inl (List.mem_singleton.mp h)
  | cons d t ih =>
    obtain ⟨j, w⟩ := d
    unfold Tab.set at h
    split at h
    · exact (List.mem_cons.mp h).imp id (List.mem_cons_of_mem _)
    · split at h
      · exact (List.mem_cons.mp h)
      · rcases List.mem_cons.mp h with rfl | h
        · exact .inr List.mem_cons_self
        · exact (ih h).imp id (List.mem_cons_of_mem _)

theorem Tab.get?_map {α β : Type} (t : Tab α) (f : Nat → α → β) (k : Nat) :
    Tab.get? (t.map (fun e => (e.1, f e.1 e.2))) k = (t.get? k).map (f k) := by
  induction t with
  | nil => rfl
  | cons e t ih =>
    obtain ⟨j, w⟩ := e
    simp only [List.map_cons, Tab.get?]
    split
    · next hk => subst hk; rfl
    · exact ih

/-- A strand but for its monitors and the rows it holds. -/
def Strand.base (st : Strand) : Strand := { st with monitors := [], bLatch := none }
/-- An owner but for its reservations. -/
def Owner.base (o : Owner) : Owner := { o with resv := [] }
/-- No owner retires, and none is charged to an account. -/
def Chip.Calm (ch : Chip) : Prop := ∀ e, e ∈ ch.owners → e.2.state ≠ .retiring ∧ e.2.acct = none

/-- Machine b has the time, the strands and the owners of machine a, but for monitors, held rows and reservations. -/
structure Chip.Steady (a b : Chip) : Prop where
  gts : b.gts = a.gts
  strands : ∀ k, (b.strands.get? k).map Strand.base = (a.strands.get? k).map Strand.base
  owners : ∀ on, (b.owner on).base = (a.owner on).base
  calm : a.Calm → b.Calm

namespace Chip.Steady
variable {a b c : Chip}

theorem refl (a : Chip) : a.Steady a := ⟨rfl, fun _ => rfl, fun _ => rfl, id⟩

theorem trans (hab : a.Steady b) (hbc : b.Steady c) : a.Steady c :=
  ⟨hbc.gts.trans hab.gts, fun k => (hbc.strands k).trans (hab.strands k), fun on => (hbc.owners on).trans (hab.owners on),
    fun h => hbc.calm (hab.calm h)⟩

/-- A change to other parts of the machine. -/
theorem of_eq (hg : b.gts = a.gts) (hs : b.strands = a.strands) (ho : b.owners = a.owners) : a.Steady b :=
  ⟨hg, fun k => by rw [hs], fun on => by rw [Chip.owner, ho]; rfl, fun h => by rw [Chip.Calm, ho]; exact h⟩

/-- A change to monitors or held rows of strands. -/
theorem of_map {g : Nat × Strand → Nat × Strand} (hf : ∀ e, (g e).1 = e.1 ∧ (g e).2.base = e.2.base) (hg : b.gts = a.gts)
    (hs : b.strands = a.strands.map g) (ho : b.owners = a.owners) : a.Steady b where
  gts := hg
  strands k := by
    have hpair : g = fun e => (e.1, (fun j st => (g (j, st)).2) e.1 e.2) := funext fun e => Prod.ext (hf e).1 rfl
    rw [hs, hpair, Tab.get?_map a.strands (fun j st => (g (j, st)).2) k, Option.map_map]
    congr 1
    exact funext fun st => (hf (k, st)).2
  owners on := by rw [Chip.owner, ho]; rfl
  calm h := by rw [Chip.Calm, ho]; exact h

theorem ite {p : Prop} [Decidable p] {x y : Res} (hx : a.Steady x.chip) (hy : a.Steady y.chip) : a.Steady (if p then x else y).chip := by
  split
  · exact hx
  · exact hy

theorem foldl {α : Type} {f : Chip → α → Chip} (hf : ∀ (ch : Chip) (x : α), ch.Steady (f ch x)) (l : List α) (ch : Chip) : ch.Steady (l.foldl f ch) := by
  induction l generalizing ch with
  | nil => exact refl ch
  | cons x l ih => exact (hf ch x).trans (ih (f ch x))

theorem foldlRes {α : Type} {f : Res → α → Res} (hf : ∀ (r : Res) (x : α), r.chip.Steady (f r x).chip) (l : List α) (r : Res) :
    r.chip.Steady (l.foldl f r).chip := by
  induction l generalizing r with
  | nil => exact refl r.chip
  | cons x l ih => exact (hf r x).trans (ih (f r x))

end Chip.Steady

section
variable (m : Memory) (ch : Chip) (r : Res) (a n key : Nat) (l : List Byte)

theorem fireMonitors_steady : ch.Steady (fireMonitors ch a n) := by
  refine .of_map (fun e => ?_) rfl rfl rfl
  dsimp only
  split <;> exact ⟨rfl, rfl⟩

theorem dropRows_steady : ch.Steady (dropRows ch a n) := by
  unfold dropRows
  dsimp only
  split
  · exact .refl ch
  · refine .of_map (fun e => ?_) rfl rfl rfl
    split <;> exact ⟨rfl, rfl⟩

theorem setDirty_steady : ch.Steady (setDirty ch a n) := by
  unfold setDirty
  split <;> exact .of_eq rfl rfl rfl

theorem clearErrors_steady : ch.Steady (clearSram (clearPoison ch a n) a n) := .of_eq rfl rfl rfl

theorem written_steady : ch.Steady (written ch a n) :=
  (fireMonitors_steady ch a n).trans ((dropRows_steady _ a n).trans
    ((clearErrors_steady ..).trans (setDirty_steady _ a n)))

theorem keyedWrites_steady : ch.Steady (keyedWrites m ch key a l).1 := by
  unfold keyedWrites
  split <;> exact .of_eq rfl rfl rfl

theorem patchStores_steady : ch.Steady (patchStores ch a l) := by
  unfold patchStores
  split <;> exact .of_eq rfl rfl rfl

theorem writeHome_steady : r.chip.Steady (writeHome m r key a l).chip := by
  have h1 : r.chip.Steady (written (keyedWrites m (patchStores r.chip a l) key a l).1 a l.length) :=
    (patchStores_steady ..).trans ((keyedWrites_steady ..).trans (written_steady ..))
  unfold writeHome
  dsimp only
  split
  · exact h1
  · exact h1.trans ((keyedWrites_steady ..).trans (written_steady ..))

theorem writeFree_steady : r.chip.Steady (writeFree m r key a l).chip := by
  unfold writeFree
  split
  · exact .of_eq rfl rfl rfl
  · exact writeHome_steady ..

theorem writeOwn_steady {c : Chip} (h : c.Steady r.chip) : c.Steady (writeOwn m r a l).chip := h.trans (writeFree_steady ..)

theorem settleLate_steady : r.chip.Steady (settleLate m r).chip := by
  unfold settleLate
  split
  · exact .refl _
  · have hlate : r.chip.Steady { r.chip with late := [] } := .of_eq rfl rfl rfl
    exact hlate.trans (.foldlRes (f := fun r (e : Nat × Nat × List Byte) => writeFree (writeAll m r.writes) r e.1 e.2.1 e.2.2)
      (fun r e => writeFree_steady ..) _ { r with chip := { r.chip with late := [] } })

theorem setStk_steady (k : Stack) : ch.Steady (ch.setStk n k) := .of_eq rfl rfl rfl
theorem setWork_steady (k : Work) : ch.Steady (ch.setWork n k) := .of_eq rfl rfl rfl
theorem setCore_steady (k : Core) : ch.Steady (ch.setCore n k) := .of_eq rfl rfl rfl

theorem faqRecord_steady (stack addr ev : Nat) {c : Chip} (h : c.Steady r.chip) : c.Steady (faqRecord m r stack addr ev).chip := by
  unfold faqRecord
  extract_lets
  exact .ite (h.trans (setStk_steady ..)) (writeOwn_steady _ _ _ _ (h.trans (setStk_steady ..)))

theorem hotAct_steady (stack : Nat) (c : HotCount) : r.chip.Steady (hotAct m r stack c).chip := by
  unfold hotAct
  extract_lets
  refine .ite (faqRecord_steady _ _ _ _ _ (setStk_steady ..)) (.ite (setStk_steady ..) ?_)
  split
  · exact setStk_steady ..
  · exact writeOwn_steady _ _ _ _ (setStk_steady ..)

theorem hotStep_steady (stack : Nat) : r.chip.Steady (hotStep m r stack).chip := by
  unfold hotStep
  split
  · exact hotAct_steady ..
  · exact .refl _

theorem hotSteps_steady : r.chip.Steady (hotSteps m r).chip := .foldlRes (fun _ _ => hotStep_steady ..) _ _

theorem setOwner_resv_steady (on : Nat) (v : Resv) : ch.Steady (ch.setOwner on { ch.owner on with resv := v }) where
  gts := rfl
  strands _ := rfl
  owners k := by
    by_cases hk : k = on
    · subst hk; rw [Chip.owner_setOwner]; rfl
    · rw [Chip.owner_setOwner_ne _ _ hk]
  calm h e he := by
    rcases Tab.mem_set he with rfl | he
    · cases hg : Tab.get? ch.owners on with
      | none => simp [Chip.owner, Tab.getD, hg, Owner.empty]
      | some o => simpa [Chip.owner, Tab.getD, hg] using h _ (Tab.mem_of_get? hg)
    · exact h e he

theorem finishWork_steady (w : Nat) (k : Work) (s : WorkState) : ch.Steady (finishWork ch w k s) := .of_eq rfl rfl rfl

theorem Planner.flit_chip (p : Planner) (o : Owner) (path : List (Nat × Nat)) (t : Nat) (ordered : Bool) (lead fin : List Act) (deps : List Nat) :
    (p.flit o path t ordered lead fin deps).1.chip = p.chip := rfl

/-- A plan changes nothing of the machine it is made on but its owner's reservations. -/
theorem Planner.finish_steady {p : Planner} {on w : Nat} {k : Work} (hp : p.chip = ch) : ch.Steady ((p.finish on (ch.owner on)).setWork w k) := by
  subst hp
  exact (setOwner_resv_steady ..).trans (setWork_steady ..)

theorem releaseWait_steady (w : Nat) (k : Work) : ch.Steady (releaseWait m ch w k) := by
  unfold releaseWait
  split
  · extract_lets
    split
    · exact .refl ch
    · split
      · exact finishWork_steady ..
      · generalize hflit : Planner.flit _ _ _ _ _ _ _ _ = r
        obtain ⟨p, e⟩ := r
        have hp : p.chip = ch := (congrArg (·.1.chip) hflit).symm.trans (Planner.flit_chip ..)
        exact Planner.finish_steady ch hp
  · exact .refl ch

theorem settleWorks_steady : ch.Steady (settleWorks m ch) := by
  have hfold : ch.Steady (ch.works.foldl (fun ch (e : Nat × Work) =>
      match ch.work? e.1 with | some k => releaseWait m ch e.1 k | none => ch) ch) := by
    refine .foldl (fun ch e => ?_) _ _
    split
    · exact releaseWait_steady ..
    · exact .refl ch
  exact hfold.trans (.of_eq rfl rfl rfl)

theorem admitWalks_steady : ch.Steady (admitWalks ch) := by
  refine .foldl (fun ch i => ?_) _ _
  dsimp only
  split
  · split <;> exact .of_eq rfl rfl rfl
  · exact .refl ch

theorem countOwned_steady : ch.Steady (countOwned ch) := .foldl (fun _ _ => setCore_steady ..) _ _

end
end Sys2Proof.Machine
end

section
/-! SUPPORT. The end of a beat: what it counts, and the time it advances (02 R27, R33). -/

namespace Sys2Proof.Machine

section
variable {m : Memory} {ch : Chip}

/-- Where no account is charged, the owned slots of a beat cost nothing. -/
theorem chargeSlots_of_calm (h : ch.Calm) : chargeSlots ch = ch := by
  have hcharge (on : Nat) : charge ch on 1 = ch := by
    have hacct : (ch.owner on).acct = none := by
      cases hg : Tab.get? ch.owners on with
      | none => simp [Chip.owner, Tab.getD, hg, Owner.empty]
      | some o => simpa [Chip.owner, Tab.getD, hg] using (h _ (Tab.mem_of_get? hg)).2
    simp only [charge, hacct]
  have hfold (l : List (Nat × Strand)) : l.foldl (fun ch (e : Nat × Strand) => charge ch e.2.place.owner 1) ch = ch := by
    induction l with
    | nil => rfl
    | cons e l ih => rw [List.foldl_cons, hcharge, ih]
  exact hfold _

/-- Where no owner retires, none is freed. -/
theorem freeRetired_of_calm {r : Res} (h : ∀ e, e ∈ r.chip.owners → e.2.state ≠ .retiring) : freeRetired r = r := by
  have hnone : r.chip.owners.filter (fun e => e.2.state == .retiring) = [] :=
    List.filter_eq_nil_iff.mpr fun e he => by simpa using h e he
  unfold freeRetired
  rw [hnone]
  rfl

theorem Owner.tick_state (o : Owner) (b : Nat) : (o.tick b).state = o.state := by
  unfold Owner.tick
  split
  · rfl
  · rfl
  · split <;> rfl

theorem Run.charge_tau (r : Run) (n : Nat) : (r.charge n).tau = r.tau := by
  unfold Run.charge
  split
  · rfl
  · extract_lets; split <;> rfl

theorem Run.charge_stall (r : Run) (n : Nat) : (r.charge n).stall = r.stall := by
  unfold Run.charge
  split
  · rfl
  · extract_lets; split <;> rfl

/-- The machine at the end of a beat before strands and owners are counted on. -/
def State.settled (s : State) : Res :=
  hotSteps s.mem (settleLate s.mem { chip := countOwned (chargeSlots (admitWalks (settleWorks s.mem s.chip))), writes := [] })

/-- The machine at the end of a beat with strands and owners counted on, and the retired owners freed. -/
def State.ticked (s : State) : Res := freeRetired { s.settled with chip := tickAll s.mem s.settled.chip }

theorem execGtsTick_eq (s : State) :
    execGtsTick s = .next (s.commit { s.ticked with chip := { s.ticked.chip with gts := s.ticked.chip.gts + 1 } }) := by
  simp only [execGtsTick, State.ticked, State.settled]

theorem State.settled_steady {s : State} (h : s.chip.Calm) : s.chip.Steady s.settled.chip := by
  have hworks := (settleWorks_steady s.mem s.chip).trans (admitWalks_steady _)
  have hcount := hworks.trans (countOwned_steady _)
  rw [← chargeSlots_of_calm (hworks.calm h)] at hcount
  exact hcount.trans ((settleLate_steady s.mem { chip := _, writes := [] }).trans (hotSteps_steady ..))

theorem foldl_gts {α : Type} {f : Chip → α → Chip} (hf : ∀ ch x, (f ch x).gts = ch.gts) (l : List α) (ch : Chip) :
    (l.foldl f ch).gts = ch.gts := by
  induction l generalizing ch with
  | nil => rfl
  | cons x l ih => exact (ih _).trans (hf ch x)

theorem charge_gts (ch : Chip) (on n : Nat) : (charge ch on n).gts = ch.gts := by
  unfold charge
  extract_lets
  split
  · rfl
  · extract_lets
    split
    · rfl
    · unfold Chip.raiseOn
      split
      · rfl
      · split <;> rfl

theorem State.settled_gts (s : State) : s.settled.chip.gts = s.chip.gts := by
  have hcharge (ch : Chip) : (chargeSlots ch).gts = ch.gts := foldl_gts (fun ch e => charge_gts ..) _ _
  calc s.settled.chip.gts = (settleLate s.mem { chip := countOwned (chargeSlots (admitWalks (settleWorks s.mem s.chip))), writes := [] }).chip.gts :=
        (hotSteps_steady ..).gts
    _ = (countOwned (chargeSlots (admitWalks (settleWorks s.mem s.chip)))).gts := (settleLate_steady ..).gts
    _ = (chargeSlots (admitWalks (settleWorks s.mem s.chip))).gts := (countOwned_steady _).gts
    _ = s.chip.gts := (hcharge _).trans ((admitWalks_steady _).gts.trans (settleWorks_steady ..).gts)

theorem releaseAccount_gts (r : Res) (on : Nat) : (releaseAccount r on).chip.gts = r.chip.gts := by
  unfold releaseAccount
  extract_lets
  split
  · rfl
  · split
    · rfl
    · exact (written_steady ..).gts

theorem freeRetired_gts (r : Res) : (freeRetired r).chip.gts = r.chip.gts := by
  have hfold (l : List (Nat × Owner)) (r : Res) : (l.foldl (fun r e =>
      { releaseAccount r e.1 with chip := freeSlot (releaseAccount r e.1).chip e.1 }) r).chip.gts = r.chip.gts := by
    induction l generalizing r with
    | nil => rfl
    | cons e l ih => exact (ih _).trans (releaseAccount_gts ..)
  exact hfold _ _

/-- A strand after a beat has its registers, traps, results and CSRs, and its time goes on if it runs. -/
theorem strandTick_frame (m : Memory) (ch : Chip) (core : Nat) (st : Strand) :
    let u := strandTick m ch core st
    u.run.tau = st.run.tau + (if ch.runs st then 1 else 0) ∧ u.bank = st.bank ∧
    (∀ q, (u.seq q).x = (st.seq q).x ∧ (u.seq q).pc = (st.seq q).pc ∧ (u.seq q).p = (st.seq q).p) ∧
    u.traps = st.traps ∧ u.due = st.due ∧ u.csr = st.csr ∧ u.run.stall.isSome = st.run.stall.isSome := by
  refine ⟨?_, rfl, fun q => ?_, rfl, rfl, rfl, ?_⟩
  · simp only [strandTick]
    cases ch.runs st <;> cases (ch.owner st.place.owner).chargedSlot ch.gts <;> simp [Run.charge_tau]
  · cases q <;> exact ⟨rfl, rfl, rfl⟩
  · simp only [strandTick]
    cases (ch.owner st.place.owner).chargedSlot ch.gts <;> simp [Run.charge_stall]

theorem tickAll_gts (m : Memory) (ch : Chip) : (tickAll m ch).gts = ch.gts := rfl

theorem State.ticked_gts (s : State) : s.ticked.chip.gts = s.chip.gts := by
  rw [State.ticked, freeRetired_gts, tickAll_gts, State.settled_gts]

theorem State.ticked_of_calm {s : State} (h : s.chip.Calm) : s.ticked = { s.settled with chip := tickAll s.mem s.settled.chip } := by
  refine freeRetired_of_calm fun e he => ?_
  obtain ⟨d, hd, rfl⟩ := List.mem_map.mp he
  rw [Owner.tick_state]
  exact ((State.settled_steady h).calm h d hd).1

/-- Strands after a beat by their keys. -/
theorem tickAll_strand? (m : Memory) (ch : Chip) (core slot : Nat) :
    (tickAll m ch).strand? core slot = (ch.strand? core slot).map (strandTick m ch (skey core slot / 4)) :=
  Tab.get?_map ch.strands (fun k st => strandTick m ch (k / 4) st) (skey core slot)

theorem tickAll_owner (m : Memory) (ch : Chip) (on : Nat) : (tickAll m ch).owner on = (ch.owner on).tick ch.gts := by
  have hget := Tab.get?_map ch.owners (fun _ o => Owner.tick o ch.gts) on
  simp only [Chip.owner, Tab.getD, tickAll, hget]
  cases Tab.get? ch.owners on <;> rfl

theorem Owner.tick_frozen {o : Owner} (he : o.state ≠ .empty) (ha : o.state ≠ .admitting) (b : Nat) :
    (o.tick b).frozen = o.frozen + (if o.frozenAt b then 1 else 0) := by
  unfold Owner.tick
  split
  · contradiction
  · contradiction
  · split <;> simp [*]

theorem Owner.live_base (o : Owner) : o.base.live = o.live := rfl
theorem Owner.frozenAt_base (o : Owner) (n : Nat) : o.base.frozenAt n = o.frozenAt n := rfl

theorem Strand.fields_of_base {u st : Strand} (h : u.base = st.base) :
    u.run = st.run ∧ u.bank = st.bank ∧ (∀ q, u.seq q = st.seq q) ∧ u.traps = st.traps ∧ u.due = st.due ∧ u.csr = st.csr := by
  have hseq (q : SeqId) : u.base.seq q = u.seq q := by cases q <;> rfl
  have hseq' (q : SeqId) : st.base.seq q = st.seq q := by cases q <;> rfl
  have hof {α : Type} (f : Strand → α) : f u.base = f st.base := by rw [h]
  exact ⟨hof (·.run), hof (·.bank), fun q => by rw [← hseq, ← hseq', h], hof (·.traps), hof (·.due), hof (·.csr)⟩

/-- Whether a strand runs is told by time, owner and stall alone. -/
theorem Chip.runs_of_base {a b : Chip} {st u : Strand} (h : a.Steady b) (hb : u.base = st.base) : b.runs u = a.runs st := by
  have hplace : u.place = st.place := congrArg (·.place) hb
  have hrun : u.run = st.run := congrArg (·.run) hb
  have ho := h.owners st.place.owner
  have hlive : (b.owner st.place.owner).live = (a.owner st.place.owner).live := by
    rw [← Owner.live_base, ho, Owner.live_base]
  have hfrozen (n : Nat) : (b.owner st.place.owner).frozenAt n = (a.owner st.place.owner).frozenAt n := by
    rw [← Owner.frozenAt_base, ho, Owner.frozenAt_base]
  simp only [Chip.runs, hplace, hrun, hlive, hfrozen, h.gts]

/-- Counting on a machine that has the strands and owners of a machine at the end of its beat. -/
theorem Chip.Steady.tick_strand {a b : Chip} (h : a.Steady b) {core slot : Nat} {st : Strand} (hst : a.strand? core slot = some st) :
    ∃ u, (tickAll m b).strand? core slot = some u ∧
      u.run.tau = st.run.tau + (if a.runs st then 1 else 0) ∧ u.bank = st.bank ∧
      (∀ q, (u.seq q).x = (st.seq q).x ∧ (u.seq q).pc = (st.seq q).pc ∧ (u.seq q).p = (st.seq q).p) ∧
      u.traps = st.traps ∧ u.due = st.due ∧ u.csr = st.csr ∧ u.run.stall.isSome = st.run.stall.isSome := by
  have hu := h.strands (skey core slot)
  rw [show Tab.get? a.strands (skey core slot) = some st from hst] at hu
  obtain ⟨v, hv, hbase⟩ := Option.map_eq_some_iff.mp hu
  obtain ⟨hrun, hvb, hvs, hvt, hvd, hvc⟩ := Strand.fields_of_base hbase
  have hframe := strandTick_frame m b (skey core slot / 4) v
  simp only [Chip.runs_of_base h hbase, hrun, hvb, hvs, hvt, hvd, hvc] at hframe
  exact ⟨_, (tickAll_strand? m b core slot).trans (congrArg _ hv), hframe⟩

theorem Chip.Steady.tick_frozen {a b : Chip} (h : a.Steady b) {on : Nat} (he : (a.owner on).state ≠ .empty)
    (ha : (a.owner on).state ≠ .admitting) :
    ((tickAll m b).owner on).frozen = (a.owner on).frozen + (if (a.owner on).frozenAt a.gts then 1 else 0) := by
  have ho := h.owners on
  have hof {α : Type} (f : Owner → α) : f (b.owner on).base = f (a.owner on).base := by rw [ho]
  have hstate : (b.owner on).state = (a.owner on).state := hof (·.state)
  have hfrozen : (b.owner on).frozen = (a.owner on).frozen := hof (·.frozen)
  rw [tickAll_owner, Owner.tick_frozen (hstate ▸ he) (hstate ▸ ha), hfrozen, h.gts, ← Owner.frozenAt_base, ho, Owner.frozenAt_base]

end
end Sys2Proof.Machine
end

section
/-! The statement about the end of a beat (02 R27, R33, R36). -/

namespace Sys2Proof.Proofs
open Sys2Proof.Machine

/-- Settles O49: what a beat's end counts before the strands moves neither strands nor owners where none retires or is charged. -/
theorem endOfBeat : Obligations.EndOfBeat := by
  intro s
  refine ⟨_, execGtsTick_eq s, ?_, fun hcalm => ?_⟩
  · exact congrArg (· + 1) s.ticked_gts
  · have hsteady := State.settled_steady hcalm
    rw [State.ticked_of_calm hcalm]
    generalize s.settled = r at hsteady ⊢
    exact ⟨fun core slot st hst => hsteady.tick_strand hst, fun on he ha => hsteady.tick_frozen (m := s.mem) he ha⟩

end Sys2Proof.Proofs
end

section
/-! SUPPORT. Taking a trap and returning from one (08 R177 to R185). -/

namespace Sys2Proof.Machine

section
variable {m : Memory} {ch : Chip} {c sl : Nat} {st u : Strand} {t : PTrap}

/-- What a trap leaves of a sequencer. -/
def Seq.Stays (a b : Seq) : Prop := a.SameRegs b ∧ a.pc = b.pc ∧ a.loops = b.loops ∧ a.pending = b.pending

theorem Seq.Stays.rfl {a : Seq} : a.Stays a := ⟨.rfl, Eq.refl _, Eq.refl _, Eq.refl _⟩

theorem Seq.afterTrap_stays (sq : Seq) (k : Cause) : (sq.afterTrap k).Stays sq := by
  unfold Seq.afterTrap
  split <;> exact .rfl

section
variable (st : Strand) (v : Csrs)

/-- A strand with other CSRs. -/
def Strand.withCsr : Strand := { st with csr := v }

@[simp] theorem Strand.withCsr_seq (q : SeqId) : (st.withCsr v).seq q = st.seq q := by cases q <;> rfl
@[simp] theorem Strand.withCsr_csr : (st.withCsr v).csr = v := rfl
@[simp] theorem Strand.withCsr_run : (st.withCsr v).run = st.run := rfl
@[simp] theorem Strand.withCsr_place : (st.withCsr v).place = st.place := rfl
@[simp] theorem Strand.withCsr_bank : (st.withCsr v).bank = st.bank := rfl
@[simp] theorem Strand.withCsr_due : (st.withCsr v).due = st.due := rfl
@[simp] theorem Strand.withCsr_lane : (st.withCsr v).lane = st.lane := rfl

end

/-- The CSRs of a trap: TCAUSE, FADDR, TVAL and the EPCs (08 R179). -/
def Strand.trapCsrs (st : Strand) (t : PTrap) : Csrs :=
  { st.csr with
    tcause := tcauseOf t, faddr := t.faddr, tval := t.tval,
    tepc := st.ct.pc, ldepc := st.ld.pc, cpepc := st.cp.pc, stepc := st.st.pc }

/-- The strand that a trap leaves before it goes anywhere. -/
def Strand.noting (st : Strand) (t : PTrap) : Strand :=
  (st.setSeq t.q ((st.seq t.q).afterTrap t.cause)).withCsr (st.trapCsrs t)

theorem Strand.noting_seq (q : SeqId) : ((st.noting t).seq q).Stays (st.seq q) := by
  rw [Strand.noting, Strand.withCsr_seq]
  by_cases hq : q = t.q
  · subst hq
    rw [Strand.seq_setSeq]
    exact Seq.afterTrap_stays ..
  · rw [Strand.seq_setSeq_ne _ _ hq]
    exact .rfl

@[simp] theorem Strand.noting_run : (st.noting t).run = st.run := by simp [Strand.noting]
@[simp] theorem Strand.noting_place : (st.noting t).place = st.place := by simp [Strand.noting]
@[simp] theorem Strand.noting_bank : (st.noting t).bank = st.bank := by simp [Strand.noting]
@[simp] theorem Strand.noting_due : (st.noting t).due = st.due := by simp [Strand.noting]
@[simp] theorem Strand.noting_lane : (st.noting t).lane = st.lane := by simp [Strand.noting]
@[simp] theorem Strand.noting_csr : (st.noting t).csr = st.trapCsrs t := by simp [Strand.noting]

theorem Strand.saveEpcs_withCsr (st : Strand) (v : Csrs) :
    (st.withCsr v).saveEpcs = st.withCsr { v with tepc := st.ct.pc, ldepc := st.ld.pc, cpepc := st.cp.pc, stepc := st.st.pc } := rfl

/-- The EPCs are the words at the heads, which a trap does not move. -/
theorem Strand.saveEpcs_afterTrap :
    ((st.setSeq t.q ((st.seq t.q).afterTrap t.cause)).withCsr
      { st.csr with tcause := tcauseOf t, faddr := t.faddr, tval := t.tval }).saveEpcs = st.noting t := by
  have hpc (q : SeqId) : ((st.setSeq t.q ((st.seq t.q).afterTrap t.cause)).seq q).pc = (st.seq q).pc := by
    rw [← Strand.withCsr_seq _ (st.trapCsrs t)]
    exact (Strand.noting_seq q).2.1
  rw [Strand.saveEpcs_withCsr, Strand.noting, Strand.trapCsrs]
  congr 1
  rw [Csrs.mk.injEq]
  simp only [true_and, and_true]
  exact ⟨hpc .ct, hpc .ld, hpc .cp, hpc .st⟩

/-- A strand that waits for the answer to a record. -/
def Strand.recorded (st : Strand) (k : Cause) (gts : Nat) : Strand :=
  { st with run := { st.run with stall := some { kind := .record k, bs := (st.run.stall.map (·.bs)).getD gts, cleared := none } } }

/-- A machine with a record of a strand. -/
def Chip.recording (ch : Chip) (c sl : Nat) (u : Strand) (k : Cause) (second : Nat) : Chip :=
  (ch.setStrand c sl u).addRecord (ch.owner u.place.owner).part (recordOf ch c sl u k second)

/-- A trap taken while H = 1 is a double trap; a cause of the strand goes to its handler; any other is a record (08 R179, R185). -/
theorem takeTrap_of_strand (hs : ch.strand? c sl = some st) :
    takeTrap m ch c sl t =
      if st.run.h = true then doubleTrap ch c sl st (causeCode t.cause)
      else if causeTo t.cause = .strand ∧ (st.noting t).csr.tvec ≠ 0 then enterHandler m ch c sl (st.noting t) none
      else ch.recording c sl ((st.noting t).recorded t.cause ch.gts) t.cause 0 := by
  have hnote := Strand.saveEpcs_afterTrap (st := st) (t := t)
  simp only [Strand.withCsr] at hnote
  simp only [takeTrap, hs, Strand.setSeq_csr, hnote]
  generalize st.noting t = u
  split
  · rfl
  · split
    next hto =>
      by_cases htv : u.csr.tvec = 0#14
      · rw [if_pos htv, if_neg fun hc => hc.2 htv]; rfl
      · rw [if_neg htv, if_pos ⟨hto, htv⟩]
    next hto => rw [if_neg fun hc => hto hc.1]; rfl

/-- The strand of a double trap: frozen, with bits 6:0 of TVAL telling of the second cause (08 R185). -/
def Strand.doubled (st : Strand) (gts second : Nat) : Strand :=
  (st.withCsr { st.csr with tval := (st.csr.tval &&& ~~~ 0x7F#64) ||| BitVec.ofNat 64 second }).recorded .doubleTrap gts

theorem doubleTrap_eq (ch : Chip) (c sl : Nat) (st : Strand) (second : Nat) :
    doubleTrap ch c sl st second = ch.recording c sl (st.doubled ch.gts second) .doubleTrap second := rfl

/-- The strand in its handler, its CT part set aside (08 R179). -/
def Strand.entered (st : Strand) (gts : Nat) (at? : Option (BitVec 14)) : Strand :=
  { st with
    ct := { st.ct with
      pc := at?.getD st.csr.tvec, pending := none, delay := false, loops := [], wait := .none, blockFrom := none, epcWritten := false, atHdr := false },
    ld := { st.ld with epcWritten := false }, cp := { st.cp with epcWritten := false }, st := { st.st with epcWritten := false },
    run := { st.run with
      h := true, hregion := at?, htrap := none, hstall := none,
      stall := some { kind := .trap, bs := (st.run.stall.map (·.bs)).getD gts, cleared := none },
      saved := some { pending := st.ct.pending, delay := st.ct.delay, atHdr := st.ct.atHdr, loops := st.ct.loops, wait := st.ct.wait,
                      blockFrom := st.ct.blockFrom } } }

/-- Whether a word of a handler is resident, in a section that is there. -/
def Strand.handlerUsable (st : Strand) (m : Memory) (c : Nat) (w : BitVec 14) : Prop :=
  (sectionHolding m c st.place w.toNat).isSome = true ∧ st.place.absent.contains w.toNat = false

theorem enterHandler_of_usable {u : Strand} {at? : Option (BitVec 14)} (hu : st.saveEpcs = u)
    (h : u.handlerUsable m c (at?.getD u.csr.tvec)) : enterHandler m ch c sl st at? = ch.setStrand c sl (u.entered ch.gts at?) := by
  obtain ⟨hsec, hres⟩ := h
  obtain ⟨sec, hsec⟩ := Option.isSome_iff_exists.mp hsec
  simp only [enterHandler, hu, hsec, hres, Bool.not_false, Bool.and_self, if_true]
  rfl

theorem enterHandler_of_not_usable {u : Strand} {at? : Option (BitVec 14)} (hu : st.saveEpcs = u)
    (h : ¬ u.handlerUsable m c (at?.getD u.csr.tvec)) :
    enterHandler m ch c sl st at? = doubleTrap ch c sl (u.entered ch.gts at?) 0x65 := by
  have hno : ((match sectionHolding m c u.place (at?.getD u.csr.tvec).toNat with | some _ => true | none => false) &&
      !u.place.absent.contains (at?.getD u.csr.tvec).toNat) = false := by
    rw [← Bool.not_eq_true]
    intro hyes
    obtain ⟨hsec, hres⟩ := Bool.and_eq_true_iff.mp hyes
    refine h ⟨?_, by simpa using hres⟩
    split at hsec
    · next hs => rw [hs]; rfl
    · cases hsec
  simp only [enterHandler, hu]
  rw [if_neg (by rw [Bool.not_eq_true]; exact hno)]
  rfl

theorem Strand.saveEpcs_noting : (st.noting t).saveEpcs = st.noting t := by
  have hpc (q : SeqId) : ((st.setSeq t.q ((st.seq t.q).afterTrap t.cause)).seq q).pc = (st.seq q).pc := by
    rw [← Strand.withCsr_seq _ (st.trapCsrs t)]
    exact (Strand.noting_seq q).2.1
  rw [Strand.noting, Strand.saveEpcs_withCsr]
  congr 1
  rw [Csrs.mk.injEq]
  simp only [true_and, and_true]
  exact ⟨hpc .ct, hpc .ld, hpc .cp, hpc .st⟩

/-- What the strand of a trap holds wherever its cause goes: TCAUSE, FADDR and the EPCs of the trap, and its registers, results and lanes. -/
structure Strand.Noted (st : Strand) (t : PTrap) (u : Strand) : Prop where
  regs : ∀ q, (u.seq q).SameRegs (st.seq q)
  bank : u.bank = st.bank
  due : u.due = st.due
  lane : u.lane = st.lane
  tau : u.run.tau = st.run.tau
  cause : u.csr.tcause = tcauseOf t ∧ u.csr.faddr = t.faddr
  epcs : u.csr.tepc = st.ct.pc ∧ u.csr.ldepc = st.ld.pc ∧ u.csr.cpepc = st.cp.pc ∧ u.csr.stepc = st.st.pc
  pcs : u.ld.pc = st.ld.pc ∧ u.cp.pc = st.cp.pc ∧ u.st.pc = st.st.pc

theorem Strand.noted_noting : st.Noted t (st.noting t) where
  regs q := (Strand.noting_seq q).1
  bank := noting_bank
  due := noting_due
  lane := noting_lane
  tau := congrArg (·.tau) noting_run
  cause := by rw [noting_csr]; exact ⟨rfl, rfl⟩
  epcs := by rw [noting_csr]; exact ⟨rfl, rfl, rfl, rfl⟩
  pcs := ⟨(Strand.noting_seq .ld).2.1, (Strand.noting_seq .cp).2.1, (Strand.noting_seq .st).2.1⟩

theorem Strand.Noted.recorded (h : st.Noted t u) (k : Cause) (gts : Nat) : st.Noted t (u.recorded k gts) where
  regs q := by cases q <;> [exact h.regs .ct; exact h.regs .ld; exact h.regs .cp; exact h.regs .st]
  bank := h.bank
  due := h.due
  lane := h.lane
  tau := h.tau
  cause := h.cause
  epcs := h.epcs
  pcs := h.pcs

theorem Strand.Noted.doubled (h : st.Noted t u) (gts second : Nat) : st.Noted t (u.doubled gts second) where
  regs q := by cases q <;> [exact h.regs .ct; exact h.regs .ld; exact h.regs .cp; exact h.regs .st]
  bank := h.bank
  due := h.due
  lane := h.lane
  tau := h.tau
  cause := h.cause
  epcs := h.epcs
  pcs := h.pcs

theorem Strand.Noted.entered (h : st.Noted t u) (gts : Nat) (at? : Option (BitVec 14)) : st.Noted t (u.entered gts at?) where
  regs q := by cases q <;> [exact h.regs .ct; exact h.regs .ld; exact h.regs .cp; exact h.regs .st]
  bank := h.bank
  due := h.due
  lane := h.lane
  tau := h.tau
  cause := h.cause
  epcs := h.epcs
  pcs := h.pcs

/-- One strand replaced, and no other strand, work or owner. -/
structure Chip.OnlyStrand (a b : Chip) (c sl : Nat) (u : Strand) : Prop where
  strand : b.strand? c sl = some u
  others : ∀ c' sl', skey c' sl' ≠ skey c sl → b.strand? c' sl' = a.strand? c' sl'
  works : b.works = a.works
  owners : b.owners = a.owners

theorem setStrand_only (ch : Chip) (c sl : Nat) (u : Strand) : ch.OnlyStrand (ch.setStrand c sl u) c sl u :=
  ⟨Chip.strand?_setStrand .., fun _ _ hne => Chip.strand?_setStrand_ne _ _ hne, rfl, rfl⟩

theorem recording_only (ch : Chip) (c sl : Nat) (u : Strand) (k : Cause) (second : Nat) :
    ch.OnlyStrand (ch.recording c sl u k second) c sl u :=
  ⟨Chip.strand?_setStrand .., fun _ _ hne => Chip.strand?_setStrand_ne _ _ hne, rfl, rfl⟩

/-- A strand's record goes to the end of its partition's records; it names its time, place and cause, and carries TCAUSE and FADDR (08 R186). -/
theorem recording_records (ch : Chip) (c sl : Nat) (u : Strand) (k : Cause) (second : Nat) :
    ∃ r, ((ch.recording c sl u k second).part (ch.owner u.place.owner).part).records = (ch.part (ch.owner u.place.owner).part).records ++ [r] ∧
      r.hyper = (causeTo k == .hyper) ∧ r.gts = ch.gts ∧ r.core = c ∧ r.slot = sl ∧ r.words.getD 2 0 = u.csr.tcause ∧
      r.words.getD 3 0 = u.csr.faddr := by
  refine ⟨recordOf ch c sl u k second, ?_, rfl, rfl, rfl, rfl, rfl, rfl⟩
  rw [Chip.recording, Chip.addRecord, Chip.part_setPart]
  rfl

theorem Strand.doubled_seq {gts second : Nat} (q : SeqId) : (st.doubled gts second).seq q = st.seq q := by cases q <;> rfl

/-- CT with what its trap set aside. -/
def Strand.ctBack (st : Strand) : Seq :=
  let sv := st.run.saved.getD { pending := none, delay := false, atHdr := false, loops := [], wait := .none, blockFrom := none }
  { st.ct with pending := sv.pending, delay := sv.delay, loops := sv.loops, wait := sv.wait, blockFrom := sv.blockFrom, atHdr := sv.atHdr }

theorem Strand.ctBack_of_saved {v : CtSaved} (hv : st.run.saved = some v) : st.ctBack = { st.ct with
    pending := v.pending, delay := v.delay, loops := v.loops, wait := v.wait, blockFrom := v.blockFrom, atHdr := v.atHdr } := by
  rw [Strand.ctBack, hv]; rfl

/-- The strand back from its handler (08 R184). -/
def Strand.left (st : Strand) (m : Memory) (gts c : Nat) : Strand :=
  { st with
    ct := Seq.resume m c st.place st.ctBack st.csr.tepc, ld := Seq.resume m c st.place st.ld st.csr.ldepc,
    cp := Seq.resume m c st.place st.cp st.csr.cpepc, st := Seq.resume m c st.place st.st st.csr.stepc,
    replay := { st.replay with noRecord := st.replay.noRecord.filter (fun q => !(st.seq q).epcWritten) },
    run := { st.run with
      h := false, saved := none, hregion := none, htrap := none, stall := st.run.stall.map (fun k => { k with cleared := some (gts + 1) }) } }

theorem leaveHandler_eq (m : Memory) (ch : Chip) (c sl : Nat) (st : Strand) :
    leaveHandler m ch c sl st = ch.setStrand c sl (st.left m ch.gts c) := rfl

theorem Seq.resume_pc (m : Memory) (c : Nat) (pl : Place) (sq : Seq) (epc : BitVec 14) : (sq.resume m c pl epc).pc = epc := by
  unfold Seq.resume; split <;> rfl

theorem Seq.resume_sameRegs (m : Memory) (c : Nat) (pl : Place) (sq : Seq) (epc : BitVec 14) : (sq.resume m c pl epc).SameRegs sq := by
  unfold Seq.resume; split <;> exact .rfl

/-- An EPC that the handler wrote empties the loop stack and drops the pending transfer. -/
theorem Seq.resume_of_written {sq : Seq} (h : sq.epcWritten = true) (pl : Place) (epc : BitVec 14) :
    (sq.resume m c pl epc).loops = [] ∧ (sq.resume m c pl epc).pending = none ∧ (sq.resume m c pl epc).delay = false := by
  unfold Seq.resume
  rw [if_pos h]
  exact ⟨rfl, rfl, rfl⟩

theorem Seq.resume_of_not_written {sq : Seq} (h : sq.epcWritten = false) (pl : Place) (epc : BitVec 14) :
    sq.resume m c pl epc = { sq with pc := epc } := by
  unfold Seq.resume
  rw [if_neg (by simp [h])]

end
end Sys2Proof.Machine
end

section
/-! The statement about traps and returns (08 R177 to R185). -/

namespace Sys2Proof.Proofs
open Sys2Proof.Machine

/-- Settles O54: a trap goes to the handler, or leaves a record, of a strand that notes it; ERET resumes each sequencer at its EPC. -/
theorem trapsAndReturns : Obligations.TrapsAndReturns := by
  refine ⟨fun s c sl t st hs => ?_, fun m ch c sl st => ?_⟩
  · have htake := takeTrap_of_strand (m := s.mem) (t := t) hs
    have hregs (q : SeqId) : ((st.noting t).seq q).SameRegs (st.seq q) := (Strand.noting_seq q).1
    have hpc (q : SeqId) : ((st.noting t).seq q).pc = (st.seq q).pc := (Strand.noting_seq q).2.1
    cases hh : st.run.h with
    | true =>
      rw [if_pos hh, doubleTrap_eq] at htake
      obtain ⟨hst, hoth, hworks, howners⟩ := recording_only s.chip c sl (st.doubled s.chip.gts (causeCode t.cause)) .doubleTrap (causeCode t.cause)
      have hrec := recording_records s.chip c sl (st.doubled s.chip.gts (causeCode t.cause)) .doubleTrap (causeCode t.cause)
      rw [← htake] at hst hoth hworks howners hrec
      refine ⟨hoth, hworks, howners, _, hst, fun q => ?_, rfl, rfl, rfl, rfl, nofun, fun _ => ⟨hh, rfl, ⟨rfl, hrec⟩, rfl⟩⟩
      rw [Strand.doubled_seq]; exact ⟨rfl, rfl⟩
    | false =>
      rw [if_neg (by simp [hh])] at htake
      have hnoted := Strand.noted_noting (st := st) (t := t)
      have htvec : (st.noting t).csr.tvec = st.csr.tvec := by rw [Strand.noting_csr]; rfl
      have htval : (st.noting t).csr.tval = t.tval := by rw [Strand.noting_csr]; rfl
      have hbs (k : StallKind) : some (Stall.mk k (((st.noting t).run.stall.map (·.bs)).getD s.chip.gts) none) =
        some ⟨k, (st.run.stall.map (·.bs)).getD s.chip.gts, none⟩ := by rw [Strand.noting_run]
      have hpart : (s.chip.owner (st.noting t).place.owner).part = (s.chip.owner st.place.owner).part := by rw [Strand.noting_place]
      have husable (w : BitVec 14) : (st.noting t).handlerUsable s.mem c w ↔ st.handlerUsable s.mem c w := by
        rw [Strand.handlerUsable, Strand.noting_place]; rfl
      by_cases hto : causeTo t.cause = .strand ∧ st.csr.tvec ≠ 0
      · rw [htvec, if_pos hto] at htake
        by_cases hu : st.handlerUsable s.mem c st.csr.tvec
        · rw [enterHandler_of_usable Strand.saveEpcs_noting (htvec ▸ (husable _).mpr hu)] at htake
          have hn := hnoted.entered s.chip.gts none
          obtain ⟨hst, hoth, hworks, howners⟩ := setStrand_only s.chip c sl ((st.noting t).entered s.chip.gts none)
          rw [← htake] at hst hoth hworks howners
          refine ⟨hoth, hworks, howners, _, hst, fun q => ⟨(hn.regs q).1, (hn.regs q).2.1⟩, hn.bank, hn.due, hn.lane, hn.tau, fun _ =>
            ⟨hn.cause.1, hn.cause.2, hn.epcs.1, hn.epcs.2.1, hn.epcs.2.2.1, hn.epcs.2.2.2, hn.pcs.1, hn.pcs.2.1, hn.pcs.2.2, fun _ _ _ => ?_, ?_, ?_⟩, ?_⟩
          · exact ⟨htval, rfl, htvec, rfl, rfl, hbs _, by rw [htake]; rfl⟩
          · exact fun _ _ hnot => absurd hu hnot
          · exact fun hno => absurd hto (by tauto)
          · simp [hh]
        · rw [enterHandler_of_not_usable Strand.saveEpcs_noting (htvec ▸ mt (husable _).mp hu), doubleTrap_eq] at htake
          have hn := (hnoted.entered s.chip.gts none).doubled s.chip.gts 0x65
          obtain ⟨hst, hoth, hworks, howners⟩ :=
            recording_only s.chip c sl (((st.noting t).entered s.chip.gts none).doubled s.chip.gts 0x65) .doubleTrap 0x65
          have hrec := recording_records s.chip c sl (((st.noting t).entered s.chip.gts none).doubled s.chip.gts 0x65) .doubleTrap 0x65
          rw [← htake] at hst hoth hworks howners hrec
          refine ⟨hoth, hworks, howners, _, hst, fun q => ⟨(hn.regs q).1, (hn.regs q).2.1⟩, hn.bank, hn.due, hn.lane, hn.tau, fun _ =>
            ⟨hn.cause.1, hn.cause.2, hn.epcs.1, hn.epcs.2.1, hn.epcs.2.2.1, hn.epcs.2.2.2, hn.pcs.1, hn.pcs.2.1, hn.pcs.2.2, ?_, fun _ _ _ => ?_, ?_⟩, ?_⟩
          · exact fun _ _ hyes => absurd hyes hu
          · exact ⟨rfl, hbs _, hpart ▸ hrec⟩
          · exact fun hno => absurd hto (by tauto)
          · simp [hh]
      · rw [htvec, if_neg hto] at htake
        have hn := hnoted.recorded t.cause s.chip.gts
        obtain ⟨hst, hoth, hworks, howners⟩ := recording_only s.chip c sl ((st.noting t).recorded t.cause s.chip.gts) t.cause 0
        have hrec := recording_records s.chip c sl ((st.noting t).recorded t.cause s.chip.gts) t.cause 0
        rw [← htake] at hst hoth hworks howners hrec
        refine ⟨hoth, hworks, howners, _, hst, fun q => ⟨(hn.regs q).1, (hn.regs q).2.1⟩, hn.bank, hn.due, hn.lane, hn.tau, fun _ =>
          ⟨hn.cause.1, hn.cause.2, hn.epcs.1, hn.epcs.2.1, hn.epcs.2.2.1, hn.epcs.2.2.2, hn.pcs.1, hn.pcs.2.1, hn.pcs.2.2, ?_, ?_, fun _ => ?_⟩, ?_⟩
        · exact fun h1 h2 => absurd ⟨h1, h2⟩ hto
        · exact fun h1 h2 => absurd ⟨h1, h2⟩ hto
        · exact ⟨htval, (congrArg (·.h) Strand.noting_run).trans hh, (Strand.noting_seq .ct).2.1, hbs _, hpart ▸ hrec⟩
        · simp [hh]
  · obtain ⟨hst, hoth, -, -⟩ := setStrand_only ch c sl (st.left m ch.gts c)
    rw [← leaveHandler_eq] at hst hoth
    refine ⟨_, hst, rfl, Seq.resume_pc .., Seq.resume_pc .., Seq.resume_pc .., Seq.resume_pc .., rfl, rfl, rfl, rfl, fun q => ?_, fun v hv he => ?_,
      fun q he => ?_, fun q hq he => ?_, hoth⟩
    · cases q <;> exact ⟨(Seq.resume_sameRegs ..).1, (Seq.resume_sameRegs ..).2.1⟩
    · have hct : (st.left m ch.gts c).ct = { st.ctBack with pc := st.csr.tepc } := Seq.resume_of_not_written (sq := st.ctBack) he ..
      rw [hct, Strand.ctBack_of_saved hv]
      exact ⟨rfl, rfl, rfl, rfl⟩
    · have hrec : (st.left m ch.gts c).replay.noRecord.contains q = false := by
        simp [Strand.left, he]
      have hempty {sq : Seq} (hw : sq.epcWritten = true) (epc : BitVec 14) := Seq.resume_of_written (m := m) (c := c) hw st.place epc
      have hall : ((st.left m ch.gts c).seq q).loops = [] ∧ ((st.left m ch.gts c).seq q).pending = none ∧ ((st.left m ch.gts c).seq q).delay = false := by
        cases q with
        | ct => exact hempty (sq := st.ctBack) he _
        | ld => exact hempty (sq := st.ld) he _
        | cp => exact hempty (sq := st.cp) he _
        | st => exact hempty (sq := st.st) he _
      exact ⟨hall.1, hall.2.1, hall.2.2, hrec⟩
    · cases q with
      | ct => exact absurd rfl hq
      | ld => simp only [Strand.left, Strand.seq, Seq.resume_of_not_written (show st.ld.epcWritten = false from he)]; exact ⟨trivial, trivial⟩
      | cp => simp only [Strand.left, Strand.seq, Seq.resume_of_not_written (show st.cp.epcWritten = false from he)]; exact ⟨trivial, trivial⟩
      | st => simp only [Strand.left, Strand.seq, Seq.resume_of_not_written (show st.st.epcWritten = false from he)]; exact ⟨trivial, trivial⟩

end Sys2Proof.Proofs
end

section
/-! SUPPORT. What a single due result leaves as it lands (02 R35; 05 R94). -/

namespace Sys2Proof.Machine

@[simp] theorem Tab.set_set {α : Type} (t : Tab α) (k : Nat) (v w : α) : (t.set k v).set k w = t.set k w := by
  induction t with
  | nil => simp [Tab.set]
  | cons e t ih =>
    obtain ⟨j, u⟩ := e
    simp only [Tab.set]
    split
    · simp [Tab.set]
    · next hkj =>
      split
      · simp [Tab.set]
      · next hlt => simp only [Tab.set, if_neg hkj, if_neg hlt, ih]

@[simp] theorem Chip.setStrand_setStrand (ch : Chip) (c sl : Nat) (a b : Strand) : (ch.setStrand c sl a).setStrand c sl b = ch.setStrand c sl b := by
  simp [Chip.setStrand]

@[simp] theorem Chip.onStrand_setStrand (ch : Chip) (c sl : Nat) (a : Strand) (f : Strand → Strand) :
    (ch.setStrand c sl a).onStrand c sl f = ch.setStrand c sl (f a) := by
  simp [Chip.onStrand]

theorem setBit_self {w : Nat} (v : BitVec w) {n : Nat} (b : Bool) (h : n < w) : (setBit v n b).getLsbD n = b := by
  cases b <;> simp [setBit, h]

theorem setBit_ne {w : Nat} (v : BitVec w) {n j : Nat} (b : Bool) (hj : j < w) (h : j ≠ n) : (setBit v n b).getLsbD j = v.getLsbD j := by
  cases b <;> simp [setBit, hj, h, Ne.symm h]

namespace Strand
variable (st : Strand) (q : SeqId)

theorem seq_setSeq_eq (v : Seq) (k : SeqId) : (st.setSeq q v).seq k = if k = q then v else st.seq k := by
  split
  · next h => subst h; exact seq_setSeq ..
  · next h => exact seq_setSeq_ne _ _ h

/-- A register write leaves its register, and no other register, bank register, CSR or latch changes. -/
theorem wx_reg {r : Nat} (v : Word) (tag : Option Nat) (poison : Bool) (h0 : r ≠ 0) (h : r < 64) :
    (st.wx q r v tag poison).due = st.due ∧ ((st.wx q r v tag poison).seq q).x.getD r 0 = v ∧ (st.wx q r v tag poison).bank = st.bank ∧
      (st.wx q r v tag poison).csr = st.csr ∧
      ∀ k n, k ≠ q ∨ n ≠ r → ((st.wx q r v tag poison).seq k).x.getD n 0 = (st.seq k).x.getD n 0 := by
  simp only [wx, if_neg h0, if_neg (Nat.not_le.mpr h), setSeq_due, setSeq_bank, setSeq_csr, seq_setSeq, Tab.getD_set_self, true_and]
  intro k n hkn
  by_cases hk : k = q
  · subst hk
    rw [seq_setSeq]
    exact Tab.getD_set_ne _ _ _ (hkn.resolve_left (· rfl))
  · rw [seq_setSeq_ne _ _ hk]

/-- A write of the handler bank leaves its register, and no other register, CSR or latch changes. -/
theorem wx_bank {r : Nat} (v : Word) (tag : Option Nat) (poison : Bool) (h : 64 ≤ r) :
    (st.wx q r v tag poison).due = st.due ∧ (st.wx q r v tag poison).bank.getD (r - 64) 0 = v ∧
      (∀ k, k ≠ r - 64 → (st.wx q r v tag poison).bank.getD k 0 = st.bank.getD k 0) ∧ (st.wx q r v tag poison).ct = st.ct ∧
      (st.wx q r v tag poison).ld = st.ld ∧ (st.wx q r v tag poison).cp = st.cp ∧ (st.wx q r v tag poison).st = st.st ∧
      (st.wx q r v tag poison).csr = st.csr := by
  have h0 : r ≠ 0 := by omega
  simp only [wx, if_neg h0, if_pos h, Tab.getD_set_self, true_and, and_true]
  exact fun k hk => Tab.getD_set_ne _ _ _ hk

theorem wp_pred {n : Nat} (v : Bool) (h0 : 0 < n) (h : n < 8) :
    (st.wp q n v).due = st.due ∧ ((st.wp q n v).seq q).p.getLsbD n = v ∧
      ∀ k j, j < 8 → k ≠ q ∨ j ≠ n → ((st.wp q n v).seq k).p.getLsbD j = (st.seq k).p.getLsbD j := by
  simp only [wp, if_neg (Nat.pos_iff_ne_zero.mp h0), setSeq_due, seq_setSeq, setBit_self _ _ h, true_and]
  intro k j hj hkj
  by_cases hk : k = q
  · subst hk
    rw [seq_setSeq]
    exact setBit_ne _ _ hj (hkj.resolve_left (· rfl))
  · rw [seq_setSeq_ne _ _ hk]

end Strand

section
variable (m : Memory) {ch : Chip} {core slot : Nat} {st : Strand} {d : Due}

/-- What waits stays as it is. -/
theorem landAll_of_not_due (hs : ch.strand? core slot = some st) (hd : st.due = [d]) (h : ch.dueNow st d = false) :
    landAll m ch core slot = { chip := ch.setStrand core slot st, writes := [] } := by
  obtain ⟨⟩ := st
  cases hd
  simp [landAll, findTraps, findCompares, landResults, hs, h, orderDues, landsOf]

/-- The machine with the only latch of a strand emptied. -/
def Chip.taken (ch : Chip) (core slot : Nat) (st : Strand) : Chip := ch.setStrand core slot { st with due := [] }

theorem landsOf_one {l : Land} (hl : d.lands = [l]) : landsOf (orderDues [d]) = [(d.q, l)] := by
  cases hf : l.first <;> simp [landsOf, orderDues, insertDue, hl, hf]

/-- A single result without a trap is the one landing of the beat. -/
theorem landAll_of_due {l : Land} (hs : ch.strand? core slot = some st) (hd : st.due = [d]) (h : ch.dueNow st d = true) (ht : d.trap = none)
    (hl : d.lands = [l]) (hc : ∀ c sec ix, l ≠ .mchk c sec ix) :
    landAll m ch core slot = landOne m { chip := ch.taken core slot st, writes := [] } core slot d.q l := by
  have hfind : findTraps ch core slot = ch := by simp [findTraps, hs, hd, h, orderDues, insertDue, ht]
  have hcmp : findCompares m ch core slot = ch := by
    simp only [findCompares, hs, hd, List.filter_cons, h, if_true, List.filter_nil, landsOf_one hl]
    refine if_pos ?_
    cases l
    case mchk c sec ix => exact absurd rfl (hc c sec ix)
    all_goals rfl
  simp only [landAll, hfind, hcmp, landResults, hs, hd, List.filter_cons, h, if_true, List.filter_nil, landsOf_one hl, List.foldl_cons, List.foldl_nil,
    Bool.not_true, Bool.false_eq_true, if_false, Chip.taken]

/-- Bytes of the register space land in the strand's window. -/
theorem landOne_reg (q : SeqId) (off : Nat) (data : List Byte) :
    (landOne m { chip := ch.taken core slot st, writes := [] } core slot q (.reg off data)).writes = [(windowBase core st + off, data)] ∧
      (ch.taken core slot st).Steady (landOne m { chip := ch.taken core slot st, writes := [] } core slot q (.reg off data)).chip := by
  simp only [landOne, Chip.taken, Chip.strand?_setStrand]
  exact ⟨rfl, .of_eq rfl rfl rfl⟩

/-- A strand whose only latch traps: its flags are in, its trap is pending, nothing else is written. -/
def Strand.trapping (st : Strand) (p : PTrap) (f : BitVec 6) : Strand :=
  { st with due := [], traps := st.traps ++ [p], csr := { st.csr with fflags := st.csr.fflags ||| f } }

/-- A result that traps writes no register of the register space. -/
theorem findTraps_of_trap {p : PTrap} {f : BitVec 6} {l : List Land} (hs : ch.strand? core slot = some st) (hd : st.due = [d])
    (h : ch.dueNow st d = true) (ht : d.trap = some p) (hl : d.lands = l ++ [.flags f]) (hreg : ∀ a, a ∈ l → ∃ n b, a = .reg n b) :
    findTraps ch core slot = ch.setStrand core slot (st.trapping p f) := by
  have hflags (g : BitVec 6 → Land → BitVec 6) (hg : ∀ a n b, g a (.reg n b) = a) (hf : ∀ a, g a (.flags f) = a ||| f) (a : BitVec 6) :
      (l ++ [Land.flags f]).foldl g a = a ||| f := by
    clear hl
    induction l generalizing a with
    | nil => exact hf a
    | cons x l ih =>
      obtain ⟨n, b, rfl⟩ := hreg x List.mem_cons_self
      rw [List.cons_append, List.foldl_cons, hg]
      exact ih (fun y hy => hreg y (List.mem_cons_of_mem _ hy)) a
  have hcsr (g : Land → Bool) (hg : ∀ n b, g (.reg n b) = false) (hf : g (.flags f) = false) : (l ++ [Land.flags f]).filter g = [] := by
    refine List.filter_eq_nil_iff.mpr fun a ha => ?_
    rcases List.mem_append.mp ha with ha | ha
    · obtain ⟨n, b, rfl⟩ := hreg a ha
      simp [hg]
    · obtain rfl := List.mem_singleton.mp ha
      simp [hf]
  simp only [findTraps, hs, hd, List.filter_cons, h, if_true, List.filter_nil, orderDues, insertDue, List.foldl_cons, List.foldl_nil, ht,
    Option.isSome_some, List.flatMap_cons, List.flatMap_nil, List.append_nil, hl]
  rw [hflags _ (fun _ _ _ => rfl) (fun _ => rfl), hcsr _ (fun _ _ => rfl) rfl]
  simp [Strand.trapping]

theorem landAll_of_none_due (hs : ch.strand? core slot = some st) (hd : st.due = []) :
    landResults m { chip := findCompares m ch core slot, writes := [] } core slot = { chip := ch.setStrand core slot st, writes := [] } := by
  obtain ⟨⟩ := st
  cases hd
  simp [findCompares, landResults, hs, orderDues, landsOf]

theorem landAll_of_trap {p : PTrap} {f : BitVec 6} {l : List Land} (hs : ch.strand? core slot = some st) (hd : st.due = [d])
    (h : ch.dueNow st d = true) (ht : d.trap = some p) (hl : d.lands = l ++ [.flags f]) (hreg : ∀ a, a ∈ l → ∃ n b, a = .reg n b) :
    landAll m ch core slot = { chip := ch.setStrand core slot (st.trapping p f), writes := [] } := by
  rw [landAll, findTraps_of_trap hs hd h ht hl hreg, landAll_of_none_due m (Chip.strand?_setStrand ..) rfl, Chip.setStrand_setStrand]

end
end Sys2Proof.Machine
end
section
/-! SUPPORT. A store that ejects at an on-chip home writes its bytes there and is complete (06 R411). -/

namespace Sys2Proof.Machine

/-- No byte of on-chip storage is a device byte. -/
theorem placeOf_onChip {a : Nat} (h : 2 ^ 48 ≤ a) : placeOf a = .none := by
  simp only [placeOf]
  rw [if_neg (by omega), if_neg (by omega), if_neg (by omega)]

/-- A write of on-chip storage writes its bytes alone. -/
theorem writeHome_writes_onChip (m : Memory) (r : Res) (key : Nat) {a : Nat} (l : List Byte) (h : 2 ^ 48 ≤ a) :
    (writeHome m r key a l).writes = r.writes ++ [(a, l)] := by
  simp [writeHome, mirrorOf, keyedWrites, encrypted, placeOf_onChip h]

theorem performStore_writes_onChip (m : Memory) (r : Res) (k : Work) {home : Nat} (l : List Byte) (h : 2 ^ 48 ≤ home) :
    (performStore m r k none home l).1.writes = r.writes ++ [(home, l)] := by
  simp [performStore, storeAt, writeHome_writes_onChip _ _ _ _ h]

theorem finishWork_state (ch : Chip) (w : Nat) (k : Work) (s : WorkState) : ((finishWork ch w k s).work? w).map (·.state) = some s := by
  let c := clockMax k.clock k.shown
  let tell (e : Work) : Work := if e.cons.contains w then { e with clock := clockMax e.clock c } else e
  have htell (e : Work) : (tell e).state = e.state := by
    simp only [tell]
    split <;> rfl
  have hmap : (finishWork ch w k s).works =
      (ch.works.set w { k with state := s, doneBeat := some ch.gts, steps := [] }).map (fun e => (e.1, tell e.2)) := by
    refine congrArg (List.map · _) (funext fun e => ?_)
    simp only [tell]
    split <;> rfl
  rw [Chip.work?, hmap, Tab.get?_map _ (fun _ e => tell e), Tab.get?_set_self]
  exact congrArg some (htell _)

/-- The step of a store at its home. -/
theorem actAtHome_store (m : Memory) (ch : Chip) (w : Nat) (k : Work) {home : Nat} (l : List Byte) (h : 2 ^ 48 ≤ home) :
    (actAtHome m ch w k (.store l) home).writes = [(home, l)] ∧
      ((actAtHome m ch w k (.store l) home).chip.work? w).map (·.state) = some .done := by
  simp only [actAtHome]
  exact ⟨performStore_writes_onChip m { chip := ch, writes := [] } k l h, finishWork_state ..⟩

/-- Memory after one run of bytes is written. -/
theorem commit_one (s : State) (r : Res) {a : Nat} {l : List Byte} (h : r.writes = [(a, l)]) :
    SameOutside s (s.commit r) a l.length ∧ ∀ i, i < l.length → Memory.read (s.commit r).mem (a + i) = l.getD i 0 := by
  have hm : (s.commit r).mem = Memory.write s.mem a l := by simp [State.commit, h, writeAll]
  rw [SameOutside, hm]
  exact ⟨fun b hb => read_write_outside _ _ _ _ hb, fun i hi => read_write_inside _ _ _ _ hi⟩

theorem meshFlitStep_store {s : State} {w n home : Nat} {k : Work} {p : PStep} {l : List Byte} (hw : s.chip.work? w = some k)
    (hn : s.chip.nextStep w k = some (n, p)) (hp : p.act = .atHome) (hk : k.kind = .access (.store l) home []) :
    ∃ ch j, execMeshFlitStep w s = .next (s.commit (actAtHome s.mem ch w j (.store l) home)) := by
  simp only [execMeshFlitStep, workEvent, hw, hn, hp, eventOf, beq_self_eq_true, Bool.not_true, Bool.false_eq_true, if_false, runAct, Work.followed, hk]
  exact ⟨_, _, rfl⟩

end Sys2Proof.Machine
end

section
/-! SUPPORT. Landings and stores at an on-chip home (02 R35). -/

namespace Sys2Proof.Proofs
open Sys2Proof.Machine Sys2Proof.Laws

/-- A result is due now in the beat the strand runs from its τ on; a handler's in an owned slot of the handler's clock. -/
theorem dueNow_iff (ch : Chip) (st : Strand) (d : Due) :
    ch.dueNow st d = true ↔ if d.hclock then ch.ownsIssue st = true ∧ d.due ≤ st.run.hclk else ch.runs st = true ∧ d.due ≤ st.run.tau := by
  unfold Chip.dueNow
  split <;> simp

section
variable {s : State} {core slot : Nat} {st : Strand} {d : Due}

/-- A landing on the strand alone leaves the strand as it lands on the emptied latches. -/
theorem dueResultLands_strand {u : Strand} {r : Res} (h : landAll s.mem s.chip core slot = r)
    (hr : r = { chip := s.chip.setStrand core slot u, writes := [] }) :
    exec (.dueResultLands core slot) s = .next (s.keep (s.chip.setStrand core slot u)) := by
  change (.next (s.commit (landAll s.mem s.chip core slot)) : Outcome) = _
  rw [h, hr, State.commit_nil]

/-- A landing that writes bytes writes them and no others, and empties the latch. -/
theorem dueResultLands_bytes {a : Nat} {data : List Byte} {r : Res} (h : landAll s.mem s.chip core slot = r) (hw : r.writes = [(a, data)])
    (hch : (s.chip.taken core slot st).Steady r.chip) :
    ∃ t, exec (.dueResultLands core slot) s = .next t ∧ SameOutside s t a data.length ∧
      (∀ i, i < data.length → Memory.read t.mem (a + i) = data.getD i 0) ∧
      (t.chip.strand? core slot).map (fun u => (u.due, u.ct, u.ld, u.cp, u.st, u.csr)) = some ([], st.ct, st.ld, st.cp, st.st, st.csr) := by
  obtain ⟨hout, hin⟩ := commit_one s r hw
  refine ⟨s.commit r, congrArg (fun x => (.next (s.commit x) : Outcome)) h, hout, hin, ?_⟩
  have hbase := (hch.strands (skey core slot)).trans (congrArg (Option.map Strand.base) (Chip.strand?_setStrand s.chip core slot { st with due := [] }))
  obtain ⟨u, hu, hub⟩ := Option.map_eq_some_iff.mp hbase
  have hof {α : Type} (f : Strand → α) : f u.base = f ({ st with due := [] } : Strand).base := by rw [hub]
  rw [show (s.commit r).chip.strand? core slot = some u from hu, Option.map_some]
  exact congrArg some (hof (fun v => (v.due, v.ct, v.ld, v.cp, v.st, v.csr)))

end

/-- Settles O53: the one due result is the one landing (`landAll_of_due`), which writes one register, predicate, CSR or run of bytes; a trapping
one is found before anything lands (`landAll_of_trap`). -/
theorem landings : Obligations.Landings := by
  refine ⟨fun s core slot st d hs hd => ?_, fun s w k n p l home hw hn hp hk hh => ?_⟩
  · intro e now gives stores
    have hnow : s.chip.dueNow st d = true ↔ now := dueNow_iff ..
    refine ⟨fun h => ?_, fun h ht => ?_, fun p f l h ht hl hreg => ?_⟩
    · exact dueResultLands_strand (landAll_of_not_due s.mem hs hd (Bool.eq_false_iff.mpr fun hc => h (hnow.mp hc))) rfl
    · have hland {l : Land} := landAll_of_due (l := l) s.mem hs hd (hnow.mpr h) ht
      have hon (u : Strand) (f : Strand → Strand) (hu : f { st with due := [] } = u) :
          ({ chip := (s.chip.taken core slot st).onStrand core slot f, writes := [] } : Res) = { chip := s.chip.setStrand core slot u, writes := [] } := by
        rw [← hu, Chip.taken, Chip.onStrand_setStrand]
      refine ⟨fun q v tag p hl => ?_, fun q r v tag p hl h0 h64 => ?_, fun q r v tag p hl h64 => ?_, fun q v hl => ?_, fun q n v hl h0 h8 => ?_,
        fun f hl => ?_, fun n v hl => ?_, fun off data hl => ?_, fun a data hl ha => ?_⟩
      · exact dueResultLands_strand (hland hl (by nofun)) (hon _ _ rfl)
      · exact ⟨_, dueResultLands_strand (hland hl (by nofun)) (hon _ _ rfl), Strand.wx_reg { st with due := [] } q v tag p h0 h64⟩
      · exact ⟨_, dueResultLands_strand (hland hl (by nofun)) (hon _ _ rfl), Strand.wx_bank { st with due := [] } q v tag p h64⟩
      · exact dueResultLands_strand (hland hl (by nofun)) (hon _ _ rfl)
      · exact ⟨_, dueResultLands_strand (hland hl (by nofun)) (hon _ _ rfl), Strand.wp_pred { st with due := [] } q v h0 h8⟩
      · exact dueResultLands_strand (hland hl (by nofun)) (hon _ _ rfl)
      · exact dueResultLands_strand (hland hl (by nofun)) (hon _ _ rfl)
      · refine dueResultLands_bytes (hland hl (by nofun)) (landOne_reg ..).1 (landOne_reg ..).2
      · exact dueResultLands_bytes (hland hl (by nofun)) rfl (written_steady ..)
    · exact dueResultLands_strand (landAll_of_trap s.mem hs hd (hnow.mpr h) ht hl hreg) rfl
  · obtain ⟨ch, j, he⟩ := meshFlitStep_store hw hn hp hk
    obtain ⟨hws, hdone⟩ := actAtHome_store s.mem ch w j l hh
    obtain ⟨hout, hin⟩ := commit_one s _ hws
    exact ⟨_, he, hout, hin, hdone⟩

end Sys2Proof.Proofs
end

section
/-! SUPPORT. The layouts of a pointer, and the checks of an access as long as its alignment (07 R141, R142). -/

namespace Sys2Proof.Machine

section
variable {v : Word}

/-- The fields of a pointer of each layout. -/
theorem ptrOf_eq_global {a : Nat} : ptrOf v = .global a ↔ bitsOf v 56 8 = 0 ∧ bitsOf v 48 8 = 0 ∧ bitsOf v 0 48 = a := by
  unfold ptrOf
  grind

theorem ptrOf_eq_cluster {k o : Nat} : ptrOf v = .cluster k o ↔
    bitsOf v 56 8 = 0xC0 ∧ bitsOf v 22 34 = 0 ∧ bitsOf v 20 2 = k ∧ bitsOf v 0 20 = o ∧ o < 0x40000 := by
  unfold ptrOf
  grind

theorem ptrOf_eq_scratch {c b o : Nat} : ptrOf v = .scratch c b o ↔
    bitsOf v 56 8 = 0xD0 ∧ bitsOf v 42 14 = 0 ∧ bitsOf v 32 10 = c ∧ bitsOf v 22 10 = 0 ∧ bitsOf v 20 2 = b ∧ bitsOf v 0 20 = o ∧
      c < 384 ∧ o < scratchSize b := by
  unfold ptrOf
  grind [Config.cores]

theorem ptrOf_priv_window {c w o : Nat} (h : ptrOf v = .priv c w o) : bitsOf v 56 8 = 0xE0 := by
  unfold ptrOf at h
  grind

theorem ptrOf_eq_priv {c w o : Nat} : ptrOf v = .priv c w o ↔
    bitsOf v 56 8 = 0xE0 ∧ bitsOf v 50 6 = 0 ∧ bitsOf v 40 10 = c ∧ bitsOf v 36 4 = 0 ∧ bitsOf v 32 4 = w ∧ bitsOf v 16 16 = 0 ∧
      bitsOf v 0 16 = o ∧ c < 384 ∧ w < 8 := by
  have hin (h : bitsOf v 56 8 = 0xE0) : ptrOf v =
      if bitsOf v 50 6 = 0 ∧ bitsOf v 40 10 < 384 ∧ bitsOf v 36 4 = 0 ∧ bitsOf v 32 4 < 8 ∧ bitsOf v 16 16 = 0
      then .priv (bitsOf v 40 10) (bitsOf v 32 4) (bitsOf v 0 16) else .bad := by
    simp only [ptrOf, h, Config.cores]
    rfl
  have hout := @ptrOf_priv_window v c w o
  grind

theorem word_eq_ofNat_iff {n : Nat} (h : n < 2 ^ 64) : v = BitVec.ofNat 64 n ↔ v.toNat = n := by
  rw [← BitVec.toNat_inj, BitVec.toNat_ofNat, Nat.mod_eq_of_lt h]

theorem ptrOf_global_layout (a : Nat) : ptrOf v = .global a ↔ v = BitVec.ofNat 64 a ∧ a < 2 ^ 48 := by
  rw [ptrOf_eq_global]
  have hv := v.isLt
  refine ⟨fun h => ?_, fun ⟨h, ha⟩ => ?_⟩
  · simp only [bitsOf] at h
    have ha : a < 2 ^ 48 := by omega
    exact ⟨(word_eq_ofNat_iff (by omega)).mpr (by omega), ha⟩
  · have hn := (word_eq_ofNat_iff (by omega)).mp h
    simp only [bitsOf]
    omega

theorem ptrOf_cluster_layout (k o : Nat) :
    ptrOf v = .cluster k o ↔ v = BitVec.ofNat 64 (0xC0 * 2 ^ 56 + k * 2 ^ 20 + o) ∧ k < 4 ∧ o < 0x40000 := by
  rw [ptrOf_eq_cluster]
  have hv := v.isLt
  refine ⟨fun h => ?_, fun ⟨h, hk, ho⟩ => ?_⟩
  · simp only [bitsOf] at h
    have hk : k < 4 := by omega
    have ho : o < 0x40000 := by omega
    exact ⟨(word_eq_ofNat_iff (by omega)).mpr (by omega), hk, ho⟩
  · have hn := (word_eq_ofNat_iff (by omega)).mp h
    simp only [bitsOf]
    omega

/-- The buffers of a scratchpad pointer and their sizes. -/
theorem lt_scratchSize_iff {b o : Nat} : o < scratchSize b ↔ (b = 0 ∧ o < 0x80000) ∨ (b = 1 ∧ o < 0x40000) ∨ (b = 2 ∧ o < 0x20000) := by
  unfold scratchSize
  split <;> simp_all

theorem ptrOf_scratch_layout (c b o : Nat) :
    ptrOf v = .scratch c b o ↔ v = BitVec.ofNat 64 (0xD0 * 2 ^ 56 + c * 2 ^ 32 + b * 2 ^ 20 + o) ∧ c < 384 ∧
      ((b = 0 ∧ o < 0x80000) ∨ (b = 1 ∧ o < 0x40000) ∨ (b = 2 ∧ o < 0x20000)) := by
  rw [ptrOf_eq_scratch, ← lt_scratchSize_iff]
  have hv := v.isLt
  refine ⟨fun h => ?_, fun ⟨h, hc, ho⟩ => ?_⟩
  · simp only [bitsOf] at h
    exact ⟨(word_eq_ofNat_iff (by omega)).mpr (by omega), by omega, by omega⟩
  · have hsize := lt_scratchSize_iff.mp ho
    have hn := (word_eq_ofNat_iff (by omega)).mp h
    simp only [bitsOf]
    omega

theorem ptrOf_priv_layout (c w o : Nat) :
    ptrOf v = .priv c w o ↔ v = BitVec.ofNat 64 (0xE0 * 2 ^ 56 + c * 2 ^ 40 + w * 2 ^ 32 + o) ∧ c < 384 ∧ w < 8 ∧ o < 2 ^ 16 := by
  rw [ptrOf_eq_priv]
  have hv := v.isLt
  refine ⟨fun h => ?_, fun ⟨h, hc, hw, ho⟩ => ?_⟩
  · simp only [bitsOf] at h
    have ho : o < 2 ^ 16 := by omega
    exact ⟨(word_eq_ofNat_iff (by omega)).mpr (by omega), by omega, by omega, ho⟩
  · have hn := (word_eq_ofNat_iff (by omega)).mp h
    simp only [bitsOf]
    omega

end

/-- An access as long as its alignment leaves a bound when its offset does. -/
theorem pastBound_aligned (bound o n : Nat) : pastBound bound o n n = decide (bound ≤ o) := by
  simp [pastBound, Nat.lt_succ_iff]

section
variable (core : Nat) (st : Strand) (v : Word) (off : Int) (n : Nat)

theorem checkPtr_of_sum_bad (h : ptrAddBad v off = true) : checkPtr core st v off n n = .error (.windowInvalid, ptrAdd v off) := by
  simp only [checkPtr, h, if_true]

variable (h : ptrAddBad v off = false)
include h

theorem checkPtr_bad (hp : ptrOf (ptrAdd v off) = .bad) : checkPtr core st v off n n = .error (.windowInvalid, ptrAdd v off) := by
  simp only [checkPtr, h, hp, Bool.false_eq_true, if_false]

theorem checkPtr_global {va : Nat} (hp : ptrOf (ptrAdd v off) = .global va) :
    checkPtr core st v off n n = if va % n = 0 then .ok (.global va) else .error (.align, ptrAdd v off) := by
  have hva := ((ptrOf_global_layout va).mp hp).2
  have hin : pastBound (2 ^ 48) va n n = false := by rw [pastBound_aligned]; exact decide_eq_false (by omega)
  simp only [checkPtr, h, hp, hin, Bool.false_eq_true, if_false, ite_not]

theorem checkPtr_cluster {k o : Nat} (hp : ptrOf (ptrAdd v off) = .cluster k o) :
    checkPtr core st v off n n = if o % n = 0 then .ok (.cluster (clusterCore core k) o) else .error (.align, ptrAdd v off) := by
  have ho := ((ptrOf_cluster_layout k o).mp hp).2.2
  have hin : pastBound 0x40000 o n n = false := by rw [pastBound_aligned]; exact decide_eq_false (by omega)
  simp only [checkPtr, h, hp, hin, Bool.false_eq_true, if_false, ite_not]

theorem checkPtr_scratch {c b o : Nat} (hp : ptrOf (ptrAdd v off) = .scratch c b o) :
    checkPtr core st v off n n = if c ≠ core then .error (.scratchForeign, ptrAdd v off)
      else if b = 2 then .error (.enginePort, ptrAdd v off) else if o % n = 0 then .ok (.scratch b o) else .error (.align, ptrAdd v off) := by
  obtain ⟨-, -, -, -, -, -, -, ho⟩ := ptrOf_eq_scratch.mp hp
  have hin : pastBound (scratchSize b) o n n = false := by rw [pastBound_aligned]; exact decide_eq_false (by omega)
  simp only [checkPtr, h, hp, hin, Bool.false_eq_true, if_false, ite_not, false_and, or_false]

theorem checkPtr_priv_own {o : Nat} (hp : ptrOf (ptrAdd v off) = .priv core st.place.owner o) :
    checkPtr core st v off n n = if st.place.winkb * 1024 ≤ o then .error (.windowInvalid, ptrAdd v off)
      else if o % n = 0 then .ok (.priv o) else .error (.align, ptrAdd v off) := by
  simp only [checkPtr, h, hp, Bool.false_eq_true, if_false, pastBound_aligned, decide_eq_true_eq, true_and, not_true, and_self, ite_not]

theorem checkPtr_priv_foreign {c w o : Nat} (hp : ptrOf (ptrAdd v off) = .priv c w o) (hne : c ≠ core ∨ w ≠ st.place.owner) :
    checkPtr core st v off n n = .error (.privateForeign, ptrAdd v off) := by
  have hown : ¬ (c = core ∧ w = st.place.owner) := by tauto
  simp only [checkPtr, h, hp, Bool.false_eq_true, if_false, hown, false_and, not_false_eq_true, if_true]

end
end Sys2Proof.Machine
end

section
/-! SUPPORT. Pointers (07 R141, R142). -/

namespace Sys2Proof.Proofs
open Sys2Proof.Machine

/-- Settles O9: each layout pins every bit of the pointer (`ptrOf_global_layout` and its like), and the checks of R142 follow the layout. -/
theorem pointerLayoutsAndChecks : Obligations.PointerLayoutsAndChecks := by
  refine ⟨fun v => ⟨ptrOf_global_layout, ptrOf_cluster_layout, ptrOf_scratch_layout, ptrOf_priv_layout, by decide⟩, fun core st v off n _ => ?_⟩
  refine ⟨checkPtr_of_sum_bad core st v off n, fun h => ⟨checkPtr_bad core st v off n h, fun va => checkPtr_global core st v off n h,
    fun k o => checkPtr_cluster core st v off n h, fun c b o => checkPtr_scratch core st v off n h, fun o => checkPtr_priv_own core st v off n h,
    fun c w o => checkPtr_priv_foreign core st v off n h⟩⟩

end Sys2Proof.Proofs
end

section
/-! SUPPORT. CHK, SPTEST and SPCAST (07 R147 to R149). -/

namespace Sys2Proof.Machine

section
variable {core : Nat} {st : Strand} {v : Word}

/-- What the space code of a pointer says (07 R148). -/
theorem spaceCode_eq_seven : spaceCode core st v = 7 ↔ ptrOf v = .bad ∨ ∃ o, ptrOf v = .priv core st.place.owner o ∧ st.place.winkb * 1024 ≤ o := by
  unfold spaceCode
  cases ptrOf v <;> grind

theorem spaceCode_eq_zero : spaceCode core st v = 0 ↔ ∃ a, ptrOf v = .global a := by
  unfold spaceCode
  cases ptrOf v <;> grind

theorem spaceCode_eq_one : spaceCode core st v = 1 ↔ ∃ k o, ptrOf v = .cluster k o := by
  unfold spaceCode
  cases ptrOf v <;> grind

theorem spaceCode_eq_two : spaceCode core st v = 2 ↔ ∃ b o, ptrOf v = .scratch core b o := by
  unfold spaceCode
  cases ptrOf v <;> simp <;> grind

theorem spaceCode_eq_three : spaceCode core st v = 3 ↔ ∃ c b o, ptrOf v = .scratch c b o ∧ c ≠ core := by
  unfold spaceCode
  cases ptrOf v <;> grind

theorem spaceCode_eq_four : spaceCode core st v = 4 ↔ ∃ o, ptrOf v = .priv core st.place.owner o ∧ o < st.place.winkb * 1024 := by
  unfold spaceCode
  cases ptrOf v <;> simp <;> grind

/-- A pointer already in the window is cast to itself. -/
theorem spCast_same {w : Win} (h : spaceCode core st v ≠ 7 ∧ bitsOf v 56 8 = winCode w) : spCast core st v w = (v, true) := if_pos h

/-- The own ABUF is seen through the cluster-shared window. -/
theorem spCast_own_abuf {o : Nat} (h : ptrOf v = .scratch core 1 o) :
    spCast core st v .cluster = (BitVec.ofNat 64 (0xC0 * 2 ^ 56 + inCluster core * 2 ^ 20 + o), true) := by
  have hcode : spaceCode core st v = 2 := spaceCode_eq_two.mpr ⟨1, o, h⟩
  have hwin := (ptrOf_eq_scratch.mp h).1
  simp [spCast, hcode, h, hwin, winCode]

/-- The own core's cluster-shared pointer is seen through the scratchpad window. -/
theorem spCast_own_cluster {o : Nat} (h : ptrOf v = .cluster (inCluster core) o) :
    spCast core st v .scratch = (BitVec.ofNat 64 (0xD0 * 2 ^ 56 + core * 2 ^ 32 + 2 ^ 20 + o), true) := by
  have hcode : spaceCode core st v = 1 := spaceCode_eq_one.mpr ⟨_, o, h⟩
  have hwin := (ptrOf_eq_cluster.mp h).1
  simp [spCast, hcode, h, hwin, winCode]

/-- Any other cast gives the null pointer. -/
theorem spCast_null {w : Win} (h : spaceCode core st v = 7 ∨ bitsOf v 56 8 ≠ winCode w) (hs : ¬ ∃ o, ptrOf v = .scratch core 1 o ∧ w = .cluster)
    (hc : ¬ ∃ o, ptrOf v = .cluster (inCluster core) o ∧ w = .scratch) : spCast core st v w = (0xFF00000000000000, false) := by
  have hne : ¬ (spaceCode core st v ≠ 7 ∧ bitsOf v 56 8 = winCode w) := by tauto
  simp only [spCast, if_neg hne]
  split
  · next c o hcode hp =>
    obtain ⟨b, o', hp'⟩ := spaceCode_eq_two.mp hcode
    obtain ⟨rfl, -⟩ : c = core ∧ 1 = b := by rw [hp] at hp'; cases hp'; exact ⟨rfl, rfl⟩
    exact absurd ⟨o, hp, rfl⟩ hs
  · next k o _ hp =>
    split
    · next hk => exact absurd ⟨o, hk ▸ hp, rfl⟩ hc
    · rfl
  · rfl

/-- The window byte of a pointer, as a field of its word. -/
theorem window_eq_winCode (w : Win) : v.extractLsb' 56 8 = Sys2Proof.winCode w ↔ bitsOf v 56 8 = winCode w := by
  have hw : (Sys2Proof.winCode w).toNat = winCode w := by cases w <;> rfl
  rw [← BitVec.toNat_inj, BitVec.extractLsb'_toNat, Nat.shiftRight_eq_div_pow, hw, bitsOf]

end
end Sys2Proof.Machine
end

section
/-! SUPPORT. Pointer words (07 R147 to R149). -/

namespace Sys2Proof.Proofs
open Sys2Proof.Machine

/-- Settles O12: each word ends by its effect, the space code follows the layout (`spaceCode_eq_two` and its like), and SPCAST keeps, moves or
refuses the pointer (`spCast_same`, `spCast_own_abuf`, `spCast_own_cluster`, `spCast_null`). -/
theorem pointerWords : Obligations.PointerWords := by
  intro s h st xd xa sp win p rd v core code casts
  have hcast {w : Word} {b : Bool} (hc : spCast core st v win = (w, b)) : casts w b := by
    change execSpcast h xd xa win p s = _
    rw [execSpcast, issue_ends rd rfl rfl rfl rfl, rd.ctx_rx, rd.ctx_px, rd.ctx_q]
    change s.ends h (memInfo 0x25) st ((s.ctx st).done (st.later .ct 1
      [.x .ct (st.regNo .ct xd) (spCast core st v win).1 none (st.px .ct xa), .pred .ct p.toNat (spCast core st v win).2])) = _
    rw [hc]
    rfl
  refine ⟨fun hx => ?_, fun hx => ?_, fun ho hx => ?_, fun ho hx => ?_, ?_, spaceCode_eq_seven, spaceCode_eq_zero, spaceCode_eq_one, spaceCode_eq_two,
    spaceCode_eq_three, spaceCode_eq_four, fun hne hw => hcast (spCast_same ⟨hne, (window_eq_winCode win).mp hw⟩), fun o ho hw => ?_, fun o ho hw => ?_,
    fun hor hs hc => hcast (spCast_null (hor.imp_right (mt (window_eq_winCode win).mpr)) hs hc)⟩
  · change execChk h xa s = _
    rw [execChk, issue_ends rd rfl rfl rfl rfl, rd.ctx_px, hx]
    rfl
  · change execChk h xa s = _
    rw [execChk, issue_ends rd rfl rfl rfl rfl, rd.ctx_px, hx]
    rfl
  · change execChkG h sp s = _
    rw [execChkG, issue_ends rd rfl rfl rfl ho, State.ctx_st, hx]
    rfl
  · change execChkG h sp s = _
    rw [execChkG, issue_ends rd rfl rfl rfl ho, State.ctx_st, hx]
    rfl
  · change execSptest h xd xa s = _
    rw [execSptest, issue_ends rd rfl rfl rfl rfl, rd.ctx_px, rd.ctx_rx]
    exact (State.ends_writeX ..).trans (by rw [rd.seq]; rfl)
  · subst hw
    exact hcast (spCast_own_abuf ho)
  · subst hw
    exact hcast (spCast_own_cluster ho)

end Sys2Proof.Proofs
end

section
/-! SUPPORT. Scalar loads, stores and atomics by where their pointer leads (07 R143 to R151). -/

namespace Sys2Proof.Machine

section
variable {s : State} {h : Head} {st : Strand}

/-- A started access, whose tagged promise the register takes at τ+1 (07 R143). -/
def Ctx.promises (x : Ctx) (a : Access) (home : Nat) (ents : List TlbEntry) (hc : Nat) (fa : Word) (r : Reg) : Effect :=
  let t := startAccess x a home ents hc true fa
  .go { chip := t.1.setStrand x.core x.slot (x.st.laterX x.q 1 r (BitVec.ofNat 64 t.2.2) (some t.2.1)), writes := [] } .next .none

theorem ends_promises {i : Info} {q : SeqId} (rd : Ready s h q st) (a : Access) (home : Nat) (ents : List TlbEntry) (hc : Nat) (fa : Word) (r : Reg) :
    s.ends h i st ((s.ctx st).promises a home ents hc fa r) = .next (s.issuedOn h i.opc i.cls (startAccess (s.ctx st) a home ents hc true fa).1
      (st.laterX q 1 r (BitVec.ofNat 64 (startAccess (s.ctx st) a home ents hc true fa).2.2) (some (startAccess (s.ctx st) a home ents hc true fa).2.1))) := by
  obtain rfl := rd.seq
  rfl

/-- The effect of LDX and LDX.S once their pointer is good to read, by where it leads. -/
def Ctx.loadFrom (x : Ctx) (spec : Bool) (size : LdSize) (xd xb : Reg) (fa : Word) : Reach → Effect
  | .fault c f tv =>
    if spec then
      .go { chip := dropWalks (x.chip.setStrand x.core x.slot ((x.st.later x.q 1 [.xKeep x.q (x.st.regNo x.q xd)]).laterX x.q 1 xb
        (BitVec.ofNat 64 (x.tau + 1)))) x.core x.slot, writes := [] } .next .none
    else .fault c f tv
  | .miss p wr => missStall x p wr
  | .priv a =>
    if x.chip.sramBadAt (windowBase x.core x.st + a) (ldBytes size).1 then
      x.done ((consumeNow x.st x.q .sramUncorrected fa).laterX x.q 1 xb (BitVec.ofNat 64 (x.tau + 3)))
    else fixedLoad x x.st 3 xd xb (loaded (ldBytes size).1 (ldBytes size).2 (x.mem.readBytes (windowBase x.core x.st + a) (ldBytes size).1))
      (x.st.poisonedRange a (ldBytes size).1)
  | .scratch b a =>
    match x.chip.errorAt (scratchAddr x.core b a) (ldBytes size).1 with
    | some c => x.done ((consumeNow x.st x.q c fa).laterX x.q 1 xb (BitVec.ofNat 64 (x.tau + 6)))
    | none => fixedLoad x x.st 6 xd xb (loaded (ldBytes size).1 (ldBytes size).2 (x.mem.readBytes (scratchAddr x.core b a) (ldBytes size).1)) false
  | .chip c a => x.promises (.load (ldBytes size).1 (ldBytes size).2 (x.st.regNo x.q xd)) (abufAddr c + a) [] c fa xb
  | .global home ents => x.promises (.load (ldBytes size).1 (ldBytes size).2 (x.st.regNo x.q xd)) home ents x.core fa xb

theorem loadWord_ready {opc : BitVec 8} {ok spec : Bool} {size : LdSize} {xd xa xb : Reg} {off : BitVec 48} (rd : Ready s h .ct st) (hok : ok = true) :
    loadWord s h opc ok spec size xd xa xb off =
      if st.px .ct xa then .next (s.trapped st .poisonConsumed (ptrAdd (st.rx .ct xa) off.toInt) 0)
      else s.ends h (memInfo opc ok) st ((s.ctx st).loadFrom spec size xd xb (ptrAdd (st.rx .ct xa) off.toInt)
        (reach (s.ctx st) (st.rx .ct xa) off.toInt (ldBytes size).1 (ldBytes size).1 true false)) := by
  rw [loadWord, issue_ends rd rfl rfl hok rfl, rd.ctx_rx, rd.ctx_px]
  simp only [↓State.ends_ite, State.ends_fault]
  refine if_congr Iff.rfl rfl ?_
  generalize hr : reach (s.ctx st) (st.rx .ct xa) off.toInt (ldBytes size).1 (ldBytes size).1 true false = r
  cases r <;> rfl

theorem consumeNow_tau (q : SeqId) (c : Cause) (fa : Word) : (consumeNow st q c fa).run.tau = st.run.tau := by
  unfold consumeNow
  split
  · rfl
  · split <;> rfl

section
variable {x : Ctx} {spec : Bool} {size : LdSize} {xd xb : Reg} {fa : Word} {b a : Nat}

theorem loadFrom_scratch_error {c : Cause} (he : x.chip.errorAt (scratchAddr x.core b a) (ldBytes size).1 = some c) :
    x.loadFrom spec size xd xb fa (.scratch b a) = x.done ((consumeNow x.st x.q c fa).laterX x.q 1 xb (BitVec.ofNat 64 (x.tau + 6))) := by
  simp only [Ctx.loadFrom, he]

theorem loadFrom_scratch (he : x.chip.errorAt (scratchAddr x.core b a) (ldBytes size).1 = none) :
    x.loadFrom spec size xd xb fa (.scratch b a) =
      fixedLoad x x.st 6 xd xb (loaded (ldBytes size).1 (ldBytes size).2 (x.mem.readBytes (scratchAddr x.core b a) (ldBytes size).1)) false := by
  simp only [Ctx.loadFrom, he]

end

section
variable {i : Info} (rd : Ready s h .ct st) (n : Nat) (xd xb : Reg) (c : Cause) (fa : Word)
include rd

theorem ends_fixedLoad (v : Word) (poison : Bool) : s.ends h i st (fixedLoad (s.ctx st) st n xd xb v poison) =
    .next (s.issuedWith h i.opc i.cls ((st.laterX .ct n xd v none poison).laterX .ct 1 xb (BitVec.ofNat 64 (st.run.tau + n)))) := by
  rw [fixedLoad, rd.ctx_q]; rfl

theorem ends_consumes : s.ends h i st ((s.ctx st).done ((consumeNow st (s.ctx st).q c fa).laterX (s.ctx st).q 1 xb
      (BitVec.ofNat 64 ((s.ctx st).tau + n)))) =
    .next (s.issuedWith h i.opc i.cls ((consumeNow st .ct c fa).laterX .ct 1 xb (BitVec.ofNat 64 ((consumeNow st .ct c fa).run.tau + n)))) := by
  rw [rd.ctx_q, consumeNow_tau]; rfl

theorem ends_loads (size : LdSize) (home : Nat) (ents : List TlbEntry) (hc : Nat) :
    s.ends h i st ((s.ctx st).promises (.load n (ldBytes size).2 (st.regNo (s.ctx st).q xd)) home ents hc fa xb) =
      let a := startAccess (s.ctx st) (.load n (ldBytes size).2 (st.regNo .ct xd)) home ents hc true fa
      .next (s.issuedOn h i.opc i.cls a.1 (st.laterX .ct 1 xb (BitVec.ofNat 64 a.2.2) (some a.2.1))) := by
  rw [rd.ctx_q, ends_promises rd]

/-- LDX.S poisons its destination in place of a fault (07 R145). -/
theorem ends_defers (size : LdSize) (tv : Word) (f : Word) :
    s.ends h i st ((s.ctx st).loadFrom true size xd xb f (.fault c fa tv)) = .next (s.keep (s.retired h i.opc i.cls
      (dropWalks (s.withStrand ((st.later .ct 1 [.xKeep .ct (st.regNo .ct xd)]).laterX .ct 1 xb (BitVec.ofNat 64 (st.run.tau + 1))))
        s.chip.cur.core s.chip.cur.slot) .next .none)) := by
  rw [Ctx.loadFrom, if_pos rfl, rd.ctx_q]; rfl

end

end
end Sys2Proof.Machine
end
section
/-! SUPPORT. Scalar memory words (07 R143 to R151). -/

namespace Sys2Proof.Proofs
open Sys2Proof.Machine

/-- Settles O10: past the poison of its pointer a load ends by where its pointer leads (`loadWord_ready`). -/
theorem scalarLoads : Obligations.ScalarLoads := by
  intro s h st size xd xa xb off spec rd hwf x core i opc v n ext pr dest asks
  have hend : exec i s = if st.px .ct xa then .next (s.trapped st .poisonConsumed (ptrAdd v off.toInt) 0)
      else s.ends h (memInfo opc true) st (x.loadFrom spec size xd xb (ptrAdd v off.toInt) dest) := by
    have hok : Instr.wf (.ldx h size xd xa xb off) = true := hwf
    cases spec
    · exact (loadWord_ready rd hok).trans (by rw [hok]; rfl)
    · exact (loadWord_ready (ok := Instr.wf (.ldx h size xd xa xb off)) rd hok).trans (by rw [hok]; rfl)
  refine ⟨fun hx => by rw [hend, hx]; rfl, fun hx => ?_⟩
  have hto {r : Reach} (hr : dest = r) : exec i s = s.ends h (memInfo opc true) st (x.loadFrom spec size xd xb (ptrAdd v off.toInt) r) := by
    rw [hend, hx, hr]; rfl
  refine ⟨fun a hd hbad => ?_, fun b a c hd he => ?_, fun a hd hbad => ?_, fun b a hd he => ?_, fun c a hd => ?_, fun home ents hd => ?_,
    fun p w hd => hto hd, fun c fa tv hd hs => ?_, fun c fa tv hd hs => ?_⟩
  · exact (hto hd).trans ((congrArg (s.ends h (memInfo opc) st) (if_pos hbad)).trans (ends_consumes rd ..))
  · exact (hto hd).trans ((congrArg (s.ends h (memInfo opc) st) (loadFrom_scratch_error he)).trans (ends_consumes rd ..))
  · exact (hto hd).trans ((congrArg (s.ends h (memInfo opc) st) (if_neg (Bool.eq_false_iff.mp hbad))).trans (ends_fixedLoad rd ..))
  · exact (hto hd).trans ((congrArg (s.ends h (memInfo opc) st) (loadFrom_scratch he)).trans (ends_fixedLoad rd ..))
  · exact (hto hd).trans (ends_loads rd ..)
  · exact (hto hd).trans (ends_loads rd ..)
  · rw [hto hd, hs]; rfl
  · refine ⟨_, rfl, ?_⟩
    exact (hto hd).trans (by subst hs; exact ends_defers rd ..)

end Sys2Proof.Proofs
end
section
/-! SUPPORT. Scalar stores and atomics by where their pointer leads (07 R143, R146, R150, R151). -/

namespace Sys2Proof.Machine

section
variable {s : State} {h : Head} {st : Strand}

/-- A store's bytes, and its promise register, at τ+1. -/
def Ctx.storesHere (x : Ctx) (l : Land) (xd : Reg) : Effect :=
  x.done (x.st.later x.q 1 [l, .x x.q (x.st.regNo x.q xd) (BitVec.ofNat 64 (x.tau + 1)) none false])

/-- The effect of STX once its operands are good, by where its pointer leads. -/
def Ctx.storeTo (x : Ctx) (xd : Reg) (data : List Byte) (fa : Word) : Reach → Effect
  | .fault c f tv => .fault c f tv
  | .miss p wr => missStall x p wr
  | .priv a => x.storesHere (.reg a data) xd
  | .scratch b a => x.storesHere (.bytes (scratchAddr x.core b a) data) xd
  | .chip c a => x.promises (.store data) (abufAddr c + a) [] c fa xd
  | .global home ents => x.promises (.store data) home ents x.core fa xd

theorem execStx_ready {size : StSize} {xd xa xb : Reg} {off : BitVec 48} (rd : Ready s h .ct st) :
    execStx h size xd xa xb off s =
      if st.px .ct xa then .next (s.trapped st .poisonConsumed (ptrAdd (st.rx .ct xa) off.toInt) 0)
      else if st.px .ct xb then .next (s.trapped st .poisonStore (ptrAdd (st.rx .ct xa) off.toInt) 0)
      else s.ends h (memInfo 0x21) st ((s.ctx st).storeTo xd (leBytes (stBytes size) (st.rx .ct xb).toNat) (ptrAdd (st.rx .ct xa) off.toInt)
        (reach (s.ctx st) (st.rx .ct xa) off.toInt (stBytes size) (stBytes size) false true)) := by
  rw [execStx, issue_ends rd rfl rfl rfl rfl, rd.ctx_rx, rd.ctx_rx, rd.ctx_px, rd.ctx_px]
  simp only [↓State.ends_ite, State.ends_fault]
  refine if_congr Iff.rfl rfl (if_congr Iff.rfl rfl ?_)
  generalize hr : reach (s.ctx st) (st.rx .ct xa) off.toInt (stBytes size) (stBytes size) false true = r
  cases r <;> rfl

theorem ends_storesHere {i : Info} (rd : Ready s h .ct st) (l : Land) (xd : Reg) :
    s.ends h i st ((s.ctx st).storesHere l xd) =
      .next (s.issuedWith h i.opc i.cls (st.later .ct 1 [l, .x .ct (st.regNo .ct xd) (BitVec.ofNat 64 (st.run.tau + 1)) none false])) := by
  rw [Ctx.storesHere, rd.ctx_q]; rfl

/-- The effect of AMO and CAS at a pointer that an atomic may use, by where it leads. -/
def Ctx.atomicAt (x : Ctx) (acc : Access) (xp : Reg) (v : Word) : Reach → Effect
  | .fault c f tv => .fault c f tv
  | .miss p wr => missStall x p wr
  | .chip c a => x.promises acc (abufAddr c + a) [] c v xp
  | .global home ents => x.promises acc home ents x.core v xp
  | _ => .fault .windowInvalid v 0

/-- The effect of AMO and CAS once their operands are good. -/
def Ctx.atomicTo (x : Ctx) (n : Nat) (acc : Access) (xp : Reg) (v : Word) : Effect :=
  match ptrOf v with
  | .scratch _ _ _ | .priv _ _ _ | .bad => .fault .windowInvalid v 0
  | _ => x.atomicAt acc xp v (reach x v 0 n n true true)

theorem atomicWord_ready {opc : BitVec 8} {ok : Bool} {size : AmoSize} {xa xp : Reg} {poisons : List Reg} {acc : Ctx → Access}
    (rd : Ready s h .ct st) (hok : ok = true) :
    atomicWord s h opc ok size xa xp poisons acc =
      if st.px .ct xa then .next (s.trapped st .poisonConsumed (st.rx .ct xa) 0)
      else if poisons.any (s.ctx st).px then .next (s.trapped st .poisonStore (st.rx .ct xa) 0)
      else s.ends h (memInfo opc true) st ((s.ctx st).atomicTo (amoBytes size) (acc (s.ctx st)) xp (st.rx .ct xa)) := by
  subst hok
  rw [atomicWord, issue_ends rd rfl rfl rfl rfl, rd.ctx_rx, rd.ctx_px]
  simp only [↓State.ends_ite, State.ends_fault]
  refine if_congr Iff.rfl rfl (if_congr Iff.rfl rfl ?_)
  unfold Ctx.atomicTo
  generalize hr : reach (s.ctx st) (st.rx .ct xa) 0 (amoBytes size) (amoBytes size) true true = r
  cases ptrOf (st.rx .ct xa) <;> cases r <;> rfl

theorem execAmo_ready {op : AmoOp} {size : AmoSize} {xd xa xb xp : Reg} (rd : Ready s h .ct st) (hok : (Instr.amo h op size xd xa xb xp).wf = true) :
    execAmo h op size xd xa xb xp s =
      if st.px .ct xa then .next (s.trapped st .poisonConsumed (st.rx .ct xa) 0)
      else if st.px .ct xb then .next (s.trapped st .poisonStore (st.rx .ct xa) 0)
      else s.ends h (memInfo 0x26) st ((s.ctx st).atomicTo (amoBytes size) (.amo op (amoBytes size) (st.rx .ct xb) (st.regNo .ct xd)) xp (st.rx .ct xa)) := by
  rw [execAmo, atomicWord_ready rd hok, rd.ctx_rx, rd.ctx_q]
  simp only [List.any_cons, List.any_nil, Bool.or_false, rd.ctx_px]
  rfl

theorem execCas_ready {size : AmoSize} {xd xa xb xp : Reg} (rd : Ready s h .ct st) (hok : (Instr.cas h size xd xa xb xp).wf = true) :
    execCas h size xd xa xb xp s =
      if st.px .ct xa then .next (s.trapped st .poisonConsumed (st.rx .ct xa) 0)
      else if st.px .ct xb || st.px .ct xd then .next (s.trapped st .poisonStore (st.rx .ct xa) 0)
      else s.ends h (memInfo 0x27) st ((s.ctx st).atomicTo (amoBytes size)
         (.cas (amoBytes size) (st.rx .ct xd) (st.rx .ct xb) (st.regNo .ct xd)) xp (st.rx .ct xa)) := by
  rw [execCas, atomicWord_ready rd hok, rd.ctx_rx, rd.ctx_rx, rd.ctx_q]
  simp only [List.any_cons, List.any_nil, Bool.or_false, rd.ctx_px]
  rfl

/-- A pointer of another window is refused. -/
theorem atomicTo_refused {x : Ctx} {n : Nat} {acc : Access} {xp : Reg} {v : Word} (hg : ∀ a, ptrOf v ≠ .global a) (hc : ∀ k o, ptrOf v ≠ .cluster k o) :
    x.atomicTo n acc xp v = .fault .windowInvalid v 0 := by
  unfold Ctx.atomicTo
  cases hp : ptrOf v with
  | global a => exact absurd hp (hg a)
  | cluster k o => exact absurd hp (hc k o)
  | _ => rfl

theorem atomicTo_reached {x : Ctx} {n : Nat} {acc : Access} {xp : Reg} {v : Word} (h : (∃ a, ptrOf v = .global a) ∨ ∃ k o, ptrOf v = .cluster k o) :
    x.atomicTo n acc xp v = x.atomicAt acc xp v (reach x v 0 n n true true) := by
  unfold Ctx.atomicTo
  rcases h with ⟨a, hp⟩ | ⟨k, o, hp⟩ <;> rw [hp]

end

/-- A value of w bits as a signed number. -/
theorem toSigned_of_lt {w n : Nat} (hw : w ≠ 0) (hn : n < 2 ^ w) : toSigned w n = if n < 2 ^ (w - 1) then (n : Int) else (n : Int) - 2 ^ w := by
  simp only [toSigned, Nat.mod_eq_of_lt hn, if_neg hw]

end Sys2Proof.Machine
end

section
/-! SUPPORT. Scalar stores and atomics (07 R143, R146, R150, R151). -/

namespace Sys2Proof.Proofs
open Sys2Proof.Machine

/-- Settles O11: past the poison of its operands a store ends by where its pointer leads (`execStx_ready`). -/
theorem scalarStores : Obligations.ScalarStores := by
  intro s h st size xd xa xb off rd x core i v n data xdLand dest asks
  have hend : exec i s = _ := execStx_ready rd
  refine ⟨fun ha => by rw [hend, ha]; rfl, fun ha hb => by rw [hend, ha, hb]; rfl, fun ha hb => ?_⟩
  have hto {r : Reach} (hr : dest = r) : exec i s = s.ends h (memInfo 0x21) st (x.storeTo xd data (ptrAdd v off.toInt) r) := by
    rw [hend, ha, hb, ← hr]; rfl
  exact ⟨fun a hd => (hto hd).trans (ends_storesHere rd ..), fun b a hd => (hto hd).trans (ends_storesHere rd ..),
    fun c a hd => (hto hd).trans (ends_promises rd ..), fun home ents hd => (hto hd).trans (ends_promises rd ..), fun p w hd => hto hd,
    fun c fa tv hd => hto hd⟩

/-- Settles O13: past the poison of its operands an atomic goes to the home of a cluster-shared or global pointer alone (`atomicWord_ready`);
its value is that of its operation on n bytes. -/
theorem atomics : Obligations.Atomics := by
  constructor
  · intro s h st op size xd xa xb xp cas rd i opc acc x v n dest asks hwf
    have hend : exec i s = if st.px .ct xa then .next (s.trapped st .poisonConsumed v 0)
        else if (st.px .ct xb || (cas && st.px .ct xd)) = true then .next (s.trapped st .poisonStore v 0)
        else s.ends h (memInfo opc) st (x.atomicTo n acc xp v) := by
      cases cas
      · rw [Bool.false_and, Bool.or_false]
        exact execAmo_ready rd hwf
      · exact execCas_ready rd hwf
    refine ⟨fun ha => by rw [hend, ha]; rfl, fun ha hb => by rw [hend, ha, hb]; rfl, fun ha hb => ?_⟩
    have hto : exec i s = s.ends h (memInfo opc) st (x.atomicTo n acc xp v) := by
      rw [hend, ha, hb]; rfl
    refine ⟨fun hg hc => by rw [hto, atomicTo_refused hg hc]; rfl, fun hp => ?_⟩
    have hgo {r : Reach} (hr : dest = r) : exec i s = s.ends h (memInfo opc) st (x.atomicAt acc xp v r) := by
      rw [hto, atomicTo_reached hp, ← hr]
    exact ⟨fun c a hd => (hgo hd).trans (ends_promises rd ..), fun home ents hd => (hgo hd).trans (ends_promises rd ..), fun p w hd => hgo hd,
      fun c fa tv hd => hgo hd⟩
  · intro n old v e xd hn hold b sgn leaves
    have hb : b < 2 ^ (8 * n) := Nat.mod_lt _ (Nat.two_pow_pos _)
    have hsgn {k : Nat} (hk : k < 2 ^ (8 * n)) : toSigned (8 * n) k = sgn k := toSigned_of_lt (by omega) hk
    refine ⟨rfl, ?_, ?_, rfl, rfl, rfl, rfl, rfl, rfl, rfl⟩
    · rw [← hsgn hold, ← hsgn hb]; rfl
    · rw [← hsgn hold, ← hsgn hb]; rfl

end Sys2Proof.Proofs
end

section
/-! SUPPORT. What a CSR write leaves in its register (07 R170; 05 R91). -/

namespace Sys2Proof.Machine

/-- A register of w bits keeps the low bits of a word. -/
theorem setWidth_back (v : Word) {w : Nat} (h : w ≤ 64) : (v.setWidth w).setWidth 64 = v &&& BitVec.ofNat 64 (2 ^ w - 1) := by
  have hw : 2 ^ w ≤ 2 ^ 64 := Nat.pow_le_pow_right (by omega) h
  have hpos := Nat.two_pow_pos w
  apply BitVec.eq_of_toNat_eq
  rw [BitVec.toNat_and, BitVec.toNat_ofNat, Nat.mod_eq_of_lt (a := 2 ^ w - 1) (by omega), Nat.and_two_pow_sub_one_eq_mod, BitVec.toNat_setWidth,
    BitVec.toNat_setWidth, Nat.mod_eq_of_lt (a := v.toNat % 2 ^ w) ((Nat.mod_lt _ hpos).trans_le hw)]

section
variable (ch : Chip) (c sl : Nat) (st : Strand) (v : Word)

/-- A CSR register reads after a write what it keeps of the value. -/
def CsrKeeps (n : Nat) (r : Word) : Prop := csrRead ch c sl (csrWrite st n v) n = r

theorem csrKeeps_flags : CsrKeeps ch c sl st v 0x001 (v &&& 0x3F) ∧ CsrKeeps ch c sl st v 0x003 (v &&& 0x3F) :=
  ⟨setWidth_back v (w := 6) (by omega), setWidth_back v (w := 6) (by omega)⟩

theorem csrKeeps_place : CsrKeeps ch c sl st v 0x010 (v &&& 0x3FFF) ∧ CsrKeeps ch c sl st v 0x011 (v &&& 0x3FFF) ∧
    CsrKeeps ch c sl st v 0x012 (v &&& 0x3FFF) ∧ CsrKeeps ch c sl st v 0x013 (v &&& 0x3FFF) ∧ CsrKeeps ch c sl st v 0x014 (v &&& 0x3FFF) := by
  have h := setWidth_back v (w := 14) (by omega)
  exact ⟨h, h, h, h, h⟩

theorem csrKeeps_frm (h : (v.extractLsb' 0 3).toNat ≤ 4) : CsrKeeps ch c sl st v 0x002 (v &&& 7) := by
  unfold CsrKeeps
  simp only [csrWrite, if_pos h, csrRead]
  exact setWidth_back v (w := 3) (by omega)

theorem csrKeeps_ttctl (h : v.extractLsb' 0 2 ≠ 3) : CsrKeeps ch c sl st v 0x040 (v &&& 0x3F) := by
  have h3 : ¬ v.extractLsb' 0 2 = 3#2 := h
  unfold CsrKeeps
  simp only [csrWrite, if_neg h3, csrRead]

theorem csrKeeps_tol (h : tolOk v = true) : CsrKeeps ch c sl st v 0x041 v ∧ CsrKeeps ch c sl st v 0x042 v ∧ CsrKeeps ch c sl st v 0x043 v := by
  unfold CsrKeeps
  simp only [csrWrite, h, if_true, csrRead, and_self]

/-- Registers that no CSR word writes. -/
theorem csrWrite_readOnly (n : Nat)
    (h : n ∈ [0x400, 0x401, 0x402, 0x403, 0x404, 0x410, 0x411, 0x412, 0x420, 0x421, 0x422, 0x430, 0x440, 0x441, 0x442, 0x443, 0x801]) :
    csrWrite st n v = st := by
  fin_cases h <;> rfl

end

section
variable {s : State} {h : Head} {st : Strand} {xd : Reg} {csr : BitVec 12} {f : Word → Word → Word} {ok : Bool}

/-- A CSR word of a number that the mode cannot reach is denied (07 R169). -/
theorem csrWord_denied (rd : Ready s h .ct st) (xa : Option Reg) (hr : csrReach csr st.place.sup = false) :
    csrWord s h ok xd xa csr f = .next (s.trapped st .priv (noAddr .priv) 0) :=
  issue_denied rd rfl (congrArg (!·) hr)

theorem csrWord_read (rd : Ready s h .ct st) (hr : csrReach csr st.place.sup = true) (hok : ok = true) :
    csrWord s h ok xd none csr f = .next (s.issuedWith h 0xD2 14
      (st.later .ct 1 [.x .ct (st.regNo .ct xd) (csrRead s.chip s.chip.cur.core s.chip.cur.slot st csr.toNat) none false])) := by
  rw [csrWord, issue_ends rd rfl (congrArg (!·) hr) hok rfl, rd.ctx_q]
  rfl

theorem csrWord_write (rd : Ready s h .ct st) (hr : csrReach csr st.place.sup = true) (hok : ok = true) (xa : Reg) :
    csrWord s h ok xd (some xa) csr f = if st.px .ct xa then .next (s.trapped st .poisonConsumed (noAddr .poisonConsumed) 0)
      else .next (s.issuedWith h 0xD2 14 (st.later .ct 1
        [.x .ct (st.regNo .ct xd) (csrRead s.chip s.chip.cur.core s.chip.cur.slot st csr.toNat) none false,
          .csr csr.toNat (f (csrRead s.chip s.chip.cur.core s.chip.cur.slot st csr.toNat) (st.rx .ct xa))])) := by
  rw [csrWord, issue_ends rd rfl (congrArg (!·) hr) hok rfl, rd.ctx_q]
  simp only [↓State.ends_ite, rd.ctx_px, rd.ctx_rx]
  rfl

end
end Sys2Proof.Machine
end

section
/-! SUPPORT. CSR words (07 R169, R170; 05 R91). -/

namespace Sys2Proof.Proofs
open Sys2Proof.Machine

/-- Settles O19: the four words are one operation (`csrWord_write`), and each register keeps the bits it has (`setWidth_back`). -/
theorem csrAccess : Obligations.CsrAccess := by
  constructor
  · intro s h st xd xa csr rd old v rdl writes
    have hwrite {i : Instr} {f : Word → Word → Word} (hi : exec i s = csrWord s h i.wf xd (some xa) csr f) : writes i (f old v) := fun hwf =>
      ⟨fun hr hx => by rw [hi, csrWord_write rd hr hwf, hx]; rfl, fun hr hx => by rw [hi, csrWord_write rd hr hwf, hx]; rfl,
        fun hr => by rw [hi, csrWord_denied rd _ hr]⟩
    exact ⟨fun hwf => ⟨fun hr => csrWord_read (f := fun o _ => o) rd hr hwf,
      fun hr => csrWord_denied (f := fun o _ => o) rd none hr⟩, hwrite (f := fun _ v => v) rfl,
      hwrite (f := fun o v => o ||| v) rfl, hwrite (f := fun o v => o &&& ~~~ v) rfl⟩
  · intro ch c sl st v reads
    obtain ⟨hff, htrap⟩ := csrKeeps_flags ch c sl st v
    obtain ⟨htvec, htepc, hld, hcp, hst⟩ := csrKeeps_place ch c sl st v
    refine ⟨hff, htrap, htvec, htepc, hld, hcp, hst, rfl, csrKeeps_frm ch c sl st v, fun h => if_neg (Nat.not_le.mpr h), csrKeeps_ttctl ch c sl st v,
      fun h => if_pos h, csrKeeps_tol ch c sl st v, fun h => ?_, rfl, csrWrite_readOnly st v⟩
    have hno : ¬ tolOk v = true := Bool.eq_false_iff.mp h
    exact ⟨if_neg hno, if_neg hno, if_neg hno⟩

end Sys2Proof.Proofs
end
section
/-! SUPPORT. System words, containment regions and configuration words (07 R158 to R174). -/

namespace Sys2Proof.Machine

section
variable {s : State} {h : Head} {st : Strand}

theorem execTrap_ready {n : BitVec 8} (rd : Ready s h .ct st) : execTrap h n s =
    if st.run.h then .next (s.issuedWith h 0xD0 14 { st with run := { st.run with htrap := some .swTrap } })
    else .next (s.issuedWith h 0xD0 14 { st with traps := st.traps ++ [st.mkTrap .ct .swTrap (noAddr .swTrap) (n.setWidth 64)] }) := by
  rw [execTrap, issue_ends rd rfl rfl rfl rfl, rd.ctx_q, State.ends_ite]
  rfl

/-- ERET outside a handler is denied, and in one waits for what it started (07 R172). -/
theorem execEret_denied (rd : Ready s h .ct st) (hh : st.run.h = false) : execEret h s = .next (s.trapped st .priv (noAddr .priv) 0) :=
  issue_denied rd rfl (congrArg (!·) hh)

theorem execEret_ready (rd : Ready s h .ct st) (hh : st.run.h = true) : execEret h s =
    if (s.chip.worksOf s.chip.cur.core s.chip.cur.slot).any (fun e => e.2.inH && !e.2.seenDone s.chip.gts) then .next (s.blockedAt none .none s.chip)
    else .next (s.issuedAs h 0xD1 14 (leaveHandler s.mem s.chip s.chip.cur.core s.chip.cur.slot st) .eret .none) := by
  rw [execEret, issue_ends rd rfl (congrArg (!·) hh) rfl rfl, State.ends_ite]
  rfl

theorem execHalt_ready (rd : Ready s h .ct st) :
    execHalt h s = .next (s.issuedAs h 0xD3 14 (s.withStrand { st with run := { st.run with halted := true } }) .stop .none) := by
  rw [execHalt, issue_ends rd rfl rfl rfl rfl]
  rfl

/-- A strand that records the tiles to save and stalls from the next beat (07 R174). -/
def Strand.prepared (st : Strand) (mask : BitVec 32) (now : Nat) : Strand :=
  { st with run := { st.run with preptMask := some (mask &&& st.place.ctmask), stall := some { kind := .prept, bs := now + 1, cleared := none } } }

/-- Whether a pre-emption of an owner has its window open (08 R189). -/
def Owner.windowOpen (o : Owner) (now : Nat) : Bool :=
  match o.state, o.preempt with
  | .window, some p => decide (p.g ≤ now) && decide (now < p.windowEnd)
  | _, _ => false

theorem execPrept_ready {mask : BitVec 32} (rd : Ready s h .ct st) : execPrept h mask s =
    if st.run.h || !(s.chip.owner st.place.owner).windowOpen s.chip.gts then .next (s.issuedAs h 0xD4 14 s.chip .next .none)
    else .next (s.issuedWith h 0xD4 14 (st.prepared mask s.chip.gts)) := by
  rw [execPrept, issue_ends rd rfl rfl rfl rfl]
  exact State.ends_ite _ _

theorem windowOpen_of_between {o : Owner} {p : Preempt} {now : Nat} (hw : o.state = .window) (hp : o.preempt = some p) (hg : p.g ≤ now)
    (he : now < p.windowEnd) : o.windowOpen now = true := by
  simp [Owner.windowOpen, hw, hp, hg, he]

theorem windowOpen_of_state_ne {o : Owner} {now : Nat} (hw : o.state ≠ .window) : o.windowOpen now = false := by
  unfold Owner.windowOpen
  split
  · next hc _ => exact absurd hc hw
  · rfl

/-! ### Containment regions -/

theorem notInDelaySlot_ready (rd : Ready s h .ct st) : notInDelaySlot (s.ctx st) = if st.ct.inDelay then some .illRsvd else none := by
  rw [notInDelaySlot, rd.ctx_sq]
  rfl

theorem inDelay_iff {sq : Seq} : sq.inDelay = true ↔ sq.pending ≠ none ∨ sq.delay = true := by
  simp [Seq.inDelay, Option.isSome_iff_ne_none, or_comm]

/-- Region n may be opened: it is not open, and fewer than eight are. -/
def Strand.mayOpen (st : Strand) (n : Nat) : Prop := (∀ r, r ∈ st.regions → r.num ≠ n) ∧ st.regions.length < 8

theorem mayOpen_iff {n : Nat} : st.mayOpen n ↔ (st.regions.any (fun r => r.num == n) || decide (8 ≤ st.regions.length)) = false := by
  simp [Strand.mayOpen]

section
variable {n : BitVec 4} {off : BitVec 32} (rd : Ready s h .ct st)
include rd

/-- CROPEN and CRCLOSE may not stand in a delay slot (07 R167, R168). -/
theorem execCrclose_delay (hd : st.ct.inDelay = true) : execCrclose h n s = .next (s.trapped st .illRsvd (noAddr .illRsvd) 0) :=
  issue_pre rd rfl rfl rfl (by rw [notInDelaySlot_ready rd, hd]; rfl)

theorem execCrclose_refused (hi : st.innermost ≠ some n.toNat) : execCrclose h n s = .next (s.trapped st .illRsvd (noAddr .illRsvd) 0) := by
  refine issue_pre rd rfl rfl rfl ?_
  rw [notInDelaySlot_ready rd]
  cases hd : st.ct.inDelay
  · exact if_neg hi
  · rfl

theorem execCrclose_ready (hd : st.ct.inDelay = false) (hi : st.innermost = some n.toNat) : execCrclose h n s =
    if (s.chip.worksOf s.chip.cur.core s.chip.cur.slot).any (fun e => e.2.region == some n.toNat && !e.2.seenDone s.chip.gts) then
      .next (s.blockedAt none .none s.chip)
    else .next (s.issuedWith h 0xD7 14 (st.later .ct 1 [.closeRegion n.toNat])) := by
  rw [execCrclose, issue_ends rd rfl rfl rfl (by rw [notInDelaySlot_ready rd, hd]; exact if_pos hi), State.ends_ite, rd.ctx_q]
  rfl

variable (hwf : (Instr.cropen h n off).WF)
include hwf

theorem execCropen_delay (hd : st.ct.inDelay = true) : execCropen h n off s = .next (s.trapped st .illRsvd (noAddr .illRsvd) 0) :=
  issue_pre rd rfl rfl hwf (by rw [notInDelaySlot_ready rd, hd]; rfl)

theorem execCropen_refused (hf : ¬ st.mayOpen n.toNat) : execCropen h n off s = .next (s.trapped st .illRsvd (noAddr .illRsvd) 0) := by
  have hany : (st.regions.any (fun r => r.num == n.toNat) || decide (8 ≤ st.regions.length)) = true := by
    rw [mayOpen_iff, Bool.not_eq_false] at hf
    exact hf
  refine issue_pre rd rfl rfl hwf ?_
  rw [notInDelaySlot_ready rd]
  cases hd : st.ct.inDelay
  · exact if_pos hany
  · rfl

theorem execCropen_ready (hd : st.ct.inDelay = false) (hf : st.mayOpen n.toNat) : execCropen h n off s =
    if st.run.h then .next (s.issuedAs h 0xD6 14 s.chip .next .none)
    else if 0 ≤ st.ct.pc.toNat + off.toInt ∧ targetOk s.mem s.chip.cur.core st .ct (st.ct.pc.toNat + off.toInt).toNat = true then
      .next (s.issuedWith h 0xD6 14 (st.later .ct 1 [.openRegion n.toNat (BitVec.ofNat 14 (st.ct.pc.toNat + off.toInt).toNat)]))
    else .next (s.trapped st .windowInvalid (noAddr .windowInvalid) 0) := by
  have hpre : (if (st.regions.any (fun r => r.num == n.toNat) || decide (8 ≤ st.regions.length)) = true then some Cause.illRsvd else none) = none :=
    if_neg (Bool.eq_false_iff.mp (mayOpen_iff.mp hf))
  have hiff (t : Int) (b : Bool) : (t < 0 ∨ b = false) ↔ ¬ (0 ≤ t ∧ b = true) := by
    rw [not_and_or, Int.not_le, Bool.not_eq_true]
  rw [execCropen, issue_ends rd rfl rfl hwf (by rw [notInDelaySlot_ready rd, hd]; exact hpre), rd.ctx_q]
  simp only [↓State.ends_ite, relTarget, rd.ctx_sq, hiff, ite_not]
  rfl

end

/-! ### Configuration words -/

theorem cfgValue_ready (rd : Ready s h .ct st) (xa : Reg) (imm : Word) : cfgValue (s.ctx st) xa imm = if xa = 0#6 then imm else st.rx .ct xa := by
  rw [cfgValue, rd.ctx_rx]

/-- A configuration word refuses a value that its field does not list. -/
theorem ends_listed {i : Info} (listed : Bool) (e : Effect) : s.ends h i st (if (!listed) = true then trapNow .illRsvd else e) =
    if listed then s.ends h i st e else .next (s.trapped st .illRsvd (noAddr .illRsvd) 0) := by
  cases listed <;> rfl

theorem ends_config {i : Info} (rd : Ready s h .ct st) (listed : Bool) (l : Land) :
    s.ends h i st (if (!listed) = true then trapNow .illRsvd else (s.ctx st).done (st.later (s.ctx st).q 1 [l])) =
      if listed then .next (s.issuedWith h i.opc i.cls (st.later .ct 1 [l])) else .next (s.trapped st .illRsvd (noAddr .illRsvd) 0) := by
  rw [ends_listed, rd.ctx_q]
  rfl

/-- A nest word blocks under the limit while a shadow is pending (07 R161). -/
theorem ends_nest {i : Info} (rd : Ready s h .ct st) (pending : Bool) (l : Land) :
    s.ends h i st (if pending then .block (some .queueImbalance) .none s.chip else (s.ctx st).done (st.later (s.ctx st).q 1 [l])) =
      if pending then .next (s.blockedAt (some .queueImbalance) .none s.chip) else .next (s.issuedWith h i.opc i.cls (st.later .ct 1 [l])) := by
  rw [rd.ctx_q]
  cases pending <;> rfl

theorem execView_ready {xa : Reg} {sl : BitVec 4} {imm : Word} (rd : Ready s h .ct st) (hwf : (Instr.view h xa sl imm).WF) :
    execView h xa sl imm s = if viewListed (if xa = 0#6 then imm else st.rx .ct xa) then
        .next (s.issuedWith h 0xD8 14 (st.later .ct 1 [.view sl.toNat (if xa = 0#6 then imm else st.rx .ct xa)]))
      else .next (s.trapped st .illRsvd (noAddr .illRsvd) 0) := by
  rw [execView, issue_ends rd rfl rfl hwf rfl, cfgValue_ready rd]
  exact ends_config rd ..

theorem execScfg_ready {xa : Reg} {sl : BitVec 4} {fld : BitVec 6} {imm : Word} (rd : Ready s h .ct st) (hwf : (Instr.scfg h xa sl fld imm).WF) :
    execScfg h xa sl fld imm s = if streamValueListed fld.toNat (if xa = 0#6 then imm else st.rx .ct xa) then
        .next (s.issuedWith h 0xD9 14 (st.later .ct 1 [.stream sl.toNat fld.toNat (if xa = 0#6 then imm else st.rx .ct xa)]))
      else .next (s.trapped st .illRsvd (noAddr .illRsvd) 0) := by
  rw [execScfg, issue_ends rd rfl rfl hwf rfl, cfgValue_ready rd]
  exact ends_config rd ..

/-- What NEST.SET of a value lands. -/
def nestLand (sl : BitVec 4) (fld : BitVec 6) (v : Word) : Land :=
  if fld = 0 then .shadowCount sl.toNat v.toNat else .shadowStep sl.toNat (fld.toNat - 0x10) v.toInt

theorem execNestSet_ready {xa : Reg} {sl : BitVec 4} {fld : BitVec 6} {imm v : Word} (rd : Ready s h .ct st) (hwf : (Instr.nestSet h xa sl fld imm).WF)
    (hv : (if xa = 0#6 then imm else st.rx .ct xa) = v) :
    execNestSet h xa sl fld imm s = if nestValueListed fld.toNat v then
        if st.sh.nest.pendingShadow then .next (s.blockedAt (some .queueImbalance) .none s.chip)
        else .next (s.issuedWith h 0xDA 14 (st.later .ct 1 [nestLand sl fld v]))
      else .next (s.trapped st .illRsvd (noAddr .illRsvd) 0) := by
  rw [execNestSet, issue_ends rd rfl rfl hwf rfl, cfgValue_ready rd, hv]
  exact (ends_listed ..).trans (if_congr Iff.rfl (ends_nest rd _ (nestLand sl fld v)) rfl)

theorem execNestGo_ready (rd : Ready s h .ct st) : execNestGo h s =
    if st.sh.nest.pendingShadow then .next (s.blockedAt (some .queueImbalance) .none s.chip)
    else .next (s.issuedWith h 0xDB 14 (st.later .ct 1 [.nestGo])) := by
  rw [execNestGo, issue_ends rd rfl rfl rfl rfl]
  exact ends_nest rd ..

theorem execNestStat_ready {xd : Reg} (rd : Ready s h .ct st) :
    execNestStat h xd s = .next (s.issuedWith h 0xDC 14 (st.laterX .ct 1 xd (nestStatus st.sh.nest))) := by
  rw [execNestStat, issue_ends rd rfl rfl rfl rfl]
  exact (State.ends_writeX ..).trans (by rw [rd.seq]; rfl)

end
end Sys2Proof.Machine
end

section
/-! SUPPORT. System, region and configuration words (07 R158 to R174). -/

namespace Sys2Proof.Proofs
open Sys2Proof.Machine

/-- Settles O20: each word ends by its effect; a delay slot, an open region of the number and eight open ones refuse CROPEN (`mayOpen_iff`). -/
theorem systemAndRegionWords : Obligations.SystemAndRegionWords := by
  constructor
  · intro s h st n mask rd o busy
    refine ⟨fun hh => (execTrap_ready rd).trans (by rw [hh]; rfl), fun hh => (execTrap_ready rd).trans (by rw [hh]; rfl), execEret_denied rd,
      fun hh hb => (execEret_ready rd hh).trans (if_neg (Bool.eq_false_iff.mp hb)), fun hh hb => (execEret_ready rd hh).trans (if_pos hb), execHalt_ready rd,
      fun p hh hw hp hg he => (execPrept_ready rd).trans ?_, fun hw => (execPrept_ready rd).trans ?_⟩
    · rw [hh, windowOpen_of_between hw hp hg he]; rfl
    · rw [windowOpen_of_state_ne hw, Bool.not_false, Bool.or_true]; rfl
  · intro s h st n off rd hwf t may busy bad free
    refine ⟨fun hd => ⟨execCropen_delay rd hwf (inDelay_iff.mpr hd), execCrclose_delay rd (inDelay_iff.mpr hd)⟩, fun hp hd => ?_⟩
    have hno : st.ct.inDelay = false := Bool.eq_false_iff.mpr fun hc => (inDelay_iff.mp hc).elim (· hp) (by simp [hd])
    refine ⟨fun hf hh => (execCropen_ready rd hwf hno hf).trans (if_pos hh), execCropen_refused rd hwf,
      fun hf hh hm => ?_, fun hf hh hm => ?_, execCrclose_refused rd, fun hi => ⟨fun hb => ?_, fun hb => ?_⟩⟩
    · exact (execCropen_ready rd hwf hno hf).trans (by rw [hh]; exact if_pos hm)
    · exact (execCropen_ready rd hwf hno hf).trans (by rw [hh]; exact if_neg hm)
    · exact (execCrclose_ready rd hno hi).trans (if_neg (Bool.eq_false_iff.mp hb))
    · exact (execCrclose_ready rd hno hi).trans (if_pos hb)

/-- Settles O21: a configuration word is one test of its value (`ends_config`), a nest word one more of the pending shadow (`ends_nest`). -/
theorem configWords : Obligations.ConfigWords := by
  intro s h st xa xd sl fld imm rd v bad gives pend
  refine ⟨fun hwf => ⟨fun hv => (execView_ready rd hwf).trans (if_pos hv), fun hv => (execView_ready rd hwf).trans (if_neg (Bool.eq_false_iff.mp hv))⟩,
    fun hwf => ⟨fun hv => (execScfg_ready rd hwf).trans (if_pos hv), fun hv => (execScfg_ready rd hwf).trans (if_neg (Bool.eq_false_iff.mp hv))⟩,
    fun hwf => ⟨fun hv hp => ?_, fun hv hp => ?_, fun hv => (execNestSet_ready rd hwf rfl).trans (if_neg (Bool.eq_false_iff.mp hv))⟩,
    fun hp => (execNestGo_ready rd).trans (if_neg (Bool.eq_false_iff.mp hp)), fun hp => (execNestGo_ready rd).trans (if_pos hp), execNestStat_ready rd⟩
  · exact ((execNestSet_ready rd hwf rfl).trans (if_pos hv)).trans (if_neg (Bool.eq_false_iff.mp hp))
  · exact ((execNestSet_ready rd hwf rfl).trans (if_pos hv)).trans (if_pos hp)

end Sys2Proof.Proofs
end

section
/-! SUPPORT. Fences, monitors and transaction barriers (07 R152 to R157; 06 R110). -/

namespace Sys2Proof.Machine

/-- A sum of nothing leaves a pointer as it stands (07 R142). -/
theorem ptrAdd_zero (v : Word) : ptrAdd v 0 = v := by
  have hmod : ((v.toNat % 2 ^ offsetBits v : Nat) : Int) % (2 ^ offsetBits v : Int) = (v.toNat % 2 ^ offsetBits v : Nat) := by
    exact_mod_cast Nat.mod_mod _ _
  simp only [ptrAdd, Int.add_zero, wrapBits, hmod, Int.toNat_natCast, Nat.div_add_mod', BitVec.ofNat_toNat, BitVec.setWidth_eq]

theorem ptrAddBad_zero (v : Word) : ptrAddBad v 0 = false := by
  have hlt : ((v.toNat % 2 ^ offsetBits v : Nat) : Int) < (2 ^ offsetBits v : Int) := by
    exact_mod_cast Nat.mod_lt _ (Nat.two_pow_pos _)
  simp only [ptrAddBad, Int.add_zero, Bool.or_eq_false_iff, decide_eq_false_iff_not, Int.not_lt, Int.not_le]
  exact ⟨Int.natCast_nonneg _, hlt⟩

section
variable {s : State} {h : Head} {st : Strand}

/-! ### Fences -/

/-- What a fence at the head waits for, or else what it finds outstanding. -/
def HeadWait.fenceStart (w : HeadWait) (found : Nat × List Nat) : Nat × List Nat :=
  match w with | .fence t l => (t, l) | _ => found

theorem fenceStart_of_not_fence {w : HeadWait} {found : Nat × List Nat} (h : ∀ t l, w ≠ .fence t l) : w.fenceStart found = found := by
  unfold HeadWait.fenceStart
  split
  · next t l => exact absurd rfl (h t l)
  · rfl

theorem fenceBody_ready {sel : Work → Bool} {sc : Scope} {p : BitVec 7} {su : BitVec 6} {tau : Nat} {preds : List Nat} {q : SeqId} (rd : Ready s h q st)
    (hw : (st.seq q).wait = .fence tau preds ∨ (∀ t l, (st.seq q).wait ≠ .fence t l) ∧ tau = st.run.tau ∧ preds = predecessors (s.ctx st) sel sc) :
    fenceBody (s.ctx st) h sel sc p su = if preds.filter (fun w => !performedAt s.chip w sc) ≠ [] then
        .block none (.fence tau (preds.filter (fun w => !performedAt s.chip w sc))) s.chip
      else (s.ctx st).done (st.fenced q tau p su) := by
  have hstart : (s.ctx st).sq.wait.fenceStart ((s.ctx st).tau, predecessors (s.ctx st) sel sc) = (tau, preds) := by
    rw [rd.ctx_sq]
    rcases hw with hw | ⟨hw, rfl, rfl⟩
    · exact congrArg (HeadWait.fenceStart · _) hw
    · exact fenceStart_of_not_fence hw
  have hbody : fenceBody (s.ctx st) h sel sc p su =
      let b := (s.ctx st).sq.wait.fenceStart ((s.ctx st).tau, predecessors (s.ctx st) sel sc)
      let left := b.2.filter (fun w => !performedAt s.chip w sc)
      if left ≠ [] then .block none (.fence b.1 left) s.chip
      else if !st.sh.rings.ready (s.ctx st).q h then .block none (.fence b.1 []) s.chip
      else (s.ctx st).done (st.fenced (s.ctx st).q b.1 p su) := rfl
  rw [hbody, hstart, rd.ctx_q, rd.tokens]
  rfl

theorem execFence_ready {p su : BitVec 6} {scope : Scope} {tau : Nat} {preds : List Nat} (rd : Ready s h .ct st) (hwf : (Instr.fence h p su scope).WF)
    (hw : st.ct.wait = .fence tau preds ∨ (∀ t l, st.ct.wait ≠ .fence t l) ∧ tau = st.run.tau ∧
      preds = predecessors (s.ctx st) (fun k => k.letters.bits &&& p != 0#6) scope) :
    execFence h p su scope s = if preds.filter (fun w => !performedAt s.chip w scope) ≠ [] then
        .next (s.blockedAt none (.fence tau (preds.filter (fun w => !performedAt s.chip w scope))) s.chip)
      else .next (s.issuedWith h 0x28 14 (st.fenced .ct tau (p.setWidth 7) su)) := by
  rw [execFence, issue_ends rd rfl rfl hwf rfl, fenceBody_ready rd hw, State.ends_ite]
  rfl

/-! ### Monitors -/

/-- The strand with a monitor armed on the line of an address (07 R153). -/
def Ctx.armed (x : Ctx) (home : Nat) : Strand :=
  ({ x.st with monitors := x.st.monitors.drop (x.st.monitors.length - 3) ++
    [{ line := home / 64, fired := false, restored := false, after := (earlierOverlaps x [(home / 64 * 64, 64)]).filter (fun w =>
    ((x.chip.work? w).map Work.writes).getD false) }] } : Strand).learn x.tau 0 (knownAt x.chip x.core (home / 64 * 64) 64)

/-- Of five monitors the oldest goes. -/
theorem drop_snoc {α : Type} (l : List α) (a : α) : (l ++ [a]).drop ((l ++ [a]).length - 4) = l.drop (l.length - 3) ++ [a] := by
  have hlen : (l ++ [a]).length - 4 = l.length - 3 := by simp
  rw [hlen, List.drop_append_of_le_length (by omega)]

/-- What MARM does once its pointer is good to read. -/
def Ctx.arms (x : Ctx) (v : Word) : Effect :=
  match checkPtr x.core x.st v 0 1 1 with
  | .error (c, p) => if c = .scratchForeign ∨ c = .privateForeign ∨ c = .enginePort then .fault .windowInvalid p 0 else .fault c p 0
  | .ok (.priv _) | .ok (.scratch _ _) => .fault .windowInvalid v 0
  | .ok (.cluster c o) => x.done (x.armed (abufAddr c + o))
  | .ok (.global va) =>
    match translate x.chip x.core x.slot x.st.place.owner va 1 false with
    | .fault c => .fault c v 0
    | .miss p => missStall x p false
    | .hit l =>
      match l with
      | (a, _, e) :: _ => if x.chip.releasedAt a then .fault .capacityReleased v 0 else x.done (x.armed (storePlace e a))
      | [] => x.nothing

theorem execMarm_ready {xa : Reg} (rd : Ready s h .ct st) : execMarm h xa s =
    if st.px .ct xa then .next (s.trapped st .poisonConsumed (st.rx .ct xa) 0)
    else s.ends h (memInfo 0x29) st ((s.ctx st).arms (st.rx .ct xa)) := by
  rw [execMarm, issue_ends rd rfl rfl rfl rfl, rd.ctx_rx, rd.ctx_px]
  simp only [↓State.ends_ite, State.ends_fault, drop_snoc]
  rfl

/-- MARM refuses every pointer of a scratchpad or of a window (07 R153). -/
theorem arms_scratch {x : Ctx} {v : Word} {c b o : Nat} (hp : ptrOf v = .scratch c b o) : x.arms v = .fault .windowInvalid v 0 := by
  have hcheck := checkPtr_scratch x.core x.st v 0 1 (ptrAddBad_zero v) (by rw [ptrAdd_zero, hp])
  rw [ptrAdd_zero] at hcheck
  unfold Ctx.arms
  rw [hcheck]
  by_cases hc : c = x.core
  · by_cases hb : b = 2
    · simp [hc, hb]
    · simp [hc, hb, Nat.mod_one]
  · simp [hc]

theorem arms_priv {x : Ctx} {v : Word} {c w o : Nat} (hp : ptrOf v = .priv c w o) : x.arms v = .fault .windowInvalid v 0 := by
  unfold Ctx.arms
  by_cases hown : c = x.core ∧ w = x.st.place.owner
  · obtain ⟨rfl, rfl⟩ := hown
    have hcheck := checkPtr_priv_own x.core x.st v 0 1 (ptrAddBad_zero v) (by rw [ptrAdd_zero]; exact hp)
    rw [ptrAdd_zero] at hcheck
    rw [hcheck]
    by_cases hw : x.st.place.winkb * 1024 ≤ o
    · simp [hw]
    · simp [hw, Nat.mod_one]
  · have hcheck := checkPtr_priv_foreign x.core x.st v 0 1 (ptrAddBad_zero v) (by rw [ptrAdd_zero]; exact hp) (by tauto)
    rw [ptrAdd_zero] at hcheck
    rw [hcheck]
    simp

theorem arms_cluster {x : Ctx} {v : Word} {c o : Nat} (hp : checkPtr x.core x.st v 0 1 1 = .ok (.cluster c o)) :
    x.arms v = x.done (x.armed (abufAddr c + o)) := by
  unfold Ctx.arms
  rw [hp]

theorem arms_global {x : Ctx} {v : Word} {va a n : Nat} {e : TlbEntry} {l : List (Nat × Nat × TlbEntry)}
    (hp : checkPtr x.core x.st v 0 1 1 = .ok (.global va)) (ht : translate x.chip x.core x.slot x.st.place.owner va 1 false = .hit ((a, n, e) :: l))
    (hr : x.chip.releasedAt a = false) : x.arms v = x.done (x.armed (storePlace e a)) := by
  unfold Ctx.arms
  simp only [hp, ht, hr, Bool.false_eq_true, if_false]

/-- The clock on which MWAIT counts, and where its count began. -/
def Strand.mwaitNow (st : Strand) : Nat := if st.run.h then st.run.hclk else st.run.tau
def HeadWait.mwaitFirst (w : HeadWait) (now : Nat) : Nat := match w with | .mwait t => t | _ => now

theorem execMwait_ready {xd : Reg} (rd : Ready s h .ct st) : execMwait h xd s =
    if st.monitors = [] ∨ st.monitors.any (fun m => m.fired || m.restored) = true ∨ st.ct.wait.mwaitFirst st.mwaitNow + 1048576 ≤ st.mwaitNow then
      .next (s.issuedWith h 0x2A 3 ({ st with monitors := [] }.laterX .ct 1 xd (mwaitStatus st.monitors)))
    else .next (s.blockedAt none (.mwait (st.ct.wait.mwaitFirst st.mwaitNow)) s.chip) := by
  rw [execMwait, issue_ends rd rfl rfl rfl rfl, rd.ctx_sq, rd.ctx_q]
  exact State.ends_ite _ _

theorem any_fired_iff {l : List Monitor} : l.any (fun m => m.fired || m.restored) = true ↔ ∃ m, m ∈ l ∧ (m.fired = true ∨ m.restored = true) := by
  simp

/-- MWAIT_TIMEOUT issues the MWAIT at the head once its limit has come. -/
theorem execMwaitTimeout_ready {xd : Reg} {t : Nat} (rd : Ready s h .ct st)
    (hd : decode (wordAt s.mem s.chip.cur.core st.place st.ct.pc.toNat) = some (.mwait h xd)) (hw : st.ct.wait = .mwait t)
    (ht : t + 1048576 ≤ st.mwaitNow) : execMwaitTimeout s.chip.cur.core s.chip.cur.slot s = execMwait h xd s := by
  have hcur : s.keep { s.chip with cur := ⟨s.chip.cur.core, s.chip.cur.slot, .ct⟩ } = s := by
    rw [← rd.seq]; rfl
  simp only [execMwaitTimeout, rd.strand, hd, hw]
  exact (if_pos ht).trans (by rw [hcur])

/-! ### Barriers -/

theorem bitsOf_eq_extract (v : Word) (lo n : Nat) : bitsOf v lo n = (v.extractLsb' lo n).toNat := by
  rw [BitVec.extractLsb'_toNat, Nat.shiftRight_eq_div_pow, bitsOf]

section
variable {xa xb : Reg} {home hc : Nat} {own : Bool} (rd : Ready s h .ct st) (ha : st.px .ct xa = false) (hb : st.px .ct xb = false)
  (hp : barrierPtr s.chip.cur.core (st.rx .ct xa) = .ok (hc, home, own))
  (hm : own = true ∨ ((s.chip.owner st.place.owner).stride .mesh).isSome = true)
include rd ha hb hp hm

/-- A barrier word whose checks pass goes on at its home. -/
theorem barrierWord_ready (k : Nat → Nat → Bool → Effect) : barrierWord (s.ctx st) xa xb k = k hc home own := by
  have hmesh : (!own && ((s.ctx st).owner.stride .mesh).isNone) = false := by
    rcases hm with rfl | hm
    · rfl
    · rw [show ((s.ctx st).owner.stride .mesh) = (s.chip.owner st.place.owner).stride .mesh from rfl, Option.isNone_eq_false_iff.mpr hm,
        Bool.and_false]
  simp only [barrierWord, rd.ctx_px, ha, hb, rd.ctx_rx, State.ctx_core, hp, hmesh, Bool.or_self, Bool.false_eq_true, if_false]

theorem barrierUpdate_ready {bad : Word → Bool} {a : Word → Access} : barrierUpdate s h xa xb bad a =
    if bad (st.rx .ct xb) then .next (s.trapped st .illRsvd (noAddr .illRsvd) 0)
    else .next (s.issuedAs h 0x2B 3 (startBarrier (s.ctx st) (a (st.rx .ct xb)) home hc own (st.rx .ct xa)).1 .next .none) := by
  rw [barrierUpdate, issue_ends rd rfl rfl rfl rfl, barrierWord_ready rd ha hb hp hm, rd.ctx_px, rd.ctx_px, ha, hb, rd.ctx_rx, rd.ctx_rx]
  simp only [↓State.ends_ite, Bool.or_self, Bool.not_false, Bool.true_and]
  rfl

/-- TXB.WAIT registers when it first stands at the head. -/
theorem execTxbWait_registers (hw : ∀ w, st.ct.wait ≠ .txb w) : execTxbWait h xa xb s =
    let b := startBarrier (s.ctx st) (.txbWait (bitsOf (st.rx .ct xb) 0 4) false false) home hc own (st.rx .ct xa)
    .next (s.blockedAt none (.txb b.2) b.1) := by
  rw [execTxbWait, issue_ends rd rfl rfl rfl rfl, barrierWord_ready rd ha hb hp hm, rd.ctx_sq, rd.ctx_rx, rd.ctx_rx]
  split
  · next w hc => exact absurd hc (hw w)
  · rfl

end

/-- A registered TXB.WAIT issues once it is released. -/
theorem execTxbWait_waits {xa xb : Reg} {w p a : Nat} {k : Work} {r g : Bool} {e : List TlbEntry} (rd : Ready s h .ct st) (hw : st.ct.wait = .txb w)
    (hk : s.chip.work? w = some k) (hkind : k.kind = .access (.txbWait p r g) a e) : execTxbWait h xa xb s =
      if k.overAt s.chip.gts || (g && k.steps.isEmpty) then
        .next (s.issuedWith h 0x2B 3 (st.learn st.run.tau 5 (s.chip.clocks.getD (a / 8) [0, 0, 0, 0])))
      else .next (s.blockedAt none (.txb w) s.chip) := by
  have hwait : (s.ctx st).sq.wait = .txb w := by rw [rd.ctx_sq]; exact hw
  rw [execTxbWait, issue_ends rd rfl rfl rfl rfl]
  simp only [hwait, State.ctx_chip, hk, hkind, ↓State.ends_ite]
  rfl

end

namespace Barrier
variable (b : Barrier) (n : Nat)

theorem init_eq (v : Word) : init v =
    { phase := 0, apend := (v.extractLsb' 0 16).toNat, spend := (v.extractLsb' 16 32).toNat,
      areload := (v.extractLsb' 0 16).toNat, sreload := (v.extractLsb' 16 32).toNat, status := 0 } := by
  simp only [init, bitsOf_eq_extract]

theorem arrive_le (h0 : 0 < n) (h : n ≤ b.apend) : b.arrive n = settle { b with apend := b.apend - n } := by
  simp only [arrive, if_neg (Nat.pos_iff_ne_zero.mp h0), if_pos h]

theorem arrive_zero (h : 0 < b.apend) : b.arrive 0 = settle { b with apend := b.apend - 1 } := by
  simp only [arrive, if_true, if_pos (Nat.succ_le_of_lt h)]

theorem arrive_overflow (h : b.apend < n) : b.arrive n = settle { b.overflow with apend := 0 } := by
  simp only [arrive, if_neg (Nat.ne_of_gt (Nat.zero_lt_of_lt h)), if_neg (Nat.not_le.mpr h)]

theorem overflow_eq : b.overflow = { b with status := if b.status < 128 then b.status + 128 else b.status } := by
  unfold overflow
  split <;> rfl

end Barrier
end Sys2Proof.Machine
end

section
/-! SUPPORT. Fences, monitors and barriers (07 R152 to R157). -/

namespace Sys2Proof.Proofs
open Sys2Proof.Machine

/-- Settles O14: a fence filters what it waits for (`fenceBody_ready`), MARM arms by where its pointer leads (`Ctx.arms`), and MWAIT is one
test (`execMwait_ready`). -/
theorem fencesAndMonitors : Obligations.FencesAndMonitors := by
  refine ⟨fun s h st p sc scope tau preds rd hwf hw => ⟨fun hl => ?_, fun hl => ?_⟩, ?_⟩
  · exact (execFence_ready rd hwf hw).trans (if_neg (not_not.mpr hl))
  · exact (execFence_ready rd hwf hw).trans (if_pos hl)
  · intro s h st xa xd rd v core arms now first ready
    have hready : ready ↔ st.monitors = [] ∨ st.monitors.any (fun m => m.fired || m.restored) = true ∨
        st.ct.wait.mwaitFirst st.mwaitNow + 1048576 ≤ st.mwaitNow := by
      rw [any_fired_iff]; rfl
    have hmwait (hr : ready) := (execMwait_ready (xd := xd) rd).trans (if_pos (hready.mp hr))
    have harm {e : Effect} (hx : st.px .ct xa = false) (he : (s.ctx st).arms v = e) : exec (.marm h xa) s = s.ends h (memInfo 0x29) st e := by
      refine (execMarm_ready rd).trans ?_
      rw [hx, ← he]; rfl
    refine ⟨fun hx => (execMarm_ready rd).trans (by rw [hx]; rfl), fun hx => ⟨fun c o hp => ?_, fun va a n e l hp ht hr => ?_, fun hp => ?_⟩, hmwait,
      fun hr => (execMwait_ready rd).trans (if_neg (mt hready.mpr hr)), fun t hd hw ht => ?_⟩
    · exact harm hx (arms_cluster hp)
    · exact harm hx (arms_global hp ht hr)
    · refine harm hx (e := .fault .windowInvalid v 0) ?_
      rcases hp with ⟨c, b, o, hp⟩ | ⟨c, w, o, hp⟩
      · exact arms_scratch hp
      · exact arms_priv hp
    · have hfirst : first = t := by simp only [first, hw]
      exact (execMwaitTimeout_ready rd hd hw ht).trans (hmwait (.inr (.inr (hfirst ▸ ht))))

/-- Settles O15: an update whose checks pass starts at its home (`barrierUpdate_ready`), a WAIT registers once and then waits
(`execTxbWait_registers`, `execTxbWait_waits`). -/
theorem barriers : Obligations.Barriers := by
  refine ⟨fun s h st xa xb home hc own rd ha hb hp hm => ?_, fun b v n => ?_⟩
  · intro x v starts
    have hzero : (bitsOf v 0 48 == 0) = true ↔ v.extractLsb' 0 48 = 0 := by
      rw [beq_iff_eq, bitsOf_eq_extract, ← BitVec.toNat_inj]; rfl
    refine ⟨fun hv => (barrierUpdate_ready (bad := fun v => bitsOf v 0 48 == 0) rd ha hb hp hm).trans (if_neg (mt hzero.mp hv)),
      fun hv => (barrierUpdate_ready (bad := fun v => bitsOf v 0 48 == 0) (a := .txbInit) rd ha hb hp hm).trans (if_pos (hzero.mpr hv)),
      ?_, ?_, fun hw => ?_, fun w k p r g a e hw hk hkind => ⟨fun ho => ?_, fun ho => ?_⟩⟩
    · rw [← bitsOf_eq_extract]
      exact (barrierUpdate_ready (bad := fun _ => false) (a := fun v => .txbArrive (bitsOf v 0 16)) rd ha hb hp hm).trans (if_neg Bool.false_ne_true)
    · rw [← bitsOf_eq_extract]
      exact (barrierUpdate_ready (bad := fun _ => false) (a := fun v => .txbExpect (bitsOf v 0 32)) rd ha hb hp hm).trans (if_neg Bool.false_ne_true)
    · rw [← bitsOf_eq_extract]
      exact execTxbWait_registers rd ha hb hp hm hw
    · exact ⟨_, (execTxbWait_waits rd hw hk hkind).trans (if_pos ho), rfl⟩
    · exact (execTxbWait_waits rd hw hk hkind).trans (if_neg (Bool.eq_false_iff.mp ho))
  · exact ⟨Barrier.init_eq v, fun ha hs => if_pos ⟨ha, hs⟩, fun h => if_neg (by tauto), b.arrive_le n, b.arrive_zero, b.arrive_overflow n,
      fun h => if_pos h, fun h => if_neg (Nat.not_lt.mpr h), fun h => if_pos h, fun c h => if_pos h, fun c h => if_neg h, b.overflow_eq⟩

end Sys2Proof.Proofs
end

section
/-! SUPPORT. The checks of a copy and its start (09 R212 to R216). -/

namespace Sys2Proof.Machine

section
variable {s : State} {h : Head} {st : Strand}

/-- A word that passes on to its work issues with it. -/
theorem State.ends_res {i : Info} (r : Res) : s.ends h i st (.go r .next .none) = .next (s.issuedRes h i.opc i.cls r) := rfl

theorem Ready.any_px {q : SeqId} (rd : Ready s h q st) (l : List Reg) : l.any (s.ctx st).px = l.any (st.px q) := by
  congr 1
  exact funext rd.ctx_px

theorem any_px_false {q : SeqId} {l : List Reg} (h : ∀ r, r ∈ l → st.px q r = false) : l.any (st.px q) = false := by
  simpa using h

theorem any_px_true {q : SeqId} {l : List Reg} (h : ∃ r, r ∈ l ∧ st.px q r = true) : l.any (st.px q) = true := by
  simpa using h

end

section
variable {x : Ctx} {xh : Reg} {regs : List Reg} {write : Bool} {k : Handle → Effect} {hd : Handle} {rd wr : Bool}

/-- Poison comes first (09 R212). -/
theorem withHandle_poison (hp : (xh :: regs).any x.px = true) : withHandle x xh regs write k = trapNow .poisonConsumed := if_pos hp

variable (hp : (xh :: regs).any x.px = false)
include hp

theorem withHandle_none (hf : readHandle x.mem x.chip (x.chip.part x.owner.part) x.st.place.owner (x.rx xh) = none) :
    withHandle x xh regs write k = .fault .handleInvalid (x.rx xh) 0 := by
  simp only [withHandle, hp, hf, Bool.false_eq_true, if_false]

variable (hf : readHandle x.mem x.chip (x.chip.part x.owner.part) x.st.place.owner (x.rx xh) = some (hd, rd, wr))
include hf

theorem withHandle_some : withHandle x xh regs write k = if (if write then !wr else !rd) then .fault .handlePerm (x.rx xh) 0 else k hd := by
  simp only [withHandle, hp, hf, Bool.false_eq_true, if_false]

theorem withHandle_read (hr : rd = true) : withHandle x xh regs false k = k hd := by
  rw [withHandle_some hp hf, hr]; rfl

theorem withHandle_write (hw : wr = true) : withHandle x xh regs true k = k hd := by
  rw [withHandle_some hp hf, hw]; rfl

theorem withHandle_read_denied (hr : rd = false) : withHandle x xh regs false k = .fault .handlePerm (x.rx xh) 0 := by
  rw [withHandle_some hp hf, hr]; rfl

theorem withHandle_write_denied (hw : wr = false) : withHandle x xh regs true k = .fault .handlePerm (x.rx xh) 0 := by
  rw [withHandle_some hp hf, hw]; rfl

end

section
variable {x : Ctx} {op : Nat} {xd xh xb : Reg} {t : Toks} {buf : Buf} {pad : Pad} {at64 : BitVec 13} {hd : Handle} {o0 e0 : Nat}
  {rows : List (Bool × Nat)}

/-- A strand with fewer than 32 open copies starts one; the 33rd blocks (09 R212). -/
theorem startCopy_of_lt {c : CopyPlan} (h : (openCopies x).length < 32) : startCopy x xd t c = .go (startedCopy x xd t c) .next .none :=
  if_neg (Nat.not_le.mpr h)

theorem startCopy_of_le {c : CopyPlan} (h : 32 ≤ (openCopies x).length) : startCopy x xd t c = .block (some .queueImbalance) .none x.chip := if_pos h

theorem copyTile_wbuf : copyTile x 1 xd xh xb t .wbuf pad at64 hd o0 e0 rows = trapNow .enginePort := by
  simp only [copyTile, and_self, if_true]

variable (hport : ¬ (op = 1 ∧ buf = .wbuf))
include hport

theorem copyTile_big (hfit : bufSize buf < at64.toNat * 64 + footprint hd e0 rows.length) :
    copyTile x op xd xh xb t buf pad at64 hd o0 e0 rows = trapNow .windowInvalid := by
  simp only [copyTile, if_neg hport, if_pos hfit]

variable (hfit : ¬ bufSize buf < at64.toNat * 64 + footprint hd e0 rows.length)
include hfit

theorem copyTile_barrier_bad {c : Cause} {fa : Word} (hb : copyBarrier x xb = .error (c, fa)) :
    copyTile x op xd xh xb t buf pad at64 hd o0 e0 rows = .fault c fa 0 := by
  simp only [copyTile, if_neg hport, if_neg hfit, hb]

theorem copyTile_starts {bar : Option Nat} (hb : copyBarrier x xb = .ok bar) (hc : classOf x hd (x.rx xh) = none) :
    copyTile x op xd xh xb t buf pad at64 hd o0 e0 rows = startCopy x xd t (tilePlan x op buf pad at64 hd o0 e0 rows bar) := by
  simp only [copyTile, if_neg hport, if_neg hfit, hb, hc]

end

/-- What a started copy is (09 R218): its plan reads the machine it is made on. -/
theorem startedCopy_work (x : Ctx) (xd : Reg) (t : Toks) (c : CopyPlan) (hbar : c.bar = none) (hplan : ∀ p b, (c.plan p b).chip = p.chip) :
    (startedCopy x xd t c).writes = [] ∧ (startedCopy x xd t c).chip.workNext = x.chip.workNext + 1 ∧
    ∃ k, (startedCopy x xd t c).chip.work? x.chip.workNext = some k ∧ k.kind = c.kind ∧ k.state = .running ∧ k.doneBeat = none ∧ k.total = c.total ∧
      k.barrier = none ∧ k.core = x.core ∧ k.slot = x.slot ∧ k.q = x.q ∧ k.letters = { bits := 4, promised := true } ∧
      k.produces = (if t.p = 63 then none else some t.p.toNat) ∧
      (startedCopy x xd t c).chip.locks = x.chip.locks ++ c.locks.map (fun l => { work := x.chip.workNext, core := l.1, lo := l.2.1, hi := l.2.2 }) ∧
      (startedCopy x xd t c).chip.strand? x.core x.slot =
        some (produce (x.st.laterX x.q 1 xd (BitVec.ofNat 64 k.promise) (some x.chip.workNext)) t x.chip.workNext) := by
  unfold startedCopy
  extract_lets o after held p last pr k w0
  have hchip : p.chip = x.chip := hplan _ _
  have hfin : p.finish x.st.place.owner o = x.chip.setOwner x.st.place.owner { o with resv := p.resv } := by rw [Planner.finish, hchip]
  have hnext : (p.finish x.st.place.owner o).workNext = x.chip.workNext := by rw [hfin]; rfl
  have hlocks : (p.finish x.st.place.owner o).locks = x.chip.locks := by rw [hfin]; rfl
  generalize p.finish x.st.place.owner o = f at hnext hlocks
  rw [← hnext, ← hlocks, hbar]
  exact ⟨rfl, rfl, w0, Tab.get?_set_self .., rfl, rfl, rfl, rfl, hbar, rfl, rfl, rfl, rfl, rfl, rfl, Chip.strand?_setStrand ..⟩

end Sys2Proof.Machine
end
section
/-! SUPPORT. The words of copies (09 R213 to R216). -/

namespace Sys2Proof.Machine

section
variable {s : State} {h : Head} {st : Strand} {xd xh xc xs xb : Reg} {t : Toks} {buf : Buf} {pad : Pad} {at64 : BitVec 13}

/-- CPY.IN and CPY.OUT on a handle. -/
def Ctx.copyAt (x : Ctx) (op : Nat) (xd xh xb : Reg) (t : Toks) (buf : Buf) (pad : Pad) (at64 : BitVec 13) (o e : List Nat) (hd : Handle) : Effect :=
  if extentBad hd o e then trapNow .extentInvalid
  else copyTile x op xd xh xb t buf pad at64 hd (o.getD 0 0) (e.getD 0 1) (tileRowList hd o e)

theorem copyWord_ready {opc : BitVec 8} {op : Nat} (rd : Ready s h .ct st) : copyWord s h opc op xd xh xc xs xb t buf pad at64 =
    s.ends h (copyInfo opc) st (withHandle (s.ctx st) xh [xc, xs, xb] (op == 1)
      ((s.ctx st).copyAt op xd xh xb t buf pad at64 (fields16 (st.rx .ct xc)) (fields16 (st.rx .ct xs)))) := by
  rw [copyWord, issue_ends rd rfl rfl rfl rfl, ← rd.ctx_rx, ← rd.ctx_rx]
  rfl

/-- CPY.G on a handle: rows by the indices of registers (09 R214). -/
def Ctx.gatherAt (x : Ctx) (xd xh xc xb : Reg) (t : Toks) (buf : Buf) (pad : Pad) (at64 : BitVec 13) (v : Word) (hd : Handle) : Effect :=
  let n := bitsOf v 48 8
  if n = 0 ∨ 32 < n ∨ bitsOf v 56 8 ≠ 0 ∨ extentBad hd [bitsOf v 0 16, 0, bitsOf v 32 16, 0] [bitsOf v 16 16, 1, 1, 1] = true then trapNow .extentInvalid
  else copyTile x 2 xd xh xb t buf pad at64 hd (bitsOf v 0 16) (bitsOf v 16 16) ((List.range n).map (fun j =>
    let r := tileRow hd (bitsOf (x.rx (xc + BitVec.ofNat 6 (j / 4))) (16 * (j % 4)) 16) (bitsOf v 32 16) 0
    if pad = .clamp then (true, r.2) else r))

theorem execCpyG_ready (rd : Ready s h .ct st) (hwf : (Instr.cpyG h xd xh xc xs xb t buf pad at64).WF) :
    execCpyG h xd xh xc xs xb t buf pad at64 s = s.ends h (copyInfo 0x32) st
      (withHandle (s.ctx st) xh ((List.range (cdiv (min (bitsOf (st.rx .ct xs) 48 8) 32) 4)).map (fun i => xc + BitVec.ofNat 6 i) ++ [xs, xb]) false
        ((s.ctx st).gatherAt xd xh xc xb t buf pad at64 (st.rx .ct xs))) := by
  rw [execCpyG, issue_ends rd rfl rfl hwf rfl, ← rd.ctx_rx]
  rfl

/-- CPY.MC on a handle (09 R215). -/
def Ctx.multicastAt (x : Ctx) (xd xh : Reg) (t : Toks) (buf : Buf) (pad : Pad) (at64 : BitVec 13) (o e : List Nat) (v : Word) (hd : Handle) : Effect :=
  if extentBad hd o e then trapNow .extentInvalid
  else if bufSize buf < at64.toNat * 64 + footprint hd (e.getD 0 1) (tileRowList hd o e).length then trapNow .windowInvalid
  else match multicastDests x v with
    | none => .fault .windowInvalid v 0
    | some ds =>
      match classOf x hd (x.rx xh) with
      | some e => e
      | none => startCopy x xd t (multicastPlan x buf pad at64 hd (o.getD 0 0) (e.getD 0 1) (tileRowList hd o e) ds
        (if v.getLsbD 63 then some (bitsOf v 42 14 * 16) else none))

theorem execCpyMC_ready (rd : Ready s h .ct st) : execCpyMC h xd xh xc xs xb t buf pad at64 s =
    s.ends h (copyInfo 0x33) st (withHandle (s.ctx st) xh [xc, xs, xb] false
      ((s.ctx st).multicastAt xd xh t buf pad at64 (fields16 (st.rx .ct xc)) (fields16 (st.rx .ct xs)) (st.rx .ct xb))) := by
  rw [execCpyMC, issue_ends rd rfl rfl rfl rfl, ← rd.ctx_rx, ← rd.ctx_rx, ← rd.ctx_rx]
  rfl

/-- CPY.LL from a cluster-shared pointer (09 R216). -/
def Ctx.localAt (x : Ctx) (xd xb : Reg) (t : Toks) (buf : Buf) (at64 : BitVec 13) (v len : Word) (k o : Nat) : Effect :=
  let n := bitsOf len 0 19
  if o % 64 ≠ 0 then .fault .align v 0
  else if bitsOf len 19 45 ≠ 0 ∨ n % 64 ≠ 0 ∨ n < 64 ∨ 262144 < n then trapNow .extentInvalid
  else if 0x40000 < o + n then .fault .windowInvalid v 0
  else if bufSize buf < at64.toNat * 64 + n then trapNow .windowInvalid
  else match copyBarrier x xb with
    | .error (c, fa) => .fault c fa 0
    | .ok bar => if (x.owner.stride .mesh).isNone then .fault .classUnused v 1 else startCopy x xd t (localPlan x buf at64 v k o n bar)

/-- CPY.LL past the poison of its registers. -/
def Ctx.localFrom (x : Ctx) (xd xb : Reg) (t : Toks) (buf : Buf) (at64 : BitVec 13) (v len : Word) : Effect :=
  match ptrOf v with
  | .cluster k o => x.localAt xd xb t buf at64 v len k o
  | _ => .fault .windowInvalid v 0

theorem execCpyLL_ready (rd : Ready s h .ct st) : execCpyLL h xd xh xs xb t buf at64 s =
    if [xh, xs, xb].any (st.px .ct) then .next (s.trapped st .poisonConsumed (noAddr .poisonConsumed) 0)
    else s.ends h (copyInfo 0x34) st ((s.ctx st).localFrom xd xb t buf at64 (st.rx .ct xh) (st.rx .ct xs)) := by
  rw [execCpyLL, issue_ends rd rfl rfl rfl rfl, ← rd.any_px, ← rd.ctx_rx, ← rd.ctx_rx]
  exact State.ends_ite _ _

theorem localFrom_refused {x : Ctx} {v len : Word} (hp : ∀ k o, ptrOf v ≠ .cluster k o) :
    x.localFrom xd xb t buf at64 v len = .fault .windowInvalid v 0 := by
  unfold Ctx.localFrom
  split
  · next k o hc => exact absurd hc (hp k o)
  · rfl

/-- The length of CPY.LL: whole sectors up to 256 KiB. -/
theorem localLength_bad_iff (len : Word) :
    (bitsOf len 19 45 ≠ 0 ∨ bitsOf len 0 19 % 64 ≠ 0 ∨ bitsOf len 0 19 < 64 ∨ 262144 < bitsOf len 0 19) ↔
      ¬ (len.toNat % 64 = 0 ∧ 64 ≤ len.toNat ∧ len.toNat ≤ 262144) := by
  have := len.isLt
  simp only [bitsOf]
  omega

theorem localLength_eq {len : Word} (h : len.toNat ≤ 262144) : bitsOf len 0 19 = len.toNat := by
  simp only [bitsOf]
  omega

section
variable {x : Ctx} {v len : Word} {k o : Nat}

theorem localAt_align (ho : o % 64 ≠ 0) : x.localAt xd xb t buf at64 v len k o = .fault .align v 0 := if_pos ho

variable (ho : o % 64 = 0)
include ho

theorem localAt_length (hn : ¬ (len.toNat % 64 = 0 ∧ 64 ≤ len.toNat ∧ len.toNat ≤ 262144)) :
    x.localAt xd xb t buf at64 v len k o = trapNow .extentInvalid := by
  simp only [Ctx.localAt, if_neg (not_not.mpr ho), if_pos ((localLength_bad_iff len).mpr hn)]

variable (hn : len.toNat % 64 = 0 ∧ 64 ≤ len.toNat ∧ len.toNat ≤ 262144)
include hn

/-- CPY.LL of a good length, from an aligned place. -/
theorem localAt_of_length : x.localAt xd xb t buf at64 v len k o =
    if 0x40000 < o + len.toNat then .fault .windowInvalid v 0
    else if bufSize buf < at64.toNat * 64 + len.toNat then trapNow .windowInvalid
    else match copyBarrier x xb with
      | .error (c, fa) => .fault c fa 0
      | .ok bar => if (x.owner.stride .mesh).isNone then .fault .classUnused v 1 else startCopy x xd t (localPlan x buf at64 v k o len.toNat bar) := by
  unfold Ctx.localAt
  dsimp only
  rw [if_neg (not_not.mpr ho), if_neg (mt (localLength_bad_iff len).mp (not_not.mpr hn)), localLength_eq hn.2.2]

theorem localAt_end (he : 0x40000 < o + len.toNat) : x.localAt xd xb t buf at64 v len k o = .fault .windowInvalid v 0 := by
  rw [localAt_of_length ho hn, if_pos he]

variable (he : o + len.toNat ≤ 0x40000)
include he

theorem localAt_big (hf : bufSize buf < at64.toNat * 64 + len.toNat) : x.localAt xd xb t buf at64 v len k o = trapNow .windowInvalid := by
  rw [localAt_of_length ho hn, if_neg (Nat.not_lt.mpr he), if_pos hf]

theorem localAt_starts {bar : Option Nat} (hf : at64.toNat * 64 + len.toNat ≤ bufSize buf) (hb : copyBarrier x xb = .ok bar)
    (hm : (x.owner.stride .mesh).isSome = true) :
    x.localAt xd xb t buf at64 v len k o = startCopy x xd t (localPlan x buf at64 v k o len.toNat bar) := by
  have hmesh : (x.owner.stride .mesh).isNone = false := Option.isNone_eq_false_iff.mpr hm
  rw [localAt_of_length ho hn, if_neg (Nat.not_lt.mpr he), if_neg (Nat.not_lt.mpr hf), hb]
  dsimp only
  rw [hmesh, if_neg Bool.false_ne_true]

end

/-! ### Handles and rows -/

theorem copyAt_extent {x : Ctx} {op : Nat} {o e : List Nat} {hd : Handle} (hext : extentBad hd o e = true) :
    x.copyAt op xd xh xb t buf pad at64 o e hd = trapNow .extentInvalid := if_pos hext

theorem copyAt_tile {x : Ctx} {op : Nat} {o e : List Nat} {hd : Handle} (hext : extentBad hd o e = false) :
    x.copyAt op xd xh xb t buf pad at64 o e hd = copyTile x op xd xh xb t buf pad at64 hd (o.getD 0 0) (e.getD 0 1) (tileRowList hd o e) :=
  if_neg (Bool.eq_false_iff.mp hext)

theorem gatherAt_tile {x : Ctx} {v : Word} {hd : Handle} (h1 : 1 ≤ bitsOf v 48 8) (h32 : bitsOf v 48 8 ≤ 32) (htop : bitsOf v 56 8 = 0)
    (hext : extentBad hd [bitsOf v 0 16, 0, bitsOf v 32 16, 0] [bitsOf v 16 16, 1, 1, 1] = false) :
    x.gatherAt xd xh xc xb t buf pad at64 v hd = copyTile x 2 xd xh xb t buf pad at64 hd (bitsOf v 0 16) (bitsOf v 16 16)
      ((List.range (bitsOf v 48 8)).map (fun j =>
        let r := tileRow hd (bitsOf (x.rx (xc + BitVec.ofNat 6 (j / 4))) (16 * (j % 4)) 16) (bitsOf v 32 16) 0
        if pad = .clamp then (true, r.2) else r)) := by
  refine if_neg ?_
  rw [hext, htop]
  simp only [ne_eq, not_true, Bool.false_eq_true, or_false]
  omega

theorem multicastAt_starts {x : Ctx} {o e : List Nat} {v : Word} {hd : Handle} {ds : List Nat} (hext : extentBad hd o e = false)
    (hfit : at64.toNat * 64 + footprint hd (e.getD 0 1) (tileRowList hd o e).length ≤ bufSize buf) (hds : multicastDests x v = some ds)
    (hc : classOf x hd (x.rx xh) = none) : x.multicastAt xd xh t buf pad at64 o e v hd =
      startCopy x xd t (multicastPlan x buf pad at64 hd (o.getD 0 0) (e.getD 0 1) (tileRowList hd o e) ds
        (if v.getLsbD 63 then some (bitsOf v 42 14 * 16) else none)) := by
  simp only [Ctx.multicastAt, hext, Bool.false_eq_true, if_false, if_neg (Nat.not_lt.mpr hfit), hds, hc]

/-- The registers that hold the first n indices of CPY.G are clean when every register an index lies in is. -/
theorem indexRegs_clean {n : Nat} (h32 : n ≤ 32) (hidx : ∀ i, 4 * i < n → st.px .ct (xc + BitVec.ofNat 6 i) = false)
    (hrest : ∀ r, r ∈ [xh, xs, xb] → st.px .ct r = false) :
    ∀ r, r ∈ xh :: ((List.range (cdiv (min n 32) 4)).map (fun i => xc + BitVec.ofNat 6 i) ++ [xs, xb]) → st.px .ct r = false := by
  intro r hr
  rcases List.mem_cons.mp hr with rfl | hr
  · exact hrest _ (by simp)
  · rcases List.mem_append.mp hr with hr | hr
    · obtain ⟨i, hi, rfl⟩ := List.mem_map.mp hr
      have hlt := List.mem_range.mp hi
      refine hidx i ?_
      rw [Nat.min_eq_left h32, cdiv] at hlt
      omega
    · exact hrest _ (List.mem_cons_of_mem _ hr)

end
end Sys2Proof.Machine
end

section
/-! SUPPORT. Copies (09 R212 to R218). -/

namespace Sys2Proof.Proofs
open Sys2Proof.Machine

section
variable {s : State} {h : Head} {st : Strand} {xd xh xc xs xb : Reg} {t : Toks} {buf : Buf} {pad : Pad} {at64 : BitVec 13}
  {hd : Handle} {r w : Bool} (rd : Ready s h .ct st)
  (hf : readHandle s.mem s.chip (s.chip.part (s.chip.owner st.place.owner).part) st.place.owner (st.rx .ct xh) = some (hd, r, w))
include rd hf

/-- The handle of a copy, in the copy's own context. -/
theorem handle_found : readHandle (s.ctx st).mem (s.ctx st).chip ((s.ctx st).chip.part (s.ctx st).owner.part) (s.ctx st).st.place.owner
    ((s.ctx st).rx xh) = some (hd, r, w) := by
  rw [rd.ctx_rx]
  exact hf

end

section
variable {s : State} {h : Head} {st : Strand} {xh : Reg} {regs : List Reg}

theorem regs_clean (rd : Ready s h .ct st) (hp : ∀ r, r ∈ xh :: regs → st.px .ct r = false) : (xh :: regs).any (s.ctx st).px = false := by
  rw [rd.any_px]
  exact any_px_false hp

theorem regs_poisoned (rd : Ready s h .ct st) (hp : ∃ r, r ∈ xh :: regs ∧ st.px .ct r = true) : (xh :: regs).any (s.ctx st).px = true := by
  rw [rd.any_px]
  exact any_px_true hp

end

/-- Settles O16: a copy whose checks pass starts its plan (`copyTile_starts`, `localAt_starts`), and CPY.LL makes its checks in order. -/
theorem copyWords : Obligations.CopyWords := by
  constructor
  · intro s h st xd xh xc xs xb t buf pad at64 hd r w rd x v fits o e o0 e0 rows starts hf hcls hopen hclean
    have hf' := handle_found rd hf
    have hcls' : classOf x hd (x.rx xh) = none := by rw [rd.ctx_rx]; exact hcls
    have hregs := regs_clean (xh := xh) (regs := [xc, xs, xb]) rd hclean
    have hgo {i : Instr} {opc : BitVec 8} {eff : Effect} {c : CopyPlan} (hi : exec i s = s.ends h (copyInfo opc) st eff) (he : eff = startCopy x xd t c) :
        starts i opc c := by
      exact hi.trans (by rw [he, startCopy_of_lt hopen]; rfl)
    refine ⟨fun bar hb => ⟨fun hr hext hfit => ?_,
      fun hw hbuf hext hfit => ?_, fun n hr hwf hidx hn h1 h32 htop hext hfit => ?_⟩, fun ds hr hext hfit hds => ?_⟩
    · refine hgo (copyWord_ready (op := 0) rd) ((withHandle_read hregs hf' hr).trans ?_)
      exact (copyAt_tile hext).trans (copyTile_starts (by simp) (Nat.not_lt.mpr hfit) hb hcls')
    · refine hgo (copyWord_ready (op := 1) rd) ((withHandle_write hregs hf' hw).trans ?_)
      exact (copyAt_tile hext).trans (copyTile_starts (by simp [hbuf]) (Nat.not_lt.mpr hfit) hb hcls')
    · simp only [← bitsOf_eq_extract] at hn htop hext hfit
      subst hn
      have hidxs := indexRegs_clean (xh := xh) (xs := xs) (xb := xb) h32 hidx (fun r hr => hclean r (by simp at hr ⊢; tauto))
      have hbit : (v.extractLsb' 56 8).toNat = 0 := by rw [htop]; rfl
      refine hgo (execCpyG_ready rd hwf) ((withHandle_read (regs_clean rd hidxs) hf' hr).trans ((gatherAt_tile h1 h32 ?_ hext).trans ?_))
      · rw [bitsOf_eq_extract, hbit]
      · simp only [← bitsOf_eq_extract]
        refine (copyTile_starts (by simp) (Nat.not_lt.mpr ?_) hb hcls').trans ?_
        · simpa using hfit
        · simp only [rd.ctx_rx]
    · rw [← bitsOf_eq_extract]
      exact hgo (execCpyMC_ready rd) ((withHandle_read hregs hf' hr).trans (multicastAt_starts hext hfit hds hcls'))
  · intro s h st xd xh xs xb t buf at64 k o rd x i v n traps okN
    refine ⟨fun hp => (execCpyLL_ready rd).trans (if_pos (any_px_true hp)), fun hp => ?_⟩
    have hfrom : exec i s = s.ends h (copyInfo 0x34) st (x.localFrom xd xb t buf at64 v (st.rx .ct xs)) :=
      (execCpyLL_ready rd).trans (if_neg (Bool.eq_false_iff.mp (any_px_false hp)))
    refine ⟨fun hc => hfrom.trans (by rw [localFrom_refused hc]; rfl), fun hc => ?_⟩
    have hgo {e : Effect} (he : x.localAt xd xb t buf at64 v (st.rx .ct xs) k o = e) : exec i s = s.ends h (copyInfo 0x34) st e := by
      refine hfrom.trans ?_
      rw [Ctx.localFrom, hc, ← he]
    refine ⟨fun ho => hgo (localAt_align ho), fun ho hn => hgo (localAt_length ho hn), fun ho hn he => hgo (localAt_end ho hn he),
      fun ho hn he hb => hgo (localAt_big ho hn he hb), fun bar ho hn he hb hbar hm hopen => ?_⟩
    exact (hgo (localAt_starts ho hn he hb hbar hm)).trans (by rw [startCopy_of_lt hopen]; rfl)

/-- Settles O17: a started copy is new work on the machine its plan reads (`startedCopy_work`); the checks come in the order of R212. -/
theorem copyStartsAndChecks : Obligations.CopyStartsAndChecks := by
  refine ⟨fun x xd t c hbar hplan => startedCopy_work x xd t c hbar hplan, ?_⟩
  intro s h st xd xh xc xs xb t buf pad at64 rd x i j o e found traps big
  have hi : exec i s = _ := copyWord_ready rd
  have hj : exec j s = _ := copyWord_ready rd
  have hfault {ins : Instr} {opc : BitVec 8} {eff : Effect} {c : Cause} {fa : Word} (hins : exec ins s = s.ends h (copyInfo opc) st eff)
      (he : eff = .fault c fa 0) : traps ins c fa := hins.trans (by rw [he]; rfl)
  refine ⟨fun hp => ?_, fun hp => ?_⟩
  · have hregs := regs_poisoned rd hp
    exact ⟨hfault hi (withHandle_poison hregs), hfault hj (withHandle_poison hregs)⟩
  · have hregs := regs_clean rd hp
    refine ⟨fun hf => ?_, fun hd r w hf => ?_⟩
    · have hf' : readHandle x.mem x.chip (x.chip.part x.owner.part) x.st.place.owner (x.rx xh) = none := by rw [rd.ctx_rx]; exact hf
      have hx := rd.ctx_rx xh
      exact ⟨hfault hi (by rw [withHandle_none hregs hf', hx]), hfault hj (by rw [withHandle_none hregs hf', hx])⟩
    · have hf' := handle_found rd hf
      have hx := rd.ctx_rx xh
      have hread (hr : r = true) := withHandle_read (k := x.copyAt 0 xd xh xb t buf pad at64 o e) hregs hf' hr
      have hwrite (hw : w = true) := withHandle_write (k := x.copyAt 1 xd xh xb t buf .handle at64 o e) hregs hf' hw
      have h0 : ¬ (0 = 1 ∧ buf = .wbuf) := by simp
      refine ⟨fun hr => hfault hi ((withHandle_read_denied hregs hf' hr).trans (by rw [hx])),
        fun hw => hfault hj ((withHandle_write_denied hregs hf' hw).trans (by rw [hx])),
        fun hr hext => hfault hi ((hread hr).trans (copyAt_extent hext)), fun hw hext => hfault hj ((hwrite hw).trans (copyAt_extent hext)),
        fun hw hext hb => ?_, fun hr hext hb => hfault hi ((hread hr).trans ((copyAt_tile hext).trans (copyTile_big h0 hb))),
        fun c fa hr hext hb hbar => hfault hi ((hread hr).trans ((copyAt_tile hext).trans (copyTile_barrier_bad h0 hb hbar))),
        fun bar hr hext hb hbar hcls hopen => ?_⟩
      · subst hb
        exact hfault hj ((hwrite hw).trans ((copyAt_tile hext).trans copyTile_wbuf))
      · have hcls' : classOf x hd (x.rx xh) = none := by rw [hx]; exact hcls
        have he := (hread hr).trans ((copyAt_tile hext).trans ((copyTile_starts h0 hb hbar hcls').trans (startCopy_of_le hopen)))
        exact hi.trans ((congrArg (s.ends h (copyInfo 0x30) st) he).trans rfl)

end Sys2Proof.Proofs
end

section
/-! SUPPORT. Control of copies, section loads and q3 (09 R217, R218; 07 R163 to R166). -/

namespace Sys2Proof.Machine

section
variable {s : State} {h : Head} {st : Strand}

/-- The open copies that CPY.CANCEL names. -/
def Ctx.namedCopies (x : Ctx) (tok : BitVec 6) : List (Nat × Work) :=
  (openCopies x).filter (fun e => tok == 63#6 || x.st.sh.tokens.get? tok.toNat == some e.1)

theorem execCpyCancel_ready {tok : BitVec 6} (rd : Ready s h .ct st) : execCpyCancel h tok s = .next (s.issuedRes h 0x35 13
    (((s.ctx st).namedCopies tok).foldl (fun r e => endCopy s.mem r e.1 e.2 .cancelled) { chip := s.chip, writes := [] })) := by
  rw [execCpyCancel, issue_ends rd rfl rfl rfl rfl]
  exact State.ends_res _

/-- The word of CPY.STAT (09 R218). -/
def Ctx.copyStat (x : Ctx) (tok : BitVec 6) : Word :=
  if tok = 63#6 then BitVec.ofNat 64 ((openCopies x).length % 64)
  else match latestProducer x Work.isCopy tok with
    | some k => statWord k (landedOf k)
    | none => 0

theorem execCpyStat_ready {xd : Reg} {tok : BitVec 6} (rd : Ready s h .ct st) :
    execCpyStat h xd tok s = .next (s.issuedWith h 0x36 13 (st.laterX .ct 1 xd ((s.ctx st).copyStat tok))) := by
  rw [execCpyStat, issue_ends rd rfl rfl rfl rfl]
  exact (State.ends_writeX ..).trans (by rw [rd.seq]; rfl)

theorem copyStat_none {x : Ctx} {tok : BitVec 6} (ht : tok ≠ 63#6) (hl : latestProducer x Work.isCopy tok = none) : x.copyStat tok = 0 := by
  rw [Ctx.copyStat, if_neg ht, hl]

theorem copyStat_some {x : Ctx} {tok : BitVec 6} {k : Work} (ht : tok ≠ 63#6) (hl : latestProducer x Work.isCopy tok = some k) :
    x.copyStat tok = statWord k (landedOf k) := by
  rw [Ctx.copyStat, if_neg ht, hl]

theorem statWord_eq (k : Work) (n : Nat) : statWord k n =
    BitVec.ofNat 64 ((match k.state with | .running => 1 | .done => 0 | .error c => 2 + causeCode c * 2 ^ 8 | .cancelled => 3) + n * 2 ^ 16) := by
  unfold statWord
  cases k.state <;> simp only [Nat.zero_add]

theorem execSecwait_ready {sec : BitVec 12} {q : BitVec 2} (rd : Ready s h .ct st) : execSecwait h sec q s =
    if prereqMet (st.seq (seqOf q)).ret sec then .next (s.issuedAs h 0x39 13 s.chip .next .none)
    else .next (s.blockedAt (some .tokenOverflow) .none s.chip) := by
  rw [execSecwait, issue_ends rd rfl rfl rfl rfl, State.ends_ite]
  rfl

theorem execQpush_ready {xa : Reg} (rd : Ready s h .ct st) : execQpush h xa s =
    if st.px .ct xa then .next (s.trapped st .poisonConsumed (noAddr .poisonConsumed) 0)
    else if 16 ≤ st.sh.q3.length then .next (s.blockedAt (some .queueImbalance) .none s.chip)
    else .next (s.issuedWith h 0x3A 13 (st.later .ct 1 [.push3 (st.rx .ct xa)])) := by
  rw [execQpush, issue_ends rd rfl rfl rfl rfl, rd.ctx_px, rd.ctx_rx, rd.ctx_q]
  simp only [↓State.ends_ite]
  rfl

/-! ### Section loads -/

/-- The header that a section load reads with the word (07 R163). -/
def Ctx.imageHeader (x : Ctx) (dst : BitVec 14) (home : Nat) (ents : List TlbEntry) : Section :=
  sectionOf dst (wordOfBytes ((piecesOf home 12 ents).flatMap (fun p => readAt x.mem x.chip x.core p.2.2 (readPlace x.core p.2.2 p.1) p.2.1)))

/-- Whether a sequencer runs, or stands, in positions d to d + n − 1. -/
def Strand.runsIn (st : Strand) (d n : Nat) : Bool :=
  let inRange (p : Nat) : Bool := decide (d ≤ p) && decide (p < d + n)
  allSeqs.any (fun q => inRange (st.seq q).pc.toNat ||
    (match (st.seq q).sec with
     | some k => decide (d ≤ k.lastPos + (if k.check then 1 else 0)) && decide (k.hdr.toNat < d + n)
     | none => false))

theorem runsIn_eq_false {d n : Nat} (hpc : ∀ q, ¬ (d ≤ (st.seq q).pc.toNat ∧ (st.seq q).pc.toNat < d + n))
    (hsec : ∀ q k, (st.seq q).sec = some k → k.lastPos + (if k.check then 1 else 0) < d ∨ d + n ≤ k.hdr.toNat) : st.runsIn d n = false := by
  refine List.any_eq_false.mpr fun q _ => ?_
  rw [Bool.or_eq_true, not_or]
  refine ⟨by simpa using hpc q, ?_⟩
  cases hs : (st.seq q).sec with
  | none => exact Bool.false_ne_true
  | some k =>
    have := hsec q k hs
    simp only [Bool.and_eq_true, decide_eq_true_eq]
    omega

/-- SECLD of n positions whose image is good. -/
def Ctx.loadImage (x : Ctx) (xd : Reg) (v : Word) (sec : BitVec 12) (d va n : Nat) : Effect :=
  if positions x.st.place.iskb < d + n ∨ x.st.runsIn d n = true then .fault .windowInvalid v 0
  else match reachGlobal x.chip x.core x.slot x.st x.owner va (12 * n) true false v with
    | .fault c fa tv => .fault c fa tv
    | .miss p wr => missStall x p wr
    | .global home ents => .go (startedSecld x xd v home ents n sec d) .next .none
    | _ => .fault .windowInvalid v 0

/-- Positions of an image: header, body and check word. -/
def Section.positions (k : Section) : Nat := 1 + k.len.toNat + (if k.check then 1 else 0)

/-- SECLD past the poison of its register. -/
def Ctx.loadSection (x : Ctx) (xd : Reg) (v : Word) (sec : BitVec 12) (dst : BitVec 14) : Effect :=
  match ptrOf v with
  | .global va =>
    if va % 4 ≠ 0 then .fault .align v 0
    else match translateGlobal x.chip x.core x.slot x.st va 12 true false v with
      | .fault c fa tv => .fault c fa tv
      | .miss p wr => missStall x p wr
      | .global home ents => x.loadImage xd v sec dst.toNat va (x.imageHeader dst home ents).positions
      | _ => .fault .windowInvalid v 0
  | _ => .fault .windowInvalid v 0

theorem execSecld_ready {xd xa : Reg} {sec : BitVec 12} {dst : BitVec 14} (rd : Ready s h .ct st) : execSecld h xd xa sec dst s =
    if st.px .ct xa then .next (s.trapped st .poisonConsumed (st.rx .ct xa) 0)
    else s.ends h (copyInfo 0x38) st ((s.ctx st).loadSection xd (st.rx .ct xa) sec dst) := by
  rw [execSecld, issue_ends rd rfl rfl rfl rfl, ← rd.ctx_rx, ← rd.ctx_px]
  exact State.ends_ite _ _

theorem loadSection_starts {x : Ctx} {xd : Reg} {v : Word} {sec : BitVec 12} {dst : BitVec 14} {va h0 h1 n : Nat} {e0 e1 : List TlbEntry}
    (hp : ptrOf v = .global va) (ha : va % 4 = 0) (ht : translateGlobal x.chip x.core x.slot x.st va 12 true false v = .global h0 e0)
    (hn : n = (x.imageHeader dst h0 e0).positions) (hfit : dst.toNat + n ≤ positions x.st.place.iskb) (hrun : x.st.runsIn dst.toNat n = false)
    (hr : reachGlobal x.chip x.core x.slot x.st x.owner va (12 * n) true false v = .global h1 e1) :
    x.loadSection xd v sec dst = .go (startedSecld x xd v h1 e1 n sec dst.toNat) .next .none := by
  have hok : ¬ (positions x.st.place.iskb < dst.toNat + n ∨ x.st.runsIn dst.toNat n = true) := by simp [hrun, hfit]
  unfold Ctx.loadSection Ctx.loadImage
  simp only [hp, ha, ht, ← hn, if_neg hok, hr, ne_eq, not_true, if_false]

end
end Sys2Proof.Machine
end

section
/-! SUPPORT. Control of copies and sections (09 R217, R218; 07 R163 to R166). -/

namespace Sys2Proof.Proofs
open Sys2Proof.Machine

/-- Settles O18: each word ends by its effect; a section load starts when its image is good and nothing runs where it goes
(`loadSection_starts`, `runsIn_eq_false`). -/
theorem copyControlAndSections : Obligations.CopyControlAndSections := by
  constructor
  · intro s h st xd tok rd x named gives
    have hgive {v : Word} (hv : x.copyStat tok = v) : gives v := (execCpyStat_ready rd).trans (by rw [← hv])
    refine ⟨fun hn => ?_, ⟨_, rfl, execCpyCancel_ready rd⟩, fun ht => hgive (if_pos ht), fun ht hl => hgive (copyStat_none ht hl),
      fun k ht hl => hgive ((copyStat_some ht hl).trans (statWord_eq k _))⟩
    · have hn' : (s.ctx st).namedCopies tok = [] := hn
      refine (execCpyCancel_ready rd).trans ?_
      rw [hn']
      rfl
  · intro s h st xd xa sec dst qn va h0 h1 n e0 e1 hdr rd x o fa core sl met
    refine ⟨fun hx hp ha ht hhdr hn hfit hpc hsec hr => ?_, fun hx => (execSecld_ready rd).trans (if_pos hx), fun hm => (execSecwait_ready rd).trans (if_pos hm),
      fun hm => (execSecwait_ready rd).trans (if_neg (Bool.eq_false_iff.mp hm)), fun hx => (execQpush_ready rd).trans (if_pos hx),
      fun hx hq => (execQpush_ready rd).trans ?_, fun hx hq => (execQpush_ready rd).trans ?_⟩
    · have himage : n = ((s.ctx st).imageHeader dst h0 e0).positions := by rw [hn, hhdr]; rfl
      have hload : (s.ctx st).loadSection xd fa sec dst = .go (startedSecld (s.ctx st) xd fa h1 e1 n sec dst.toNat) .next .none :=
        loadSection_starts hp ha ht himage hfit (runsIn_eq_false hpc hsec) hr
      exact (execSecld_ready rd).trans ((if_neg (Bool.eq_false_iff.mp hx)).trans (congrArg (s.ends h (copyInfo 0x38) st) hload))
    · exact (if_neg (Bool.eq_false_iff.mp hx)).trans (if_neg (Nat.not_le.mpr hq))
    · exact (if_neg (Bool.eq_false_iff.mp hx)).trans (if_pos hq)

end Sys2Proof.Proofs
end

section
/-! SUPPORT. Fixed-time loads from the near buffers (10 R230, R235 to R240). -/

namespace Sys2Proof.Machine

section
variable {size : Nat} {runs : List (Nat × Nat)}

/-- Runs pass when every start is aligned and every extent inside (10 R230). -/
theorem checkRuns_none_iff : checkRuns size runs = none ↔ ∀ r, r ∈ runs → r.1 % 64 = 0 ∧ r.1 + r.2 ≤ size := by
  unfold checkRuns
  cases ha : runs.find? (fun r => r.1 % 64 != 0) with
  | some r =>
    have hr : r.1 % 64 ≠ 0 := by simpa using List.find?_some ha
    exact ⟨nofun, fun h => absurd (h r (List.mem_of_find?_eq_some ha)).1 hr⟩
  | none =>
    have halign : ∀ r, r ∈ runs → r.1 % 64 = 0 := by simpa using ha
    cases he : runs.find? (fun r => decide (size < r.1 + r.2)) with
    | some r =>
      have hr : size < r.1 + r.2 := by simpa using List.find?_some he
      exact ⟨nofun, fun h => absurd (h r (List.mem_of_find?_eq_some he)).2 (Nat.not_le.mpr hr)⟩
    | none =>
      have hin : ∀ r, r ∈ runs → r.1 + r.2 ≤ size := by simpa using he
      exact ⟨fun _ r hr => ⟨halign r hr, hin r hr⟩, fun _ => rfl⟩

/-- Alignment is refused before extent. -/
theorem checkRuns_some {c : Cause} {fa : Word} (h : checkRuns size runs = some (c, fa)) :
    (c = .align ∧ ∃ r, r ∈ runs ∧ r.1 % 64 ≠ 0 ∧ fa = BitVec.ofNat 64 r.1) ∨
    (c = .streamRange ∧ (∀ r, r ∈ runs → r.1 % 64 = 0) ∧ ∃ r, r ∈ runs ∧ size < r.1 + r.2) := by
  unfold checkRuns at h
  cases ha : runs.find? (fun r => r.1 % 64 != 0) with
  | some r =>
    rw [ha] at h
    cases h
    exact .inl ⟨rfl, r, List.mem_of_find?_eq_some ha, by simpa using List.find?_some ha, rfl⟩
  | none =>
    rw [ha] at h
    cases he : runs.find? (fun r => decide (size < r.1 + r.2)) with
    | some r =>
      rw [he] at h
      cases h
      exact .inr ⟨rfl, by simpa using ha, r, List.mem_of_find?_eq_some he, by simpa using List.find?_some he⟩
    | none =>
      rw [he] at h
      cases h

end

section
variable {s : State} {h : Head} {st : Strand} {d i : Spec} {xa : Reg} {off : BitVec 20} {buf : Buf} {sn : BitVec 4} {ty : Ty}

/-- The strand with a fixed-time load under way (10 R227, R240). -/
def Strand.loading (st : Strand) (dst : Nat) (data : List Byte) (poison : List Bool) (err : Option Cause) (fa : Word) : Strand :=
  consumeIf (st.later .ld 6 [.reg dst data, .granules (dst / 64) poison]) .ld err fa

theorem Ready.fixedVector_eq (rd : Ready s h .ld st) (dst : Nat) (data : List Byte) (poison : List Bool) (err : Option Cause) (fa : Word) :
    fixedVector (s.ctx st) st dst data poison err fa = st.loading dst data poison err fa := by
  rw [fixedVector, rd.ctx_q]
  rfl

theorem execVld_ready (rd : Ready s h .ld st) (ho : st.checkOperands [vdst d] = none) {o a : Nat} (hoff : (st.rx .ld xa).toNat + off.toNat = o)
    (ha : bufAddr buf s.chip.cur.core + o = a) : execVld h d xa off buf s =
      if o % 64 ≠ 0 then .next (s.trapped st .align (BitVec.ofNat 64 o) 0)
      else if bufSize buf < o + 1024 then .next (s.trapped st .windowInvalid (BitVec.ofNat 64 o) 0)
      else .next (s.issuedWith h 0x40 9 (st.loading (st.opAddr d) (s.mem.readBytes a 1024) (sectorPoison s.chip a 1024) (s.chip.errorAt a 1024)
        (BitVec.ofNat 64 o))) := by
  subst hoff ha
  rw [execVld, issue_ends rd rfl rfl rfl ho, rd.ctx_rx]
  simp only [↓State.ends_ite, State.ctx_st, rd.fixedVector_eq]
  rfl

theorem execVbrd_ready (rd : Ready s h .ld st) (ho : st.checkOperands [vdst d] = none) (hwf : (Instr.vbrd h ty d xa off buf).WF) {o a : Nat}
    (hoff : (st.rx .ld xa).toNat + off.toNat = o) (ha : bufAddr buf s.chip.cur.core + o = a) : execVbrd h ty d xa off buf s =
      if o % tySize ty ≠ 0 then .next (s.trapped st .align (BitVec.ofNat 64 o) 0)
      else if bufSize buf < o + tySize ty then .next (s.trapped st .windowInvalid (BitVec.ofNat 64 o) 0)
      else .next (s.issuedWith h 0x48 9 (st.loading (st.opAddr d) (List.replicate (1024 / tySize ty) (s.mem.readBytes a (tySize ty))).flatten
        (List.replicate 16 (s.chip.errorAt a (tySize ty)).isSome) (s.chip.errorAt a (tySize ty)) (BitVec.ofNat 64 o))) := by
  subst hoff ha
  rw [execVbrd, issue_ends rd rfl rfl hwf ho, rd.ctx_rx]
  simp only [↓State.ends_ite, State.ctx_st, rd.fixedVector_eq]
  rfl

theorem execVlds_ready (rd : Ready s h .ld st) (ho : st.checkOperands [vdst d] = none) {sr : Stream} {b : Nat} (hsr : st.stream sn.toNat = sr)
    (hb : bufAddr sr.buffer s.chip.cur.core + sr.at0 = b) (hr : checkRuns (bufSize sr.buffer) [(sr.at0, 1024)] = none) :
    execVlds h d sn s = .next (s.issuedWith h 0x41 9
      ((st.loading (st.opAddr d) (s.mem.readBytes b 1024) (sectorPoison s.chip b 1024) (s.chip.errorAt b 1024) (BitVec.ofNat 64 sr.at0)).later .ld 1
        [.posAdd sn.toNat sr.rstride.toNat])) := by
  subst hsr hb
  rw [execVlds, issue_ends rd rfl rfl rfl ho]
  simp only [State.ctx_st, hr, rd.fixedVector_eq, rd.ctx_q]
  rfl

/-- The row starts that the indices of VGATH name (10 R239). -/
def State.gatherStarts (s : State) (st : Strand) (i : Spec) (sr : Stream) : List Nat :=
  (indices16 (s.mem.readBytes (windowBase s.chip.cur.core st + st.opAddr i) 32)).map sr.row

section
variable (rd : Ready s h .ld st) (ho : st.checkOperands [vdst d, esrc i 5] = none)
include rd ho

theorem execVgath_poison (hp : st.poisonedRange (st.opAddr i) 32 = true) :
    execVgath h d i sn s = .next (s.trapped st .poisonConsumed (noAddr .poisonConsumed) 0) := by
  rw [execVgath, issue_ends rd rfl rfl rfl ho]
  simp only [State.ctx_st, hp, if_true]
  rfl

theorem execVgath_wbuf (hp : st.poisonedRange (st.opAddr i) 32 = false) (hb : (st.stream sn.toNat).buffer = .wbuf) :
    execVgath h d i sn s = .next (s.trapped st .enginePort (noAddr .enginePort) 0) := by
  rw [execVgath, issue_ends rd rfl rfl rfl ho]
  simp only [State.ctx_st, hp, hb, if_true, Bool.false_eq_true, if_false]
  rfl

/-- What VGATH consumes: an error of its indices, or else of the first row in error. -/
theorem execVgath_ready {starts : List Nat} {badIx : Bool} (hp : st.poisonedRange (st.opAddr i) 32 = false)
    (hb : (st.stream sn.toNat).buffer = .abuf) (hs : s.gatherStarts st i (st.stream sn.toNat) = starts)
    (hx : s.chip.sramBadAt (windowBase s.chip.cur.core st + st.opAddr i) 32 = badIx)
    (hr : checkRuns (bufSize .abuf) (starts.map (fun b => (b, 64))) = none) : execVgath h d i sn s = .next (s.issuedWith h 0x44 9
      (st.loading (st.opAddr d) (starts.flatMap (fun b => s.mem.readBytes (abufAddr s.chip.cur.core + b) 64))
        (starts.map (fun b => (s.chip.errorAt (abufAddr s.chip.cur.core + b) 64).isSome))
        (if badIx then some .sramUncorrected else starts.findSome? (fun b => s.chip.errorAt (abufAddr s.chip.cur.core + b) 64))
        (if badIx then noAddr .sramUncorrected
          else BitVec.ofNat 64 ((starts.find? (fun b => (s.chip.errorAt (abufAddr s.chip.cur.core + b) 64).isSome)).getD 0)))) := by
  have herr : (s.ctx st).specError i 32 = if badIx then some .sramUncorrected else none := by rw [← hx]; rfl
  have hread : (indices16 ((s.ctx st).readOp i 32)).map (st.stream sn.toNat).row = starts := hs
  have hne : ¬ Buf.abuf = Buf.wbuf := by decide
  rw [execVgath, issue_ends rd rfl rfl rfl ho]
  simp only [State.ctx_st, hp, hb, hread, hr, if_false, Bool.false_eq_true, hne, herr, rd.fixedVector_eq, List.flatMap_map, List.map_map,
    List.findSome?_map]
  cases badIx <;> rfl

end

end
end Sys2Proof.Machine
end

section
/-! SUPPORT. Streams and fixed-time loads (10 R230 to R240). -/

namespace Sys2Proof.Proofs
open Sys2Proof.Machine

/-- Settles O22: a stream's runs pass when all are aligned and inside (`checkRuns_none_iff`); each load latches what its buffer holds
(`Strand.loading`). -/
theorem bufferLoads : Obligations.BufferLoads := by
  refine ⟨fun size runs => ⟨checkRuns_none_iff, fun c fa => checkRuns_some⟩, ?_⟩
  intro s h st d i xa off buf sn ty rd o core a lands sr b ix starts bad bits badIx
  refine ⟨fun ho => ⟨fun ha hf => ?_, fun ha => ?_, fun ha hf => ?_, fun hwf ha hf => ?_, fun hr => execVlds_ready rd ho rfl rfl hr⟩, fun ho =>
    ⟨fun hp => execVgath_poison rd ho hp, fun hp hb => execVgath_wbuf rd ho hp hb, fun hp hb hr => ?_⟩⟩
  · exact (execVld_ready rd ho rfl rfl).trans ((if_neg (not_not.mpr ha)).trans (if_neg (Nat.not_lt.mpr hf)))
  · exact (execVld_ready rd ho rfl rfl).trans (if_pos ha)
  · exact (execVld_ready rd ho rfl rfl).trans ((if_neg (not_not.mpr ha)).trans (if_pos hf))
  · exact (execVbrd_ready rd ho hwf rfl rfl).trans ((if_neg (not_not.mpr ha)).trans (if_neg (Nat.not_lt.mpr hf)))
  · have hs : s.gatherStarts st i sr = starts := by
      rw [State.gatherStarts, indices16, List.map_map]
      rfl
    exact execVgath_ready rd ho hp hb hs rfl hr

end Sys2Proof.Proofs
end

section
/-! SUPPORT. Vector loads through pointers, and the index and scale queues (10 R237, R238, R241, R242). -/

namespace Sys2Proof.Machine

section
variable {s : State} {h : Head} {st : Strand} {d : Spec} {xa xb : Reg} {off : BitVec 32} {spec : Bool}

/-- VLD.S of a fault or of data in error: every granule of the destination is poisoned (10 R238). -/
def Ctx.poisonAll (x : Ctx) (dst : Nat) (xb : Reg) : Effect :=
  .go { chip := dropWalks (x.chip.setStrand x.core x.slot ((x.st.later x.q 6 [.granules (dst / 64) (List.replicate 16 true)]).laterX x.q 1 xb
    (BitVec.ofNat 64 (x.tau + 6)))) x.core x.slot, writes := [] } .next .none

/-- A promised vector load, of which a strand has at most 16 (10 R237). -/
def Ctx.vpromises (x : Ctx) (dst : Nat) (spec : Bool) (home : Nat) (ents : List TlbEntry) (hc : Nat) (fa : Word) (xb : Reg) : Effect :=
  if 16 ≤ openLoads x then .block (some .queueImbalance) .none x.chip else x.promises (.vload dst spec) home ents hc fa xb

/-- The error of register space that a load of its bytes consumes. -/
def Ctx.regError (x : Ctx) (a : Nat) : Option Cause := if x.chip.sramBadAt (windowBase x.core x.st + a) 1024 then some .sramUncorrected else none

/-- The effect of VLDP and VLD.S, by where the pointer leads. -/
def Ctx.vloadFrom (x : Ctx) (spec : Bool) (dst : Nat) (xb : Reg) (fa : Word) : Reach → Effect
  | .fault c f tv => if spec then x.poisonAll dst xb else .fault c f tv
  | .miss p wr => missStall x p wr
  | .priv a =>
    if spec && ((x.st.granuleBits a 1024).any id || (x.regError a).isSome) then x.poisonAll dst xb
    else x.done ((consumeIf (x.st.later x.q 1 (regLands dst (x.mem.readBytes (windowBase x.core x.st + a) 1024) (x.st.granuleBits a 1024))) x.q
      (x.regError a) fa).laterX x.q 1 xb (BitVec.ofNat 64 (x.tau + 1)))
  | .scratch b a =>
    if spec && (sectorPoison x.chip (scratchAddr x.core b a) 1024).any id then x.poisonAll dst xb
    else x.done ((fixedVector x x.st dst (x.mem.readBytes (scratchAddr x.core b a) 1024) (sectorPoison x.chip (scratchAddr x.core b a) 1024)
      (x.chip.errorAt (scratchAddr x.core b a) 1024) fa).laterX x.q 1 xb (BitVec.ofNat 64 (x.tau + 6)))
  | .chip c a => x.vpromises dst spec (abufAddr c + a) [] c fa xb
  | .global home ents => x.vpromises dst spec home ents x.core fa xb

theorem vloadWord_ready {opc : BitVec 8} (rd : Ready s h .ld st) (ho : st.checkOperands [vdst d] = none) :
    vloadWord s h opc spec d xa xb off = s.ends h (ldInfo opc) st ((s.ctx st).vloadFrom spec (st.opAddr d) xb (ptrAdd (st.rx .ld xa) off.toInt)
      (reach (s.ctx st) (st.rx .ld xa) off.toInt 1024 64 true false)) := by
  rw [vloadWord, issue_ends rd rfl rfl rfl ho, rd.ctx_rx]
  dsimp only
  generalize hr : reach (s.ctx st) (st.rx .ld xa) off.toInt 1024 64 true false = r
  cases r <;> rfl

theorem ends_poisonAll {i : Info} (rd : Ready s h .ld st) (dst : Nat) : s.ends h i st ((s.ctx st).poisonAll dst xb) =
    .next (s.issuedAs h i.opc i.cls (dropWalks (s.withStrand ((st.later .ld 6 [.granules (dst / 64) (List.replicate 16 true)]).laterX .ld 1 xb
      (BitVec.ofNat 64 (st.run.tau + 6)))) s.chip.cur.core s.chip.cur.slot) .next .none) := by
  rw [Ctx.poisonAll, rd.ctx_q]
  rfl

theorem consumeIf_tau (q : SeqId) (err : Option Cause) (fa : Word) : (consumeIf st q err fa).run.tau = st.run.tau := by
  cases err with
  | none => rfl
  | some c => exact consumeNow_tau q c fa

/-- A load that consumes what is in error, its promise register holding its τ. -/
theorem ends_consumeIf {i : Info} (rd : Ready s h .ld st) (n : Nat) (dst : Nat) (data : List Byte) (poison : List Bool) (err : Option Cause) (fa : Word) :
    s.ends h i st ((s.ctx st).done ((consumeIf (st.later (s.ctx st).q n (regLands dst data poison)) (s.ctx st).q err fa).laterX (s.ctx st).q 1 xb
      (BitVec.ofNat 64 ((s.ctx st).tau + n)))) =
    let u := consumeIf (st.later .ld n (regLands dst data poison)) .ld err fa
    .next (s.issuedWith h i.opc i.cls (u.laterX .ld 1 xb (BitVec.ofNat 64 (u.run.tau + n)))) := by
  dsimp only
  rw [rd.ctx_q, consumeIf_tau]
  rfl

theorem ends_vpromises {i : Info} (rd : Ready s h .ld st) (dst home : Nat) (ents : List TlbEntry) (hc : Nat) (fa : Word) :
    s.ends h i st ((s.ctx st).vpromises dst spec home ents hc fa xb) =
      if 16 ≤ openLoads (s.ctx st) then .next (s.blockedAt (some .queueImbalance) .none s.chip)
      else
        let a := startAccess (s.ctx st) (.vload dst spec) home ents hc true fa
        .next (s.issuedOn h i.opc i.cls a.1 (st.laterX .ld 1 xb (BitVec.ofNat 64 a.2.2) (some a.2.1))) := by
  rw [Ctx.vpromises, State.ends_ite, ends_promises rd]
  rfl

/-- What makes VLD.S poison its destination: a poisoned granule, or an error of the storage. -/
theorem privDirty_iff {g : Bool} {err : Option Cause} : (spec && (g || err.isSome)) = true ↔ spec = true ∧ (g = true ∨ err ≠ none) := by
  rw [Bool.and_eq_true, Bool.or_eq_true, Option.isSome_iff_ne_none]

/-! ### Queues -/

section
variable {i : Spec} (rd : Ready s h .ld st) (ho : st.checkOperands [esrc i 6] = none) (hp : st.poisonedRange (st.opAddr i) 64 = false)
include rd ho hp

theorem execQix_ready : execQix h i s =
    if 8 ≤ st.sh.q0.length then .next (s.blockedAt (some .queueImbalance) .none s.chip)
    else .next (s.issuedWith h 0x45 9 (consumeIf (st.later .ld 1
      [.push0 ((List.range 32).map (fun k => BitVec.ofNat 16 (elem (s.mem.readBytes (windowBase s.chip.cur.core st + st.opAddr i) 64) k 2)))]) .ld
      (if s.chip.sramBadAt (windowBase s.chip.cur.core st + st.opAddr i) 64 then some .sramUncorrected else none) (noAddr .sramUncorrected))) := by
  rw [execQix, issue_ends rd rfl rfl rfl ho]
  simp only [State.ctx_st, hp, Bool.false_eq_true, if_false, ↓State.ends_ite, rd.ctx_q]
  rfl

end

/-- Scales held and under way of the queue that SCL.A or SCL.B fills. -/
def Shared.scalesHeld (sh : Shared) (isB : Bool) : Nat := if isB then sh.q2.length + sh.q2out.sum else sh.q1.length + sh.q1out.sum
/-- The queue with n more scales under way. -/
def Shared.scalesAsked (sh : Shared) (isB : Bool) (n : Nat) : Shared :=
  if isB then { sh with q2out := sh.q2out ++ [n] } else { sh with q1out := sh.q1out ++ [n] }

theorem sclWord_ready {opc : BitVec 8} {ok isB : Bool} {sl : BitVec 4} {n : BitVec 6} {g c : BitVec 16} {sr : Stream} {gg cc a home : Nat}
    (rd : Ready s h .ld st) (hok : ok = true) (hx : xa = 0#6 ∨ bitsOf (st.rx .ld xa) 32 32 = 0) (hsr : st.stream sl.toNat = sr)
    (hg : (if xa = 0#6 then g.toNat else bitsOf (st.rx .ld xa) 16 16) = gg) (hc : (if xa = 0#6 then c.toNat else bitsOf (st.rx .ld xa) 0 16) = cc)
    (ha : sr.sbase.toNat + gg * sr.sstride.toNat + cc = a) (hh : bufAddr sr.buffer s.chip.cur.core + a = home) :
    sclWord s h opc ok isB xa sl n g c =
      if bufSize sr.buffer < a + n.toNat then .next (s.trapped st .streamRange (BitVec.ofNat 64 a) 0)
      else if 512 < st.sh.scalesHeld isB + n.toNat then .next (s.blockedAt (some .queueImbalance) .none s.chip)
      else .next (s.issuedWith h opc 9 (consumeIf (({ st with sh := st.sh.scalesAsked isB n.toNat } : Strand).later .ld 6
        [if isB then .push2 (s.mem.readBytes home n.toNat) else .push1 (s.mem.readBytes home n.toNat)]) .ld (s.chip.errorAt home n.toNat)
        (BitVec.ofNat 64 a))) := by
  have hpair : (if xa = 0#6 then (g.toNat, c.toNat) else (bitsOf (st.rx .ld xa) 16 16, bitsOf (st.rx .ld xa) 0 16)) = (gg, cc) := by
    rw [← hg, ← hc]
    split <;> rfl
  have hres : ¬ (xa ≠ 0#6 ∧ bitsOf (st.rx .ld xa) 32 32 ≠ 0) := by tauto
  subst hsr ha hh
  rw [sclWord, issue_ends rd rfl rfl hok rfl, rd.ctx_rx]
  simp only [hpair, hres, if_false, ↓State.ends_ite, rd.ctx_q]
  rfl

end
end Sys2Proof.Machine
end

section
/-! SUPPORT. Loads through pointers, and queues (10 R237 to R242). -/

namespace Sys2Proof.Proofs
open Sys2Proof.Machine

/-- Settles O23: a vector load ends by where its pointer leads (`vloadWord_ready`); QIX and SCL wait for room in their queue. -/
theorem pointerAndQueueLoads : Obligations.PointerAndQueueLoads := by
  constructor
  · intro s h st d xa xb off spec rd ho x core i opc dst fa dest xbAt lands open_ err asks poisons
    have hend : exec i s = s.ends h (ldInfo opc) st (x.vloadFrom spec dst xb fa dest) := by
      cases spec
      · exact vloadWord_ready (spec := false) rd ho
      · exact vloadWord_ready (spec := true) rd ho
    have hto {r : Reach} (hr : dest = r) : exec i s = s.ends h (ldInfo opc) st (x.vloadFrom spec dst xb fa r) := hend.trans (by rw [hr])
    have hpoison {r : Reach} (hr : dest = r) (he : x.vloadFrom spec dst xb fa r = x.poisonAll dst xb) : poisons :=
      ⟨_, rfl, (hto hr).trans (by rw [he]; exact ends_poisonAll rd dst)⟩
    have hasks {r : Reach} {home hc : Nat} {ents : List TlbEntry} (hr : dest = r) (he : x.vloadFrom spec dst xb fa r = x.vpromises dst spec home ents hc fa xb) :
        (open_ → asks home ents hc) ∧ (¬ open_ → exec i s = .next (s.blockedAt (some .queueImbalance) .none s.chip)) :=
      have hgo := (hto hr).trans (by rw [he]; exact ends_vpromises rd ..)
      ⟨fun hop => hgo.trans (if_neg (Nat.not_le.mpr hop)), fun hop => hgo.trans (if_pos (Nat.not_lt.mp hop))⟩
    refine ⟨fun a hd hs hb => hpoison hd ?_, fun b a hd hs hb => hpoison hd ?_, fun a hd hb => ?_, fun b a hd hb => ?_, fun c a hd => hasks hd rfl,
      fun home ents hd => hasks hd rfl, fun p w hd => hto hd, fun c f tv hd hs => ?_, fun c f tv hd hs => hpoison hd ?_⟩
    · exact if_pos (privDirty_iff.mpr ⟨hs, hb⟩)
    · exact if_pos (by rw [hs]; exact hb)
    · have hclean : ¬ (spec && ((st.granuleBits a 1024).any id || (err a).isSome)) = true := fun hc => by
        obtain ⟨hs, hp⟩ := privDirty_iff.mp hc
        rcases hb with hb | ⟨hg, he⟩
        · exact Bool.false_ne_true (hb.symm.trans hs)
        · exact hp.elim (Bool.eq_false_iff.mp hg) (· he)
      exact (hto hd).trans ((congrArg (s.ends h (ldInfo opc) st) (if_neg hclean)).trans (ends_consumeIf rd ..))
    · have hclean : ¬ (spec && (sectorPoison s.chip (scratchAddr core b a) 1024).any id) = true := by
        rcases hb with hb | hb
        · rw [hb]; exact Bool.false_ne_true
        · rw [hb, Bool.and_false]; exact Bool.false_ne_true
      exact (hto hd).trans ((congrArg (s.ends h (ldInfo opc) st) (if_neg hclean)).trans (ends_consumeIf rd ..))
    · exact (hto hd).trans (by rw [hs]; rfl)
    · rw [hs]; rfl
  · intro s h st i xa sl n g c isB rd core sr v gg cc a home held w opc data sh
    refine ⟨fun ho hp => ⟨fun hq => (execQix_ready rd ho hp).trans (if_neg (Nat.not_le.mpr hq)), fun hq => (execQix_ready rd ho hp).trans (if_pos hq)⟩,
      fun hwf hx => ?_⟩
    have hbits : xa = 0#6 ∨ bitsOf (st.rx .ld xa) 32 32 = 0 := hx.imp_right fun hv => by rw [bitsOf_eq_extract]; exact congrArg BitVec.toNat hv
    have hend : exec w s = if bufSize sr.buffer < a + n.toNat then .next (s.trapped st .streamRange (BitVec.ofNat 64 a) 0)
        else if 512 < held + n.toNat then .next (s.blockedAt (some .queueImbalance) .none s.chip)
        else .next (s.issuedWith h opc 9 (consumeIf (({ st with sh := sh } : Strand).later .ld 6 [if isB then .push2 data else .push1 data])
          .ld (s.chip.errorAt home n.toNat) (BitVec.ofNat 64 a))) := by
      have hg : (if xa = 0#6 then g.toNat else bitsOf (st.rx .ld xa) 16 16) = gg := by rw [bitsOf_eq_extract]
      have hc : (if xa = 0#6 then c.toNat else bitsOf (st.rx .ld xa) 0 16) = cc := by rw [bitsOf_eq_extract]
      cases isB
      · exact sclWord_ready (isB := false) rd hwf hbits rfl hg hc rfl rfl
      · exact sclWord_ready (isB := true) rd hwf hbits rfl hg hc rfl rfl
    exact ⟨fun hs => hend.trans (if_pos hs), fun hs hq => hend.trans ((if_neg (Nat.not_lt.mpr hs)).trans (if_pos hq)),
      fun hs hq => hend.trans ((if_neg (Nat.not_lt.mpr hs)).trans (if_neg (Nat.not_lt.mpr hq)))⟩

end Sys2Proof.Proofs
end

section
/-! SUPPORT. Direct stores and the write lane (11 R247 to R258). -/

namespace Sys2Proof.Machine

theorem readFrom_length (l : List Host.Cell) (a n : Nat) : (readFrom l a n).length = n := by
  induction n generalizing l a with
  | zero => rfl
  | succ n ih =>
    cases l with
    | nil => simp [readFrom, ih]
    | cons c t =>
      unfold readFrom
      split <;> simp [ih]

@[simp] theorem readBytes_length (m : Memory) (a n : Nat) : (m.readBytes a n).length = n := readFrom_length ..

section
variable {s : State} {h : Head} {st : Strand} {a i : Spec} {xb xd : Reg}

theorem execVst_ready {off : BitVec 20} {buf : Buf} {o : Nat} (rd : Ready s h .st st) (ho : st.checkOperands [vsrc a] = none)
    (hoff : (st.rx .st xb).toNat + off.toNat = o) : execVst h a xb off buf s =
      if st.poisonedRange (st.opAddr a) 1024 then .next (s.trapped st .poisonStore (noAddr .poisonStore) 0)
      else if buf = .wbuf then .next (s.trapped st .enginePort (noAddr .enginePort) 0)
      else if o % 64 ≠ 0 then .next (s.trapped st .align (BitVec.ofNat 64 o) 0)
      else if 0x40000 < o + 1024 then .next (s.trapped st .windowInvalid (BitVec.ofNat 64 o) 0)
      else .next (s.issuedWith h 0x50 9 (st.later .st 1
        [.bytes (abufAddr s.chip.cur.core + o) (s.mem.readBytes (windowBase s.chip.cur.core st + st.opAddr a) 1024)])) := by
  subst hoff
  rw [execVst, issue_ends rd rfl rfl rfl ho, rd.ctx_rx]
  simp only [↓State.ends_ite, State.ctx_st, rd.ctx_q]
  rfl

/-- The effect of VSTP by where its pointer leads (11 R253). -/
def Ctx.vstoreTo (x : Ctx) (xd : Reg) (fa : Word) (data : List Byte) : Except (Cause × Word) Target → Effect
  | .error (c, p) => .fault c p 0
  | .ok (.priv a) => x.done (x.st.later x.q 1 (regLands a data (List.replicate 16 false) ++
      [.x x.q (x.st.regNo x.q xd) (BitVec.ofNat 64 x.st.lane.wissued) none false]))
  | .ok (.scratch _ a) => x.done (x.st.later x.q 1 [.bytes (abufAddr x.core + a) data,
      .x x.q (x.st.regNo x.q xd) (BitVec.ofNat 64 x.st.lane.wissued) none false])
  | .ok t => lanePointer x xd fa t data

theorem execVstp_ready {off : BitVec 32} (rd : Ready s h .st st) (ho : st.checkOperands [vsrc a] = none) : execVstp h xd a xb off s =
    if st.poisonedRange (st.opAddr a) 1024 then .next (s.trapped st .poisonStore (noAddr .poisonStore) 0)
    else s.ends h (stInfo 0x51) st ((s.ctx st).vstoreTo xd (ptrAdd (st.rx .st xb) off.toInt)
      (s.mem.readBytes (windowBase s.chip.cur.core st + st.opAddr a) 1024)
      (checkPtr s.chip.cur.core st (st.rx .st xb) off.toInt 1024 64 true)) := by
  rw [execVstp, issue_ends rd rfl rfl rfl ho, rd.ctx_rx]
  simp only [↓State.ends_ite, State.ctx_st, State.ctx_core]
  refine if_congr Iff.rfl rfl ?_
  generalize checkPtr s.chip.cur.core st (st.rx .st xb) off.toInt 1024 64 true = r
  rcases r with ⟨c, p⟩ | t
  · rfl
  · cases t <;> rfl

theorem execVscat_ready {sn : BitVec 4} {starts : List Nat} (rd : Ready s h .st st) (ho : st.checkOperands [vsrc a, esrc i 5] = none)
    (hd : st.poisonedRange (st.opAddr a) 1024 = false) (hp : st.poisonedRange (st.opAddr i) 32 = false) (hb : (st.stream sn.toNat).buffer = .abuf)
    (hs : s.gatherStarts st i (st.stream sn.toNat) = starts) (hr : checkRuns 0x40000 (starts.map (fun b => (b, 64))) = none) :
    execVscat h sn a i s = .next (s.issuedWith h 0x52 9 (st.later .st 1 (starts.mapIdx (fun k b => .bytes (abufAddr s.chip.cur.core + b)
      (chunk (s.mem.readBytes (windowBase s.chip.cur.core st + st.opAddr a) 1024) k 64))))) := by
  have hread : (indices16 ((s.ctx st).readOp i 32)).map (st.stream sn.toNat).row = starts := hs
  have hne : ¬ Buf.abuf = Buf.wbuf := by decide
  have hr' : checkRuns (bufSize .abuf) (starts.map (fun b => (b, 64))) = none := hr
  rw [execVscat, issue_ends rd rfl rfl rfl ho]
  simp only [State.ctx_st, hd, hp, Bool.or_self, hb, hread, hr', if_false, Bool.false_eq_true, hne, rd.ctx_q]
  rfl

/-! ### Lane words -/

/-- A pointer check that leads into a cluster passes a cluster-shared pointer alone. -/
theorem ptrOf_of_checkPtr_cluster {core : Nat} {v : Word} {off : Int} {n al : Nat} {b : Bool} {k w : Nat}
    (h : checkPtr core st v off n al b = .ok (.cluster k w)) : ∃ j, ptrOf (ptrAdd v off) = .cluster j w := by
  unfold checkPtr at h
  grind

section
variable {x : Ctx} {fa : Word} {data : List Byte}

theorem lanePointer_cluster {c o : Nat} (hl : laneTest x data.length = none) (hm : (x.owner.stride .mesh).isSome = true) :
    lanePointer x xd fa (.cluster c o) data =
      .go (startedLane x xd data.length (runBytes (abufAddr c + o) [] data) 0 0 [] true fa) .next .none := by
  have hmesh : (x.owner.stride .mesh).isNone = false := Option.isNone_eq_false_iff.mpr hm
  simp only [lanePointer, hl, hmesh, Bool.false_eq_true, if_false]
  rfl

theorem lanePointer_global {va home : Nat} {ents : List TlbEntry} (hl : laneTest x data.length = none)
    (hr : reachGlobal x.chip x.core x.slot x.st x.owner va data.length false true fa = .global home ents) :
    lanePointer x xd fa (.global va) data = .go (startedLane x xd data.length (runBytes home ents data) 0 0 ents false fa) .next .none := by
  simp only [lanePointer, hl, hr]
  rfl

/-- A handle that may be written passes on. -/
theorem laneHandle_write {xh : Reg} {k : Handle → Effect} {hd : Handle} {r : Bool}
    (hf : readHandle x.mem x.chip (x.chip.part x.owner.part) x.st.place.owner (x.rx xh) = some (hd, r, true)) : laneHandle x xh k = k hd := by
  simp only [laneHandle, hf]
  rfl

end

section
variable {xh xc xs : Reg} {hd : Handle} {r : Bool} (rd : Ready s h .st st)
include rd

theorem execWst_starts {o e : List Nat} {n : Nat} (ho : st.checkOperands [vsrc a] = none)
    (hf : readHandle s.mem s.chip (s.chip.part (s.chip.owner st.place.owner).part) st.place.owner (st.rx .st xh) = some (hd, r, true))
    (horg : fields16 (st.rx .st xc) = o) (hext : fields16 (st.rx .st xs) = e)
    (hn : footprint hd (e.getD 0 1) (e.getD 1 1 * e.getD 2 1 * e.getD 3 1) = n) (hbad : extentBad hd o e = false) (hle : n ≤ 1024)
    (hp : st.poisonedRange (st.opAddr a) n = false) (hl : laneTest (s.ctx st) n = none) (hc : classOf (s.ctx st) hd (st.rx .st xh) = none) :
    execWst h xd xh xc xs a s = .next (s.issuedRes h 0x53 13 (startedLane (s.ctx st) xd n
      ((s.mem.readBytes (windowBase s.chip.cur.core st + st.opAddr a) n).mapIdx (fun i b => (copySource hd (o.getD 0 0) (e.getD 0 1) (tileRowList hd o e) i, b)))
      hd.ilv hd.key [] false (BitVec.ofNat 64 hd.va))) := by
  subst horg hext hn
  have hf' : readHandle (s.ctx st).mem (s.ctx st).chip ((s.ctx st).chip.part (s.ctx st).owner.part) (s.ctx st).st.place.owner ((s.ctx st).rx xh) =
      some (hd, r, true) := by rw [rd.ctx_rx]; exact hf
  rw [execWst, issue_ends rd rfl rfl rfl ho, laneHandle_write hf']
  simp only [rd.ctx_rx, State.ctx_st, hbad, hp, hl, hc, Bool.false_or, decide_eq_true_eq, Nat.not_lt.mpr hle, if_false, Bool.false_eq_true]
  rfl

theorem execWstG_starts {f k w : Nat} (ho : st.checkOperands [vsrc a] = none) (hfl : (st.rx .st xs).toNat = f)
    (hp : checkPtr s.chip.cur.core st (st.rx .st xh) 0 f 64 = .ok (.cluster k w)) (hmod : f % 64 = 0) (h64 : 64 ≤ f) (hle : f ≤ 1024)
    (hpo : st.poisonedRange (st.opAddr a) f = false) (hl : laneTest (s.ctx st) f = none)
    (hm : ((s.chip.owner st.place.owner).stride .mesh).isSome = true) :
    execWstG h xd xh xs a s = .next (s.issuedRes h 0x53 13 (startedLane (s.ctx st) xd f (runBytes (abufAddr k + w) []
      (s.mem.readBytes (windowBase s.chip.cur.core st + st.opAddr a) f)) 0 0 [] true (st.rx .st xh))) := by
  obtain ⟨j, hj⟩ := ptrOf_of_checkPtr_cluster hp
  rw [ptrAdd_zero] at hj
  have hbits : bitsOf (st.rx .st xs) 0 11 = f ∧ bitsOf (st.rx .st xs) 11 53 = 0 := by
    have := (st.rx .st xs).isLt
    simp only [bitsOf]
    omega
  have hmax : max 64 (min f 1024) = f := by omega
  have hlen : ¬ (bitsOf (st.rx .st xs) 11 53 ≠ 0 ∨ f < 64 ∨ 1024 < f ∨ f % 64 ≠ 0) := by
    rw [hbits.2]
    omega
  have hgo := lanePointer_cluster (x := s.ctx st) (xd := xd) (fa := st.rx .st xh) (c := k) (o := w)
    (data := s.mem.readBytes (windowBase s.chip.cur.core st + st.opAddr a) f) (by rw [readBytes_length]; exact hl) hm
  rw [readBytes_length] at hgo
  rw [execWstG, issue_ends rd rfl rfl rfl ho]
  simp only [rd.ctx_rx, State.ctx_st, State.ctx_core, hj, hbits.1, hmax, hp, if_neg hlen, hpo, if_false, Bool.false_eq_true]
  exact congrArg (s.ends h (laneInfo 0x53) st) hgo

theorem execWstc_starts {t : Toks} {c : BitVec 6} {ty : Ty} {rnd : Rnd} {ovf : Ovf} {nochk : Bool} {o : List Nat}
    (hwf : (Instr.wstc h xd xh xc t c ty rnd ovf nochk).WF) (hport : matrixPort (s.ctx st) [c] = none)
    (hf : readHandle s.mem s.chip (s.chip.part (s.chip.owner st.place.owner).part) st.place.owner (st.rx .st xh) = some (hd, r, true))
    (hfmt : hd.fmt = ty) (horg : fields16 (st.rx .st xc) = o) (hext : extentBad hd o [32, 32, 1, 1] = false)
    (hl : laneTest (s.ctx st) (1024 * tySize ty) = none) (hc : classOf (s.ctx st) hd (st.rx .st xh) = none) :
    execWstc h xd xh xc t c ty rnd ovf nochk s = .next (s.issuedRes h 0x54 13 (startedWstc (s.ctx st) xd t c ty rnd ovf nochk hd o)) := by
  subst horg
  have hf' : readHandle (s.ctx st).mem (s.ctx st).chip ((s.ctx st).chip.part (s.ctx st).owner.part) (s.ctx st).st.place.owner ((s.ctx st).rx xh) =
      some (hd, r, true) := by rw [rd.ctx_rx]; exact hf
  have hring : (s.ctx st).st.sh.rings.ready (s.ctx st).q h = true := by rw [rd.ctx_q]; exact rd.tokens
  rw [execWstc, issue_ends rd rfl rfl hwf rfl, hport]
  simp only [Ctx.afterRings, hring, if_true, laneHandle_write hf', rd.ctx_rx, hfmt, ne_eq, not_true, if_false, hext, Bool.false_eq_true, wstcSize, hl, hc]
  rfl

end

end
end Sys2Proof.Machine
end

section
/-! SUPPORT. Stores of the store engine (11 R252 to R257). -/

namespace Sys2Proof.Proofs
open Sys2Proof.Machine

/-- Settles O24: each store latches its bytes at the place its checks pass (`execVst_ready`, `execVstp_ready`, `execVscat_ready`). -/
theorem bufferStores : Obligations.BufferStores := by
  intro s h st a i xb xd off off32 sn rd core o src sr ix starts num p dirty
  refine ⟨fun ho => ⟨fun hd => ⟨(execVst_ready rd ho rfl).trans (if_pos hd), (execVstp_ready rd ho).trans (if_pos hd)⟩, fun hd => ?_⟩,
    fun ho hd hp hb hr => ?_⟩
  · have hd' : ¬ st.poisonedRange (st.opAddr a) 1024 = true := Bool.eq_false_iff.mp hd
    have hab : ¬ Buf.abuf = Buf.wbuf := by decide
    have hvst := (execVst_ready (xb := xb) (off := off) (buf := .abuf) rd ho rfl).trans ((if_neg hd').trans (if_neg hab))
    have hvstp {r : Except (Cause × Word) Target} (hr : p = r) : exec (.vstp h xd a xb off32) s =
        s.ends h (stInfo 0x51) st ((s.ctx st).vstoreTo xd (ptrAdd (st.rx .st xb) off32.toInt) src r) :=
      (execVstp_ready rd ho).trans ((if_neg hd').trans (by rw [← hr]))
    refine ⟨(execVst_ready rd ho rfl).trans ((if_neg hd').trans (if_pos rfl)), fun ha => hvst.trans (if_pos ha),
      fun ha hf => hvst.trans ((if_neg (not_not.mpr ha)).trans (if_pos hf)), fun ha hf => hvst.trans ((if_neg (not_not.mpr ha)).trans (if_neg (Nat.not_lt.mpr hf))),
      fun w hw => (hvstp hw).trans ?_, fun w hw => (hvstp hw).trans ?_, fun c fa hf => hvstp hf⟩
    · rw [Ctx.vstoreTo, rd.ctx_q]; rfl
    · rw [Ctx.vstoreTo, rd.ctx_q]; rfl
  · have hs : s.gatherStarts st i sr = starts := by
      rw [State.gatherStarts, indices16, List.map_map]
      rfl
    refine (execVscat_ready rd ho hd hp hb hs hr).trans ?_
    simp only [chunk, Nat.mul_comm _ 64]
    rfl

/-- Settles O25: a lane word whose checks and tests pass starts its store (`execWst_starts` and its like). -/
theorem laneStores : Obligations.LaneStores := by
  intro s h st xd xh xc xs xb src off t c ty rnd ovf nochk hd rdp rd x core o e at_ found n f go
  refine ⟨fun ho hf hb hle hp hl hc => execWst_starts rd ho hf rfl rfl rfl hb hle hp hl hc,
    fun k w ho hp hmod h64 hle hpo hl hm => execWstG_starts rd ho rfl hp hmod h64 hle hpo hl hm,
    fun va home ents ho hp hpo hl hr => ?_, fun hwf hport hf hfmt hext hl hc => execWstc_starts rd hwf hport hf hfmt rfl hext hl hc⟩
  have hgo := lanePointer_global (x := s.ctx st) (xd := xd) (va := va) (home := home) (ents := ents) (fa := ptrAdd (st.rx .st xb) off.toInt)
    (data := s.mem.readBytes at_ 1024) (by rw [readBytes_length]; exact hl) (by rw [readBytes_length]; exact hr)
  rw [readBytes_length] at hgo
  refine (execVstp_ready rd ho).trans ((if_neg (Bool.eq_false_iff.mp hpo)).trans ?_)
  rw [hp]
  exact congrArg (s.ends h (stInfo 0x51) st) hgo

end Sys2Proof.Proofs
end
section
/-! SUPPORT. The tests and the numbering of lane stores, and the words that wait for them (11 R247 to R258). -/

namespace Sys2Proof.Machine

/-- Which of the two lane traps a word at the head has taken already. -/
def HeadWait.laneTaken (w : HeadWait) : Bool × Bool := match w with | .laneRetry f b _ => (f, b) | _ => (false, false)
/-- Since when a lane word has waited for the queue. -/
def HeadWait.laneSince (w : HeadWait) (now : Nat) : Nat := match w with | .laneFull t | .laneRetry _ _ (some t) => t | _ => now

section
variable {w : HeadWait} {f b : Bool}

theorem laneTaken_eq (h : (∃ t, w = .laneRetry f b t) ∨ (∀ f' b' t, w ≠ .laneRetry f' b' t) ∧ f = false ∧ b = false) : w.laneTaken = (f, b) := by
  rcases h with ⟨t, rfl⟩ | ⟨hw, rfl, rfl⟩
  · rfl
  · unfold HeadWait.laneTaken
    split
    · next f' b' t => exact absurd rfl (hw f' b' t)
    · rfl

theorem laneSince_eq {t now : Nat} (hf : (∃ t, w = .laneRetry f b t) ∨ (∀ f' b' t, w ≠ .laneRetry f' b' t) ∧ f = false ∧ b = false)
    (h : w = .laneFull t ∨ w = .laneRetry f b (some t) ∨ (∀ u, w ≠ .laneFull u) ∧ (∀ u, w ≠ .laneRetry f b (some u)) ∧ t = now) :
    w.laneSince now = t := by
  rcases h with rfl | rfl | ⟨hfull, hretry, rfl⟩
  · rfl
  · rfl
  · unfold HeadWait.laneSince
    split
    · next u => exact absurd rfl (hfull u)
    · next f' b' u =>
      rcases hf with ⟨v, hv⟩ | ⟨hne, -⟩
      · cases hv
        exact absurd rfl (hretry u)
      · exact absurd rfl (hne f' b' (some u))
    · rfl

end

section
variable {x : Ctx} {n : Nat}

/-- The queue of the lane has no room for a store of n bytes. -/
def Lane.fullFor (l : Lane) (n : Nat) : Bool := decide (16 ≤ l.queue.length) || decide (16384 < l.queue.foldl (fun t e => t + e.staged) 0 + n)

/-- The two tests of a lane store, the budget's first (11 R248, R249). -/
theorem laneTest_eq (x : Ctx) (n : Nat) : laneTest x n =
    if x.st.lane.brem < cdiv n 32 then
      if laneBudget x.owner x.st.lane < cdiv n 32 then some (trapNow .wlaneBudget)
      else if laneBudtrap x.st.lane && !x.sq.wait.laneTaken.2 then some (trapNow .wlaneBudget)
      else some (.block none x.sq.wait x.chip)
    else if x.st.lane.fullFor n then
      if x.sq.wait.laneTaken.1 then some (.block none x.sq.wait x.chip)
      else if x.sq.wait.laneSince x.tau + laneBpwait x.st.lane ≤ x.tau then some (trapNow .wlaneBackpressure)
      else some (.block none (if x.sq.wait.laneTaken.2 then .laneRetry false true (some (x.sq.wait.laneSince x.tau))
        else .laneFull (x.sq.wait.laneSince x.tau)) x.chip)
    else none := by
  rfl

theorem fullFor_iff {l : Lane} : l.fullFor n = true ↔ 16 ≤ l.queue.length ∨ 16384 < l.queue.foldl (fun t e => t + e.staged) 0 + n := by
  simp [Lane.fullFor]

end

section
variable {s : State} {h : Head} {st : Strand}

theorem execWdrain_ready {xa : Reg} (rd : Ready s h .st st) : execWdrain h xa s =
    if st.lane.wissued < (st.rx .st xa).toNat then .next (s.trapped st .queueImbalance (noAddr .queueImbalance) 0)
    else if (st.rx .st xa).toNat ≤ st.lane.wdone then .next (s.issuedAs h 0x55 13 s.chip .next .none)
    else .next (s.blockedAt none .none s.chip) := by
  rw [execWdrain, issue_ends rd rfl rfl rfl rfl, rd.ctx_rx]
  simp only [↓State.ends_ite]
  rfl

theorem execWbud_ready {xd : Reg} (rd : Ready s h .st st) : execWbud h xd s =
    .next (s.issuedWith h 0x56 13 (st.laterX .st 1 xd (BitVec.ofNat 64 (st.lane.brem + (16 - st.lane.queue.length) * 2 ^ 32)))) := by
  rw [execWbud, issue_ends rd rfl rfl rfl rfl]
  exact (State.ends_writeX ..).trans (by rw [rd.seq]; rfl)

theorem execWfence_ready {scope : Scope} {tau : Nat} {preds : List Nat} (rd : Ready s h .st st)
    (hw : st.st.wait = .fence tau preds ∨ (∀ t l, st.st.wait ≠ .fence t l) ∧ tau = st.run.tau ∧ preds = predecessors (s.ctx st) Work.isLane scope) :
    execWfence h scope s = if preds.filter (fun w => !performedAt s.chip w scope) ≠ [] then
        .next (s.blockedAt none (.fence tau (preds.filter (fun w => !performedAt s.chip w scope))) s.chip)
      else .next (s.issuedWith h 0x57 13 (st.fenced .st tau 0x40 0x3F)) := by
  rw [execWfence, issue_ends rd rfl rfl rfl rfl, fenceBody_ready (q := .st) rd hw, State.ends_ite]
  rfl

end
end Sys2Proof.Machine
end

section
/-! SUPPORT. Tests and waits of the lane (11 R247 to R258). -/

namespace Sys2Proof.Proofs
open Sys2Proof.Machine

/-- Settles O26: the two tests are one case analysis (`laneTest_eq`) on what the word has taken and since when it waits. -/
theorem laneTestsAndWaits : Obligations.LaneTestsAndWaits := by
  refine ⟨fun x n f b hw => ?_, fun x xd n bs ilv key ents onChip fa => ?_, fun s h st xa xd scope tau preds rd => ?_⟩
  · intro l c budget full since
    have htaken := laneTaken_eq hw
    have hfull : l.fullFor n = true ↔ full := fullFor_iff
    have htest := laneTest_eq x n
    rw [htaken] at htest
    refine ⟨fun hb hc => ?_, fun hb hc ht hf => ?_, fun hb hc ht => ?_, fun hb hf ht => ?_, fun t hb hf ht hs => ?_, fun hb hf => ?_⟩
    · exact htest.trans ((if_pos hb).trans (if_pos hc))
    · subst hf
      exact htest.trans ((if_pos hb).trans ((if_neg (Nat.not_lt.mpr hc)).trans (if_pos (by rw [ht]; rfl))))
    · have hno : ¬ (laneBudtrap l && !b) = true := by
        rcases ht with ht | rfl
        · rw [ht]; exact Bool.false_ne_true
        · rw [Bool.not_true, Bool.and_false]; exact Bool.false_ne_true
      exact htest.trans ((if_pos hb).trans ((if_neg (Nat.not_lt.mpr hc)).trans (if_neg hno)))
    · exact htest.trans ((if_neg (Nat.not_lt.mpr hb)).trans ((if_pos (hfull.mpr hf)).trans (if_pos ht)))
    · have hsince : x.sq.wait.laneSince x.tau = t := laneSince_eq hw hs
      rw [hsince] at htest
      refine htest.trans ((if_neg (Nat.not_lt.mpr hb)).trans ((if_pos (hfull.mpr hf)).trans ((if_neg (by rw [ht]; exact Bool.false_ne_true)).trans ?_)))
      exact (apply_ite some ..).symm
    · exact htest.trans ((if_neg (Nat.not_lt.mpr hb)).trans (if_neg (mt hfull.mp hf)))
  · intro r l e
    exact ⟨rfl, rfl, Chip.strand?_setStrand .., _, Tab.get?_set_self .., rfl, rfl, rfl⟩
  · intro v left
    refine ⟨fun hv => (execWdrain_ready rd).trans (if_pos hv), fun hv hd => (execWdrain_ready rd).trans ((if_neg (Nat.not_lt.mpr hv)).trans (if_pos hd)),
      fun hv hd => (execWdrain_ready rd).trans ((if_neg (Nat.not_lt.mpr hv)).trans (if_neg (Nat.not_le.mpr hd))), execWbud_ready rd,
      fun hw => ⟨fun hl => (execWfence_ready rd hw).trans (if_neg (not_not.mpr hl)), fun hl => (execWfence_ready rd hw).trans (if_pos hl)⟩⟩

end Sys2Proof.Proofs
end

section
/-! SUPPORT. Lane-wise words of the vector engine (13 R264 to R277, R287). -/

namespace Sys2Proof.Machine

@[simp] theorem chunksOf_length (n k : Nat) (l : List Byte) : (chunksOf n k l).length = k := by
  induction k generalizing l with
  | zero => rfl
  | succ k ih => simp [chunksOf, ih]

@[simp] theorem elemsOf_length (x : Ctx) (sp : Spec) (e : Nat) : (elemsOf x sp e).length = 1024 / e := by simp [elemsOf]

section
variable {α β : Type} {n : Nat}

/-- A list is what its positions hold. -/
theorem map_range_getD {l : List α} (hl : l.length = n) (d : α) : (List.range n).map (fun k => l.getD k d) = l := by
  subst hl
  exact List.ext_getElem (by simp) (fun k h1 h2 => by simp [List.getD_eq_getElem?_getD, h2])

/-- Lanes with their elements, position by position. -/
theorem zip_eq_map_range {l : List α} {r : List β} (hl : l.length = n) (hr : r.length = n) (d : α) (e : β) :
    List.zip l r = (List.range n).map (fun k => (l.getD k d, r.getD k e)) := by
  conv_lhs => rw [← map_range_getD hl d, ← map_range_getD hr e]
  exact List.zip_map' ..

theorem zip_range_eq {r : List β} (hr : r.length = n) (e : β) :
    List.zip (List.range n) r = (List.range n).map (fun k => (k, r.getD k e)) := by
  rw [zip_eq_map_range List.length_range hr 0 e]
  refine List.map_congr_left (fun k hk => ?_)
  simp [List.getD_eq_getElem?_getD, List.getElem?_range (List.mem_range.mp hk)]

end

/-- What the active lanes give of three operands. -/
theorem zip_lanes {n : Nat} {a b c : List Nat} (ha : a.length = n) (hb : b.length = n) (hc : c.length = n) (on : Nat → Bool)
    (f : Nat → Nat → Nat → Num1) :
    (List.zip (List.range n) (List.zip a (List.zip b c))).map (fun p => if on p.1 then some (f p.2.1 p.2.2.1 p.2.2.2) else none) =
      laneResults on n (fun k => f (a.getD k 0) (b.getD k 0) (c.getD k 0)) := by
  rw [zip_eq_map_range hb hc 0 0, zip_eq_map_range ha (by simp) 0 (0, 0), zip_range_eq (by simp) (0, 0, 0), List.map_map]
  refine List.map_congr_left (fun k hk => ?_)
  simp [List.getD_eq_getElem?_getD, List.getElem?_range (List.mem_range.mp hk)]

section
variable {s : State} {h : Head} {st : Strand} {opc : BitVec 8} {cls lat : Nat} {ok : Bool} {ops : List Opnd} {ty : Ty} {d a b : Spec}
  {srcs : List Spec} {ln : Lanes} {snan : Bool}

/-- The lane that FP_SNAN of a word of these sources names. -/
def Ctx.snanOf (x : Ctx) (ty : Ty) (ln : Lanes) (srcs : List Spec) : Option Nat :=
  snanLane x ty (laneOn x ln (tySize ty)) (srcs.map (fun sp => elemsOf x sp (tySize ty)))

/-- The strand with the results of lanes of e bytes from `off` latched (13 R268, R271). -/
def Ctx.lanesLater (x : Ctx) (lat e off : Nat) (bad : Nat → Bool) (rs : List (Option Num1)) : Strand :=
  vecLater x lat (laneLands off e (rs.map (fun r => r.map (·.bits))) ++ poisonLands off e (rs.map (·.isSome)) bad) (raisedBy rs)

/-- A lane-wise word issues, its lanes' results latched. -/
theorem laneWise_clean {f : Ctx → Nat → Nat → Nat → Num1} (rd : Ready s h .cp st) (hok : ok = true) (ho : st.checkOperands ops = none)
    (hs : (if snan then (s.ctx st).snanOf ty ln (a :: srcs) else none) = none) {va vb vc : List Nat}
    (ha : elemsOf (s.ctx st) a (tySize ty) = va) (hb : (srcs.map (fun sp => elemsOf (s.ctx st) sp (tySize ty))).getD 0 va = vb)
    (hc : (srcs.map (fun sp => elemsOf (s.ctx st) sp (tySize ty))).getD 1 va = vc) :
    laneWise s h (vecInfo opc cls ok) ops lat ty d (a :: srcs) ln snan f = .next (s.issuedWith h opc cls ((s.ctx st).lanesLater lat (tySize ty)
      (st.opAddr d) (sameGranule (s.ctx st) d (a :: srcs)) (laneResults (laneOn (s.ctx st) ln (tySize ty)) (1024 / tySize ty)
        (fun k => f (s.ctx st) (va.getD k 0) (vb.getD k 0) (vc.getD k 0))))) := by
  have hva : va.length = 1024 / tySize ty := by rw [← ha, elemsOf_length]
  have hlen (k : Nat) : ((srcs.map (fun sp => elemsOf (s.ctx st) sp (tySize ty))).getD k va).length = 1024 / tySize ty := by
    rw [List.getD_eq_getElem?_getD, List.getElem?_map]
    cases srcs[k]? with
    | none => exact hva
    | some sp => exact elemsOf_length ..
  rw [← zip_lanes hva (hb ▸ hlen 0) (hc ▸ hlen 1) (laneOn (s.ctx st) ln (tySize ty)) (f (s.ctx st)), laneWise, issue_ends rd rfl rfl hok ho]
  subst ha hb hc
  simp only [Ctx.snanOf] at hs
  simp only [hs]
  rfl

/-- A lane-wise word that reads a signalling NaN where that traps (05 R94). -/
theorem laneWise_snan {f : Ctx → Nat → Nat → Nat → Num1} (rd : Ready s h .cp st) (hok : ok = true)
    (ho : st.checkOperands ops = none) {k : Nat}
    (hs : (s.ctx st).snanOf ty ln srcs = some k) : laneWise s h (vecInfo opc cls ok) ops lat ty d srcs ln true f =
      .next (s.trapped st .fpSnan (noAddr .fpSnan) (BitVec.ofNat 64 k)) := by
  rw [laneWise, issue_ends rd rfl rfl hok ho]
  simp only [Ctx.snanOf] at hs
  simp only [hs, if_true]
  rfl

section
variable {i : Instr}

/-- What a lane-wise word of operands `ops` and sources `srcs` does: it completes with `g` of its lanes, or traps at a signalling NaN. -/
def State.laneOrSnan (s : State) (h : Head) (st : Strand) (i : Instr) (opc : BitVec 8) (cls lat : Nat) (ty : Ty) (d : Spec) (srcs : List Spec)
    (ln : Lanes) (g : List Nat → Num1) : Prop :=
  ((s.ctx st).snanOf ty ln srcs = none → s.laneWise h st i opc cls lat ty d srcs ln g) ∧
    ∀ k, (s.ctx st).snanOf ty ln srcs = some k → exec i s = .next (s.trapped st .fpSnan (noAddr .fpSnan) (BitVec.ofNat 64 k))

section
variable (rd : Ready s h .cp st) (hok : ok = true)
include rd hok

theorem laneWise_of_exec2 {f : Ctx → Nat → Nat → Num1} {g : List Nat → Num1}
    (he : exec i s = lane2 s h (vecInfo opc cls ok) lat ty d a b ln snan f)
    (hf : ∀ l, f (s.ctx st) (l.getD 0 0) (l.getD 1 0) = g l) (ho : st.checkOperands [vsrc a, vsrc b, vdst d] = none)
    (hs : (if snan then (s.ctx st).snanOf ty ln [a, b] else none) = none) :
    s.laneWise h st i opc cls lat ty d [a, b] ln g :=
  (funext hf) ▸ he.trans (laneWise_clean rd hok ho hs rfl rfl rfl)

theorem laneWise_of_exec1 {f : Ctx → Nat → Num1} {g : List Nat → Num1}
    (he : exec i s = lane1 s h (vecInfo opc cls ok) lat ty d a ln snan f)
    (hf : ∀ l, f (s.ctx st) (l.getD 0 0) = g l) (ho : st.checkOperands [vsrc a, vdst d] = none)
    (hs : (if snan then (s.ctx st).snanOf ty ln [a] else none) = none) :
    s.laneWise h st i opc cls lat ty d [a] ln g :=
  (funext hf) ▸ he.trans (laneWise_clean rd hok ho hs rfl rfl rfl)

theorem laneWise_of_fused {f : Ctx → Nat → Nat → Nat → Num1} {g : List Nat → Num1}
    (he : exec i s = fused s h (vecInfo opc cls ok) ty d a b ln f)
    (hf : ∀ l, f (s.ctx st) (l.getD 0 0) (l.getD 1 0) (l.getD 2 0) = g l) (ho : st.checkOperands [vsrc a, vsrc b, vdst d] = none)
    (hs : (s.ctx st).snanOf ty ln [a, b, d] = none) :
    s.laneWise h st i opc cls (arithLat ty) ty d [a, b, d] ln g :=
  (funext hf) ▸ he.trans (laneWise_clean (snan := true) rd hok ho hs rfl rfl rfl)

theorem laneOrSnan_of_exec2 {f : Ctx → Nat → Nat → Num1} {g : List Nat → Num1}
    (he : exec i s = lane2 s h (vecInfo opc cls ok) lat ty d a b ln true f)
    (hf : ∀ l, f (s.ctx st) (l.getD 0 0) (l.getD 1 0) = g l) (ho : st.checkOperands [vsrc a, vsrc b, vdst d] = none) :
    s.laneOrSnan h st i opc cls lat ty d [a, b] ln g :=
  ⟨laneWise_of_exec2 rd hok he hf ho, fun _ hk => he.trans (laneWise_snan rd hok ho hk)⟩

theorem laneOrSnan_of_exec1 {f : Ctx → Nat → Num1} {g : List Nat → Num1}
    (he : exec i s = lane1 s h (vecInfo opc cls ok) lat ty d a ln true f)
    (hf : ∀ l, f (s.ctx st) (l.getD 0 0) = g l) (ho : st.checkOperands [vsrc a, vdst d] = none) :
    s.laneOrSnan h st i opc cls lat ty d [a] ln g :=
  ⟨laneWise_of_exec1 rd hok he hf ho, fun _ hk => he.trans (laneWise_snan rd hok ho hk)⟩

theorem laneOrSnan_of_fused {f : Ctx → Nat → Nat → Nat → Num1} {g : List Nat → Num1}
    (he : exec i s = fused s h (vecInfo opc cls ok) ty d a b ln f)
    (hf : ∀ l, f (s.ctx st) (l.getD 0 0) (l.getD 1 0) (l.getD 2 0) = g l) (ho : st.checkOperands [vsrc a, vsrc b, vdst d] = none) :
    s.laneOrSnan h st i opc cls (arithLat ty) ty d [a, b, d] ln g :=
  ⟨laneWise_of_fused rd hok he hf ho, fun _ hk => he.trans (laneWise_snan rd hok ho hk)⟩

end

end

section
variable {t : Ty} {ovf : Ovf} {mode : Rnd} {u v : Nat}

theorem addLane_false : addLane t mode ovf false u v =
    if tyIsInt t then intResult t ovf (readInt t u + readInt t v) else fAdd (fmtOf t) mode ovf false u v := rfl

theorem addLane_true : addLane t mode ovf true u v =
    if tyIsInt t then intResult t ovf (readInt t u - readInt t v) else fAdd (fmtOf t) mode ovf true u v := rfl

theorem minMaxLane_false : minMaxLane t false u v =
    if tyIsInt t then .plain (if decide (readInt t v < readInt t u) then v else u) else fMinMax (fmtOf t) false u v := rfl

theorem minMaxLane_true : minMaxLane t true u v =
    if tyIsInt t then .plain (if decide (readInt t u < readInt t v) then v else u) else fMinMax (fmtOf t) true u v := rfl

theorem absLane_eq : absLane t ovf u = if tyIsInt t then (if tyIsSigned t then intResult t ovf |readInt t u| else .plain u)
    else .plain (u % 2 ^ (tyBits t - 1)) := by rw [Int.abs_eq_natAbs, absLane]

theorem negLane_eq : negLane t ovf u = if tyIsInt t then intResult t ovf (-readInt t u) else .plain (u ^^^ 2 ^ (tyBits t - 1)) := by
  rw [negLane, Int.zero_sub]

end

theorem laneResults_bits (on : Nat → Bool) (n : Nat) (f : Nat → Num1) :
    (laneResults on n f).map (fun r => r.map (·.bits)) = (List.range n).map (fun k => if on k then some (f k).bits else none) := by
  rw [laneResults, List.map_map]
  exact List.map_congr_left (fun k _ => by cases h : on k <;> simp [h])

theorem laneResults_isSome (on : Nat → Bool) (n : Nat) (f : Nat → Num1) :
    (laneResults on n f).map (·.isSome) = (List.range n).map on := by
  rw [laneResults, List.map_map]
  exact List.map_congr_left (fun k _ => by cases h : on k <;> simp [h])

/-- Lanes that only write raise nothing. -/
theorem raisedBy_plain (on : Nat → Bool) (n : Nat) (g : Nat → Nat) : raisedBy (laneResults on n (fun k => .plain (g k))) = [] := by
  refine List.filterMap_eq_nil_iff.mpr (fun p hp => ?_)
  have hmem : p.2 ∈ laneResults on n (fun k => .plain (g k)) := (List.of_mem_zip hp).2
  obtain ⟨k, -, hk⟩ := List.mem_map.mp hmem
  rw [← hk]
  cases on k <;> rfl

/-- VSEL takes each lane from a where the mask's bit is set, else from b. -/
theorem execVsel_ready {m : BitVec 2} (rd : Ready s h .cp st) (hwf : (Instr.vsel h ty d a b m).WF)
    (ho : st.checkOperands [vsrc a, vsrc b, vdst d] = none) :
    execVsel h ty d a b m s = .next (s.issuedWith h 0x6F 4 ((s.ctx st).lanesLater 1 (tySize ty) (st.opAddr d) (sameGranule (s.ctx st) d [a, b])
      (laneResults (fun _ => true) (1024 / tySize ty) (fun k => .plain (if (st.sh.masks.getD m.toNat 0).getLsbD (k * tySize ty)
        then (elemsOf (s.ctx st) a (tySize ty)).getD k 0 else (elemsOf (s.ctx st) b (tySize ty)).getD k 0))))) := by
  have hz : (List.zip (List.range (1024 / tySize ty)) (List.zip (elemsOf (s.ctx st) a (tySize ty)) (elemsOf (s.ctx st) b (tySize ty)))).map
      (fun p => some (if laneOn (s.ctx st) (.mk m) (tySize ty) p.1 then p.2.1 else p.2.2)) =
      (List.range (1024 / tySize ty)).map (fun k => some (if (st.sh.masks.getD m.toNat 0).getLsbD (k * tySize ty)
        then (elemsOf (s.ctx st) a (tySize ty)).getD k 0 else (elemsOf (s.ctx st) b (tySize ty)).getD k 0)) := by
    rw [zip_eq_map_range (elemsOf_length ..) (elemsOf_length ..) 0 0, zip_range_eq (by simp) (0, 0), List.map_map]
    refine List.map_congr_left (fun k hk => ?_)
    simp [List.getD_eq_getElem?_getD, List.getElem?_range (List.mem_range.mp hk), laneOn]
  rw [execVsel, issue_ends rd rfl rfl hwf ho, Ctx.lanesLater, laneResults_bits, laneResults_isSome, raisedBy_plain]
  dsimp only
  rw [hz, List.map_map]
  rfl

end
end Sys2Proof.Machine
end

section
/-! SUPPORT. Lane-wise arithmetic and bits (13 R272 to R277, R284, R287). -/

namespace Sys2Proof.Proofs
open Sys2Proof.Machine

/-- Settles O27: every word is lane-wise (`laneWise_clean`), with the function of its lane. -/
theorem laneArithmetic : Obligations.LaneArithmetic := by
  intro s h st ty rnd ovf d a b ln rd f m int cls snan word two one fma sign least
  refine ⟨fun hwf ho => laneOrSnan_of_exec2 rd hwf (show execVadd h ty rnd ovf d a b ln s = _ from rfl) (fun _ => addLane_false) ho,
    fun hwf ho => laneOrSnan_of_exec2 rd hwf (show execVsub h ty rnd ovf d a b ln s = _ from rfl) (fun _ => addLane_true) ho,
    fun hwf ho => laneOrSnan_of_exec2 rd hwf (show execVmul h ty rnd ovf d a b ln s = _ from rfl) (fun _ => rfl) ho,
    fun hwf ho => laneOrSnan_of_fused rd hwf (show execVfma h ty rnd ovf d a b ln s = _ from rfl) (fun _ => rfl) ho,
    fun hwf ho => laneOrSnan_of_fused rd hwf (show execVfms h ty rnd ovf d a b ln s = _ from rfl) (fun _ => rfl) ho,
    fun hwf ho => laneOrSnan_of_fused rd hwf (show execVfnma h ty rnd ovf d a b ln s = _ from rfl) (fun _ => rfl) ho,
    fun hwf ho => laneOrSnan_of_exec2 rd hwf (show execVdiv h ty rnd ovf d a b ln s = _ from rfl) (fun _ => rfl) ho,
    fun hwf ho => laneOrSnan_of_exec1 rd hwf (show execVsqrt h ty rnd ovf d a ln s = _ from rfl) (fun _ => rfl) ho,
    fun hwf ho => laneOrSnan_of_exec1 rd hwf (show execVrcp h ty rnd ovf d a ln s = _ from rfl) (fun _ => rfl) ho,
    fun hwf ho => laneOrSnan_of_exec1 rd hwf (show execVrsq h ty rnd ovf d a ln s = _ from rfl) (fun _ => rfl) ho,
    fun hwf ho => laneOrSnan_of_exec1 rd hwf (show execVexp2 h ty rnd ovf d a ln s = _ from rfl) (fun _ => rfl) ho,
    fun hwf ho => laneOrSnan_of_exec1 rd hwf (show execVlog2 h ty rnd ovf d a ln s = _ from rfl) (fun _ => rfl) ho,
    fun hwf ho => laneOrSnan_of_exec2 rd hwf (show execVmin h ty d a b ln s = _ from rfl) (fun _ => minMaxLane_false) ho,
    fun hwf ho => laneOrSnan_of_exec2 rd hwf (show execVmax h ty d a b ln s = _ from rfl) (fun _ => minMaxLane_true) ho,
    fun hwf ho => laneWise_of_exec1 rd hwf (show execVabs h ty ovf d a ln s = _ from rfl) (fun _ => absLane_eq) ho rfl,
    fun hwf ho => laneWise_of_exec1 rd hwf (show execVneg h ty ovf d a ln s = _ from rfl) (fun _ => negLane_eq) ho rfl⟩

/-- Settles O28: the words are lane-wise (`laneWise_of_exec2`, `laneWise_of_exec1`), and VSEL by `execVsel_ready`. -/
theorem laneBits : Obligations.LaneBits := by
  intro s h st ty d a b m ln rd x n two one
  refine ⟨fun hwf ho => laneWise_of_exec2 rd hwf (show execVand h ty d a b ln s = _ from rfl) (fun _ => rfl) ho rfl,
    fun hwf ho => laneWise_of_exec2 rd hwf (show execVor h ty d a b ln s = _ from rfl) (fun _ => rfl) ho rfl,
    fun hwf ho => laneWise_of_exec2 rd hwf (show execVxor h ty d a b ln s = _ from rfl) (fun _ => rfl) ho rfl,
    fun hwf ho => laneWise_of_exec2 rd hwf (show execVshl h ty d a b ln s = _ from rfl)
      (fun _ => congrArg (fun w => Num1.plain (w % 2 ^ tyBits ty)) (Nat.shiftLeft_eq ..).symm) ho rfl,
    fun hwf ho => laneWise_of_exec2 rd hwf (show execVshr h ty d a b ln s = _ from rfl)
      (fun _ => congrArg Num1.plain (Nat.shiftRight_eq_div_pow ..).symm) ho rfl,
    fun hwf ho => laneWise_of_exec2 rd hwf (show execVsra h ty d a b ln s = _ from rfl) (fun _ => rfl) ho rfl,
    fun hwf ho => laneWise_of_exec1 rd hwf (show execVmov h ty d a ln s = _ from rfl) (fun _ => rfl) ho rfl,
    fun hwf ho => laneWise_of_exec1 rd hwf (show execVclass h ty d a ln s = _ from rfl) (fun _ => rfl) ho rfl,
    fun hwf ho => execVsel_ready rd hwf ho⟩

end Sys2Proof.Proofs
end

section
/-! SUPPORT. Words that move elements between lanes (13 R281 to R286). -/

namespace Sys2Proof.Machine

section
variable {s : State} {h : Head} {st : Strand} {opc : BitVec 8} {cls lat e : Nat} {ok : Bool} {ty : Ty} {d a b : Spec} {ln : Lanes} {i : Instr}
  {pre : Ctx → Option Cause} {vals vals' : List (Option Nat)} {bad : Bool} {raised : Raised} {body : Ctx → Effect}

/-- A word whose entry writes its whole destination completes so. -/
theorem wholeWord_of (rd : Ready s h .cp st) (hok : ok = true) (ho : pre (s.ctx st) = none) (he : exec i s = issue s h (vecInfo opc cls ok) pre body)
    (hb : body (s.ctx st) = wholeWrite (s.ctx st) lat d e vals bad raised) (hv : vals = vals') :
    s.wholeWord h st i opc cls lat e d bad vals' raised := by
  rw [State.wholeWord, he, issue_ends rd rfl rfl hok ho, hb, hv]
  rfl

/-- Lanes with the bytes at their positions. -/
theorem readOp_length (x : Ctx) (n : Nat) : (x.readOp a n).length = n := by simp [Ctx.readOp]

/-- What a choice by position gives over a list. -/
theorem zip_choose {α β : Type} {n : Nat} {r : List α} (hr : n ≤ r.length) (z : α) (on : Nat → Bool) (f : α → β) :
    (List.zip (List.range n) r).map (fun p => if on p.1 then some (f p.2) else none) =
      (List.range n).map (fun k => if on k then some (f (r.getD k z)) else none) := by
  refine List.ext_getElem (by simp [hr]) (fun k h1 h2 => ?_)
  have hk : k < n := by simpa using h2
  simp [List.getD_eq_getElem?_getD, List.getElem?_eq_getElem (hk.trans_le hr)]

/-- Elements of active lanes, in rising order. -/
theorem zip_packed {α : Type} {n : Nat} {r : List α} (hr : r.length = n) (z : α) (on : Nat → Bool) :
    (List.zip (List.range n) r).filterMap (fun p => if on p.1 then some p.2 else none) =
      ((List.range n).filter on).map (fun k => r.getD k z) := by
  rw [zip_range_eq hr z, List.filterMap_map, ← List.filterMap_eq_filter, List.map_filterMap]
  refine List.filterMap_congr (fun k _ => ?_)
  cases hk : on k <;> simp [hk, Option.guard]

/-- A list filled up with a value is what its positions hold. -/
theorem append_replicate_eq {α : Type} {n : Nat} {l : List α} (hl : l.length ≤ n) (z : α) :
    l ++ List.replicate (n - l.length) z = (List.range n).map (fun k => l.getD k z) := by
  refine List.ext_getElem (by simp [hl]) (fun k h1 h2 => ?_)
  rcases Nat.lt_or_ge k l.length with hk | hk
  · simp [hk]
  · simp [hk, List.getElem_append_right]

theorem countFrom_eq (on : Nat → Bool) (c : Nat) (l : List Nat) :
    countFrom on c l = (List.range l.length).map (fun k => c + ((l.take k).filter on).length) := by
  induction l generalizing c with
  | nil => rfl
  | cons i t ih =>
    rw [countFrom, ih, List.length_cons, List.range_succ_eq_map, List.map_cons, List.map_map]
    cases hi : on i <;> simp [hi, Nat.add_assoc, Nat.add_comm 1]

/-- Of each lane, how many lanes before it are active. -/
theorem countFrom_range (on : Nat → Bool) (n : Nat) :
    countFrom on 0 (List.range n) = (List.range n).map (fun k => ((List.range k).filter on).length) := by
  rw [countFrom_eq on 0, List.length_range]
  refine List.map_congr_left (fun k hk => ?_)
  rw [Nat.zero_add, List.take_range, Nat.min_eq_left (List.mem_range.mp hk).le]

/-- Past its end a vector reads 0. -/
theorem elemsOf_getD_ite (x : Ctx) (k : Nat) : (elemsOf x a e).getD k 0 = if k < 1024 / e then (elemsOf x a e).getD k 0 else 0 := by
  split
  · rfl
  · exact List.getD_eq_default _ _ (by simpa using ‹¬ k < _›)

theorem Raised.trap_nil (f : BitVec 6) : Raised.trap [] f = none := by simp [Raised.trap, Raised.flags, flagCause]

/-- Nothing raised: the results land with clear flags. -/
theorem vecLater_nil (x : Ctx) (n : Nat) (lands : List Land) : vecLater x n lands [] = x.st.later x.q n (lands ++ [.flags 0]) := by
  rw [vecLater, Raised.trap_nil]
  rfl

/-- VQPOP takes the head of q3 for its active lanes, and blocks while there is none. -/
theorem execVqpop_ready (rd : Ready s h .cp st) (hwf : (Instr.vqpop h ty d ln).WF) (ho : st.checkOperands [vdst d] = none) :
    execVqpop h ty d ln s = match st.sh.q3 with
      | [] => .next (s.blockedAt (some .queueImbalance) .none s.chip)
      | v :: rest => .next (s.issuedWith h 0x7E 4 (({ st with sh := { st.sh with q3 := rest } } : Strand).later .cp 1
          (laneLands (st.opAddr d) (tySize ty) ((List.range (1024 / tySize ty)).map (fun k =>
              if laneOn (s.ctx st) ln (tySize ty) k then some (v.toNat % 2 ^ tyBits ty) else none)) ++
            poisonLands (st.opAddr d) (tySize ty) ((List.range (1024 / tySize ty)).map (laneOn (s.ctx st) ln (tySize ty))) (fun _ => false) ++
            [.flags 0]))) := by
  rw [execVqpop, issue_ends rd rfl rfl hwf ho]
  cases hq : st.sh.q3 with
  | nil =>
    simp only [State.ctx_st, hq]
    rfl
  | cons v rest =>
    have hsome : ((List.range (1024 / tySize ty)).map (fun k =>
        if laneOn (s.ctx st) ln (tySize ty) k then some (v.toNat % 2 ^ tyBits ty) else none)).map (·.isSome) =
        (List.range (1024 / tySize ty)).map (laneOn (s.ctx st) ln (tySize ty)) := by
      rw [List.map_map]
      exact List.map_congr_left (fun k _ => by cases hk : laneOn (s.ctx st) ln (tySize ty) k <;> simp [hk])
    rw [← hsome]
    simp only [State.ctx_st, hq, wholeWrite, vecLater_nil, rd.ctx_q]
    rfl

end
end Sys2Proof.Machine
end

section
/-! SUPPORT. The words that move elements between lanes (13 R281 to R286). -/

namespace Sys2Proof.Proofs
open Sys2Proof.Machine

/-- Settles O30: each word writes its whole destination (`wholeWord_of`) with the elements its rule names, position by position. -/
theorem laneMovement : Obligations.LaneMovement := by
  intro s h st ty d a b imm ln v rest rd x e n on va vb packed each dirty2
  refine ⟨fun hwf ho => wholeWord_of rd hwf ho (show execVcompact h ty d a ln s = _ from rfl) rfl ?_,
    fun hwf ho => wholeWord_of rd hwf ho (show execVperm h ty d a b ln s = _ from rfl) rfl ?_,
    fun hwf ho => wholeWord_of rd hwf ho (show execVlut h ty d a b ln s = _ from rfl) rfl ?_,
    fun hwf ho => wholeWord_of rd hwf ho (show execVmovi h ty d imm s = _ from rfl) rfl rfl,
    fun hwf ho => wholeWord_of rd hwf ho (show execViota h ty d ln s = _ from rfl) rfl ?_,
    fun hwf ho => ⟨fun hq => ?_, fun hq => ?_⟩⟩
  · have hkept := zip_packed (r := va) (elemsOf_length ..) 0 on
    have hlen : packed.length ≤ n := by
      simpa [packed] using List.length_filter_le on (List.range n)
    exact (congrArg (fun l => (l ++ List.replicate (n - l.length) 0).map some) hkept).trans
      ((congrArg (List.map some) (append_replicate_eq hlen 0)).trans List.map_map)
  · exact (zip_choose (Nat.le_of_eq (elemsOf_length ..).symm) 0 on (fun i => va.getD i 0)).trans
      (List.map_congr_left (fun k _ => congrArg (fun w => if on k then some w else none) (elemsOf_getD_ite ..)))
  · have hlen : n ≤ (x.readOp a 1024).length := (readOp_length ..).symm ▸ Nat.div_le_self ..
    exact (zip_choose hlen 0 on (fun i => vb.getD i.toNat 0)).trans
      (List.map_congr_left (fun k _ => congrArg (fun w => if on k then some w else none) (elemsOf_getD_ite ..)))
  · exact (congrArg (List.map _) (countFrom_range on n)).trans List.map_map
  · exact (execVqpop_ready rd hwf ho).trans (by rw [hq])
  · exact (execVqpop_ready rd hwf ho).trans (by rw [hq])

end Sys2Proof.Proofs
end

section
/-! SUPPORT. A machine whose memory is out of canonical form: its window read as a whole and byte by byte. -/

namespace Sys2Proof.Proofs
open Sys2Proof.Machine

/-- A memory out of canonical form: the cell of byte 3 of the window of core 0 stands behind that of byte 5, where a walk along
rising cells does not find it. -/
def unsortedMem : Memory := [(rsAddr 0 + 5, 1#8), (rsAddr 0 + 3, 7#8)]

/-- A strand with vectors of 1 KiB in view 0, whose mask 0 has lane 3 of 4-byte lanes alone. -/
def laneThreeStrand : Strand :=
  let st := Strand.atAdmission Place.whole [0, 0, 0, 0]
  { st with sh := { st.sh with views := [(0, BitVec.ofNat 64 (64 * 2 ^ 36 + 1024 * 2 ^ 20))], masks := [(0, 0x1000#1024)] } }

def unsortedState : State :=
  { mem := unsortedMem, chip := { Chip.reset with strands := [(0, laneThreeStrand)], cur := ⟨0, 0, .cp⟩ } }

/-- A word under p0 without token actions. -/
def plainHead : Head := ⟨false, false, false, false, false, 0⟩

theorem unsortedState_ready : Ready unsortedState plainHead .cp laneThreeStrand :=
  ⟨rfl, rfl, by simp [Rings.ready, plainHead], by simp [plainHead, Strand.rp]⟩

/-- The bytes that the results under way of strand 0 of core 0 write to register space. -/
def pendingBytes : Outcome → List Byte
  | .next t => (((t.chip.strand? 0 0).getD laneThreeStrand).due.flatMap (fun d => d.lands)).flatMap
      (fun l => match l with | .reg _ b => b | _ => [])
  | _ => []

/-- The whole window read at once does not hold the byte that a read of it alone finds. -/
theorem unsortedMem_read : (unsortedMem.readBytes (rsAddr 0) 1024).getD 3 0 = 0 ∧ unsortedMem.readBytes (rsAddr 0 + 3) 1 = [7#8] := by
  decide +kernel

/-- Refutes O29, by its clause on VCVT: the word takes its part from one read of the kilobyte, the statement's elements are read one
by one, and nothing in the statement says that memory is in its canonical form. On `unsortedMem` lane 3 of an I8 source converts 0
by the model and 7 by the statement. -/
theorem not_compareConvertReduce : ¬ Obligations.CompareConvertReduce := by
  intro h
  obtain ⟨-, hcvt, -⟩ := h unsortedState plainHead laneThreeStrand .eq .i32 .i8 .rn .sat .add .add 0 1 0 0 0 (.mk 0) unsortedState_ready
  have hnext := hcvt (by decide) (by decide) rfl
  have hmodel : pendingBytes (exec (.vcvt plainHead .i32 .i8 .rn .sat 1 0 0 (.mk 0)) unsortedState) = [0#8, 0#8, 0#8, 0#8] := by
    decide +kernel
  rw [hnext] at hmodel
  exact absurd hmodel (by decide +kernel)

end Sys2Proof.Proofs
end

section
/-! SUPPORT. FP64 by integer slices (05 R101; 13 R288 to R291). -/

namespace Sys2Proof.Machine

/-- The nearest multiple of D to v, ties to the even one (05 R101). -/
def nearestEven (v D : Int) : Int :=
  if D < 2 * ((v % D).toNat : Int) ∨ (2 * ((v % D).toNat : Int) = D ∧ v / D % 2 = 1) then v / D + 1 else v / D

section
variable {v D c : Int}

/-- What is left of a nearest multiple is at most half the unit. -/
theorem nearestEven_left (hD : 0 < D) : |2 * (v - nearestEven v D * D)| ≤ D := by
  have hr := Int.emod_nonneg v hD.ne'
  have hlt := Int.emod_lt_of_pos v hD
  have hv := Int.mul_ediv_add_emod v D
  rw [nearestEven, Int.toNat_of_nonneg hr, abs_le]
  split_ifs with h
  · have hup : D ≤ 2 * (v % D) := h.elim le_of_lt (fun ht => ht.1.ge)
    constructor <;> linarith
  · have hdown : 2 * (v % D) ≤ D := not_lt.mp (fun hlt => h (.inl hlt))
    constructor <;> linarith

/-- A value of at most c units has a nearest multiple of at most c. -/
theorem nearestEven_le (hD : 0 < D) (hv : |v| ≤ c * D) : |nearestEven v D| ≤ c := by
  have hleft := abs_le.mp (nearestEven_left (v := v) hD)
  rw [abs_le] at hv ⊢
  constructor
  · by_contra hk
    nlinarith [hv.1, hleft.1, hleft.2]
  · by_contra hk
    nlinarith [hv.2, hleft.1, hleft.2]

end

/-- What slices and a residual are of a numerator over 2^den. -/
structure SlicesOk (num : Int) (den n : Nat) (l : List Int) (left : Bool) : Prop where
  length : l.length = n
  fits : ∀ t, t < n → |l.getD t 0| ≤ 64
  exact : ∃ r : Int, num * 128 ^ n = ((List.range n).map (fun t => l.getD t 0 * 128 ^ (n - 1 - t))).sum * 2 ^ den + r ∧
    |2 * r| ≤ 2 ^ den ∧ (left = true ↔ r ≠ 0)

theorem slicesFrom_succ (num : Int) (den n : Nat) : slicesFrom num den (n + 1) =
    (nearestEven (num * 128) (2 ^ den) :: (slicesFrom (num * 128 - nearestEven (num * 128) (2 ^ den) * 2 ^ den) den n).1,
      (slicesFrom (num * 128 - nearestEven (num * 128) (2 ^ den) * 2 ^ den) den n).2) := by
  have hk : (if 2 ^ den < 2 * (num * 128 % 2 ^ den).toNat ∨ (2 * (num * 128 % 2 ^ den).toNat = 2 ^ den ∧ num * 128 / 2 ^ den % 2 = 1)
      then num * 128 / 2 ^ den + 1 else num * 128 / 2 ^ den) = nearestEven (num * 128) (2 ^ den) := by
    unfold nearestEven
    norm_cast
  rw [slicesFrom]
  simp only [hk]

/-- The sum that slices stand for, its first slice apart. -/
theorem slices_sum_cons (k : Int) (l : List Int) (n : Nat) :
    ((List.range (n + 1)).map (fun t => (k :: l).getD t 0 * 128 ^ (n + 1 - 1 - t))).sum =
      k * 128 ^ n + ((List.range n).map (fun t => l.getD t 0 * 128 ^ (n - 1 - t))).sum := by
  rw [List.range_succ_eq_map, List.map_cons, List.sum_cons, List.map_map]
  simp [Nat.sub_sub, Nat.add_comm 1]
  rfl

/-- R101 by induction on the slices: of a value of at most half a unit, each slice fits 7 bits, and together with the residual they
are the value. -/
theorem slicesFrom_ok (den n : Nat) (num : Int) (h : |2 * num| ≤ 2 ^ den) :
    SlicesOk num den n (slicesFrom num den n).1 (slicesFrom num den n).2 := by
  have hD : (0 : Int) < 2 ^ den := by positivity
  induction n generalizing num with
  | zero => exact ⟨rfl, nofun, num, by simp, h, by simp [slicesFrom]⟩
  | succ n ih =>
    have hk : |nearestEven (num * 128) (2 ^ den)| ≤ 64 := nearestEven_le hD (by rw [abs_le] at h ⊢; constructor <;> linarith [h.1, h.2])
    have hrest := ih _ (nearestEven_left (v := num * 128) hD)
    obtain ⟨hlen, hfits, r, hsum, hr, hleft⟩ := hrest
    rw [slicesFrom_succ]
    refine ⟨by simp [hlen], ?_, r, ?_, hr, hleft⟩
    · rintro (_ | t) ht
      · exact hk
      · exact hfits t (Nat.lt_of_succ_lt_succ ht)
    · rw [slices_sum_cons]
      linear_combination hsum

/-- The first slice of a fraction below 1/8 fits 5 bits. -/
theorem slicesFrom_first {den n : Nat} {num : Int} (hn : 0 < n) (h : |8 * num| < 2 ^ den) : |(slicesFrom num den n).1.getD 0 0| ≤ 16 := by
  obtain ⟨n, rfl⟩ := Nat.exists_eq_add_of_lt hn
  rw [Nat.zero_add, slicesFrom_succ]
  refine nearestEven_le (by positivity) ?_
  rw [abs_lt] at h
  rw [abs_le]
  constructor <;> linarith [h.1, h.2]

/-- What VCOMB.ACC leaves of an accumulator and a product. -/
def combAcc (clr : Bool) (w acc p : Nat) : Num1 :=
  let n := (if clr then 0 else toSigned 128 acc) + toSigned 32 p * 2 ^ (63 - 7 * w)
  ⟨wrapBits 128 n, if -(2 : Int) ^ 127 ≤ n ∧ n < 2 ^ 127 then 0 else fIov, false⟩

/-- What VCOMB.FIN makes of an accumulator under the scales e and f of its row and column. -/
def combFin (mode : Rnd) (ovf : Ovf) (e f : Int) (acc : Nat) : Num1 :=
  if (2 : Int) ^ 61 ≤ e ∨ (2 : Int) ^ 61 ≤ f then invalidOp fmtF64
  else roundVal fmtF64 mode ovf (decide (toSigned 128 acc < 0)) (toSigned 128 acc).natAbs (rowExp e + rowExp f + 6 - 63)

/-- The active lanes with their elements. -/
theorem zip_filter {α : Type} {n : Nat} {r : List α} (hr : r.length = n) (z : α) (on : Nat → Bool) :
    (List.zip (List.range n) r).filter (fun p => on p.1) = ((List.range n).filter on).map (fun k => (k, r.getD k z)) := by
  rw [zip_range_eq hr z, List.filter_map]
  rfl

/-- A choice by position over a list, position and element. -/
theorem zip_choose_both {α β : Type} {n : Nat} {r : List α} (hr : n ≤ r.length) (z : α) (on : Nat → Bool) (f : Nat → α → β) :
    (List.zip (List.range n) r).map (fun p => if on p.1 then some (f p.1 p.2) else none) =
      (List.range n).map (fun k => if on k then some (f k (r.getD k z)) else none) := by
  refine List.ext_getElem (by simp [hr]) (fun k h1 h2 => ?_)
  have hk : k < n := by simpa using h2
  simp [List.getD_eq_getElem?_getD, List.getElem?_eq_getElem (hk.trans_le hr)]

/-- The same over two lists. -/
theorem zip_choose2 {α β γ : Type} {n : Nat} {l : List α} {r : List β} (hl : n ≤ l.length) (hr : n ≤ r.length) (y : α) (z : β)
    (on : Nat → Bool) (f : α → β → γ) :
    (List.zip (List.range n) (List.zip l r)).map (fun p => if on p.1 then some (f p.2.1 p.2.2) else none) =
      (List.range n).map (fun k => if on k then some (f (l.getD k y) (r.getD k z)) else none) := by
  refine List.ext_getElem (by simp [hl, hr]) (fun k h1 h2 => ?_)
  have hk : k < n := by simpa using h2
  simp [List.getD_eq_getElem?_getD, List.getElem?_eq_getElem (hk.trans_le hr), List.getElem?_eq_getElem (hk.trans_le hl)]

theorem getD_drop {α : Type} (l : List α) (m k : Nat) (z : α) : (l.drop m).getD k z = l.getD (m + k) z := by
  simp [List.getD_eq_getElem?_getD]

theorem getD_map_toSigned (l : List Nat) (k : Nat) : (l.map (toSigned 64)).getD k 0 = toSigned 64 (l.getD k 0) := by
  rw [List.getD_eq_getElem?_getD, List.getD_eq_getElem?_getD, List.getElem?_map]
  cases l[k]? <;> rfl

/-- A whole destination of lanes' results is those lanes' landing. -/
theorem wholeWrite_lanes (x : Ctx) (lat : Nat) (d : Spec) (e : Nat) (rs : List (Option Num1)) (bad : Bool) :
    wholeWrite x lat d e (rs.map (fun r => r.map (·.bits))) bad (raisedBy rs) =
      x.done (x.lanesLater lat e (x.st.opAddr d) (fun _ => bad) rs) := by
  simp only [wholeWrite, Ctx.lanesLater, List.map_map, Function.comp_def, Option.isSome_map]

theorem zip_range_map {α : Type} (n : Nat) (f : Nat → α) :
    List.zip (List.range n) ((List.range n).map f) = (List.range n).map (fun k => (k, f k)) := by
  simpa using List.zip_map' (f := id) (g := f) (l := List.range n)

/-- Rows of m, one after another, as one row. -/
theorem flatMap_rows {α : Type} (m n : Nat) (f : Nat → Nat → α) :
    (List.range n).flatMap (fun t => (List.range m).map (f t)) = (List.range (n * m)).map (fun j => f (j / m) (j % m)) := by
  induction n with
  | zero => simp
  | succ n ih =>
    rw [List.range_succ, List.flatMap_append, ih, Nat.succ_mul, List.range_add, List.map_append, List.map_map]
    simp only [List.flatMap_cons, List.flatMap_nil, List.append_nil]
    refine congrArg _ (List.map_congr_left (fun k hk => ?_))
    have hm : k < m := List.mem_range.mp hk
    have hdiv : (n * m + k) / m = n := by
      rw [Nat.mul_comm, Nat.mul_add_div (Nat.zero_lt_of_lt hm), Nat.div_eq_of_lt hm, Nat.add_zero]
    rw [Function.comp_apply, hdiv, Nat.mul_comm n m, Nat.mul_add_mod, Nat.mod_eq_of_lt hm]

section
variable {s : State} {h : Head} {st : Strand} {d a b : Spec} {sl w r : BitVec 4} {q : BitVec 2} {clr hh : Bool} {ln : Lanes} {rnd : Rnd}
  {ovf : Ovf} (rd : Ready s h .cp st)
include rd

theorem execVsplitExp_ready (ho : st.checkOperands [vsrc a, edst d 3] = none) {on : Nat → Bool} (hon : laneOn (s.ctx st) ln 8 = on)
    {va : List Nat} (hva : elemsOf (s.ctx st) a 8 = va) (hs : snanLane (s.ctx st) .f64 on [va] = none) :
    s.wholeWord h st (.vsplitExp h d a ln) 0x83 8 3 8 d (vecPoison (s.ctx st) a || st.poisonedRange (st.opAddr d) 8)
      [some (wrapBits 64 (max (toSigned 64 (elemOf (s.ctx st) d 3))
        (rowExpOf (((List.range 128).filter on).map (fun k => fmtF64.read (va.getD k 0))))))]
      (((List.range 128).filter on).filterMap (fun k => if (fmtF64.read (va.getD k 0)).isSnan then some (k, fInvalid, false) else none)) := by
  have hlen : va.length = 128 := by rw [← hva, elemsOf_length]
  have hz := zip_filter hlen 0 on
  subst hon hva
  refine wholeWord_of (pre := operands [vsrc a, edst d 3]) rd rfl ho (show execVsplitExp h d a ln s = _ from rfl) ?_ rfl
  simp only [hs, hz, List.map_map, List.filterMap_map]
  rfl

theorem execVsplit_ready (hwf : (Instr.vsplit h d a b sl ln).WF) (ho : st.checkOperands [vsrc a, esrc b 3, vdst d] = none)
    {on : Nat → Bool} (hon : laneOn (s.ctx st) ln 8 = on) {va : List Nat} (hva : elemsOf (s.ctx st) a 8 = va)
    (hs : snanLane (s.ctx st) .f64 on [va] = none) {parts : Nat → List Int × BitVec 6}
    (hp : (fun k => splitElem (va.getD k 0) (toSigned 64 (elemOf (s.ctx st) b 3)) sl.toNat) = parts) :
    s.wholeWord h st (.vsplit h d a b sl ln) 0x83 8 3 1 d (vecPoison (s.ctx st) a || st.poisonedRange (st.opAddr b) 8)
      ((List.range 1024).map (fun k => if on (k % 128) then some (wrapBits 8 ((parts (k % 128)).1.getD (k / 128) 0)) else none))
      (((List.range 128).filter on).filterMap (fun k => if (parts k).2 = 0#6 then none else some (k, (parts k).2, false))) := by
  have hlen : va.length = 128 := by rw [← hva, elemsOf_length]
  have hz : (List.zip (List.range 128) va).map (fun p =>
      if on p.1 then some (splitElem p.2 (toSigned 64 (elemOf (s.ctx st) b 3)) sl.toNat) else none) =
      (List.range 128).map (fun k => if on k then some (parts k) else none) := by
    rw [← hp]
    exact zip_choose hlen.ge 0 on (fun u => splitElem u (toSigned 64 (elemOf (s.ctx st) b 3)) sl.toNat)
  have hrows : (List.range 8).flatMap (fun t => ((List.range 128).map (fun k => if on k then some (parts k) else none)).map
      (fun p => p.map (fun q => wrapBits 8 (q.1.getD t 0)))) =
      (List.range 1024).map (fun k => if on (k % 128) then some (wrapBits 8 ((parts (k % 128)).1.getD (k / 128) 0)) else none) := by
    rw [← flatMap_rows 128 8 (fun t k => if on k then some (wrapBits 8 ((parts k).1.getD t 0)) else none)]
    refine List.flatMap_congr (fun t _ => ?_)
    rw [List.map_map]
    exact List.map_congr_left (fun k _ => by cases hk : on k <;> simp [hk])
  have hraised : (List.zip (List.range 128) ((List.range 128).map (fun k => if on k then some (parts k) else none))).filterMap (fun p =>
      match p.2 with | some q => if q.2 = 0#6 then none else some (p.1, q.2, false) | none => none) =
      ((List.range 128).filter on).filterMap (fun k => if (parts k).2 = 0#6 then none else some (k, (parts k).2, false)) := by
    rw [zip_range_map, List.filterMap_map, List.filterMap_filter]
    exact List.filterMap_congr (fun k _ => by cases hk : on k <;> simp [hk])
  subst hon hva
  refine wholeWord_of (pre := operands [vsrc a, esrc b 3, vdst d]) rd hwf ho (show execVsplit h d a b sl ln s = _ from rfl) ?_ rfl
  simp only [hs, hz]
  rw [← hrows, ← hraised]
  rfl

theorem execVcombAcc_ready (hwf : (Instr.vcombAcc h d a w q clr ln).WF) (ho : st.checkOperands [vsrc a, vdst d] = none) :
    s.laneWord h st (.vcombAcc h d a w q clr ln) 0x84 8 2 16 (st.opAddr d)
      (fun _ => vecPoison (s.ctx st) a || (!clr && vecPoison (s.ctx st) d)) (laneResults (laneOn (s.ctx st) ln 16) 64 (fun k =>
        combAcc clr w.toNat ((elemsOf (s.ctx st) d 16).getD k 0) ((elemsOf (s.ctx st) a 4).getD (64 * q.toNat + k) 0))) := by
  have hq : q.toNat < 4 := q.isLt
  have hprod : 64 ≤ ((elemsOf (s.ctx st) a 4).drop (64 * q.toNat)).length := by
    rw [List.length_drop, elemsOf_length]
    omega
  have hrs := zip_choose2 (elemsOf_length (s.ctx st) d 16).ge hprod 0 0 (laneOn (s.ctx st) ln 16) (combAcc clr w.toNat)
  simp only [getD_drop] at hrs
  rw [laneResults, ← hrs, State.laneWord]
  show execVcombAcc h d a w q clr ln s = _
  rw [execVcombAcc, issue_ends rd rfl rfl hwf ho]
  exact congrArg (s.ends h _ st) (wholeWrite_lanes ..)

theorem execVcombFin_ready (hwf : (Instr.vcombFin h rnd ovf d a b r hh ln).WF) (ho : st.checkOperands [vsrc a, vsrc b, vdst d] = none) :
    s.laneWord h st (.vcombFin h rnd ovf d a b r hh ln) 0x84 8 6 8 (st.opAddr d + (if hh then 512 else 0))
      (fun _ => vecPoison (s.ctx st) a || vecPoison (s.ctx st) b) (laneResults (laneOn (s.ctx st) ln 16) 64 (fun k =>
        combFin (modeOf rnd st.csr.frm) ovf (toSigned 64 ((elemsOf (s.ctx st) b 8).getD (32 + 2 * r.toNat + k / 32) 0))
          (toSigned 64 ((elemsOf (s.ctx st) b 8).getD (k % 32) 0)) ((elemsOf (s.ctx st) a 16).getD k 0))) := by
  have hrs := zip_choose_both (elemsOf_length (s.ctx st) a 16).ge 0 (laneOn (s.ctx st) ln 16) (fun k u =>
    combFin (modeOf rnd st.csr.frm) ovf (toSigned 64 ((elemsOf (s.ctx st) b 8).getD (32 + 2 * r.toNat + k / 32) 0))
      (toSigned 64 ((elemsOf (s.ctx st) b 8).getD (k % 32) 0)) u)
  rw [laneResults, ← hrs, State.laneWord]
  show execVcombFin h rnd ovf d a b r hh ln s = _
  rw [execVcombFin, issue_ends rd rfl rfl hwf ho]
  simp only [combFin, ← getD_map_toSigned, rowSpecial, Bool.or_eq_true, decide_eq_true_eq]
  rfl

end

end Sys2Proof.Machine
end

section
/-! SUPPORT. The words of FP64 slices (05 R101; 13 R288 to R291). -/

namespace Sys2Proof.Proofs
open Sys2Proof.Machine

/-- Settles O31: the words by their lanes, and R101 by induction on the slices (`slicesFrom_ok`). -/
theorem sliceWords : Obligations.SliceWords := by
  refine ⟨?_, ?_⟩
  · intro s h st rnd ovf d a b sl w r q clr hh ln rd x on8 on16 va act row scale parts sc sum fin
    exact ⟨fun ho hs => execVsplitExp_ready rd ho rfl rfl hs, fun hwf ho hs => execVsplit_ready rd hwf ho rfl rfl hs rfl,
      fun hwf ho => execVcombAcc_ready rd hwf ho, fun hwf ho => execVcombFin_ready rd hwf ho⟩
  · intro num den n hn h
    have hhalf : |2 * num| ≤ 2 ^ den := by
      rw [abs_lt] at h
      rw [abs_le]
      constructor <;> linarith [h.1, h.2]
    have hok := slicesFrom_ok den n num hhalf
    exact ⟨hok.length, slicesFrom_first hn h, hok.fits, hok.exact⟩

end Sys2Proof.Proofs
end

section
/-! SUPPORT. Rounding, integer results and the traps of flags (05 R90 to R94; 13 R270). -/

namespace Sys2Proof.Machine

/-! ### Rounding (05 R90) -/

section
variable {mode : Rnd} {neg : Bool} {m : Nat} {e q : Int}

theorem roundTo_exact (h : q ≤ e) : roundTo mode neg m e q = (m * 2 ^ (e - q).toNat, false) := by rw [roundTo, if_pos h]

/-- The rounding of m over u: up, by the mode, the side and the remainder. -/
def roundsBy (mode : Rnd) (neg : Bool) (m u : Nat) : Bool :=
  match mode with
  | .rn | .rdyn => decide (u < 2 * (m % u)) || (2 * (m % u) == u && m / u % 2 == 1)
  | .rz => false
  | .rd => neg && m % u != 0
  | .rp => !neg && m % u != 0
  | .ra => decide (u ≤ 2 * (m % u))

theorem roundsUp_eq (sh : Nat) : roundsUp mode neg (m / 2 ^ sh % 2 == 1) (m % 2 ^ sh) sh = roundsBy mode neg m (2 ^ sh) := by
  cases mode <;> rfl

/-- Beyond twice the magnitude every shift decides alike. -/
theorem roundsBy_of_large {u : Nat} (h : 2 * m < u) : roundsBy mode neg m u = match mode with
    | .rd => neg && m != 0 | .rp => !neg && m != 0 | _ => false := by
  have hmod : m % u = m := Nat.mod_eq_of_lt (by omega)
  have h1 : ¬ u < 2 * m := by omega
  have h2 : ¬ u ≤ 2 * m := by omega
  have h3 : (2 * m == u) = false := by simp; omega
  cases mode <;> simp [roundsBy, hmod, h1, h2, h3]

theorem two_mul_lt_pow_log2 : 2 * m < 2 ^ (Nat.log2 m + 3) := by
  have := Nat.lt_log2_self (n := m)
  rw [Nat.pow_succ, Nat.pow_succ]
  omega

/-- A shift that loses bits: the quotient, one more where the mode rounds up. -/
theorem roundTo_shift (h : e < q) : roundTo mode neg m e q =
    (if roundsBy mode neg m (2 ^ (q - e).toNat) then m / 2 ^ (q - e).toNat + 1 else m / 2 ^ (q - e).toNat,
      m % 2 ^ (q - e).toNat != 0) := by
  rw [roundTo, if_neg (not_le.mpr h)]
  simp only [roundsUp_eq]
  rcases Nat.le_total (q - e).toNat (Nat.log2 m + 3) with hs | hs
  · rw [Nat.min_eq_left hs]
  · have hsmall : 2 * m < 2 ^ (Nat.log2 m + 3) := two_mul_lt_pow_log2
    have hbig : 2 * m < 2 ^ (q - e).toNat := hsmall.trans_le (Nat.pow_le_pow_right (by decide) hs)
    rw [Nat.min_eq_right hs, roundsBy_of_large hsmall, roundsBy_of_large hbig, Nat.div_eq_of_lt (by omega), Nat.div_eq_of_lt (by omega),
      Nat.mod_eq_of_lt (by omega), Nat.mod_eq_of_lt (by omega)]

end

/-! ### Integer results (13 R270) -/

section
variable {t : Ty} {ovf : Ovf} {v : Int}

theorem intResult_in (h : leastOf t ≤ v) (h' : v ≤ mostOf t) : intResult t ovf v = ⟨wrapBits (tyBits t) v, 0, false⟩ := by
  unfold intResult
  exact if_pos ⟨h, h'⟩

theorem not_inRange (h : v < leastOf t ∨ mostOf t < v) : ¬ (leastOf t ≤ v ∧ v ≤ mostOf t) := by omega

theorem intResult_sat (h : v < leastOf t ∨ mostOf t < v) :
    intResult t .sat v = ⟨wrapBits (tyBits t) (if v < leastOf t then leastOf t else mostOf t), 32, false⟩ := by
  rw [intResult]
  exact if_neg (not_inRange h)

theorem intResult_inf (h : v < leastOf t ∨ mostOf t < v) : intResult t .inf v = ⟨wrapBits (tyBits t) v, 32, false⟩ := by
  rw [intResult]
  exact if_neg (not_inRange h)

theorem intResult_nan (h : v < leastOf t ∨ mostOf t < v) : intResult t .nan v = ⟨wrapBits (tyBits t) (leastOf t), 32, false⟩ := by
  rw [intResult]
  exact if_neg (not_inRange h)

theorem intResult_trap (h : v < leastOf t ∨ mostOf t < v) : intResult t .trap v = ⟨0, 32, true⟩ := by
  rw [intResult]
  exact if_neg (not_inRange h)

theorem tyBits_pos : 0 < tyBits t := by cases t <;> decide

/-- A value that fits n bits reads back signed. -/
theorem toSigned_wrapBits {n : Nat} (hn : 0 < n) (h : -(2 : Int) ^ (n - 1) ≤ v) (h' : v ≤ 2 ^ (n - 1) - 1) : toSigned n (wrapBits n v) = v := by
  obtain ⟨k, rfl⟩ := Nat.exists_eq_add_of_lt hn
  have hP : (0 : Int) < 2 ^ k := by positivity
  have hM : (2 : Int) ^ (0 + k + 1) = 2 * 2 ^ k := by rw [Nat.zero_add, pow_succ, mul_comm]
  have hk : 0 + k + 1 - 1 = k := by omega
  have hw : (wrapBits (0 + k + 1) v : Int) = v % (2 * 2 ^ k) := by
    rw [wrapBits, hM, Int.toNat_of_nonneg (Int.emod_nonneg _ (by omega))]
  have hlt : wrapBits (0 + k + 1) v < 2 ^ (0 + k + 1) := by
    have := Int.emod_lt_of_pos v (b := 2 * 2 ^ k) (by omega)
    zify
    rw [hw, hM]
    exact this
  rw [hk] at h h'
  rw [toSigned, if_neg (by omega), Nat.mod_eq_of_lt hlt, hk, hw, hM]
  have hiff : wrapBits (0 + k + 1) v < 2 ^ k ↔ v % (2 * 2 ^ k) < 2 ^ k := by
    rw [← hw]
    exact_mod_cast Iff.rfl
  rcases Int.lt_or_le v 0 with hneg | hpos
  · have hmod : v % (2 * 2 ^ k) = v + 2 * 2 ^ k := by rw [← Int.add_emod_right, Int.emod_eq_of_lt (by omega) (by omega)]
    rw [if_neg (by rw [hiff, hmod]; omega), hmod]
    omega
  · have hmod : v % (2 * 2 ^ k) = v := Int.emod_eq_of_lt hpos (by omega)
    rw [if_pos (by rw [hiff, hmod]; omega), hmod]

theorem readInt_wrapBits (h : leastOf t ≤ v) (h' : v ≤ mostOf t) : readInt t (wrapBits (tyBits t) v) = v := by
  rw [leastOf] at h
  rw [mostOf] at h'
  rw [readInt]
  split_ifs at h h' ⊢ with hs
  · exact toSigned_wrapBits tyBits_pos h h'
  · rw [wrapBits, Int.toNat_of_nonneg (Int.emod_nonneg _ (by positivity)), Int.emod_eq_of_lt h (by omega)]

end

/-! ### Traps of flags (05 R94) -/

theorem flag_hit (x : BitVec 6) : ((x &&& fInvalid) != 0) = x.getLsbD 0 ∧ ((x &&& fDivzero) != 0) = x.getLsbD 1 ∧
    ((x &&& fOverflow) != 0) = x.getLsbD 2 ∧ ((x &&& fUnderflow) != 0) = x.getLsbD 3 ∧ ((x &&& fInexact) != 0) = x.getLsbD 4 := by
  revert x
  decide

/-- The first cause of R94, by the enabled flags. -/
theorem flagCause_eq (trap : Bool) (fl en : BitVec 6) : flagCause trap fl en =
    if trap then some (.ovfTrap, none)
    else if (fl &&& en).getLsbD 0 then some (.fpInvalid, some fInvalid)
    else if (fl &&& en).getLsbD 1 then some (.fpDivzero, some fDivzero)
    else if (fl &&& en).getLsbD 2 then some (.fpOverflow, some fOverflow)
    else if (fl &&& en).getLsbD 3 then some (.fpUnderflow, some fUnderflow)
    else if (fl &&& en).getLsbD 4 then some (.fpInexact, some fInexact)
    else none := by
  obtain ⟨h0, h1, h2, h3, h4⟩ := flag_hit (fl &&& en)
  simp only [flagCause, h0, h1, h2, h3, h4]

theorem Raised.foldl_flags_getLsbD (r : Raised) (a : BitVec 6) (i : Nat) :
    (r.foldl (fun a e => a ||| e.2.1) a).getLsbD i = (a.getLsbD i || r.any (fun e => e.2.1.getLsbD i)) := by
  induction r generalizing a with
  | nil => simp
  | cons e t ih => simp [ih, Bool.or_assoc]

/-- A flag of a word is a flag of some lane. -/
theorem Raised.flags_getLsbD (r : Raised) (i : Nat) : r.flags.getLsbD i = r.any (fun e => e.2.1.getLsbD i) := by
  rw [Raised.flags, Raised.foldl_flags_getLsbD]
  simp

/-- The least lane of a list is one of its lanes and below the others. -/
theorem Raised.foldl_min (l : Raised) (a : Nat) :
    (l.foldl (fun m e => min m e.1) a = a ∨ ∃ e, e ∈ l ∧ e.1 = l.foldl (fun m e => min m e.1) a) ∧
      l.foldl (fun m e => min m e.1) a ≤ a ∧
      ∀ e, e ∈ l → l.foldl (fun m e => min m e.1) a ≤ e.1 := by
  induction l generalizing a with
  | nil => simp
  | cons x t ih =>
    obtain ⟨hmem, hle, hall⟩ := ih (min a x.1)
    rw [List.foldl_cons]
    refine ⟨?_, hle.trans (Nat.min_le_left ..), ?_⟩
    · rcases hmem with h | ⟨e, he, h⟩
      · rcases Nat.le_total a x.1 with hax | hax
        · exact .inl (h.trans (Nat.min_eq_left hax))
        · exact .inr ⟨x, List.mem_cons_self .., (Nat.min_eq_right hax).symm.trans h.symm⟩
      · exact .inr ⟨e, List.mem_cons_of_mem _ he, h⟩
    · rintro e (_ | ⟨_, he⟩)
      · exact hle.trans (Nat.min_le_right ..)
      · exact hall e he

/-- The lane a trap reports: the lowest that raised what is reported. -/
theorem Raised.lowest (r : Raised) (p : Nat × BitVec 6 × Bool → Bool) (h : ∃ e, e ∈ r ∧ p e = true) :
    ∃ lane, (r.filter p).foldl (fun m e => min m e.1) (((r.filter p).head?.map (·.1)).getD 0) = lane ∧
      (∃ e, e ∈ r ∧ p e = true ∧ e.1 = lane) ∧ ∀ e, e ∈ r → p e = true → lane ≤ e.1 := by
  obtain ⟨e0, he0, hp0⟩ := h
  refine ⟨_, rfl, ?_, fun e he hp => (Raised.foldl_min ..).2.2 e (List.mem_filter.mpr ⟨he, hp⟩)⟩
  cases hl : r.filter p with
  | nil => exact absurd (List.mem_filter.mpr ⟨he0, hp0⟩) (by simp [hl])
  | cons x t =>
    have hin : ∀ e, e ∈ x :: t → e ∈ r ∧ p e = true := fun e he => List.mem_filter.mp (hl ▸ he)
    rcases (Raised.foldl_min (x :: t) x.1).1 with h | ⟨e, he, h⟩
    · exact ⟨x, (hin x (List.mem_cons_self ..)).1, (hin x (List.mem_cons_self ..)).2, h.symm⟩
    · exact ⟨e, (hin e he).1, (hin e he).2, h⟩

section
variable {x : Ctx} {n : Nat} {lands : List Land} {r : Raised} {c : Cause}

/-- Whether a lane raised what a cause reports: the flag, or the trap of the policy. -/
def raisedIt (f : Option (BitVec 6)) (e : Nat × BitVec 6 × Bool) : Bool :=
  match f with
  | none => e.2.2
  | some b => (e.2.1 &&& b) != 0

/-- A word whose policy or enabled flag traps lands its flags alone, and traps at its due beat for the lowest lane. -/
theorem vecLater_traps {f : Option (BitVec 6)} {p : Nat × BitVec 6 × Bool → Bool}
    (hc : flagCause (r.any (fun e => e.2.2)) r.flags (trapEnables x.st.csr.ftrapen) = some (c, f))
    (hp : raisedIt f = p)
    (h : ∃ e, e ∈ r ∧ p e = true) :
    ∃ lane, (∃ e, e ∈ r ∧ p e = true ∧ e.1 = lane) ∧ (∀ e, e ∈ r → p e = true → lane ≤ e.1) ∧
      vecLater x n lands r = x.st.later x.q n [.flags r.flags] (some (x.st.mkTrap x.q c (noAddr c) (BitVec.ofNat 64 lane))) := by
  obtain ⟨lane, hlane, hmem, hle⟩ := r.lowest p h
  refine ⟨lane, hmem, hle, ?_⟩
  have ht : r.trap x.st.csr.ftrapen = some (c, lane) := by
    rw [Raised.trap, hc, ← hlane, ← hp]
    rfl
  rw [vecLater, ht]

/-- The same for the flag of bit i. -/
theorem vecLater_flag {f : BitVec 6} {i : Nat}
    (hc : flagCause (r.any (fun e => e.2.2)) r.flags (trapEnables x.st.csr.ftrapen) = some (c, some f))
    (hf : ∀ b : BitVec 6, ((b &&& f) != 0) = b.getLsbD i) (hb : (r.flags &&& trapEnables x.st.csr.ftrapen).getLsbD i = true) :
    ∃ lane, (∃ e, e ∈ r ∧ e.2.1.getLsbD i = true ∧ e.1 = lane) ∧ (∀ e, e ∈ r → e.2.1.getLsbD i = true → lane ≤ e.1) ∧
      vecLater x n lands r = x.st.later x.q n [.flags r.flags] (some (x.st.mkTrap x.q c (noAddr c) (BitVec.ofNat 64 lane))) := by
  rw [BitVec.getLsbD_and, Bool.and_eq_true, Raised.flags_getLsbD, List.any_eq_true] at hb
  exact vecLater_traps hc (funext fun e => hf e.2.1) hb.1

/-- Without a policy's trap and without an enabled flag the results land. -/
theorem vecLater_lands (hp : ¬ ∃ e, e ∈ r ∧ e.2.2 = true) (he : r.flags &&& trapEnables x.st.csr.ftrapen = 0) :
    vecLater x n lands r = x.st.later x.q n (lands ++ [.flags r.flags]) := by
  have hany : r.any (fun e => e.2.2) = false := by
    rw [← Bool.not_eq_true, List.any_eq_true]
    exact hp
  have ht : r.trap x.st.csr.ftrapen = none := by simp [Raised.trap, flagCause_eq, hany, he]
  rw [vecLater, ht]

end

end Sys2Proof.Machine
end

section
/-! SUPPORT. Rounding, integer results and the traps of flags (05 R90 to R94; 13 R270). -/

namespace Sys2Proof.Proofs
open Sys2Proof.Machine

/-- R90 by `roundTo_exact` and `roundTo_shift`, mode by mode. -/
theorem rounding (mode : Rnd) (neg : Bool) (m : Nat) (e q : Int) (h : e < q) :
    let n := (roundTo mode neg m e q).1
    let u := 2 ^ (q - e).toNat
    ((roundTo mode neg m e q).2 = true ↔ m % u ≠ 0) ∧ (n = m / u ∨ n = m / u + 1) ∧ (m % u = 0 → n = m / u) ∧
      (m % u ≠ 0 →
        (mode = .rz → n = m / u) ∧
        (mode = .rd → n = m / u + (if neg then 1 else 0)) ∧
        (mode = .rp → n = m / u + (if neg then 0 else 1)) ∧
        (mode = .ra → n = m / u + (if u ≤ 2 * (m % u) then 1 else 0)) ∧
        (mode = .rn → n = m / u + (if u < 2 * (m % u) ∨ (2 * (m % u) = u ∧ m / u % 2 = 1) then 1 else 0))) := by
  intro n u
  have hu : 0 < u := by positivity
  have hn : n = if roundsBy mode neg m u then m / u + 1 else m / u := congrArg Prod.fst (roundTo_shift h)
  have hx : (roundTo mode neg m e q).2 = (m % u != 0) := by rw [roundTo_shift h]
  clear_value n u
  subst hn
  refine ⟨by simp [hx], ?_, fun h0 => if_neg ?_, fun h0 => ⟨?_, ?_, ?_, ?_, ?_⟩⟩
  · split
    · exact .inr rfl
    · exact .inl rfl
  · cases mode <;> simp [roundsBy, h0, hu.ne, hu.ne']
  all_goals
    rintro rfl
    simp only [roundsBy, bne_iff_ne.mpr h0]
  · rfl
  · cases neg <;> rfl
  · cases neg <;> rfl
  · simp only [decide_eq_true_eq]
    split <;> rfl
  · simp only [Bool.or_eq_true, Bool.and_eq_true, decide_eq_true_eq, beq_iff_eq]
    split <;> rfl

/-- Settles O32: rounding by the remainder (`roundTo_shift`), integer results by their range, and the first cause of R94 by the enabled
flags (`flagCause_eq`). -/
theorem numberRules : Obligations.NumberRules := by
  refine ⟨fun mode neg m e q _ => ⟨fun h => ?_, fun h => rounding mode neg m e q h⟩, fun t ovf v _ => ⟨fun h h' =>
    ⟨intResult_in h h', readInt_wrapBits h h'⟩, fun h => ⟨intResult_sat h, intResult_inf h, intResult_nan h, by rw [intResult_trap h],
      by rw [intResult_trap h]⟩⟩, ?_⟩
  · rw [roundTo_exact h]
    exact ⟨rfl, rfl⟩
  · intro x n lands r en policy traps
    have hany : ¬ policy → r.any (fun e => e.2.2) = false := fun hp => by
      rw [← Bool.not_eq_true, List.any_eq_true]
      exact hp
    have hen : en = r.flags &&& trapEnables x.st.csr.ftrapen := rfl
    refine ⟨fun hp => ?_, fun hp h0 => ?_, fun hp h0 h1 => ?_, fun hp h0 h1 h2 => ?_, fun hp h0 h1 h2 h3 => ?_, fun hp h0 h1 h2 h3 h4 => ?_,
      fun hp h => vecLater_lands hp h⟩
    · exact vecLater_traps (f := none) (by rw [flagCause_eq, if_pos (List.any_eq_true.mpr hp)]) rfl hp
    · exact vecLater_flag (by simp only [flagCause_eq, hany hp, ← hen, h0, Bool.false_eq_true, if_false, if_true])
        (fun b => (flag_hit b).1) h0
    · exact vecLater_flag (by simp only [flagCause_eq, hany hp, ← hen, h0, h1, Bool.false_eq_true, if_false, if_true])
        (fun b => (flag_hit b).2.1) h1
    · exact vecLater_flag (by simp only [flagCause_eq, hany hp, ← hen, h0, h1, h2, Bool.false_eq_true, if_false, if_true])
        (fun b => (flag_hit b).2.2.1) h2
    · exact vecLater_flag (by simp only [flagCause_eq, hany hp, ← hen, h0, h1, h2, h3, Bool.false_eq_true, if_false, if_true])
        (fun b => (flag_hit b).2.2.2.1) h3
    · exact vecLater_flag (by simp only [flagCause_eq, hany hp, ← hen, h0, h1, h2, h3, h4, Bool.false_eq_true, if_false, if_true])
        (fun b => (flag_hit b).2.2.2.2) h4

end Sys2Proof.Proofs
end

section
/-! SUPPORT. MMA and MMAS: their tests and what a started one leaves (14 R294 to R305). -/

namespace Sys2Proof.Machine

/-- The tests of an MMA after R294's, in the order of R298. -/
def Ctx.mmaTests (x : Ctx) (g : MmaArgs) : Effect :=
  match g.refused with
  | some f => trapNow f
  | none =>
    match checkRuns3 ((if g.gather then [] else g.aRuns (g.starts x.st.sh)) ++ g.bxRuns) with
    | some (f, fa) => .fault f fa 0
    | none =>
      match scaleShort x g.scales x.st.sh.q1 x.st.sh.q1out, scaleShort x g.scales x.st.sh.q2 x.st.sh.q2out with
      | some e, _ | none, some e => e
      | none, none =>
        if g.gather ∧ x.st.sh.q0 = [] then .block (some .queueImbalance) .none x.chip
        else
          match if g.gather then checkRuns3 (g.aRuns (g.starts x.st.sh)) else none with
          | some (f, fa) => .fault f fa 0
          | none =>
            if x.tau < x.st.run.mmaUntil then .block (some .tokenOverflow) .none x.chip
            else if consumed x g.t ≠ [] ∨ g.held x = true then .block (some .tokenOverflow) .none x.chip
            else .go (startedMma x g) .next .none

section
variable {s : State} {h : Head} {st : Strand} {opc : BitVec 8} {ok sparse : Bool} {c : BitVec 6} {sa sb sx : BitVec 4} {ta tb : Ty} {acc : Acc}
  {reuse : Bool} {t : Toks} {x : Ctx} {tiles : List (BitVec 6)} {g : MmaArgs} {f : Cause} {fa : Word}

/-! ### The tiles that a word names (14 R294) -/

theorem matrixPort_closed (hm : x.st.place.ctmask = 0) : matrixPort x tiles = some (trapNow .enginePort) := if_pos hm

theorem matrixPort_window (hm : x.st.place.ctmask ≠ 0) (ht : ¬ ∀ c, c ∈ tiles → x.st.place.ctmask.getLsbD c.toNat = true) :
    matrixPort x tiles = some (trapNow .windowInvalid) := by
  exact (if_neg hm).trans (if_neg (by rwa [List.all_eq_true]))

theorem matrixPort_open (hm : x.st.place.ctmask ≠ 0) (ht : ∀ c, c ∈ tiles → x.st.place.ctmask.getLsbD c.toNat = true) :
    matrixPort x tiles = none := by
  exact (if_neg hm).trans (if_pos (List.all_eq_true.mpr ht))

theorem ctmask_ne_zero {m : BitVec 32} {c : Nat} (h : m.getLsbD c = true) : m ≠ 0 := by
  rintro rfl
  simp at h

/-! ### The tests of an MMA, one by one -/

theorem scaleShort_none {n : Nat} {q : List Byte} {out : List Nat} (hn : n ≤ q.length) : scaleShort x n q out = none := if_pos hn

theorem scaleShort_trap {n : Nat} {q : List Byte} {out : List Nat} (hn : q.length < n) (ho : out = []) :
    scaleShort x n q out = some (trapNow .queueImbalance) := by rw [scaleShort, if_neg (Nat.not_le.mpr hn), if_pos ho]

theorem scaleShort_block {n : Nat} {q : List Byte} {out : List Nat} (hn : q.length < n) (ho : out ≠ []) :
    scaleShort x n q out = some (.block (some .queueImbalance) .none x.chip) := by
  rw [scaleShort, if_neg (Nat.not_le.mpr hn), if_neg ho]

theorem mmaTests_refused (hr : g.refused = some f) : x.mmaTests g = trapNow f := by simp only [Ctx.mmaTests, hr]

section
variable (hr : g.refused = none)
include hr

theorem mmaTests_runs (hc : checkRuns3 ((if g.gather then [] else g.aRuns (g.starts x.st.sh)) ++ g.bxRuns) = some (f, fa)) :
    x.mmaTests g = .fault f fa 0 := by simp only [Ctx.mmaTests, hr, hc]

variable (hc : checkRuns3 ((if g.gather then [] else g.aRuns (g.starts x.st.sh)) ++ g.bxRuns) = none)
include hc

theorem mmaTests_q1 {e : Effect} (h1 : scaleShort x g.scales x.st.sh.q1 x.st.sh.q1out = some e) : x.mmaTests g = e := by
  simp only [Ctx.mmaTests, hr, hc, h1]

theorem mmaTests_q1_trap (h1 : x.st.sh.q1.length < g.scales) (ho : x.st.sh.q1out = []) : x.mmaTests g = trapNow .queueImbalance :=
  mmaTests_q1 hr hc (scaleShort_trap h1 ho)

theorem mmaTests_q1_block (h1 : x.st.sh.q1.length < g.scales) (ho : x.st.sh.q1out ≠ []) :
    x.mmaTests g = .block (some .queueImbalance) .none x.chip := mmaTests_q1 hr hc (scaleShort_block h1 ho)

variable (h1 : g.scales ≤ x.st.sh.q1.length)
include h1

theorem mmaTests_q2 {e : Effect} (h2 : scaleShort x g.scales x.st.sh.q2 x.st.sh.q2out = some e) : x.mmaTests g = e := by
  simp only [Ctx.mmaTests, hr, hc, scaleShort_none h1, h2]

theorem mmaTests_q2_trap (h2 : x.st.sh.q2.length < g.scales) (ho : x.st.sh.q2out = []) : x.mmaTests g = trapNow .queueImbalance :=
  mmaTests_q2 hr hc h1 (scaleShort_trap h2 ho)

theorem mmaTests_q2_block (h2 : x.st.sh.q2.length < g.scales) (ho : x.st.sh.q2out ≠ []) :
    x.mmaTests g = .block (some .queueImbalance) .none x.chip := mmaTests_q2 hr hc h1 (scaleShort_block h2 ho)

variable (h2 : g.scales ≤ x.st.sh.q2.length)
include h2

theorem mmaTests_q0 (h0 : g.gather = true ∧ x.st.sh.q0 = []) : x.mmaTests g = .block (some .queueImbalance) .none x.chip := by
  simp only [Ctx.mmaTests, hr, hc, scaleShort_none h1, scaleShort_none h2, if_pos h0]

variable (h0 : ¬ (g.gather = true ∧ x.st.sh.q0 = []))
include h0

theorem mmaTests_gathered (hg : (if g.gather then checkRuns3 (g.aRuns (g.starts x.st.sh)) else none) = some (f, fa)) :
    x.mmaTests g = .fault f fa 0 := by simp only [Ctx.mmaTests, hr, hc, scaleShort_none h1, scaleShort_none h2, if_neg h0, hg]

variable (hg : (if g.gather then checkRuns3 (g.aRuns (g.starts x.st.sh)) else none) = none)
include hg

/-- Past the queues an MMA waits for the engine, then for its tokens and locks, then starts. -/
theorem mmaTests_last : x.mmaTests g =
    if x.tau < x.st.run.mmaUntil then .block (some .tokenOverflow) .none x.chip
    else if consumed x g.t ≠ [] ∨ g.held x = true then .block (some .tokenOverflow) .none x.chip
    else .go (startedMma x g) .next .none := by simp only [Ctx.mmaTests, hr, hc, scaleShort_none h1, scaleShort_none h2, if_neg h0, hg]

end

/-! ### What stops an MMA by its fields and streams (14 R296) -/

theorem bit1_ne_zero_iff {b : BitVec 1} : b ≠ 0#1 ↔ b = 1#1 := by revert b; decide

theorem typed_of (hf : ¬ (g.ra.fmt ≠ tyCode g.ta ∨ g.rb.fmt ≠ tyCode g.tb)) (hb : ¬ g.rb.gather = 1#1) :
    g.ra.fmt = tyCode g.ta ∧ g.rb.fmt = tyCode g.tb ∧ g.rb.gather = 0#1 := by
  obtain ⟨ha, hb'⟩ := not_or.mp hf
  exact ⟨not_not.mp ha, not_not.mp hb', not_not.mp (mt bit1_ne_zero_iff.mp hb)⟩

theorem refused_types (h : ¬ (g.ra.fmt = tyCode g.ta ∧ g.rb.fmt = tyCode g.tb ∧ g.rb.gather = 0#1)) : g.refused = some .illRsvd := by
  by_cases hf : g.ra.fmt ≠ tyCode g.ta ∨ g.rb.fmt ≠ tyCode g.tb
  · exact if_pos hf
  · by_cases hb : g.rb.gather = 1#1
    · exact (if_neg hf).trans (if_pos hb)
    · exact absurd (typed_of hf hb) h

section
variable (ht : g.ra.fmt = tyCode g.ta ∧ g.rb.fmt = tyCode g.tb ∧ g.rb.gather = 0#1)
include ht

theorem refused_typed : g.refused =
    if g.ra.axis ≠ 0#1 ∨ g.rb.axis ≠ 0#1 then some .blockAxis
    else if g.ra.buffer ≠ .abuf ∨ g.rb.buffer ≠ .wbuf ∨ (g.sparse = true ∧ g.rx.buffer ≠ .wbuf) then some .enginePort
    else none := by
  obtain ⟨ha, hb, hg⟩ := ht
  exact (if_neg (by simp [ha, hb])).trans (if_neg (by rw [hg]; decide))

theorem refused_axis (h : g.ra.axis ≠ 0#1 ∨ g.rb.axis ≠ 0#1) : g.refused = some .blockAxis := (refused_typed ht).trans (if_pos h)

variable (ha : g.ra.axis = 0#1) (hb : g.rb.axis = 0#1)
include ha hb

theorem refused_place (h : ¬ (g.ra.buffer = .abuf ∧ g.rb.buffer = .wbuf ∧ (g.sparse = true → g.rx.buffer = .wbuf))) :
    g.refused = some .enginePort :=
  (refused_typed ht).trans ((if_neg (by simp [ha, hb])).trans (if_pos (by tauto)))

theorem refused_none (h : g.ra.buffer = .abuf ∧ g.rb.buffer = .wbuf ∧ (g.sparse = true → g.rx.buffer = .wbuf)) : g.refused = none :=
  (refused_typed ht).trans ((if_neg (by simp [ha, hb])).trans (if_neg (by tauto)))

end

/-! ### What a started MMA leaves (14 R296) -/

/-- Whether an injection is armed for the tile (15 R328). -/
def MmaArgs.armed (g : MmaArgs) (x : Ctx) : Bool := x.st.csr.ttInject.getLsbD 63 && bitsOf x.st.csr.ttInject 0 5 == g.c.toNat

/-- The strand after an MMA that read no error. -/
def MmaArgs.strandAfter (g : MmaArgs) (x : Ctx) : Strand :=
  let sh := { x.st.sh with
    q1 := x.st.sh.q1.drop g.scales, q2 := x.st.sh.q2.drop g.scales, q0 := if g.gather then x.st.sh.q0.tail else x.st.sh.q0,
    nest := (nestStep x.st.sh.nest).1 }
  let st := { x.st with
    sh := sh, run := { x.st.run with mmaUntil := x.tau + 8 }, bLatch := some (g.rowsHeld x),
    csr := if g.armed x then { x.st.csr with ttInject := x.st.csr.ttInject &&& 0x7FFFFFFFFFFFFFFF } else x.st.csr }
  (st.later x.q 1 ((nestStep x.st.sh.nest).2.map (fun a => .posAdd a.1 a.2))).later x.q 14
    [g.land x (if g.armed x then some x.st.csr.ttInject else none), .workDone x.chip.workNext]

theorem findSome_error_none {ch : Chip} {base : Nat} {l : List (Nat × Nat)} (h : ∀ e, e ∈ l → ch.errorAt (base + e.1) e.2 = none) :
    l.findSome? (fun e => (ch.errorAt (base + e.1) e.2).map (fun c => (e.1, c))) = none :=
  List.findSome?_eq_none_iff.mpr (fun e he => by rw [h e he]; rfl)

theorem startedMma_clean (ha : ∀ e, e ∈ g.aRead x.st.sh → x.chip.errorAt (abufAddr x.core + e.1) e.2 = none)
    (hb : ∀ e, e ∈ g.bRead x.st.sh → x.chip.errorAt (wbufAddr x.core + e.1) e.2 = none) :
    ∃ k, startedMma x g =
      { chip := (x.chip.addWork k).1.setStrand x.core x.slot (produce (g.strandAfter x) g.t x.chip.workNext), writes := [] } := by
  have hA := findSome_error_none ha
  have hB := findSome_error_none hb
  have hbad : (if g.reuses x then none else
      (g.bRead x.st.sh).findSome? (fun e => (x.chip.errorAt (wbufAddr x.core + e.1) e.2).map (fun c => (e.1, c)))) = none := by
    rw [hB, ite_self]
  refine ⟨{ x.engineWork g.t (.mma g.c.toNat) 3 false [] with letters := { bits := 0, promised := false }, promise := x.tau + 14 }, ?_⟩
  simp only [startedMma, hA, hbad]
  rfl

theorem produce_run (w : Nat) : (produce st t w).run = st.run := by unfold produce; split <;> rfl
theorem produce_due (w : Nat) : (produce st t w).due = st.due := by unfold produce; split <;> rfl
theorem produce_traps (w : Nat) : (produce st t w).traps = st.traps := by unfold produce; split <;> rfl
theorem produce_bLatch (w : Nat) : (produce st t w).bLatch = st.bLatch := by unfold produce; split <;> rfl
theorem produce_sh (w : Nat) : (produce st t w).sh =
    { st.sh with tokens := if t.p = 63#6 then st.sh.tokens else st.sh.tokens.set t.p.toNat w } := by unfold produce; split <;> rfl

theorem gather_ite {α : Type} (a b : α) : (if g.gather then a else b) = if g.ra.gather = 1#1 then a else b := by
  rw [MmaArgs.gather]
  exact if_congr beq_iff_eq rfl rfl

/-- A word of an MMA whose tile is open makes its tests. -/
theorem mmaWord_ready (rd : Ready s h .cp st) (hok : ok = true) : mmaWord s h opc ok sparse c sa sb sx ta tb acc reuse t =
    s.ends h (matInfo opc (if ta = .bf16 ∨ ta = .f16 then 11 else 10) ok true) st (match matrixPort (s.ctx st) [c] with
      | some e => e
      | none => (s.ctx st).mmaTests (mmaArgs (s.ctx st) sparse c sa sb sx ta tb acc reuse t)) := by
  rw [mmaWord, issue_ends rd rfl rfl hok rfl]
  rfl

end

end Sys2Proof.Machine
end

section
/-! SUPPORT. MMA and MMAS (14 R294 to R305). -/

namespace Sys2Proof.Proofs
open Sys2Proof.Machine

/-- Settles O33: the tests in their order, one lemma each (`mmaTests_…`), and what a started MMA leaves (`startedMma_clean`). -/
theorem mmaWords : Obligations.MmaWords := by
  refine ⟨?_, ?_⟩
  · intro s h st sparse c sa sb sx ta tb acc reuse t rd i x g sh a b granted typed placed rows gathered stops blocks hwf
    obtain ⟨ok, hi, hok⟩ : ∃ ok, exec i s =
        mmaWord s h (if sparse then 0xA1 else 0xA0) ok sparse c sa sb (if sparse then sx else 0) ta tb acc reuse t ∧
        ok = true := by
      cases sparse
      · exact ⟨_, rfl, hwf⟩
      · exact ⟨_, rfl, hwf⟩
    have he := hi.trans (mmaWord_ready rd hok)
    have hport (hg : granted) : exec i s = s.ends h (matInfo (if sparse then 0xA1 else 0xA0) (if ta = .bf16 ∨ ta = .f16 then 11 else 10) ok true) st
        (x.mmaTests g) := by
      have hp : matrixPort x [c] = none := matrixPort_open (ctmask_ne_zero hg) (List.forall_mem_singleton.mpr hg)
      rw [he, show matrixPort (s.ctx st) [c] = none from hp]
    have hstop {f : Cause} {fa : Word} (hg : granted) (hx : x.mmaTests g = .fault f fa 0) : stops f fa :=
      (hport hg).trans (congrArg (s.ends h _ st) hx)
    have hblock {l : Cause} (hg : granted) (hx : x.mmaTests g = .block (some l) .none x.chip) : blocks l :=
      (hport hg).trans (congrArg (s.ends h _ st) hx)
    have hplaced : placed ↔ g.ra.buffer = .abuf ∧ g.rb.buffer = .wbuf ∧ (g.sparse = true → g.rx.buffer = .wbuf) := by
      have hx : (sparse = true → (st.stream sx.toNat).buffer = .wbuf) ↔
          (sparse = true → (st.stream (if sparse then sx else 0).toNat).buffer = .wbuf) := by cases sparse <;> simp
      exact and_congr_right fun _ => and_congr_right fun _ => hx
    refine ⟨fun hm => ?_, fun hm hg => ?_, fun hg ht => hstop hg (mmaTests_refused (refused_types ht)),
      fun hg ht hx => hstop hg (mmaTests_refused (refused_axis ht hx)), fun hg ht ha hb =>
      ⟨fun hp => hstop hg (mmaTests_refused (refused_place ht ha hb (mt hplaced.mpr hp))), fun f fa hp hr => ?_, fun hp hr => ?_⟩⟩
    · have hp : matrixPort (s.ctx st) [c] = some (trapNow .enginePort) := matrixPort_closed hm
      rw [hp] at he
      exact he
    · have hp : matrixPort (s.ctx st) [c] = some (trapNow .windowInvalid) := matrixPort_window hm (mt List.forall_mem_singleton.mp hg)
      rw [hp] at he
      exact he
    · have hnone := refused_none ht ha hb (hplaced.mp hp)
      exact hstop hg (mmaTests_runs hnone (by rw [gather_ite]; exact hr))
    · have hnone := refused_none ht ha hb (hplaced.mp hp)
      have hruns : checkRuns3 ((if g.gather then [] else g.aRuns (g.starts sh)) ++ g.bxRuns) = none := by rw [gather_ite]; exact hr
      refine ⟨fun h1 ho => hstop hg (mmaTests_q1_trap hnone hruns h1 ho), fun h1 ho => hblock hg (mmaTests_q1_block hnone hruns h1 ho),
        fun h1 h2 ho => hstop hg (mmaTests_q2_trap hnone hruns h1 h2 ho), fun h1 h2 ho => hblock hg (mmaTests_q2_block hnone hruns h1 h2 ho),
        fun h1 h2 => ⟨fun hgath h0 => hblock hg (mmaTests_q0 hnone hruns h1 h2 ⟨beq_iff_eq.mpr hgath, h0⟩), fun h0 => ?_⟩⟩
      have hq0 : ¬ (g.gather = true ∧ sh.q0 = []) := fun hn => h0 (beq_iff_eq.mp hn.1) hn.2
      have hlast (hga : gathered = none) := mmaTests_last (x := x) hnone hruns h1 h2 hq0 (by rw [gather_ite]; exact hga)
      refine ⟨fun f fa hga => hstop hg (mmaTests_gathered hnone hruns h1 h2 hq0 (by rw [gather_ite]; exact hga)),
        fun hga hbusy => hblock hg ((hlast hga).trans (if_pos hbusy)),
        fun hga hfree hwait => hblock hg ((hlast hga).trans ((if_neg (not_lt.mpr hfree)).trans (if_pos hwait))),
        fun hga hfree hc hl => (hport hg).trans (congrArg (s.ends h _ st) ((hlast hga).trans ((if_neg (not_lt.mpr hfree)).trans (if_neg ?_))))⟩
      rintro (hn | hn)
      · exact hn hc
      · exact absurd (hl.symm.trans hn) Bool.false_ne_true
  · intro x g ha hb
    obtain ⟨k, hk⟩ := startedMma_clean ha hb
    refine ⟨produce (g.strandAfter x) g.t x.chip.workNext, by rw [hk], by rw [hk, Chip.strand?_setStrand], by rw [hk]; rfl, ?_⟩
    rw [produce_run, produce_sh, produce_traps, produce_bLatch, produce_due]
    refine ⟨rfl, rfl, rfl, gather_ite .., rfl, rfl, rfl, rfl, _, rfl, fun h => if_neg ?_⟩
    rw [MmaArgs.armed, h, Bool.false_and]
    exact Bool.false_ne_true

end Sys2Proof.Proofs
end

section
/-! SUPPORT. Integer products and reductions (14 R300; 19 R344). -/

namespace Sys2Proof.Machine

/-! ### Values that are integers -/

/-- A finite value without exponent that stands for an integer. -/
def IsInt (v : Val) (z : Int) : Prop := ∃ n m, v = .fin n m 0 ∧ scaledInt n m 0 0 = z

theorem scaledInt_zero (n : Bool) (m : Nat) : scaledInt n m 0 0 = if n then -(m : Int) else m := by
  simp [scaledInt]

theorem isInt_fin (z : Int) : IsInt (.fin (decide (z < 0)) z.natAbs 0) z := by
  refine ⟨_, _, rfl, ?_⟩
  rw [scaledInt_zero]
  rcases Int.lt_or_le z 0 with h | h
  · rw [if_pos (decide_eq_true h), Int.ofNat_natAbs_of_nonpos h.le, Int.neg_neg]
  · rw [if_neg (by simpa using h), Int.natAbs_of_nonneg h]

/-- The product of integers, with no flag. -/
theorem prodVal_int {u v : Val} {a b : Int} (hu : IsInt u a) (hv : IsInt v b) :
    IsInt (prodVal (u, 0) (v, 0)).1 (a * b) ∧ (prodVal (u, 0) (v, 0)).2 = 0 := by
  obtain ⟨n, m, rfl, rfl⟩ := hu
  obtain ⟨n', m', rfl, rfl⟩ := hv
  refine ⟨⟨n.xor n', m * m', rfl, ?_⟩, by simp [prodVal, Val.isSnan, Val.isNan, mulVal]⟩
  simp only [scaledInt_zero]
  cases n <;> cases n' <;> push_cast <;> simp

theorem intOf_isInt {v : Val} {z : Int} (h : IsInt v z) : intOf v = z := by
  obtain ⟨n, m, rfl, rfl⟩ := h
  rfl

section
variable {l : List Val} {zs : List Int}

theorem IsInt.notNan {v : Val} {z : Int} (h : IsInt v z) : v.isNan = false := by
  obtain ⟨n, m, rfl, -⟩ := h
  rfl

/-- The sign of an infinity. -/
def Val.infSign : Val → Option Bool
  | .inf n => some n
  | _ => none

/-- The least exponent so far. -/
def lowExp (a : Int) : Val → Int
  | .fin _ m e => if m = 0 then a else min a e
  | _ => a

/-- A term added in units of 2^lo. -/
def addTerm (lo a : Int) : Val → Int
  | .fin n m e => if m = 0 then a else a + scaledInt n m e lo
  | _ => a

theorem sumExact_eq (l : List Val) : sumExact l = match l.find? (·.isNan) with
    | some v => (v, 0)
    | none => match l.filterMap Val.infSign with
      | n :: rest => if rest.all (· == n) then (.inf n, 0) else (.nan false true (2 ^ 22), fInvalid)
      | [] =>
        if l.foldl (addTerm (l.foldl lowExp 0)) 0 = 0 then (.fin (!l.isEmpty && l.all (·.neg)) 0 0, 0)
        else (.fin (decide (l.foldl (addTerm (l.foldl lowExp 0)) 0 < 0)) (l.foldl (addTerm (l.foldl lowExp 0)) 0).natAbs (l.foldl lowExp 0), 0) := rfl

/-- The least exponent of integers is 0. -/
theorem foldl_low (h : List.Forall₂ IsInt l zs) : l.foldl lowExp 0 = 0 := by
  induction h with
  | nil => rfl
  | cons hv _ ih =>
    obtain ⟨n, m, rfl, -⟩ := hv
    simpa [lowExp] using ih

theorem foldl_sum (h : List.Forall₂ IsInt l zs) (a : Int) :
    l.foldl (addTerm 0) a = a + zs.sum := by
  induction h generalizing a with
  | nil => simp
  | cons hv _ ih =>
    obtain ⟨n, m, rfl, rfl⟩ := hv
    rw [List.foldl_cons, ih, List.sum_cons]
    by_cases hm : m = 0
    · simp [addTerm, hm, scaledInt_zero]
    · simp [addTerm, hm, Int.add_assoc]

/-- The exact sum of integers is their sum. -/
theorem sumExact_int (h : List.Forall₂ IsInt l zs) : IsInt (sumExact l).1 zs.sum := by
  have hnan : l.find? (·.isNan) = none := by
    rw [List.find?_eq_none]
    intro v hv
    obtain ⟨i, hi, rfl⟩ := List.getElem_of_mem hv
    have := (List.forall₂_iff_get.mp h).2 i hi (h.length_eq ▸ hi)
    simpa using this.notNan
  have hinf : l.filterMap Val.infSign = [] := by
    rw [List.filterMap_eq_nil_iff]
    intro v hv
    obtain ⟨i, hi, rfl⟩ := List.getElem_of_mem hv
    obtain ⟨n, m, hfin, -⟩ := (List.forall₂_iff_get.mp h).2 i hi (h.length_eq ▸ hi)
    have hfin : l[i] = .fin n m 0 := hfin
    rw [hfin]
    rfl
  have hsum := foldl_sum h 0
  rw [Int.zero_add] at hsum
  simp only [sumExact_eq, hnan, hinf, foldl_low h, hsum]
  split_ifs with h0
  · exact ⟨_, 0, rfl, by simp [scaledInt_zero, h0]⟩
  · exact isInt_fin _

end

theorem isInt_scale {v : Val} {z : Int} (h : IsInt v z) : IsInt (scaleVal 0 v) z := by
  obtain ⟨n, m, rfl, rfl⟩ := h
  exact ⟨n, m, rfl, rfl⟩

/-- A block of integer products gives the sum of the products. -/
theorem intOf_blockSum {ps : List (Val × BitVec 6)} {zs : List Int} (h : List.Forall₂ IsInt (ps.map (·.1)) zs) :
    intOf (blockSum 0 ps).1 = zs.sum := intOf_isInt (isInt_scale (sumExact_int h))

/-! ### I8 rows -/

/-- An I8 element decodes to its value, without flags. -/
theorem decElem_i8 (code : List (BitVec 16)) (b : Byte) : IsInt (decElem .i8 code b.toNat).1 b.toInt ∧ (decElem .i8 code b.toNat).2 = 0 := by
  have hs : toSigned 8 b.toNat = b.toInt := by
    rw [toSigned, BitVec.toInt_eq_toNat_cond]
    have := b.isLt
    have hm : b.toNat % 2 ^ 8 = b.toNat := Nat.mod_eq_of_lt this
    rw [hm]
    norm_num
    split_ifs <;> omega
  refine ⟨?_, rfl⟩
  rw [← hs]
  exact isInt_fin _

/-- The value of an element of a row. -/
def rowInt (r : List Byte) (k : Nat) : Int := (r.getD k 0).toInt

/-- The sum of the products of one block of two rows. -/
def blockDot (r r' : List Byte) (blk : Nat) : Int := ((List.range 32).map (fun k => rowInt r (32 * blk + k) * rowInt r' (32 * blk + k))).sum

section
variable {code : List (BitVec 16)} {r r' : List Byte} {blk : Nat}

theorem rowElems_i8 : (rowElems .i8 r).map (decElem .i8 code) = r.map (fun b => decElem .i8 code b.toNat) := List.map_map

/-- The products of a block of two I8 rows stand for the products of their elements. -/
theorem block_products (hr : r.length = 256) (hr' : r'.length = 256) (hb : blk < 8) :
    List.Forall₂ IsInt ((List.zipWith prodVal (((r.map (fun b => decElem .i8 code b.toNat)).drop (32 * blk)).take 32)
        (((r'.map (fun b => decElem .i8 code b.toNat)).drop (32 * blk)).take 32)).map (·.1))
      ((List.range 32).map (fun k => rowInt r (32 * blk + k) * rowInt r' (32 * blk + k))) := by
  refine List.forall₂_iff_get.mpr ⟨by simp [hr, hr']; omega, fun k hk hk' => ?_⟩
  have hk32 : k < 32 := by simpa using hk'
  have h1 : 32 * blk + k < r.length := by omega
  have h2 : 32 * blk + k < r'.length := by omega
  obtain ⟨hu, -⟩ := decElem_i8 code r[32 * blk + k]
  obtain ⟨hv, -⟩ := decElem_i8 code r'[32 * blk + k]
  have hp : IsInt (prodVal (decElem .i8 code r[32 * blk + k].toNat) (decElem .i8 code r'[32 * blk + k].toNat)).1
      (r[32 * blk + k].toInt * r'[32 * blk + k].toInt) := (prodVal_int hu hv).1
  simpa [rowInt, List.getD_eq_getElem?_getD, h1, h2] using hp

end

section
variable {α β : Type} {n : Nat} {l : List α}

theorem map_getD (hl : l.length = n) (d : α) (F : α → β) : l.map F = (List.range n).map (fun i => F (l.getD i d)) := by
  conv_lhs => rw [← map_range_getD hl d, List.map_map]
  rfl

theorem getD_map_range {f : Nat → β} {p : Nat} (hp : p < n) (z : β) : ((List.range n).map f).getD p z = f p := by
  simp [List.getD_eq_getElem?_getD, hp]

theorem getD_replicate (z : α) (p : Nat) : (List.replicate n z).getD p z = z := by
  simp [List.getD_eq_getElem?_getD, List.getElem?_replicate]
  split_ifs <;> rfl

theorem zipWith_getD {γ : Type} (hl : l.length = n) (d : α) (F : α → γ → β) (g : Nat → γ) :
    List.zipWith F l ((List.range n).map g) = (List.range n).map (fun p => F (l.getD p d) (g p)) := by
  conv_lhs => rw [← map_range_getD hl d, List.zipWith_map, List.zipWith_self]

theorem flatMap_getD (hl : l.length = n) (d : α) (F : α → List β) : l.flatMap F = (List.range n).flatMap (fun i => F (l.getD i d)) := by
  conv_lhs => rw [← map_range_getD hl d, List.flatMap_map]

end

theorem zip_map_self {α β : Type} (l : List α) (f : α → β) : List.zip l (l.map f) = l.map (fun u => (u, f u)) := by
  simpa using List.zip_map' (f := id) (g := f) (l := l)

/-- Lists of the same length added up, position by position. -/
theorem foldl_zipWith_add (N : Nat) (f : Nat → Nat → Int) (l : List Nat) (g : Nat → Int) :
    (l.map (fun blk => (List.range N).map (f blk))).foldl (fun a b => List.zipWith (· + ·) a b) ((List.range N).map g) =
      (List.range N).map (fun p => g p + (l.map (fun blk => f blk p)).sum) := by
  induction l generalizing g with
  | nil => simp
  | cons blk l ih =>
    rw [List.map_cons, List.foldl_cons, List.zipWith_map, List.zipWith_self, ih]
    simp [Int.add_assoc]

/-- A sum taken in blocks of m. -/
theorem sum_blocks (m n : Nat) (f : Nat → Int) :
    ((List.range n).map (fun blk => ((List.range m).map (fun k => f (m * blk + k))).sum)).sum = ((List.range (n * m)).map f).sum := by
  induction n with
  | zero => simp
  | succ n ih =>
    rw [List.range_succ, List.map_append, List.sum_append, ih, Nat.succ_mul, List.range_add, List.map_append, List.sum_append, List.map_map]
    simp [Function.comp_def, Nat.mul_comm]

/-! ### The update of a tile (14 R300) -/

/-- The exact values that an integer MMA forms. -/
def exactOf (o : MmaOps) (acc : Acc) (words : List Nat) : List Int :=
  let s := ((List.range (o.k / 32)).map (fun blk => (o.block blk).map (fun v => intOf v.1))).foldl (fun a b => List.zipWith (· + ·) a b)
    (List.replicate 1024 (0 : Int))
  List.zipWith (fun c v => toSigned 32 c + v) words (if acc = .sub then s.map (fun v => -v) else s)

/-- I8 operands, decoded. -/
def i8Ops (a b : List (List Byte)) (code : List (BitVec 16)) : MmaOps :=
  let dec (rows : List (List Byte)) := rows.map (fun r => (rowElems .i8 r).map (decElem .i8 code))
  { k := ((dec a).headD []).length, sparse := false, a := dec a, b := dec b, x := [], sca := [], scb := [] }

section
variable {t : CTile} {acc : Acc} {a b : List (List Byte)} {code : List (BitVec 16)}

/-- The words that an update starts from. -/
def startWords (acc : Acc) (words : List Nat) : List Nat := if acc = .set then List.replicate 1024 0 else words

theorem mmaUpdate_i8 : (mmaUpdate t .i8 .i8 acc false a b [] [] [] code none).1.words =
      (exactOf (i8Ops a b code) acc (startWords acc t.words)).map (wrapBits 32) ∧
    (mmaUpdate t .i8 .i8 acc false a b [] [] [] code none).2 =
      if (exactOf (i8Ops a b code) acc (startWords acc t.words)).all 
        (fun v => decide (-(2 : Int) ^ 31 ≤ v) && decide (v < 2 ^ 31)) then 0 else fIov := by
  have hw : (if acc = .set then ({ words := List.replicate 1024 0, tel := { Tile.clear with tag := t.tel.tag } } : CTile)
      else if (tagInt t.tel.tag != tagInt (groupTag .i8)) = true then t.recompute (tagInt (groupTag .i8)) else t).words = startWords acc t.words := by
    unfold startWords
    split_ifs <;> rfl
  rw [← hw]
  exact ⟨rfl, rfl⟩

/-- The sums of products of an I8 MMA. -/
def i8Sum (a b : List (List Byte)) (i j : Nat) : Int :=
  ((List.range 256).map (fun k => rowInt (a.getD i []) k * rowInt (b.getD j []) k)).sum

section
variable (ha : a.length = 32) (hb : b.length = 32) (hrows : ∀ r, r ∈ a ++ b → r.length = 256)
include ha hb hrows

theorem i8Ops_k : (i8Ops a b code).k = 256 := by
  cases a with
  | nil => simp at ha
  | cons r a => simpa [i8Ops, rowElems] using hrows r (by simp)

theorem i8Ops_block {blk : Nat} (hblk : blk < 8) : ((i8Ops a b code).block blk).map (fun v => intOf v.1) =
    (List.range 1024).map (fun p => blockDot (a.getD (p / 32) []) (b.getD (p % 32) []) blk) := by
  have hlen {l : List (List Byte)} (hl : l.length = 32) (hin : ∀ r, r ∈ l → r ∈ a ++ b) {i : Nat} (hi : i < 32) :
      (l.getD i []).length = 256 := by
    have hi : i < l.length := hl ▸ hi
    rw [List.getD_eq_getElem?_getD, List.getElem?_eq_getElem hi]
    exact hrows _ (hin _ (List.getElem_mem hi))
  have hpair {i j : Nat} (hi : i < 32) (hj : j < 32) := intOf_blockSum (block_products (code := code)
    (hlen ha (fun r h => List.mem_append_left b h) hi) (hlen hb (fun r h => List.mem_append_right a h) hj) hblk)
  rw [← flatMap_rows 32 32 (fun i j => blockDot (a.getD i []) (b.getD j []) blk)]
  simp only [MmaOps.block, i8Ops, rowElems_i8, MmaOps.products, zip_map_self, Bool.false_eq_true, if_false]
  simp only [List.map_flatMap, List.flatMap_map, List.map_map]
  rw [flatMap_getD ha []]
  refine List.flatMap_congr (fun i hi => ?_)
  rw [map_getD hb []]
  exact List.map_congr_left (fun j hj => hpair (List.mem_range.mp hi) (List.mem_range.mp hj))

theorem exactOf_i8 {words : List Nat} (hw : words.length = 1024) : exactOf (i8Ops a b code) acc words =
    (List.range 1024).map (fun p => toSigned 32 (words.getD p 0) +
      if acc = .sub then -i8Sum a b (p / 32) (p % 32) else i8Sum a b (p / 32) (p % 32)) := by
  have hblocks : (List.range 8).map (fun blk => ((i8Ops a b code).block blk).map (fun v => intOf v.1)) =
      (List.range 8).map (fun blk => (List.range 1024).map (fun p => blockDot (a.getD (p / 32) []) (b.getD (p % 32) []) blk)) :=
    List.map_congr_left (fun blk hblk => i8Ops_block ha hb hrows (List.mem_range.mp hblk))
  have hzero : List.replicate 1024 (0 : Int) = (List.range 1024).map (fun _ => 0) := by rw [List.map_const', List.length_range]
  have hsum (p : Nat) : (0 : Int) + ((List.range 8).map (fun blk => blockDot (a.getD (p / 32) []) (b.getD (p % 32) []) blk)).sum =
      i8Sum a b (p / 32) (p % 32) := by
    rw [Int.zero_add]
    exact sum_blocks 32 8 (fun k => rowInt (a.getD (p / 32) []) k * rowInt (b.getD (p % 32) []) k)
  rw [exactOf, i8Ops_k ha hb hrows]
  simp only [Nat.reduceDiv, hblocks, hzero, foldl_zipWith_add, hsum]
  have hsign : (if acc = .sub then ((List.range 1024).map (fun p => i8Sum a b (p / 32) (p % 32))).map (fun v => -v)
      else (List.range 1024).map (fun p => i8Sum a b (p / 32) (p % 32))) =
      (List.range 1024).map (fun p => if acc = .sub then -i8Sum a b (p / 32) (p % 32) else i8Sum a b (p / 32) (p % 32)) := by
    split_ifs
    · exact List.map_map
    · rfl
  rw [hsign, zipWith_getD hw 0]

end
end

/-! ### Reductions of I32 elements (19 R344) -/

theorem toSigned_range {v : Nat} : -(2 : Int) ^ 31 ≤ toSigned 32 v ∧ toSigned 32 v < 2 ^ 31 := by
  rw [toSigned]
  have := Nat.mod_lt v (y := 2 ^ 32) (by decide)
  norm_num at *
  split_ifs <;> omega

theorem wrapBits_toSigned {v : Nat} (h : v < 2 ^ 32) : wrapBits 32 (toSigned 32 v) = v := by
  rw [toSigned, wrapBits, Nat.mod_eq_of_lt h]
  norm_num
  split_ifs <;> omega

/-- A fold that keeps the better of two ends at an element no other is better than. -/
theorem foldl_best {R : Int → Int → Prop} (hrefl : ∀ a, R a a) (htrans : ∀ a b c, R a b → R b c → R a c) {best : Int → Int → Int}
    (hmem : ∀ a b, best a b = a ∨ best a b = b) (hleft : ∀ a b, R (best a b) a) (hright : ∀ a b, R (best a b) b) (l : List Int) (a : Int) :
    l.foldl best a ∈ a :: l ∧ ∀ v, v ∈ a :: l → R (l.foldl best a) v := by
  induction l generalizing a with
  | nil => simpa using hrefl a
  | cons b l ih =>
    obtain ⟨hin, hall⟩ := ih (best a b)
    have hbest := hall _ (List.mem_cons_self ..)
    rw [List.foldl_cons]
    refine ⟨?_, fun v hv => ?_⟩
    · rcases List.mem_cons.mp hin with h | h
      · rcases hmem a b with h' | h' <;> rw [h, h'] <;> simp
      · exact List.mem_cons_of_mem _ (List.mem_cons_of_mem _ h)
    · rcases List.mem_cons.mp hv with rfl | hv
      · exact htrans _ _ _ hbest (hleft ..)
      · rcases List.mem_cons.mp hv with rfl | hv
        · exact htrans _ _ _ hbest (hright ..)
        · exact hall v (List.mem_cons_of_mem _ hv)

theorem foldl_least (l : List Int) (a : Int) : l.foldl (fun a b => if a ≤ b then a else b) a ∈ a :: l ∧
    ∀ v, v ∈ a :: l → l.foldl (fun a b => if a ≤ b then a else b) a ≤ v :=
  foldl_best (R := (· ≤ ·)) le_refl (fun _ _ _ => le_trans) (fun a b => by split_ifs <;> simp) (fun a b => by split_ifs <;> omega)
    (fun a b => by split_ifs <;> omega) l a

theorem foldl_greatest (l : List Int) (a : Int) : l.foldl (fun a b => if a ≤ b then b else a) a ∈ a :: l ∧
    ∀ v, v ∈ a :: l → v ≤ l.foldl (fun a b => if a ≤ b then b else a) a :=
  foldl_best (R := (· ≥ ·)) le_refl (fun _ _ _ h h' => le_trans h' h) (fun a b => by split_ifs <;> simp)
    (fun a b => by split_ifs <;> omega) (fun a b => by split_ifs <;> omega) l a

/-- What a fold over the signed elements picks is one of the elements. -/
theorem picked_mem {ins : List Nat} {z : Int} (hins : ∀ v, v ∈ ins → v < 2 ^ 32) (hne : ins ≠ [])
    (hz : z ∈ (ins.map (toSigned 32)).headD 0 :: ins.map (toSigned 32)) : wrapBits 32 z ∈ ins ∧ toSigned 32 (wrapBits 32 z) = z := by
  have hz : z ∈ ins.map (toSigned 32) := by
    cases ins with
    | nil => exact absurd rfl hne
    | cons v ins => simpa using hz
  obtain ⟨v, hv, rfl⟩ := List.mem_map.mp hz
  rw [wrapBits_toSigned (hins v hv)]
  exact ⟨hv, rfl⟩

end Sys2Proof.Machine
end

section
/-! SUPPORT. Integer MMAs and reductions (14 R300; 19 R344). -/

namespace Sys2Proof.Proofs
open Sys2Proof.Machine

/-- R300 on I8 tiles, by the exact values of `exactOf_i8`. -/
theorem i8Update {t : CTile} {acc : Acc} {a b : List (List Byte)} {code : List (BitVec 16)} (ht : t.words.length = 1024) (ha : a.length = 32)
    (hb : b.length = 32) (hrows : ∀ r, r ∈ a ++ b → r.length = 256) {exact_ : Nat → Nat → Int}
    (he : (fun i j => (if acc = .set then 0 else toSigned 32 (t.words.getD (32 * i + j) 0)) +
      if acc = .sub then -i8Sum a b i j else i8Sum a b i j) = exact_) :
    let u := mmaUpdate t .i8 .i8 acc false a b [] [] [] code none
    u.1.words.length = 1024 ∧ (∀ i j, i < 32 → j < 32 → u.1.words.getD (32 * i + j) 0 = (exact_ i j % 2 ^ 32).toNat) ∧
      (u.2 = fIov ↔ ∃ i j, i < 32 ∧ j < 32 ∧ (exact_ i j < -2 ^ 31 ∨ 2 ^ 31 ≤ exact_ i j)) := by
  intro u
  have hstart : (startWords acc t.words).length = 1024 := by
    unfold startWords
    split_ifs
    · exact List.length_replicate
    · exact ht
  have hexact : exactOf (i8Ops a b code) acc (startWords acc t.words) = (List.range 1024).map (fun p => exact_ (p / 32) (p % 32)) := by
    rw [exactOf_i8 ha hb hrows hstart, ← he]
    refine List.map_congr_left (fun p hp => ?_)
    have hword : toSigned 32 ((startWords acc t.words).getD p 0) =
        if acc = .set then 0 else toSigned 32 (t.words.getD (32 * (p / 32) + p % 32) 0) := by
      rw [Nat.div_add_mod, startWords]
      split_ifs
      · exact congrArg (toSigned 32) (getD_replicate (n := 1024) 0 p)
      · rfl
    rw [hword]
  obtain ⟨hwords, hflags⟩ := mmaUpdate_i8 (t := t) (acc := acc) (a := a) (b := b) (code := code)
  rw [hexact] at hwords hflags
  refine ⟨by rw [hwords, List.length_map, List.length_map, List.length_range], fun i j hi hj => ?_, ?_⟩
  · have hp : 32 * i + j < 1024 := by omega
    have hdiv : (32 * i + j) / 32 = i := by omega
    have hmod : (32 * i + j) % 32 = j := by omega
    rw [hwords, List.map_map, getD_map_range hp, Function.comp_apply, hdiv, hmod]
    rfl
  · rw [hflags, List.all_map]
    split_ifs with hall
    · refine iff_of_false (by decide) ?_
      rintro ⟨i, j, hi, hj, hout⟩
      have hp : 32 * i + j < 1024 := by omega
      have hdiv : (32 * i + j) / 32 = i := by omega
      have hmod : (32 * i + j) % 32 = j := by omega
      have hin := List.all_eq_true.mp hall _ (List.mem_range.mpr hp)
      rw [Function.comp_apply, hdiv, hmod, Bool.and_eq_true, decide_eq_true_eq, decide_eq_true_eq] at hin
      omega
    · refine iff_of_true rfl ?_
      rw [List.all_eq_true] at hall
      push Not at hall
      obtain ⟨p, hp, hout⟩ := hall
      have hp := List.mem_range.mp hp
      refine ⟨p / 32, p % 32, by omega, by omega, ?_⟩
      rw [Function.comp_apply, ne_eq, Bool.and_eq_true, decide_eq_true_eq, decide_eq_true_eq] at hout
      omega

/-- Settles O34: I8 tiles by `i8Update`, reductions by their folds. -/
theorem integerSums : Obligations.IntegerSums := by
  refine ⟨fun t acc a b code ht ha hb hrows => i8Update ht ha hb hrows rfl, fun ins hne _ hins => ?_⟩
  intro xs r
  obtain ⟨hleast, hle⟩ := foldl_least xs (xs.headD 0)
  obtain ⟨hgreatest, hge⟩ := foldl_greatest xs (xs.headD 0)
  obtain ⟨hmin, hmin'⟩ := picked_mem hins hne hleast
  obtain ⟨hmax, hmax'⟩ := picked_mem hins hne hgreatest
  refine ⟨?_, ?_, hmin, fun v hv => hmin'.le.trans (hle v (List.mem_cons_of_mem _ hv)), hmax,
    fun v hv => (hge v (List.mem_cons_of_mem _ hv)).trans hmax'.ge⟩
  · exact Int.toNat_of_nonneg (Int.emod_nonneg _ (by decide))
  · have hfl : (r .add).flags = if xs.sum < -(2 : Int) ^ 31 ∨ (2 : Int) ^ 31 ≤ xs.sum then fIov else 0 := rfl
    rw [hfl]
    split_ifs with h
    · exact iff_of_true rfl h
    · exact iff_of_false (by decide) h

end Sys2Proof.Proofs
end

section
/-! SUPPORT. The other words of the matrix engine (14 R306 to R312). -/

namespace Sys2Proof.Machine

section
variable {s : State} {h : Head} {st : Strand} {opc : BitVec 8} {ok : Bool} {ops : List Opnd} {tiles : List (BitVec 6)} {body : Ctx → Effect}
  {c cs : BitVec 6} {v : Spec} {q : BitVec 2} {nochk : Bool} {t : Toks} {ty : Ty} {col : BitVec 5} (rd : Ready s h .cp st)
include rd

theorem Ready.afterRings_eq (e : Effect) : (s.ctx st).afterRings h e = e := by
  rw [Ctx.afterRings, rd.ctx_q, if_pos]
  exact rd.tokens

theorem tileWord_closed (hok : ok = true) (ho : st.checkOperands ops = none) (hm : st.place.ctmask = 0) :
    tileWord s h opc ok ops tiles body = .next (s.trapped st .enginePort (noAddr .enginePort) 0) := by
  have hp : matrixPort (s.ctx st) tiles = some (trapNow .enginePort) := matrixPort_closed hm
  rw [tileWord, issue_ends rd rfl rfl hok ho, hp]
  rfl

theorem tileWord_window (hok : ok = true) (ho : st.checkOperands ops = none) (hm : st.place.ctmask ≠ 0)
    (ht : ¬ ∀ c, c ∈ tiles → st.place.ctmask.getLsbD c.toNat = true) :
    tileWord s h opc ok ops tiles body = .next (s.trapped st .windowInvalid (noAddr .windowInvalid) 0) := by
  have hp : matrixPort (s.ctx st) tiles = some (trapNow .windowInvalid) := matrixPort_window hm ht
  rw [tileWord, issue_ends rd rfl rfl hok ho, hp]
  rfl

/-- A word whose tiles are all granted does what its entry says. -/
theorem tileWord_ready (hok : ok = true) (ho : st.checkOperands ops = none) (hm : st.place.ctmask ≠ 0)
    (ht : ∀ c, c ∈ tiles → st.place.ctmask.getLsbD c.toNat = true) :
    tileWord s h opc ok ops tiles body = s.ends h (matInfo opc 12 ok true) st (body (s.ctx st)) := by
  have hp : matrixPort (s.ctx st) tiles = none := matrixPort_open hm ht
  rw [tileWord, issue_ends rd rfl rfl hok ho, hp, rd.afterRings_eq]

theorem tileWord_one (hok : ok = true) (ho : st.checkOperands ops = none) (ht : st.place.ctmask.getLsbD c.toNat = true) :
    tileWord s h opc ok ops [c] body = s.ends h (matInfo opc 12 ok true) st (body (s.ctx st)) :=
  tileWord_ready rd hok ho (ctmask_ne_zero ht) (List.forall_mem_singleton.mpr ht)

theorem tileWord_two (hok : ok = true) (ht : st.place.ctmask.getLsbD c.toNat = true) (ht' : st.place.ctmask.getLsbD cs.toNat = true) :
    tileWord s h opc ok [] [c, cs] body = s.ends h (matInfo opc 12 ok true) st (body (s.ctx st)) :=
  tileWord_ready rd hok rfl (ctmask_ne_zero ht) (List.forall_mem_cons.mpr ⟨ht, List.forall_mem_singleton.mpr ht'⟩)

theorem ends_landsNext {i : Info} (lands : List Land) :
    s.ends h i st ((s.ctx st).landsNext lands) = .next (s.issuedWith h i.opc i.cls (st.later .cp 1 lands)) := by
  rw [Ctx.landsNext, State.ends_done, rd.ctx_q]
  rfl

/-- A word whose effect lands at τ + 1. -/
theorem landsNext_of {i : Instr} {lands : List Land} (he : exec i s = tileWord s h opc ok ops tiles body) (hok : ok = true)
    (ho : st.checkOperands ops = none) (hm : st.place.ctmask ≠ 0) (ht : ∀ c, c ∈ tiles → st.place.ctmask.getLsbD c.toNat = true)
    (hb : body (s.ctx st) = (s.ctx st).landsNext lands) : exec i s = .next (s.issuedWith h opc 12 (st.later .cp 1 lands)) := by
  rw [he, tileWord_ready rd hok ho hm ht, hb]
  exact ends_landsNext rd lands

/-- A word on one tile, without operands, that is not granted. -/
theorem ungranted_of {i : Instr} (he : exec i s = tileWord s h opc ok [] [c] body) (hok : ok = true) :
    (st.place.ctmask = 0 → exec i s = .next (s.trapped st .enginePort (noAddr .enginePort) 0)) ∧
    (st.place.ctmask ≠ 0 → ¬ st.place.ctmask.getLsbD c.toNat = true →
      exec i s = .next (s.trapped st .windowInvalid (noAddr .windowInvalid) 0)) :=
  ⟨fun hm => he.trans (tileWord_closed rd hok rfl hm),
    fun hm ht => he.trans (tileWord_window rd hok rfl hm (mt List.forall_mem_singleton.mp ht))⟩

theorem execMldc_ready (hwf : (Instr.mldc h c v q).WF) (ht : st.place.ctmask.getLsbD c.toNat = true) (ho : st.checkOperands [vsrc v] = none) :
    execMldc h c v q s = if vecPoison (s.ctx st) v then .next (s.trapped st .poisonConsumed (noAddr .poisonConsumed) 0)
      else .next (s.issuedOn h 0xA3 12 (s.chip.addWork { (s.ctx st).work (.mldc c.toNat) 3 false [] with promise := st.run.tau + 1 }).1
        (st.later .cp 1 [.mldc c.toNat q.toNat (s.mem.readBytes (windowBase s.chip.cur.core st + st.opAddr v) 1024),
          .workDone s.chip.workNext])) := by
  rw [execMldc, tileWord_one rd hwf ho ht, State.ends_ite]
  refine if_congr Iff.rfl rfl ?_
  rw [← rd.ctx_q]
  rfl

theorem execMdrain_ready (hwf : (Instr.mdrain h c v q nochk t).WF) (ht : st.place.ctmask.getLsbD c.toNat = true)
    (ho : st.checkOperands [vdst v] = none) {after : List Nat} (ha : consumed (s.ctx st) t = after) :
    execMdrain h c v q nochk t s = .next (s.issuedOn h 0xA4 12
      (s.chip.addWork { (s.ctx st).engineWork t (.mdrain c.toNat (st.opAddr v) q.toNat nochk) 3 false after with
        promise := drainDue (s.ctx st) after nochk, total := if after = [] then 1 else 0 }).1 (produce st t s.chip.workNext)) := by
  subst ha
  simp only [← List.isEmpty_iff]
  rw [execMdrain, tileWord_one rd hwf ho ht]
  rfl

theorem execMbmp_ready (hwf : (Instr.mbmp h c cs ty col).WF) (ht : st.place.ctmask.getLsbD c.toNat = true)
    (ht' : st.place.ctmask.getLsbD cs.toNat = true) {w : List Nat} (hw : (readTile s.mem s.chip s.chip.cur.core cs.toNat).words = w) :
    execMbmp h c cs ty col s = .next (s.issuedWith h 0xA7 12 (st.later .cp 1
      [.mbmp c.toNat col.toNat (BitVec.ofInt 32 (tileScale ty w).1), .flags (if (tileScale ty w).2 then 1 else 0)])) := by
  subst hw
  rw [execMbmp, tileWord_two rd hwf ht ht']
  exact ends_landsNext rd _

theorem execCtabW_ready (hm : st.place.ctmask ≠ 0) (ho : st.checkOperands [esrc v 5] = none) (hp : st.poisonedRange (st.opAddr v) 32 = false) :
    execCtabW h v s = .next (s.issuedWith h 0xAB 12 (st.later .cp 1
      [.ctabW ((List.range 16).map (fun e => BitVec.ofNat 16 (elem (s.mem.readBytes (windowBase s.chip.cur.core st + st.opAddr v) 32) e 2)))])) := by
  rw [execCtabW, tileWord_ready rd rfl ho hm (by simp)]
  simp only [State.ctx_st, hp, Bool.false_eq_true, if_false]
  exact ends_landsNext rd _

end
end Sys2Proof.Machine
end

section
/-! SUPPORT. The tile words of the matrix engine (14 R306 to R312). -/

namespace Sys2Proof.Proofs
open Sys2Proof.Machine

/-- Settles O35: each word whose tiles are granted (`tileWord_ready`) latches what its rule says. -/
theorem tileWords : Obligations.TileWords := by
  intro s h st c cs ty col v q nochk t rd x core tile next src old packed after
  have hone {c : BitVec 6} (ht : tile c) : ∀ c', c' ∈ [c] → st.place.ctmask.getLsbD c'.toNat = true := List.forall_mem_singleton.mpr ht
  refine ⟨?_, fun hwf ht => landsNext_of rd (show execMclr h c s = _ from rfl) hwf rfl (ctmask_ne_zero ht) (hone ht) rfl,
    fun hwf ht ho => ⟨fun hp => (execMldc_ready rd hwf ht ho).trans (if_pos hp),
      fun hp => (execMldc_ready rd hwf ht ho).trans (if_neg (by rw [hp]; exact Bool.false_ne_true))⟩,
    fun hwf ht ho => ⟨execMdrain_ready rd hwf ht ho rfl, fun ha => by rw [ha]; rfl⟩,
    fun hwf ht => landsNext_of rd (show execMchk h c s = _ from rfl) hwf rfl (ctmask_ne_zero ht) (hone ht) (by rw [← rd.ctx_q]; rfl),
    fun hwf ht ht' => landsNext_of rd (show execMcomp h c cs ty s = _ from rfl) hwf rfl (ctmask_ne_zero ht)
      (List.forall_mem_cons.mpr ⟨ht, hone ht'⟩) rfl,
    fun hwf ht ht' => execMbmp_ready rd hwf ht ht' rfl, fun hm ho hp => execCtabW_ready rd hm ho hp,
    fun hm => landsNext_of rd (show execCtabSwap h s = _ from rfl) rfl rfl hm (List.forall_mem_nil _) rfl⟩
  rintro i (rfl | rfl | rfl | rfl) hwf
  · exact ungranted_of rd (show execMclr h c s = _ from rfl) hwf
  · exact ungranted_of rd (show execMchk h c s = _ from rfl) hwf
  · exact ungranted_of rd (show execTtLoc h c 0 s = _ from rfl) hwf
  · exact ungranted_of rd (show execTtFix h c s = _ from rfl) hwf

end Sys2Proof.Proofs
end

section
/-! SUPPORT. Telltale: what TT.LOC finds, TT.FIX and TT.REPLAY (15 R319 to R326). -/

namespace Sys2Proof.Machine

/-! ### Positions of ones -/

section
variable {p : Nat → Bool} {i j : Nat}

theorem onesBelow32_bitsOf (v : Word) (lo : Nat) : onesBelow32 (bitsOf v lo 32) = (List.range 32).filter (fun i => v.getLsbD (lo + i)) := by
  refine List.filter_congr (fun i hi => ?_)
  rw [bitsOf, Nat.testBit_mod_two_pow, Nat.testBit_div_two_pow, decide_eq_true (List.mem_range.mp hi), Bool.true_and]
  exact congrArg _ (Nat.add_comm ..)

/-- The positions below 32 where p holds. -/
theorem filter_one (hi : i < 32) (hp : p i = true) (h : ∀ j, j < 32 → p j = true → j = i) : (List.range 32).filter p = [i] := by
  refine List.perm_singleton.mp ((List.perm_ext_iff_of_nodup (List.nodup_range.filter _) (List.nodup_singleton i)).mpr (fun j => ?_))
  rw [List.mem_filter, List.mem_range, List.mem_singleton]
  exact ⟨fun hj => h j hj.1 hj.2, fun hj => hj ▸ ⟨hi, hp⟩⟩

theorem filter_none (h : ∀ j, j < 32 → p j = false) : (List.range 32).filter p = [] :=
  List.filter_eq_nil_iff.mpr (fun j hj => by rw [h j (List.mem_range.mp hj)]; exact Bool.false_ne_true)

theorem filter_two (hij : i < j) (hj : j < 32) (hpi : p i = true) (hpj : p j = true) : 2 ≤ ((List.range 32).filter p).length := by
  have hsub : [i, j] ⊆ (List.range 32).filter p := by
    intro x hx
    rw [List.mem_filter, List.mem_range]
    rcases List.mem_cons.mp hx with rfl | hx
    · exact ⟨hij.trans hj, hpi⟩
    · rcases List.mem_singleton.mp hx with rfl
      exact ⟨hj, hpj⟩
  exact (List.subperm_of_subset (by simp [hij.ne]) hsub).length_le

end

/-! ### Lines of a tile -/

section
variable {t : CTile} {i j : Nat}

theorem rowOf_eq (ht : t.words.length = 1024) (hi : i < 32) : t.rowOf i = (List.range 32).map (fun x => t.words.getD (32 * i + x) 0) := by
  refine List.ext_getElem (by simp [CTile.rowOf, ht]; omega) (fun x h1 h2 => ?_)
  have hx : x < 32 := by simpa using h2
  have hlt : 32 * i + x < t.words.length := by omega
  simp [CTile.rowOf, List.getD_eq_getElem?_getD, hlt]

/-- A line without its place n. -/
theorem without_range {n : Nat} (hn : n < 32) (f : Nat → Nat) :
    without ((List.range 32).map f) n = ((List.range 32).filter (fun x => x != n)).map f := by
  have hcut : ∀ n, n < 32 → (List.range 32).take n ++ (List.range 32).drop (n + 1) = (List.range 32).filter (fun x => x != n) := by decide
  rw [without, ← List.map_take, ← List.map_drop, ← List.map_append, hcut n hn]

theorem missing_int {chk v : BitVec 32} {l : List Nat} (h : missing true chk l = v) : (v.toNat : Int) = (chk.toNat - (l.sum : Int)) % 2 ^ 32 := by
  subst h
  rw [missing, if_pos rfl, BitVec.toNat_ofInt, Int.toNat_of_nonneg (Int.emod_nonneg _ (by decide))]
  rfl

end

/-! ### Locating (15 R323) -/

/-- The class by the numbers of failing rows and columns, and whether the two values pass. -/
def locClassOf (nr nc : Nat) (pass : Bool) : Nat :=
  if nr = 1 ∧ nc = 1 then (if pass then 1 else 6)
  else if nr = 1 ∧ nc = 0 then 2
  else if nr = 0 ∧ nc = 1 then 3
  else if (nr = 1 ∧ 2 ≤ nc) ∨ (nc = 1 ∧ 2 ≤ nr) then 4
  else if 2 ≤ nr ∧ 2 ≤ nc then 5
  else (Config.locClass nr nc).toNat

theorem locClassOf_four {nr nc : Nat} {pass : Bool} (h : (nr = 1 ∧ 2 ≤ nc) ∨ (nc = 1 ∧ 2 ≤ nr)) : locClassOf nr nc pass = 4 := by
  rw [locClassOf, if_neg (by omega), if_neg (by omega), if_neg (by omega), if_pos h]

theorem locClassOf_five {nr nc : Nat} {pass : Bool} (hr : 2 ≤ nr) (hc : 2 ≤ nc) : locClassOf nr nc pass = 5 := by
  rw [locClassOf, if_neg (by omega), if_neg (by omega), if_neg (by omega), if_neg (by omega), if_pos ⟨hr, hc⟩]

section
variable {k : Csrs} {n : Nat} {t : CTile} {R C : List Nat}

theorem locate_other (h : ¬ (k.ttsyn.getLsbD 5 = true ∧ (k.ttsyn.extractLsb' 0 5).toNat = n)) : (locate k n t).cls = 0 := by
  have hcond : (!k.ttsyn.getLsbD 5 || bitsOf k.ttsyn 0 5 != n) = true := by
    rw [bitsOf_eq_extract]
    by_cases hv : k.ttsyn.getLsbD 5 = true
    · rw [hv, Bool.not_true, Bool.false_or, bne_iff_ne]
      exact fun hn => h ⟨hv, hn⟩
    · simp only [Bool.not_eq_true] at hv
      rw [hv]
      rfl
  simp only [locate, hcond, if_true]

/-- What is located for the tile that the syndrome names. -/
theorem locate_mine (h : k.ttsyn.getLsbD 5 = true ∧ (k.ttsyn.extractLsb' 0 5).toNat = n)
    (hR : (List.range 32).filter (fun i => k.ttmask.getLsbD (32 + i)) = R) (hC : (List.range 32).filter (fun j => k.ttmask.getLsbD j) = C)
    {vr vc : BitVec 32} (hr : missing (tagInt t.tel.tag) (t.tel.row.getD (R.headD 0) 0) (without (t.rowOf (R.headD 0)) (C.headD 0)) = vr)
    (hc : missing (tagInt t.tel.tag) (t.tel.col.getD (C.headD 0) 0) (without (t.colOf (C.headD 0)) (R.headD 0)) = vc) :
    locate k n t = { cls := locClassOf R.length C.length (checkPass (tolOf k t.tel.tag) vr vc), i := R.headD 0, j := C.headD 0, vr := vr } := by
  have hcond : (!k.ttsyn.getLsbD 5 || bitsOf k.ttsyn 0 5 != n) = false := by
    rw [bitsOf_eq_extract, h.1, h.2]
    simp
  have hC' : (List.range 32).filter (fun j => k.ttmask.getLsbD (0 + j)) = C := by simpa only [Nat.zero_add] using hC
  simp only [locate, hcond, onesBelow32_bitsOf, hR, hC', hr, hc, Bool.false_eq_true, if_false]
  rfl

end

/-! ### Telltale's words (15 R323 to R326) -/

section
variable {s : State} {h : Head} {st : Strand} {c : BitVec 6} {xd : Reg} (rd : Ready s h .cp st)
include rd

theorem execTtLoc_ready (hwf : (Instr.ttLoc h c xd).WF) (ht : st.place.ctmask.getLsbD c.toNat = true) :
    execTtLoc h c xd s = .next (s.issuedWith h 0xA8 12 (st.laterX .cp 1 xd
      ((locate st.csr c.toNat (readTile s.mem s.chip s.chip.cur.core c.toNat)).word (st.csr.ttsyn.getLsbD 6)))) := by
  rw [execTtLoc, tileWord_one rd hwf rfl ht, State.ends_writeX, rd.seq]
  rfl

/-- What TT.FIX does of a class: it repairs, stops, or does nothing. -/
def Ctx.ttFixOf (x : Ctx) (c : BitVec 6) (l : Located) : Effect :=
  match l.cls with
  | 1 => x.landsNext [.word c.toNat l.i l.j l.vr, .clearSyn]
  | 2 => x.landsNext [.fixRow c.toNat l.i, .clearSyn]
  | 3 => x.landsNext [.fixCol c.toNat l.j, .clearSyn]
  | 4 | 5 | 6 => .fault .ttUncorrectable (noAddr .ttUncorrectable) (BitVec.ofNat 64 c.toNat)
  | _ => x.nothing

theorem execTtFix_ready (hwf : (Instr.ttFix h c).WF) (ht : st.place.ctmask.getLsbD c.toNat = true) {l : Located}
    (hl : locate st.csr c.toNat (readTile s.mem s.chip s.chip.cur.core c.toNat) = l) :
    execTtFix h c s = if st.csr.ttsyn.getLsbD 6 then .next (s.trapped st .ttUncorrectable (noAddr .ttUncorrectable) (BitVec.ofNat 64 c.toNat))
      else s.ends h (matInfo 0xA9 12 ((Instr.ttFix h c).wf) true) st ((s.ctx st).ttFixOf c l) := by
  subst hl
  rw [execTtFix, tileWord_one rd hwf rfl ht]
  exact State.ends_ite ..

theorem execTtReplay_ready (hm : st.place.ctmask ≠ 0) {tv : Word}
    (htv : (if st.csr.ttsyn.getLsbD 5 then (st.csr.ttsyn.extractLsb' 0 5).setWidth 64 else 0) = tv) :
    execTtReplay h s = if !st.replay.armed then .next (s.trapped st .ttUncorrectable (noAddr .ttUncorrectable) tv)
      else if st.replay.count = ttRmax st.csr then .next (s.trapped st .ttReplayExhausted (noAddr .ttReplayExhausted) tv)
      else .next (s.issuedWith h 0xAA 12 { st with replay := { st.replay with asked := true } }) := by
  have hset : BitVec.ofNat 64 (bitsOf st.csr.ttsyn 0 5) = (st.csr.ttsyn.extractLsb' 0 5).setWidth 64 := by
    rw [bitsOf_eq_extract, BitVec.ofNat_toNat]
  subst htv
  rw [← hset, execTtReplay, tileWord_ready rd rfl rfl hm (List.forall_mem_nil _)]
  simp only [State.ends_ite]
  rfl

end

end Sys2Proof.Machine
end

section
/-! SUPPORT. Telltale (15 R319 to R326). -/

namespace Sys2Proof.Proofs
open Sys2Proof.Machine

/-- The words of Telltale, by the class located. -/
theorem ttWords {s : State} {h : Head} {st : Strand} {c : BitVec 6} (rd : Ready s h .cp st) (hwf : (Instr.ttFix h c).WF)
    (ht : st.place.ctmask.getLsbD c.toNat = true) {l : Located}
    (hl : locate st.csr c.toNat (readTile s.mem s.chip s.chip.cur.core c.toNat) = l) (hovr : st.csr.ttsyn.getLsbD 6 = false) :
    let stop := exec (.ttFix h c) s = .next (s.trapped st .ttUncorrectable (noAddr .ttUncorrectable) (BitVec.ofNat 64 c.toNat))
    let fixes (w : Land) : Prop := exec (.ttFix h c) s = .next (s.issuedWith h 0xA9 12 (st.later .cp 1 [w, .clearSyn]))
    (l.cls = 1 → fixes (.word c.toNat l.i l.j l.vr)) ∧ (l.cls = 2 → fixes (.fixRow c.toNat l.i)) ∧
      (l.cls = 3 → fixes (.fixCol c.toNat l.j)) ∧ (4 ≤ l.cls → l.cls ≤ 6 → stop) ∧
      (l.cls = 0 → exec (.ttFix h c) s = .next (s.issuedAs h 0xA9 12 s.chip .next .none)) := by
  intro stop fixes
  have he : exec (.ttFix h c) s = s.ends h (matInfo 0xA9 12 ((Instr.ttFix h c).wf) true) st ((s.ctx st).ttFixOf c l) :=
    (execTtFix_ready rd hwf ht hl).trans (if_neg (by rw [hovr]; exact Bool.false_ne_true))
  refine ⟨fun hc => ?_, fun hc => ?_, fun hc => ?_, fun h4 h6 => ?_, fun hc => ?_⟩
  · rw [Ctx.ttFixOf, hc] at he
    exact he.trans (ends_landsNext rd _)
  · rw [Ctx.ttFixOf, hc] at he
    exact he.trans (ends_landsNext rd _)
  · rw [Ctx.ttFixOf, hc] at he
    exact he.trans (ends_landsNext rd _)
  · rcases (by omega : l.cls = 4 ∨ l.cls = 5 ∨ l.cls = 6) with hc | hc | hc <;> rw [Ctx.ttFixOf, hc] at he <;> exact he
  · rw [Ctx.ttFixOf, hc] at he
    exact he

/-- Settles O36: the words by `execTtLoc_ready`, `ttWords` and `execTtReplay_ready`, and the classes of R323 by the failing rows and columns
(`locate_mine`). -/
theorem telltaleWords : Obligations.TelltaleWords := by
  refine ⟨?_, ?_⟩
  · intro s h st c xd rd tile l ovr valid tv stop fixes
    refine ⟨fun hwf ht => execTtLoc_ready rd hwf ht, fun hwf ht => ⟨fun ho => (execTtFix_ready rd hwf ht rfl).trans (if_pos ho),
      fun ho => ttWords rd hwf ht rfl ho⟩, fun hm => ⟨fun ha => ?_, fun ha hc => ?_, fun ha hc => ?_⟩⟩
    · exact (execTtReplay_ready rd hm rfl).trans (if_pos (by rw [ha]; rfl))
    · exact (execTtReplay_ready rd hm rfl).trans ((if_neg (by rw [ha]; exact Bool.false_ne_true)).trans (if_pos hc))
    · exact (execTtReplay_ready rd hm rfl).trans ((if_neg (by rw [ha]; exact Bool.false_ne_true)).trans (if_neg hc))
  · intro k n t hn ht l int others less rows cols one none_ two mine
    have hless {chk : BitVec 32} {m m' : List Nat} (hm : m = m') : less chk m' (missing int chk m) := by
      subst hm
      refine ⟨fun hi => missing_int (by rw [hi]), fun hi => ?_⟩
      rw [hi]
      rfl
    refine ⟨fun hm => locate_other hm, fun i j hm hi hj => ?_, fun i hm hi hj => ?_, fun j hm hi hj => ?_, fun i hm hij => ?_,
      fun hm hi hj => ?_⟩
    · obtain ⟨hi32, hpi, hri⟩ := hi
      obtain ⟨hj32, hpj, hcj⟩ := hj
      have hloc := locate_mine (t := t) hm (filter_one hi32 hpi hri) (filter_one hj32 hpj hcj) rfl rfl
      have hcls : l.cls = if checkPass (tolOf k t.tel.tag) (missing int (t.tel.row.getD i 0) (without (t.rowOf i) j))
          (missing int (t.tel.col.getD j 0) (without (t.colOf j) i)) then 1 else 6 := congrArg Located.cls hloc
      refine ⟨missing int (t.tel.row.getD i 0) (without (t.rowOf i) j), missing int (t.tel.col.getD j 0) (without (t.colOf j) i),
        congrArg Located.i hloc, congrArg Located.j hloc, congrArg Located.vr hloc, hless ?_, hless ?_, fun hint => ?_, fun _ => ?_, fun h1 => ?_⟩
      · rw [rowOf_eq ht hi32]
        exact without_range hj32 _
      · exact without_range hi32 _
      · have htol : tolOf k t.tel.tag = none := by
          rw [beq_iff_eq.mp hint]
          rfl
        rw [hcls, htol]
        simp [checkPass]
      · rw [hcls]
        split_ifs <;> simp_all
      · rw [hcls] at h1 ⊢
        split_ifs at h1 ⊢ <;> simp_all
    · obtain ⟨hi32, hpi, hri⟩ := hi
      have hloc := locate_mine (t := t) hm (filter_one hi32 hpi hri) (filter_none hj) rfl rfl
      exact ⟨congrArg Located.cls hloc, congrArg Located.i hloc⟩
    · obtain ⟨hj32, hpj, hcj⟩ := hj
      have hloc := locate_mine (t := t) hm (filter_none hi) (filter_one hj32 hpj hcj) rfl rfl
      exact ⟨congrArg Located.cls hloc, congrArg Located.j hloc⟩
    · have hcls : l.cls = _ := congrArg Located.cls (locate_mine (t := t) hm rfl rfl rfl rfl)
      rw [hcls]
      rcases hij with ⟨⟨hi32, hpi, hri⟩, a, b, hab, hb, hpa, hpb⟩ | ⟨⟨a, b, hab, hb, hpa, hpb⟩, hi32, hpi, hri⟩
      · exact locClassOf_four (.inl ⟨congrArg List.length (filter_one hi32 hpi hri), filter_two hab hb hpa hpb⟩)
      · exact locClassOf_four (.inr ⟨congrArg List.length (filter_one hi32 hpi hri), filter_two hab hb hpa hpb⟩)
    · obtain ⟨a, b, hab, hb, hpa, hpb⟩ := hi
      obtain ⟨a', b', hab', hb', hpa', hpb'⟩ := hj
      have hcls : l.cls = _ := congrArg Located.cls (locate_mine (t := t) hm rfl rfl rfl rfl)
      rw [hcls]
      exact locClassOf_five (filter_two hab hb hpa hpb) (filter_two hab' hb' hpa' hpb')

end Sys2Proof.Proofs
end

section
/-! SUPPORT. Groups and their descriptors (19 R339). -/

namespace Sys2Proof.Machine

section
variable {α : Type} [BEq α] [LawfulBEq α]

theorem nodup_eraseDups : ∀ l : List α, l.eraseDups.Nodup
  | [] => by simp
  | a :: l => by
    rw [List.eraseDups_cons, List.nodup_cons, List.mem_eraseDups]
    exact ⟨by simp, nodup_eraseDups _⟩
termination_by l => l.length
decreasing_by exact Nat.lt_succ_of_le (List.length_filter_le ..)

theorem eraseDups_of_nodup {l : List α} (h : l.Nodup) : l.eraseDups = l := by
  induction l with
  | nil => rfl
  | cons a l ih =>
    obtain ⟨ha, hl⟩ := List.nodup_cons.mp h
    have hf : l.filter (fun b => !b == a) = l := List.filter_eq_self.mpr (fun b hb => by
      rw [Bool.not_eq_true', beq_eq_false_iff_ne]
      rintro rfl
      exact ha hb)
    rw [List.eraseDups_cons, hf, ih hl]

/-- A list without repetition is one that leaving out repetitions leaves as it is. -/
theorem eraseDups_eq_self_iff {l : List α} : l.eraseDups = l ↔ l.Nodup := ⟨fun h => h ▸ nodup_eraseDups l, eraseDups_of_nodup⟩

end

section
variable {ch : Chip} {core : Nat} {ws : List Nat}

/-- Word i of a descriptor, and entry e. -/
def descWord (ws : List Nat) (i : Nat) : Nat := ws.getD i 0
def descEntry (ws : List Nat) (e : Nat) : Nat := descWord ws (1 + e / 4) / 2 ^ (16 * (e % 4)) % 2 ^ 16

/-- The shape of a descriptor: M and SELF in their bounds, reserved bits and unused entries zero. -/
def DescShape (ws : List Nat) : Prop :=
  1 ≤ descWord ws 0 % 32 ∧ descWord ws 0 % 32 ≤ 16 ∧ descWord ws 0 / 2 ^ 8 % 16 < descWord ws 0 % 32 ∧ descWord ws 0 / 2 ^ 5 % 8 = 0 ∧
    descWord ws 0 / 2 ^ 12 % 16 = 0 ∧ descWord ws 0 / 2 ^ 48 = 0 ∧ descWord ws 5 = 0 ∧ descWord ws 6 = 0 ∧ descWord ws 7 = 0 ∧
    ∀ e, descWord ws 0 % 32 ≤ e → e < 16 → descEntry ws e = 0

/-- Its members: SELF names this core, none is there twice, and each core is one. -/
def DescNamed (ch : Chip) (core : Nat) (ws : List Nat) : Prop :=
  descEntry ws (descWord ws 0 / 2 ^ 8 % 16) = ch.devnum.toNat * 2 ^ 9 + core ∧
    (∀ e f, e < descWord ws 0 % 32 → f < descWord ws 0 % 32 → descEntry ws e = descEntry ws f → e = f) ∧
    ∀ e, e < descWord ws 0 % 32 → descEntry ws e % 2 ^ 9 < 384

/-- Members by number. -/
def descMembers (ws : List Nat) : List (Nat × Nat) :=
  (List.range (descWord ws 0 % 32)).map (fun e => (descEntry ws e / 2 ^ 9, descEntry ws e % 2 ^ 9))

theorem readGroup_eq : readGroup ch core ws =
    if descWord ws 0 % 32 = 0 ∨ 16 < descWord ws 0 % 32 ∨ descWord ws 0 % 32 ≤ descWord ws 0 / 2 ^ 8 % 16 ∨
        (descWord ws 0 / 2 ^ 5 % 8 != 0 || descWord ws 0 / 2 ^ 12 % 16 != 0 || descWord ws 0 / 2 ^ 48 != 0 || descWord ws 5 != 0 ||
          descWord ws 6 != 0 || descWord ws 7 != 0) = true ∨
        (((List.range 16).map (descEntry ws)).drop (descWord ws 0 % 32)).any (· != 0) = true then
      .error 1
    else if ((((List.range 16).map (descEntry ws)).take (descWord ws 0 % 32)).map (fun e => (e / 2 ^ 9, e % 2 ^ 9))).getD
          (descWord ws 0 / 2 ^ 8 % 16) (0, 0) ≠ (ch.devnum.toNat, core) ∨
        ((((List.range 16).map (descEntry ws)).take (descWord ws 0 % 32)).map (fun e => (e / 2 ^ 9, e % 2 ^ 9))).eraseDups ≠
          (((List.range 16).map (descEntry ws)).take (descWord ws 0 % 32)).map (fun e => (e / 2 ^ 9, e % 2 ^ 9)) ∨
        ((((List.range 16).map (descEntry ws)).take (descWord ws 0 % 32)).map (fun e => (e / 2 ^ 9, e % 2 ^ 9))).any
          (fun e => decide (Config.cores ≤ e.2)) = true then .error 2
    else .ok { tag := BitVec.ofNat 32 (descWord ws 0 / 2 ^ 16), self := descWord ws 0 / 2 ^ 8 % 16,
               members := (((List.range 16).map (descEntry ws)).take (descWord ws 0 % 32)).map (fun e => (e / 2 ^ 9, e % 2 ^ 9)) } := rfl

/-- Entries beyond M are zero. -/
theorem drop_any_iff {m : Nat} : (((List.range 16).map (descEntry ws)).drop m).any (· != 0) = true ↔
    ¬ ∀ e, m ≤ e → e < 16 → descEntry ws e = 0 := by
  rw [List.any_eq_true]
  push Not
  constructor
  · rintro ⟨v, hv, hne⟩
    obtain ⟨k, hk, rfl⟩ := List.getElem_of_mem hv
    rw [List.length_drop, List.length_map, List.length_range] at hk
    exact ⟨m + k, Nat.le_add_right .., by omega, by simpa using hne⟩
  · rintro ⟨e, hm, h16, hne⟩
    refine ⟨descEntry ws e, List.mem_iff_getElem.mpr ⟨e - m, by simp; omega, ?_⟩, by simpa using hne⟩
    simp [Nat.add_sub_cancel' hm]

theorem readGroup_shape (h : ¬ DescShape ws) : readGroup ch core ws = .error 1 := by
  rw [readGroup_eq]
  refine if_pos ?_
  simp only [drop_any_iff, Bool.or_eq_true, bne_iff_ne, ne_eq]
  unfold DescShape at h
  by_contra hc
  push Not at hc
  obtain ⟨h0, h16, hself, hres, hlast⟩ := hc
  exact h ⟨by omega, h16, hself, by tauto, by tauto, by tauto, by tauto, by tauto, by tauto, hlast⟩

/-- A descriptor of good shape gives its members, or names them wrongly. -/
theorem readGroup_of_shape (h : DescShape ws) : readGroup ch core ws =
    if (descMembers ws).getD (descWord ws 0 / 2 ^ 8 % 16) (0, 0) ≠ (ch.devnum.toNat, core) ∨ (descMembers ws).eraseDups ≠ descMembers ws ∨
        (descMembers ws).any (fun e => decide (Config.cores ≤ e.2)) = true then .error 2
    else .ok { tag := BitVec.ofNat 32 (descWord ws 0 / 2 ^ 16), self := descWord ws 0 / 2 ^ 8 % 16, members := descMembers ws } := by
  obtain ⟨h1, h16, hself, hr0, hr1, hr2, hr5, hr6, hr7, hlast⟩ := h
  have hm : (((List.range 16).map (descEntry ws)).take (descWord ws 0 % 32)).map (fun e => (e / 2 ^ 9, e % 2 ^ 9)) = descMembers ws := by
    rw [← List.map_take, List.take_range, Nat.min_eq_left h16, List.map_map]
    rfl
  rw [readGroup_eq, hm]
  refine if_neg ?_
  rw [drop_any_iff]
  simp only [hr0, hr1, hr2, hr5, hr6, hr7, bne_self_eq_false, Bool.or_self, Bool.false_eq_true, false_or]
  push Not
  exact ⟨by omega, h16, hself, hlast⟩

/-- The members are named well exactly when `DescNamed` says so. -/
theorem descNamed_iff (h : DescShape ws) (hc : core < 512) : DescNamed ch core ws ↔
    ¬ ((descMembers ws).getD (descWord ws 0 / 2 ^ 8 % 16) (0, 0) ≠ (ch.devnum.toNat, core) ∨ (descMembers ws).eraseDups ≠ descMembers ws ∨
      (descMembers ws).any (fun e => decide (Config.cores ≤ e.2)) = true) := by
  obtain ⟨-, -, hself, -⟩ := h
  have hget : (descMembers ws).getD (descWord ws 0 / 2 ^ 8 % 16) (0, 0) =
      (descEntry ws (descWord ws 0 / 2 ^ 8 % 16) / 2 ^ 9, descEntry ws (descWord ws 0 / 2 ^ 8 % 16) % 2 ^ 9) := getD_map_range hself _
  have hone : descEntry ws (descWord ws 0 / 2 ^ 8 % 16) = ch.devnum.toNat * 2 ^ 9 + core ↔
      (descMembers ws).getD (descWord ws 0 / 2 ^ 8 % 16) (0, 0) = (ch.devnum.toNat, core) := by
    rw [hget, Prod.mk.injEq]
    omega
  have htwo : (∀ e f, e < descWord ws 0 % 32 → f < descWord ws 0 % 32 → descEntry ws e = descEntry ws f → e = f) ↔
      (descMembers ws).eraseDups = descMembers ws := by
    rw [eraseDups_eq_self_iff, descMembers, List.nodup_map_iff_inj_on List.nodup_range]
    refine ⟨fun h e he f hf hef => h e f (List.mem_range.mp he) (List.mem_range.mp hf) ?_,
      fun h e f he hf hef => h e (List.mem_range.mpr he) f (List.mem_range.mpr hf) (by rw [hef])⟩
    rw [Prod.mk.injEq] at hef
    omega
  have hthree : (∀ e, e < descWord ws 0 % 32 → descEntry ws e % 2 ^ 9 < 384) ↔
      ¬ (descMembers ws).any (fun e => decide (Config.cores ≤ e.2)) = true := by
    rw [List.any_eq_true, descMembers]
    simp only [List.mem_map, List.mem_range, decide_eq_true_eq, Config.cores]
    push Not
    refine ⟨?_, fun h e he => Nat.not_le.mp (mt decide_eq_true (h _ ⟨e, he, rfl⟩))⟩
    rintro h p ⟨e, he, rfl⟩
    exact mt of_decide_eq_true (Nat.not_le.mpr (h e he))
  rw [DescNamed, hone, htwo, hthree]
  tauto

end

section
variable {s : State} {h : Head} {st : Strand} {xd xa : Reg} {g : BitVec 4} {v : Word} {c : Cause} {b o n : Nat} {e : Group}
  (rd : Ready s h .ct st)
include rd

theorem ends_status {i : Info} (ch : Chip) (n : Nat) : s.ends h i st ((s.ctx st).status ch xd n) =
    .next (s.issuedOn h i.opc i.cls ch (st.laterX .ct 1 xd (BitVec.ofNat 64 n))) := by
  rw [Ctx.status, rd.ctx_q]
  rfl

theorem execClgrpRelease_ready : execClgrpRelease h xd g s =
    if groupBusy (s.ctx st) g.toNat then .next (s.issuedOn h 0xC0 13 s.chip (st.laterX .ct 1 xd (BitVec.ofNat 64 3)))
    else .next (s.issuedOn h 0xC0 13 ((s.ctx st).setGroup (fun t => t.del (groupKey st.place.owner g.toNat))) (st.laterX .ct 1 xd 0)) := by
  rw [execClgrpRelease, issue_ends rd rfl rfl rfl rfl, State.ends_ite, ends_status rd, ends_status rd]
  rfl

/-- What CLGRP does with a descriptor (19 R339). -/
def Ctx.register (x : Ctx) (xd : Reg) (n : Nat) : Except Nat Group → Effect
  | .error e => x.status x.chip xd e
  | .ok e =>
    if groupBusy x n then x.status x.chip xd 3
    else if e.members.any (fun m => m.1 != x.chip.devnum.toNat) && (x.owner.stride .link).isNone then x.status x.chip xd 4
    else x.status (x.setGroup (fun t => t.set (groupKey x.st.place.owner n) e)) xd 0

/-- CLGRP by where its pointer leads. -/
def Ctx.clgrpFrom (x : Ctx) (xd : Reg) (v : Word) (n : Nat) : Except (Cause × Word) Target → Effect
  | .error (c, p) => .fault (match ptrOf v with | .scratch _ _ _ => c | _ => .windowInvalid) p 0
  | .ok (.scratch b o) =>
    match x.chip.errorAt (scratchAddr x.core b o) 64 with
    | some c => x.done (consumeNow x.st x.q c v)
    | none => x.register xd n (readGroup x.chip x.core ((chunksOf 8 8 (x.mem.readBytes (scratchAddr x.core b o) 64)).map leNat))
  | .ok _ => .fault .windowInvalid v 0

theorem execClgrp_ready (hv : st.rx .ct xa = v) : execClgrp h xd xa g s = if st.px .ct xa then .next (s.trapped st .poisonConsumed v 0)
    else s.ends h (collInfo 0xC0) st ((s.ctx st).clgrpFrom xd v g.toNat (checkPtr s.chip.cur.core st v 0 64 64)) := by
  subst hv
  rw [execClgrp, issue_ends rd rfl rfl rfl rfl, rd.ctx_px, rd.ctx_rx, State.ends_ite]
  refine if_congr Iff.rfl rfl (congrArg (s.ends h _ st) ?_)
  have hx : checkPtr (s.ctx st).core (s.ctx st).st (st.rx .ct xa) 0 64 64 = checkPtr s.chip.cur.core st (st.rx .ct xa) 0 64 64 := rfl
  dsimp only
  rw [hx]
  rcases checkPtr s.chip.cur.core st (st.rx .ct xa) 0 64 64 with p | d
  · rfl
  · cases d with
    | scratch b o =>
      cases hE : (s.ctx st).chip.errorAt (scratchAddr (s.ctx st).core b o) 64 with
      | some c => simp only [Ctx.clgrpFrom, hE]
      | none =>
        simp only [Ctx.clgrpFrom, hE]
        cases readGroup (s.ctx st).chip (s.ctx st).core
          ((chunksOf 8 8 ((s.ctx st).mem.readBytes (scratchAddr (s.ctx st).core b o) 64)).map leNat) <;> rfl
    | _ => rfl

/-- What CLSTAT tells of a piece of work, and of a token (19 R347). -/
def collState (k : Work) : Nat :=
  match k.state with
  | .running => 1 + k.wholeChunks * 2 ^ 32
  | .done => k.wholeChunks * 2 ^ 32
  | .error _ => 2 + causeCode .collPeerAbsent * 2 ^ 8 + k.lowestAbsent * 2 ^ 16 + k.wholeChunks * 2 ^ 32
  | .cancelled => 3 + k.wholeChunks * 2 ^ 32

def Ctx.collStat (x : Ctx) (tok : BitVec 6) : Nat :=
  if tok = 63#6 then (openColls x).length % 16
  else match latestProducer x (fun k => k.collGroup.isSome) tok with
    | none => 0
    | some k => collState k

theorem execClstat_ready {n : Nat} (hn : (s.ctx st).collStat ((st.rx .ct xa).setWidth 6) = n) :
    execClstat h xd xa s = .next (s.issuedWith h 0xC3 13 (st.laterX .ct 1 xd (BitVec.ofNat 64 n) none (st.px .ct xa))) := by
  subst hn
  rw [execClstat, issue_ends rd rfl rfl rfl rfl, ← rd.ctx_rx, ← rd.ctx_px, ← rd.seq]
  exact State.ends_writeX ..

end
end Sys2Proof.Machine
end

section
/-! SUPPORT. Groups (19 R339, R347). -/

namespace Sys2Proof.Proofs
open Sys2Proof.Machine

/-- CLGRP of a good pointer registers what the descriptor says. -/
theorem clgrpRegisters {s : State} {h : Head} {st : Strand} {xd xa : Reg} {g : BitVec 4} {d : Except Nat Group} {b o : Nat} (rd : Ready s h .ct st)
    (hp : st.px .ct xa = false) (hc : checkPtr s.chip.cur.core st (st.rx .ct xa) 0 64 64 = .ok (.scratch b o))
    (he : s.chip.errorAt (scratchAddr s.chip.cur.core b o) 64 = none)
    (hd : readGroup s.chip s.chip.cur.core ((chunksOf 8 8 (s.mem.readBytes (scratchAddr s.chip.cur.core b o) 64)).map leNat) = d) :
    exec (.clgrp h xd xa g) s = s.ends h (collInfo 0xC0) st ((s.ctx st).register xd g.toNat d) := by
  have hx : (s.ctx st).chip.errorAt (scratchAddr (s.ctx st).core b o) 64 = none := he
  refine ((execClgrp_ready rd rfl).trans (if_neg (by rw [hp]; exact Bool.false_ne_true))).trans ?_
  rw [hc, Ctx.clgrpFrom, hx, ← hd]
  rfl

/-- Settles O37: the words by `execClgrp_ready`, `execClgrpRelease_ready` and `execClstat_ready`, the descriptors by `readGroup_of_shape`. -/
theorem groupWords : Obligations.GroupWords := by
  refine ⟨?_, ?_⟩
  · intro s h st xd xa g b o e k rd x core v key words busy far own answers sets tok stat
    have hclean (hp : st.px .ct xa = false) := (execClgrp_ready (xd := xd) (g := g) rd rfl).trans
      (if_neg (by rw [hp]; exact Bool.false_ne_true : ¬ st.px .ct xa = true))
    have hbusy (h : busy = false) : ¬ groupBusy (s.ctx st) g.toNat = true := (Bool.not_eq_true _).mpr h
    refine ⟨fun hb => (execClgrpRelease_ready rd).trans (if_pos hb), fun hb => (execClgrpRelease_ready rd).trans (if_neg (hbusy hb)),
      fun hp => (execClgrp_ready rd rfl).trans (if_pos hp), fun d hp hc hd => (hclean hp).trans ?_, fun c hp hc he => (hclean hp).trans ?_,
      fun hp hc he => ⟨fun n hn => (clgrpRegisters rd hp hc he hn).trans (ends_status rd _ _), fun hr => ?_⟩,
      fun ht => ?_, fun ht hn => ?_, fun ht hk => ?_⟩
    · rw [hc]
      cases d with
      | scratch b o => exact absurd rfl (hd b o)
      | _ => rfl
    · have hx : (s.ctx st).chip.errorAt (scratchAddr (s.ctx st).core b o) 64 = some c := he
      rw [hc, Ctx.clgrpFrom, hx, rd.ctx_q]
      rfl
    · have hreg := clgrpRegisters (xd := xd) (g := g) rd hp hc he hr
      exact ⟨fun hb => (hreg.trans (congrArg (s.ends h _ st) (if_pos hb))).trans (ends_status rd _ _), fun hb hf => (hreg.trans
        (congrArg (s.ends h _ st) ((if_neg (hbusy hb)).trans (if_pos hf)))).trans (ends_status rd _ _), fun hb hf => (hreg.trans
        (congrArg (s.ends h _ st) ((if_neg (hbusy hb)).trans (if_neg ((Bool.not_eq_true _).mpr hf))))).trans (ends_status rd _ _)⟩
    · exact execClstat_ready rd (if_pos ht)
    · have hn : latestProducer (s.ctx st) (fun k => k.collGroup.isSome) tok = none := hn
      exact execClstat_ready rd ((if_neg ht).trans (by rw [hn]))
    · have hk : latestProducer (s.ctx st) (fun k => k.collGroup.isSome) tok = some k := hk
      have hstat {n : Nat} (hn : collState k = n) : stat n := execClstat_ready rd ((if_neg ht).trans (by rw [hk]; exact hn))
      exact ⟨fun hs => hstat (by rw [collState, hs]), fun hs => hstat (by rw [collState, hs]), fun c hs => hstat (by rw [collState, hs]),
        fun hs => hstat (by rw [collState, hs])⟩
  · intro ch core ws _ _ w m self entry shape named
    refine ⟨fun h => readGroup_shape h, fun h hc hn => ?_, fun h hc hn => ?_⟩
    · have hbad := not_not.mp (mt (descNamed_iff (ch := ch) h hc).mpr hn)
      exact (readGroup_of_shape h).trans (if_pos hbad)
    · have hgood := (descNamed_iff (ch := ch) h hc).mp hn
      exact ⟨_, (readGroup_of_shape h).trans (if_neg hgood), rfl, BitVec.toNat_ofNat .., rfl⟩

end Sys2Proof.Proofs
end

section
/-! SUPPORT. CLRED and CLBC: their checks in their order (19 R342). -/

namespace Sys2Proof.Machine

theorem bitsOf_low {v : Word} {n : Nat} (h : v.toNat < 2 ^ n) : bitsOf v 0 n = v.toNat := by
  rw [bitsOf, Nat.pow_zero, Nat.div_one, Nat.mod_eq_of_lt h]

theorem bitsOf_low_ne {v : Word} {n : Nat} (h : 2 ^ n ≤ v.toNat) : v.toNat ≠ bitsOf v 0 n := by
  rw [bitsOf, Nat.pow_zero, Nat.div_one]
  have := Nat.mod_lt v.toNat (Nat.two_pow_pos n)
  omega

/-- What a collective is about: its operands, sizes and work. -/
structure CollArgs where
  red : Bool
  xd : Reg
  t : Toks
  es : Nat
  ed : Nat
  kind : Nat → Nat → Nat → WorkKind
  src : Word
  dst : Word
  cnt : Word
  bar : Word

/-- The checks on the extents of a collective and what comes after them. -/
def Ctx.collExtents (x : Ctx) (e : Group) (g : CollArgs) (a b n : Nat) : Effect :=
  if 0x40000 < a + n * g.es then .fault .windowInvalid g.src 0
  else if 0x40000 < b + n * g.ed ∨ meets a (n * g.es) b (n * g.ed) = true then .fault .windowInvalid g.dst 0
  else
    match collBarrier g.bar with
    | none => .fault .windowInvalid g.bar 0
    | some bar =>
      if 8 ≤ (openColls x).length then .block (some .queueImbalance) .none x.chip
      else if (x.owner.stride .mesh).isNone then .fault .classUnused g.src 1
      else .go (startedColl x g.red g.xd g.t e ⟨g.es, g.ed, n⟩ bar a b (g.kind a b n) g.src) .next .none

/-- The checks of a collective on its group's member (19 R342). -/
def Ctx.collChecks (x : Ctx) (e : Group) (g : CollArgs) : Effect :=
  if g.src.toNat ≠ bitsOf g.src 0 20 then .fault .windowInvalid g.src 0
  else if g.dst.toNat ≠ bitsOf g.dst 0 20 then .fault .windowInvalid g.dst 0
  else if bitsOf g.src 0 20 % 64 ≠ 0 then .fault .align g.src 0
  else if bitsOf g.dst 0 20 % 64 ≠ 0 then .fault .align g.dst 0
  else if bitsOf g.cnt 0 20 = 0 ∨ g.cnt.toNat ≠ bitsOf g.cnt 0 20 ∨ bitsOf g.cnt 0 20 * g.es % 64 ≠ 0 then .fault .extentInvalid g.cnt 0
  else x.collExtents e g (bitsOf g.src 0 20) (bitsOf g.dst 0 20) (bitsOf g.cnt 0 20)

section
variable {x : Ctx} {e : Group} {g : CollArgs}

theorem collChecks_src (ha : 2 ^ 20 ≤ g.src.toNat) : x.collChecks e g = .fault .windowInvalid g.src 0 := if_pos (bitsOf_low_ne ha)

section
variable (ha : g.src.toNat < 2 ^ 20)
include ha

theorem collChecks_dst (hb : 2 ^ 20 ≤ g.dst.toNat) : x.collChecks e g = .fault .windowInvalid g.dst 0 :=
  (if_neg (not_not.mpr (bitsOf_low ha).symm)).trans (if_pos (bitsOf_low_ne hb))

variable (hb : g.dst.toNat < 2 ^ 20)
include hb

/-- With both offsets in their fields the alignments are tested. -/
theorem collChecks_offsets : x.collChecks e g =
    if g.src.toNat % 64 ≠ 0 then .fault .align g.src 0
    else if g.dst.toNat % 64 ≠ 0 then .fault .align g.dst 0
    else if bitsOf g.cnt 0 20 = 0 ∨ g.cnt.toNat ≠ bitsOf g.cnt 0 20 ∨ bitsOf g.cnt 0 20 * g.es % 64 ≠ 0 then .fault .extentInvalid g.cnt 0
    else x.collExtents e g g.src.toNat g.dst.toNat (bitsOf g.cnt 0 20) := by
  rw [Ctx.collChecks, bitsOf_low ha, bitsOf_low hb, if_neg (not_not.mpr rfl), if_neg (not_not.mpr rfl)]

variable (ha' : g.src.toNat % 64 = 0) (hb' : g.dst.toNat % 64 = 0)
include ha' hb'

theorem collChecks_extent (hn : g.cnt.toNat = 0 ∨ 2 ^ 20 ≤ g.cnt.toNat ∨ g.cnt.toNat * g.es % 64 ≠ 0) :
    x.collChecks e g = .fault .extentInvalid g.cnt 0 := by
  rw [collChecks_offsets ha hb, if_neg (not_not.mpr ha'), if_neg (not_not.mpr hb')]
  refine if_pos ?_
  rcases Nat.lt_or_ge g.cnt.toNat (2 ^ 20) with hlt | hge
  · rw [bitsOf_low hlt]
    rcases hn with h | h | h
    · exact .inl h
    · omega
    · exact .inr (.inr h)
  · exact .inr (.inl (bitsOf_low_ne hge))

theorem collChecks_inside (h0 : 0 < g.cnt.toNat) (hlt : g.cnt.toNat < 2 ^ 20) (hal : g.cnt.toNat * g.es % 64 = 0) :
    x.collChecks e g = x.collExtents e g g.src.toNat g.dst.toNat g.cnt.toNat := by
  rw [collChecks_offsets ha hb, if_neg (not_not.mpr ha'), if_neg (not_not.mpr hb'), bitsOf_low hlt]
  refine if_neg ?_
  rintro (h | h | h)
  · omega
  · exact h rfl
  · exact h hal

end

section
variable {a b n : Nat}

theorem collExtents_src (h : 0x40000 < a + n * g.es) : x.collExtents e g a b n = .fault .windowInvalid g.src 0 := if_pos h

theorem collExtents_dst (h : a + n * g.es ≤ 0x40000) (h' : 0x40000 < b + n * g.ed ∨ meets a (n * g.es) b (n * g.ed) = true) :
    x.collExtents e g a b n = .fault .windowInvalid g.dst 0 := (if_neg (Nat.not_lt.mpr h)).trans (if_pos h')

variable (h : a + n * g.es ≤ 0x40000 ∧ b + n * g.ed ≤ 0x40000 ∧ meets a (n * g.es) b (n * g.ed) = false)
include h

theorem collExtents_inside : x.collExtents e g a b n =
    match collBarrier g.bar with
    | none => .fault .windowInvalid g.bar 0
    | some bar =>
      if 8 ≤ (openColls x).length then .block (some .queueImbalance) .none x.chip
      else if (x.owner.stride .mesh).isNone then .fault .classUnused g.src 1
      else .go (startedColl x g.red g.xd g.t e ⟨g.es, g.ed, n⟩ bar a b (g.kind a b n) g.src) .next .none := by
  obtain ⟨ha, hb, hm⟩ := h
  exact (if_neg (Nat.not_lt.mpr ha)).trans (if_neg (by rw [hm]; simpa using hb))

theorem collExtents_noBarrier (hbar : collBarrier g.bar = none) : x.collExtents e g a b n = .fault .windowInvalid g.bar 0 := by
  rw [collExtents_inside h, hbar]

theorem collExtents_barrier {bar : Option Nat} (hbar : collBarrier g.bar = some bar) : x.collExtents e g a b n =
    if 8 ≤ (openColls x).length then .block (some .queueImbalance) .none x.chip
    else if (x.owner.stride .mesh).isNone then .fault .classUnused g.src 1
    else .go (startedColl x g.red g.xd g.t e ⟨g.es, g.ed, n⟩ bar a b (g.kind a b n) g.src) .next .none := by
  rw [collExtents_inside h, hbar]

end

variable {s : State} {h : Head} {st : Strand} {opc : BitVec 8} {ok : Bool} {n : Nat} {xh xc xs xb : Reg} (rd : Ready s h .ct st)
include rd

theorem collWord_poisoned (hok : ok = true) {r : Reg} (hr : [xh, xc, xs, xb].find? (st.px .ct) = some r) :
    collWord s h opc ok g.red n g.xd xh xc xs xb g.t g.es g.ed g.kind = .next (s.trapped st .poisonConsumed (st.rx .ct r) 0) := by
  have hx : [xh, xc, xs, xb].find? (s.ctx st).px = some r := by rwa [show (s.ctx st).px = st.px .ct from funext rd.ctx_px]
  rw [collWord, issue_ends rd rfl rfl hok rfl, hx]
  exact congrArg (fun v => (.next (s.trapped st .poisonConsumed v 0) : Outcome)) (rd.ctx_rx r)

variable (hclean : ∀ r, r ∈ [xh, xc, xs, xb] → st.px .ct r = false)
include hclean

theorem find_poisoned_none : [xh, xc, xs, xb].find? (s.ctx st).px = none := by
  rw [show (s.ctx st).px = st.px .ct from funext rd.ctx_px, List.find?_eq_none]
  exact fun r hr => by rw [hclean r hr]; exact Bool.false_ne_true

theorem collWord_noGroup (hok : ok = true) (hg : s.chip.group? s.chip.cur.core st.place.owner n = none) :
    collWord s h opc ok g.red n g.xd xh xc xs xb g.t g.es g.ed g.kind = .next (s.trapped st .collGroupInvalid (noAddr .collGroupInvalid) 0) := by
  have hx : (s.ctx st).chip.group? (s.ctx st).core (s.ctx st).st.place.owner n = none := hg
  rw [collWord, issue_ends rd rfl rfl hok rfl, find_poisoned_none rd hclean, hx]
  rfl

theorem collWord_ready (hok : ok = true) (hg : s.chip.group? s.chip.cur.core st.place.owner n = some e)
    (hargs : g.src = st.rx .ct xh ∧ g.dst = st.rx .ct xc ∧ g.cnt = st.rx .ct xs ∧ g.bar = st.rx .ct xb) :
    collWord s h opc ok g.red n g.xd xh xc xs xb g.t g.es g.ed g.kind = s.ends h (collInfo opc ok) st ((s.ctx st).collChecks e g) := by
  have hx : (s.ctx st).chip.group? (s.ctx st).core (s.ctx st).st.place.owner n = some e := hg
  obtain ⟨hs, hd, hc, hb⟩ := hargs
  rw [collWord, issue_ends rd rfl rfl hok rfl, find_poisoned_none rd hclean, hx, rd.ctx_rx, rd.ctx_rx, rd.ctx_rx, rd.ctx_rx,
    ← hs, ← hd, ← hc, ← hb]
  rfl

end
end Sys2Proof.Machine
end

section
/-! SUPPORT. CLRED and CLBC (19 R342). -/

namespace Sys2Proof.Proofs
open Sys2Proof.Machine

/-- Settles O38: the checks in their order, one lemma each (`collChecks_…`, `collExtents_…`). -/
theorem collectiveWords : Obligations.CollectiveWords := by
  intro s h st red op td ts g xd xh xc xs xb t e bar rd i x es ed src dst cnt a b n kind traps inside hwf
  let args : CollArgs := {
    red := red, xd := xd, t := t, es := es, ed := ed, src := src, dst := dst, cnt := cnt, bar := st.rx .ct xb,
    kind := fun a b n => if red then .clred op td ts g.toNat a b n [] else .clbc g.toNat a b n }
  obtain ⟨ok, hi, hok⟩ : ∃ ok, exec i s =
      collWord s h (if red then 0xC1 else 0xC2) ok args.red g.toNat args.xd xh xc xs xb args.t args.es args.ed args.kind ∧ ok = true := by
    cases red
    · exact ⟨_, rfl, rfl⟩
    · exact ⟨_, rfl, hwf⟩
  refine ⟨fun r hr => hi.trans (collWord_poisoned rd hok hr), fun hc => ⟨fun hg => hi.trans (collWord_noGroup rd hc hok hg), fun hg => ?_⟩⟩
  have he := hi.trans (collWord_ready (g := args) rd hc hok hg ⟨rfl, rfl, rfl, rfl⟩)
  have hstop {c : Cause} {fa : Word} (hx : x.collChecks e args = .fault c fa 0) : traps c fa := he.trans (congrArg (s.ends h _ st) hx)
  refine ⟨fun ha => hstop (collChecks_src ha), fun ha hb => hstop (collChecks_dst ha hb),
    fun ha hb hal => hstop ((collChecks_offsets ha hb).trans (if_pos hal)),
    fun ha hb hal hbl => hstop ((collChecks_offsets ha hb).trans ((if_neg (not_not.mpr hal)).trans (if_pos hbl))),
    fun ha hb hal hbl => ⟨fun hn => hstop (collChecks_extent ha hb hal hbl hn), fun h0 hlt hn => ?_⟩⟩
  have hin : x.collChecks e args = x.collExtents e args a b n := collChecks_inside ha hb hal hbl h0 hlt hn
  refine ⟨fun hx => hstop (hin.trans (collExtents_src hx)), fun hx hx' => hstop (hin.trans (collExtents_dst hx hx')),
    fun hx hbar => hstop (hin.trans (collExtents_noBarrier hx hbar)), fun hx hbar => ?_⟩
  have hlast := hin.trans (collExtents_barrier hx hbar)
  refine ⟨fun h8 => he.trans (congrArg (s.ends h _ st) (hlast.trans (if_pos h8))), fun h8 hm => ?_, fun h8 hm => ?_⟩
  · exact he.trans (congrArg (s.ends h _ st) (hlast.trans ((if_neg (Nat.not_le.mpr h8)).trans (if_pos hm))))
  · have hno : ¬ (x.owner.stride .mesh).isNone = true := by
      rw [Option.isNone_iff_eq_none]
      exact Option.isSome_iff_ne_none.mp hm
    exact he.trans (congrArg (s.ends h _ st) (hlast.trans ((if_neg (Nat.not_le.mpr h8)).trans (if_neg hno))))

end Sys2Proof.Proofs
end

section
/-! SUPPORT. SPL.QUERY and the collision of two users (21 R367; 02 R44). -/

namespace Sys2Proof.Machine

/-- Users whose strides divide one another meet exactly when they own a common beat. -/
theorem collide_iff_of_dvd {a b q r : Nat} (h : a ∣ b) (ha : 0 < a) (hb : 0 < b) (hq : q < a) (hr : r < b) :
    q % min a b = r % min a b ↔ ∃ n : Nat, n % a = q ∧ n % b = r := by
  rw [Nat.min_eq_left (Nat.le_of_dvd hb h), Nat.mod_eq_of_lt hq]
  refine ⟨fun hm => ⟨r, hm.symm, Nat.mod_eq_of_lt hr⟩, ?_⟩
  rintro ⟨n, rfl, rfl⟩
  exact (Nat.mod_mod_of_dvd n h).symm

/-- Of two strides of the weave one divides the other. -/
theorem stride_dvd : ∀ a ∈ [1, 2, 4, 8, 16], ∀ b ∈ [1, 2, 4, 8, 16], a ∣ b ∨ b ∣ a := by decide

theorem collide_iff {a b q r : Nat} (ha : a ∈ [1, 2, 4, 8, 16]) (hb : b ∈ [1, 2, 4, 8, 16]) (hq : q < a) (hr : r < b) :
    collide (a, q) (b, r) = true ↔ ∃ n : Nat, n % a = q ∧ n % b = r := by
  have ha0 : 0 < a := Nat.zero_lt_of_lt hq
  have hb0 : 0 < b := Nat.zero_lt_of_lt hr
  rw [collide, beq_iff_eq]
  rcases stride_dvd a ha b hb with h | h
  · exact collide_iff_of_dvd h ha0 hb0 hq hr
  · rw [Nat.min_comm, eq_comm, collide_iff_of_dvd h hb0 ha0 hr hq]
    exact exists_congr fun n => and_comm

/-- The word of the strand at a place, or 0. -/
def Ctx.placeWord (x : Ctx) (v : Word) : Nat :=
  match x.chip.placesAtIssue.get? (skey (bitsOf v 0 9) (bitsOf v 16 2)) with | some p => strandQuery p | none => 0

/-- What SPL.QUERY answers (21 R367). -/
def Ctx.queried (x : Ctx) (v : Word) (sel : Nat) : Nat :=
  match sel with
  | 0 => ownerQuery x.chip.atIssue (bitsOf v 0 3)
  | 1 => x.placeWord v
  | 2 => (match instanceOf (bitsOf v 0 3) (bitsOf v 8 24) with | some (c, k) => maskWord (usersOf x.chip.atIssue none c k) | none => 0)
  | _ => if (x.chip.atIssue.owner (bitsOf v 0 3)).state = .empty then 0 else (x.chip.atIssue.owner (bitsOf v 0 3)).origin

/-- The occupancy word of one unit. -/
def Ctx.maskOf (x : Ctx) (e : SlotClass × Nat) : Nat := maskWord (usersOf x.chip.atIssue none e.1 e.2)

theorem queried_owner (x : Ctx) (v : Word) : x.queried v (0 : BitVec 4).toNat = ownerQuery x.chip.atIssue (v.extractLsb' 0 3).toNat := by
  simp only [Ctx.queried, show (0 : BitVec 4).toNat = 0 from rfl, bitsOf_eq_extract]

theorem ownerQuery_empty {ch : Chip} {on : Nat} (h : (ch.owner on).state = .empty) : ownerQuery ch on = 0 := by
  rw [ownerQuery]
  exact if_pos h

theorem placeWord_some {x : Ctx} {v : Word} {p : Place}
    (h : x.chip.placesAtIssue.get? (skey (v.extractLsb' 0 9).toNat (v.extractLsb' 16 2).toNat) = some p) : x.placeWord v = strandQuery p := by
  rw [← bitsOf_eq_extract, ← bitsOf_eq_extract] at h
  rw [Ctx.placeWord, h]

theorem placeWord_none {x : Ctx} {v : Word}
    (h : x.chip.placesAtIssue.get? (skey (v.extractLsb' 0 9).toNat (v.extractLsb' 16 2).toNat) = none) : x.placeWord v = 0 := by
  rw [← bitsOf_eq_extract, ← bitsOf_eq_extract] at h
  rw [Ctx.placeWord, h]

theorem queried_mask (x : Ctx) (v : Word) : x.queried v (2 : BitVec 4).toNat =
    ((instanceOf (v.extractLsb' 0 3).toNat (v.extractLsb' 8 24).toNat).map x.maskOf).getD 0 := by
  simp only [Ctx.queried, show (2 : BitVec 4).toNat = 2 from rfl, bitsOf_eq_extract]
  generalize instanceOf _ _ = e
  cases e <;> simp only [Option.map_none, Option.map_some, Option.getD_none, Option.getD_some, Ctx.maskOf]

theorem queried_origin (x : Ctx) (v : Word) : x.queried v (3 : BitVec 4).toNat =
    if (x.chip.atIssue.owner (v.extractLsb' 0 3).toNat).state = .empty then 0
    else (x.chip.atIssue.owner (v.extractLsb' 0 3).toNat).origin := by
  rw [← bitsOf_eq_extract]
  rfl

theorem execSplQuery_ready {s : State} {h : Head} {st : Strand} {xd xa : Reg} {sel : BitVec 4} (rd : Ready s h .ct st)
    (hsup : st.place.sup = true) (hwf : (Instr.splQuery h xd xa sel).WF) :
    execSplQuery h xd xa sel s = .next (s.issuedWith h 0xE0 14
      (st.laterX .ct 1 xd (BitVec.ofNat 64 ((s.ctx st).queried (st.rx .ct xa) sel.toNat)) none (st.px .ct xa))) := by
  have hsup' : (!st.place.sup) = false := by rw [hsup]; rfl
  rw [execSplQuery, issue_ends rd rfl hsup' hwf rfl]
  refine (State.ends_writeX ..).trans ?_
  rw [rd.ctx_px, rd.ctx_rx, rd.seq]
  rfl

end Sys2Proof.Machine
end

section
/-! SUPPORT. SPL.QUERY and the collision of two users (21 R367; 02 R44). -/

namespace Sys2Proof.Proofs
open Sys2Proof.Machine

/-- Settles O40: SPL.QUERY latches what it reads (`execSplQuery_ready`); of two strides one divides the other, so that the
larger one's phase is itself the common beat (`collide_iff`). -/
theorem queriesAndCollisions : Obligations.QueriesAndCollisions := by
  refine ⟨fun s h st xd xa sel rd hsup hwf => ?_, fun s1 q1 s2 q2 h1 h2 hq1 hq2 => collide_iff h1 h2 hq1 hq2⟩
  intro v ch o tells
  have he := execSplQuery_ready rd hsup hwf
  have hans {n : Nat} (hn : (s.ctx st).queried v sel.toNat = n) : tells n := hn ▸ he
  refine ⟨?_, ?_, ?_, ?_, ?_, ?_⟩
  · rintro rfl
    have h0 := queried_owner (s.ctx st) v
    exact ⟨hans h0, fun hemp => hans (h0.trans (ownerQuery_empty hemp))⟩
  · rintro rfl p hp
    exact hans (placeWord_some hp)
  · rintro rfl hp
    exact hans (placeWord_none hp)
  · rintro rfl c k hk
    exact hans (by rw [queried_mask, hk, Option.map_some, Option.getD_some]; rfl)
  · rintro rfl hk
    exact hans (by rw [queried_mask, hk, Option.map_none, Option.getD_none])
  · rintro rfl
    have h3 := queried_origin (s.ctx st) v
    exact ⟨fun hemp => hans (h3.trans (if_pos hemp)), fun hne => hans (h3.trans (if_neg hne))⟩

end Sys2Proof.Proofs
end

section
/-! SUPPORT. The words that name an owner slot (21 R363 to R366). -/

namespace Sys2Proof.Machine

@[simp] theorem remember_strand? (old new : Chip) (c sl : Nat) : (old.remember new).strand? c sl = new.strand? c sl := by
  rw [Chip.remember]
  split <;> rfl

@[simp] theorem mapStrands_owner (ch : Chip) (on n : Nat) (f : Strand → Strand) : (ch.mapStrands on f).owner n = ch.owner n := rfl

@[simp] theorem setOwner_strand? (ch : Chip) (on c sl : Nat) (o : Owner) : (ch.setOwner on o).strand? c sl = ch.strand? c sl := rfl

/-- A change of an owner's strands, strand by strand. -/
theorem mapStrands_strand?_eq (ch : Chip) (on c sl : Nat) (f : Strand → Strand) : (ch.mapStrands on f).strand? c sl =
    (ch.strand? c sl).map (fun st => if st.place.owner = on then f st else st) := by
  have hmap : (ch.mapStrands on f).strands = ch.strands.map (fun e => (e.1, if e.2.place.owner = on then f e.2 else e.2)) := by
    refine List.map_congr_left fun e _ => ?_
    split <;> rfl
  rw [Chip.strand?, hmap, Tab.get?_map (f := fun _ st => if st.place.owner = on then f st else st)]
  rfl

theorem mapStrands_strand? {ch : Chip} {on c sl : Nat} {f : Strand → Strand} {st : Strand} (h : ch.strand? c sl = some st)
    (hne : st.place.owner ≠ on) : (ch.mapStrands on f).strand? c sl = some st := by
  rw [mapStrands_strand?_eq, h, Option.map_some, if_neg hne]

/-- The owner slot that a word names. -/
def Strand.named (st : Strand) (xa : Reg) : Nat := ((st.rx .ct xa).extractLsb' 0 3).toNat

/-- The outcome of a word that names an owner slot: its status and the slot, latched for the next beat (21 R360). -/
def State.tells (s : State) (h : Head) (st : Strand) (xd : Reg) (on n : Nat) (ch : Chip) : Outcome :=
  .next (s.issuedOn h 0xE0 14 (s.chip.remember ch) (st.laterX .ct 1 xd (BitVec.ofNat 64 (n + on * 2 ^ 8))))

section
variable {s : State} {h : Head} {st : Strand} {xd xa : Reg}

theorem ends_spl {i : Info} {r : Res} (rd : Ready s h .ct st) (hr : r.chip.strand? s.chip.cur.core s.chip.cur.slot = some st) (n on : Nat) :
    s.ends h i st ((s.ctx st).spl r xd n on) = .next (s.issuedRes h i.opc i.cls
      { r with chip := (s.chip.remember r.chip).setStrand s.chip.cur.core s.chip.cur.slot
                         (st.laterX .ct 1 xd (BitVec.ofNat 64 (n + on * 2 ^ 8))) }) := by
  have hx : ((s.ctx st).chip.remember r.chip).strand? (s.ctx st).core (s.ctx st).slot = some st := (remember_strand? ..).trans hr
  rw [Ctx.spl, hx, rd.ctx_q]
  rfl

/-- A word of the Splicer that leaves memory tells its status. -/
theorem ends_spl_tells {ok : Bool} {ch : Chip} (rd : Ready s h .ct st) (hch : ch.strand? s.chip.cur.core s.chip.cur.slot = some st)
    (n on : Nat) : s.ends h (supInfo 0xE0 ok) st ((s.ctx st).spl { chip := ch, writes := [] } xd n on) = s.tells h st xd on n ch :=
  ends_spl rd hch n on

variable {ok : Bool} {mask : Word} {f : Ctx → Nat → Owner → Nat × Chip} (rd : Ready s h .ct st)
include rd

theorem ownerWord_denied (hsup : st.place.sup = false) : ownerWord s h ok xd xa mask f = .next (s.trapped st .priv (noAddr .priv) 0) :=
  issue_denied rd rfl (congrArg not hsup)

variable (hsup : st.place.sup = true) (hok : ok = true)
include hsup hok

theorem ownerWord_ready : ownerWord s h ok xd xa mask f =
    if st.px .ct xa then .next (s.trapped st .poisonConsumed (st.rx .ct xa) 0)
    else if st.rx .ct xa &&& ~~~mask ≠ 0 ∨ st.named xa = st.place.owner then
      s.tells h st xd (st.named xa) 7 s.chip
    else
      let r := f (s.ctx st) (st.named xa) (s.chip.owner (st.named xa))
      s.ends h (supInfo 0xE0 ok) st ((s.ctx st).spl { chip := r.2, writes := [] } xd r.1 (st.named xa)) := by
  rw [ownerWord, issue_ends rd rfl (congrArg not hsup) hok rfl, rd.ctx_px, rd.ctx_rx, State.ends_ite, State.ends_ite,
    ← ends_spl_tells (ok := ok) rd rd.strand, bitsOf_eq_extract]
  rfl

theorem ownerWord_poisoned (hp : st.px .ct xa = true) :
    ownerWord s h ok xd xa mask f = .next (s.trapped st .poisonConsumed (st.rx .ct xa) 0) :=
  (ownerWord_ready rd hsup hok).trans (if_pos hp)

variable (hp : st.px .ct xa = false)
include hp

theorem ownerWord_refused (hv : st.rx .ct xa &&& ~~~mask ≠ 0 ∨ st.named xa = st.place.owner) :
    ownerWord s h ok xd xa mask f = s.tells h st xd (st.named xa) 7 s.chip := by
  rw [ownerWord_ready rd hsup hok, if_neg (by rw [hp]; exact Bool.false_ne_true), if_pos hv]

/-- A word whose operand names another owner's slot tells what its operation gives. -/
theorem ownerWord_gives (hv : st.rx .ct xa &&& ~~~mask = 0) (hon : st.named xa ≠ st.place.owner) {n : Nat} {ch : Chip}
    (hf : f (s.ctx st) (st.named xa) (s.chip.owner (st.named xa)) = (n, ch))
    (hch : ch.strand? s.chip.cur.core s.chip.cur.slot = some st) :
    ownerWord s h ok xd xa mask f = s.tells h st xd (st.named xa) n ch := by
  rw [ownerWord_ready rd hsup hok, if_neg (by rw [hp]; exact Bool.false_ne_true), if_neg (not_or.mpr ⟨not_not.mpr hv, hon⟩), hf]
  exact ends_spl_tells rd hch ..

end
end Sys2Proof.Machine
end

section
/-! SUPPORT. What the words ask of an owner: re-phase, freeze and thaw (21 R364 to R366). -/

namespace Sys2Proof.Machine

/-- The machine that a re-phase finds: of several devices it has taken a free value (log 5). -/
def Chip.asked (ch : Chip) (o : Owner) : Chip := if o.ndev ≤ 1 then ch else ch.freshen

theorem asked_keeps (ch : Chip) (o : Owner) : 
    (ch.asked o).owners = ch.owners ∧ (ch.asked o).strands = ch.strands ∧ (ch.asked o).gts = ch.gts := by
  rw [Chip.asked]
  split <;> exact ⟨rfl, rfl, rfl⟩

/-- Whether the targets of a re-phase pass, here and elsewhere (21 R364). -/
def rephaseClear (ch : Chip) (on d : Nat) (elsewhere : Bool) : Bool :=
  elsewhere && allClasses.all (fun c =>
    match (ch.owner on).stride c with
    | none => true
    | some s => passes ch (some on) (ch.owner on).hdr c s (((ch.owner on).heldPhase ch.gts c + d) % s))

theorem mem_allClasses (c : SlotClass) : c ∈ allClasses := by cases c <;> decide

theorem rephaseClear_iff {ch : Chip} {on d : Nat} {elsewhere : Bool} : rephaseClear ch on d elsewhere = true ↔
    (∀ c t, (ch.owner on).stride c = some t →
      passes ch (some on) (ch.owner on).hdr c t (((ch.owner on).heldPhase ch.gts c + d) % t) = true) ∧ elsewhere = true := by
  rw [rephaseClear, Bool.and_eq_true, and_comm, List.all_eq_true]
  refine and_congr_left fun _ => ⟨fun hall c t hc => ?_, fun hall c _ => ?_⟩
  · have := hall c (mem_allClasses c)
    rwa [hc] at this
  · cases hc : (ch.owner on).stride c with
    | none => rfl
    | some t => exact hall c t hc

/-- What each word of the four does to the owner it names. -/
def retireOf (x : Ctx) (on : Nat) (o : Owner) : Nat × Chip :=
  if o.state = .halted ∨ o.state = .retiring then (0, x.chip.setOwner on { o with state := .retiring }) else (8, x.chip)

def freezeOf (x : Ctx) (on : Nat) (o : Owner) : Nat × Chip := beginFreeze x.chip on (o.lead x.now)

def thawOf (xa : Reg) (x : Ctx) (on : Nat) (o : Owner) : Nat × Chip := beginThaw x.chip on (bitsOf (x.rx xa) 8 8) (o.lead x.now)

def rephaseOf (delta : BitVec 4) (wait : BitVec 24) (x : Ctx) (on : Nat) (o : Owner) : Nat × Chip :=
  if o.ndev ≤ 1 then beginRephase x.chip on delta.toNat wait.toNat true
  else beginRephase x.chip.freshen on delta.toNat wait.toNat (Config.peersPass x.chip.fresh delta.toNat)

section
variable (s : State) (h : Head) (xd xa : Reg) (delta : BitVec 4) (wait : BitVec 24)

theorem exec_splRetire : exec (.splRetire h xd xa) s = ownerWord s h true xd xa 7 retireOf :=
  show execSplRetire h xd xa s = _ from rfl

theorem exec_splFreeze : exec (.splFreeze h xd xa) s = ownerWord s h true xd xa 7 freezeOf :=
  show execSplFreeze h xd xa s = _ from rfl

theorem exec_splThaw : exec (.splThaw h xd xa) s = ownerWord s h true xd xa 0xFF07 (thawOf xa) :=
  show execSplThaw h xd xa s = _ from rfl

theorem exec_splRephase : exec (.splRephase h xd xa delta wait) s =
    ownerWord s h (Instr.wf (.splRephase h xd xa delta wait)) xd xa 7 (rephaseOf delta wait) :=
  show execSplRephase h xd xa delta wait s = _ from rfl

/-- The four words that name an owner slot, with the bits of xa each reads. -/
theorem ownerWords_exec {i : Instr} {m : Word} (hi : (i, m) ∈ [(Instr.splRetire h xd xa, (7 : Word)), (.splRephase h xd xa delta wait, 7),
    (.splFreeze h xd xa, 7), (.splThaw h xd xa, 0xFF07)]) : ∃ ok f, exec i s = ownerWord s h ok xd xa m f ∧ (i.WF → ok = true) := by
  simp only [List.mem_cons, List.not_mem_nil, or_false, Prod.mk.injEq] at hi
  rcases hi with ⟨rfl, rfl⟩ | ⟨rfl, rfl⟩ | ⟨rfl, rfl⟩ | ⟨rfl, rfl⟩
  · exact ⟨_, _, exec_splRetire .., fun _ => rfl⟩
  · exact ⟨_, _, exec_splRephase .., id⟩
  · exact ⟨_, _, exec_splFreeze .., fun _ => rfl⟩
  · exact ⟨_, _, exec_splThaw .., fun _ => rfl⟩

end

/-- An owner with a re-phase pending. -/
def Owner.rephasing (o : Owner) (now d wait : Nat) : Owner :=
  { o with rephase := some { delta := d, limit := if wait = 0 then none else some (now + wait), release := none }, resvBeat := some now }

theorem rephasing_eq (o : Owner) (now d : Nat) (wait : BitVec 24) : o.rephasing now d wait.toNat =
    { o with rephase := some { delta := d, limit := if wait = 0 then none else some (now + wait.toNat), release := none }
             resvBeat := some now } := by
  rw [Owner.rephasing]
  congr 4
  exact propext (BitVec.toNat_inj (y := 0))

theorem beginRephase_eq (ch : Chip) (on d wait : Nat) (elsewhere : Bool) : beginRephase ch on d wait elsewhere =
    if (ch.owner on).state ≠ .running then (8, ch)
    else if (ch.owner on).rotation ≤ d ∨ (ch.owner on).rephase.isSome = true ∨ rephaseClear ch on d elsewhere = false then (9, ch)
    else (0, (ch.setOwner on ((ch.owner on).rephasing ch.gts d wait)).mapStrands on (fun st => { st with run := { st.run with arrived := none } })) :=
  rfl

section
variable {x : Ctx} {on : Nat} {delta : BitVec 4} {wait : BitVec 24}

/-- A re-phase asked by a word: refused of an owner that does not run, refused for its target, or left pending. -/
theorem rephaseOf_eq : rephaseOf delta wait x on (x.chip.owner on) = beginRephase (x.chip.asked (x.chip.owner on)) on delta.toNat wait.toNat
    (decide ((x.chip.owner on).ndev ≤ 1) || Config.peersPass x.chip.fresh delta.toNat) := by
  rw [rephaseOf, Chip.asked]
  split <;> rename_i hn <;> simp only [hn, decide_true, decide_false, Bool.true_or, Bool.false_or]

theorem asked_owner (ch : Chip) (o : Owner) (n : Nat) : (ch.asked o).owner n = ch.owner n := by
  rw [Chip.owner, (asked_keeps ch o).1, Chip.owner]

theorem asked_strand? (ch : Chip) (o : Owner) (c sl : Nat) : (ch.asked o).strand? c sl = ch.strand? c sl := by
  rw [Chip.strand?, (asked_keeps ch o).2.1, Chip.strand?]

theorem rephaseOf_halted (hs : ¬ (x.chip.owner on).state = .running) :
    rephaseOf delta wait x on (x.chip.owner on) = (8, x.chip.asked (x.chip.owner on)) := by
  rw [rephaseOf_eq, beginRephase_eq, asked_owner, if_pos hs]

/-- The targets of a re-phase pass here and, of an owner of several devices, elsewhere. -/
def Ctx.clears (x : Ctx) (on d : Nat) : Prop :=
  let o := x.chip.owner on
  (∀ c t, o.stride c = some t → passes (x.chip.asked o) (some on) o.hdr c t ((o.heldPhase x.chip.gts c + d) % t) = true) ∧
    (1 < o.ndev → Config.peersPass x.chip.fresh d = true)

theorem rephaseClear_asked (d : Nat) : rephaseClear (x.chip.asked (x.chip.owner on)) on d
    (decide ((x.chip.owner on).ndev ≤ 1) || Config.peersPass x.chip.fresh d) = true ↔ x.clears on d := by
  rw [rephaseClear_iff, asked_owner, (asked_keeps x.chip (x.chip.owner on)).2.2, Bool.or_eq_true, decide_eq_true_iff, or_iff_not_imp_left,
    Nat.not_le]
  rfl

theorem rephaseOf_running (hs : (x.chip.owner on).state = .running) : rephaseOf delta wait x on (x.chip.owner on) =
    if (x.chip.owner on).rotation ≤ delta.toNat ∨ (x.chip.owner on).rephase.isSome = true ∨
      rephaseClear (x.chip.asked (x.chip.owner on)) on delta.toNat
        (decide ((x.chip.owner on).ndev ≤ 1) || Config.peersPass x.chip.fresh delta.toNat) = false then (9, x.chip.asked (x.chip.owner on))
    else (0, ((x.chip.asked (x.chip.owner on)).setOwner on ((x.chip.owner on).rephasing x.chip.gts delta.toNat wait.toNat)).mapStrands on
      (fun st => { st with run := { st.run with arrived := none } })) := by
  rw [rephaseOf_eq, beginRephase_eq, asked_owner, if_neg (not_not.mpr hs), (asked_keeps x.chip (x.chip.owner on)).2.2]

theorem rephaseOf_refused (hs : (x.chip.owner on).state = .running)
    (h : (x.chip.owner on).rotation ≤ delta.toNat ∨ (x.chip.owner on).rephase ≠ none ∨ ¬ x.clears on delta.toNat) :
    rephaseOf delta wait x on (x.chip.owner on) = (9, x.chip.asked (x.chip.owner on)) := by
  rw [rephaseOf_running hs, if_pos]
  rwa [Option.isSome_iff_ne_none, ← Bool.not_eq_true, rephaseClear_asked]

theorem rephaseOf_pending (hs : (x.chip.owner on).state = .running) (hd : delta.toNat < (x.chip.owner on).rotation)
    (hr : (x.chip.owner on).rephase = none) (hc : x.clears on delta.toNat) : rephaseOf delta wait x on (x.chip.owner on) =
    (0, ((x.chip.asked (x.chip.owner on)).setOwner on ((x.chip.owner on).rephasing x.chip.gts delta.toNat wait.toNat)).mapStrands on
      (fun st => { st with run := { st.run with arrived := none } })) := by
  rw [rephaseOf_running hs, if_neg]
  rw [Option.isSome_iff_ne_none, ← Bool.not_eq_true, rephaseClear_asked, not_or, not_or, Nat.not_le, not_not, not_not]
  exact ⟨hd, hr, hc⟩

end

theorem beginFreeze_running {ch : Chip} {on g : Nat} (hs : (ch.owner on).state = .running) (hr : (ch.owner on).rephase = none) :
    beginFreeze ch on g = (0, if (ch.owner on).freezeAt.isSome then ch
      else ch.setOwner on { ch.owner on with freezeAt := some g, thawAt := none }) :=
  if_neg (by simp [hs, hr])

theorem beginFreeze_refused {ch : Chip} {on g : Nat} (h : ¬ (ch.owner on).state = .running ∨ (ch.owner on).rephase ≠ none) :
    beginFreeze ch on g = (8, ch) :=
  if_pos (h.imp id fun hr => Option.isSome_iff_ne_none.mpr hr)

theorem firstBeat_le (b l o : Nat) : b ≤ firstBeat b l o := Nat.le_add_right ..

theorem firstBeat_mod {l : Nat} (b o : Nat) (hl : 0 < l) : firstBeat b l o % l = o % l := by
  have hb : b % l < l := Nat.mod_lt b hl
  have hsum : b % l + (o % l + l - b % l) = o % l + l := by omega
  rw [firstBeat, Nat.add_mod, Nat.mod_mod, Nat.add_mod_mod, hsum, Nat.add_mod_right, Nat.mod_mod]

section
variable {ch : Chip} {on ctx b : Nat}

theorem beginThaw_frozen (hs : (ch.owner on).state = .frozen) : beginThaw ch on ctx b =
    if ctx ≠ 0 then (8, ch)
    else (0, if (ch.owner on).thawAt.isSome then ch
      else ch.setOwner on { ch.owner on with thawAt := some (firstBeat (max b ((ch.owner on).freezeAt.getD 0 + 1)) (ch.owner on).rotation
        ((ch.owner on).freezeAt.getD 0 % (ch.owner on).rotation)) }) := by
  simp only [beginThaw, hs]

/-- A frozen owner thaws in the first beat of its rotation's phase after its freeze. -/
theorem beginThaw_frozen_thaws (hs : (ch.owner on).state = .frozen) (hc : ctx = 0) (ht : (ch.owner on).thawAt = none) {g : Nat}
    (hg : (ch.owner on).freezeAt = some g) (hl : 0 < (ch.owner on).rotation) :
    ∃ t, beginThaw ch on ctx b = (0, ch.setOwner on { ch.owner on with thawAt := some t }) ∧ b ≤ t ∧ g < t ∧
      t % (ch.owner on).rotation = g % (ch.owner on).rotation := by
  have hle := firstBeat_le (max b (g + 1)) (ch.owner on).rotation (g % (ch.owner on).rotation)
  refine ⟨firstBeat (max b (g + 1)) (ch.owner on).rotation (g % (ch.owner on).rotation), ?_, by omega, by omega, ?_⟩
  · rw [beginThaw_frozen hs, if_neg (not_not.mpr hc), ht, hg]
    rfl
  · rw [firstBeat_mod _ _ hl, Nat.mod_mod]

theorem beginThaw_other (hs : (ch.owner on).state ≠ .frozen ∧ (ch.owner on).state ≠ .ready) : beginThaw ch on ctx b = (8, ch) := by
  obtain ⟨hf, hr⟩ := hs
  cases h : (ch.owner on).state with
  | frozen => exact absurd h hf
  | ready => exact absurd h hr
  | _ => simp only [beginThaw, h]

variable (hs : (ch.owner on).state = .ready)
include hs

theorem beginThaw_ready_wrong (hc : (ch.owner on).preempt.map (·.ctx) ≠ some ctx) : beginThaw ch on ctx b = (8, ch) := by
  simp only [beginThaw, hs]
  exact if_pos hc

variable (hc : (ch.owner on).preempt.map (·.ctx) = some ctx)
include hc

theorem beginThaw_ready_stands (ht : (ch.owner on).thawAt ≠ none) : beginThaw ch on ctx b = (0, ch) := by
  simp only [beginThaw, hs]
  exact (if_neg (not_not.mpr hc)).trans (if_pos (Option.isSome_iff_ne_none.mpr ht))

/-- A READY owner thaws in the first beat of a rotation that its phases allow, or in none. -/
theorem beginThaw_ready (ht : (ch.owner on).thawAt = none) : beginThaw ch on ctx b = (8, ch) ∨
    ∃ t ps, b ≤ t ∧ beginThaw ch on ctx b =
      (0, ch.setOwner on { ch.owner on with thawAt := some t, hdr := { (ch.owner on).hdr with phases := ps } }) := by
  simp only [beginThaw, hs, hc, ht, Option.isSome_none, ne_eq, not_true, if_false, Bool.false_eq_true]
  split
  · exact .inl rfl
  · exact .inr ⟨_, _, Nat.le_add_right .., rfl⟩

end
end Sys2Proof.Machine
end
section
/-! SUPPORT. The words that name an owner slot (21 R363 to R366). -/

namespace Sys2Proof.Machine

section
variable {s : State} {h : Head} {st : Strand} {xd xa : Reg} {delta : BitVec 4} {wait : BitVec 24} (rd : Ready s h .ct st)
  (hsup : st.place.sup = true) (hp : st.px .ct xa = false) (hon : st.named xa ≠ st.place.owner)
include rd hsup hp hon

theorem splRetire_gives (hv : st.rx .ct xa &&& ~~~7 = 0) : exec (.splRetire h xd xa) s =
    if (s.chip.owner (st.named xa)).state = .halted ∨ (s.chip.owner (st.named xa)).state = .retiring then
      s.tells h st xd (st.named xa) 0 (s.chip.setOwner (st.named xa) { s.chip.owner (st.named xa) with state := .retiring })
    else s.tells h st xd (st.named xa) 8 s.chip := by
  rw [exec_splRetire]
  split <;> rename_i hs
  · exact ownerWord_gives rd hsup rfl hp hv hon (if_pos hs) rd.strand
  · exact ownerWord_gives rd hsup rfl hp hv hon (if_neg hs) rd.strand

theorem splFreeze_gives (hv : st.rx .ct xa &&& ~~~7 = 0) {n : Nat} {ch : Chip}
    (hf : beginFreeze s.chip (st.named xa) ((s.chip.owner (st.named xa)).lead s.chip.gts) = (n, ch))
    (hch : ch.strand? s.chip.cur.core s.chip.cur.slot = some st) : exec (.splFreeze h xd xa) s = s.tells h st xd (st.named xa) n ch :=
  (exec_splFreeze ..).trans (ownerWord_gives rd hsup rfl hp hv hon hf hch)

theorem splRephase_gives (hwf : (Instr.splRephase h xd xa delta wait).WF) (hv : st.rx .ct xa &&& ~~~7 = 0) {n : Nat} {ch : Chip}
    (hf : rephaseOf delta wait (s.ctx st) (st.named xa) (s.chip.owner (st.named xa)) = (n, ch))
    (hch : ch.strand? s.chip.cur.core s.chip.cur.slot = some st) :
    exec (.splRephase h xd xa delta wait) s = s.tells h st xd (st.named xa) n ch :=
  (exec_splRephase ..).trans (ownerWord_gives rd hsup hwf hp hv hon hf hch)

theorem splThaw_gives (hv : st.rx .ct xa &&& ~~~0xFF07 = 0) {n : Nat} {ch : Chip}
    (hf : beginThaw s.chip (st.named xa) ((st.rx .ct xa).extractLsb' 8 8).toNat ((s.chip.owner (st.named xa)).lead s.chip.gts) = (n, ch))
    (hch : ch.strand? s.chip.cur.core s.chip.cur.slot = some st) : exec (.splThaw h xd xa) s = s.tells h st xd (st.named xa) n ch := by
  refine (exec_splThaw ..).trans (ownerWord_gives rd hsup rfl hp hv hon ?_ hch)
  rw [thawOf, rd.ctx_rx, bitsOf_eq_extract]
  exact hf

end

theorem lead_later (o : Owner) (now : Nat) : now < o.lead now := by
  rw [Owner.lead]
  split <;> omega

end Sys2Proof.Machine
end

section
/-! SUPPORT. SPL.ADMIT (21 R358, R359). -/

namespace Sys2Proof.Machine

/-- Each entry of a list that a function accepts throughout has its result at the same place. -/
theorem mapM_ok {α β ε : Type} {f : α → Except ε β} : ∀ {l : List α} {r : List β}, l.mapM f = .ok r →
    ∀ {i : Nat} {a : α}, l[i]? = some a → ∃ b, r[i]? = some b ∧ f a = .ok b
  | [], _, _, i, a, ha => by simp at ha
  | a :: l, r, h, i, x, hx => by
    rw [List.mapM_cons] at h
    cases hf : f a with
    | error e => rw [hf] at h; cases h
    | ok b =>
      cases hl : l.mapM f with
      | error e => rw [hf, hl] at h; cases h
      | ok bs =>
        rw [hf, hl] at h
        cases h
        cases i with
        | zero => cases hx; exact ⟨b, rfl, hf⟩
        | succ i => exact mapM_ok hl hx

/-- A room on a core is in a slot without a strand. -/
theorem roomOn_free {ch : Chip} {hdr : Header} {core : Nat} {room : Nat × Nat × Nat} (h : roomOn ch hdr core = .ok room) :
    ch.strand? core room.1 = none := by
  simp only [roomOn] at h
  split at h
  · cases h
  · next sl hsl =>
    have hfree := List.find?_some hsl
    split at h
    · split at h
      · cases h
        exact Option.isNone_iff_eq_none.mp hfree
      · cases h
    · cases h

theorem rooms_free {ch : Chip} {hdr : Header} {rooms : List (Nat × Nat × Nat)} (h : roomsFor ch hdr = .ok rooms) :
    ∀ e ∈ hdr.cores.zipIdx, ch.strand? e.1 (roomAt rooms e.2).1 = none := by
  intro e he
  obtain ⟨b, hb, hok⟩ := mapM_ok h (List.mem_zipIdx_iff_getElem?.mp he)
  rw [roomAt, List.getD_eq_getElem?_getD, hb]
  exact roomOn_free hok

theorem cleanCore_strands (r : Res) (hdr : Header) (core wbase : Nat) : (cleanCore r hdr core wbase).chip.strands = r.chip.strands := by
  rw [cleanCore]
  dsimp only
  split <;> rfl

/-- Weaving an owner into rooms of a machine leaves every strand it has. -/
theorem weave_strand? {ch : Chip} {on : Nat} {o : Owner} {img : Image} {rooms : List (Nat × Nat × Nat)} {c sl : Nat} {st : Strand}
    (hr : roomsFor ch img.hdr = .ok rooms) (h : ch.strand? c sl = some st) :
    (weave { ch with fresh := ch.fresh + 1 } on o img rooms).chip.strand? c sl = some st := by
  rw [weave]
  refine List.foldlRecOn (motive := fun r : Res => r.chip.strand? c sl = some st) _ _ h fun r hrec e he => ?_
  have hne : skey c sl ≠ skey e.1 (roomAt rooms e.2).1 := by
    intro hk
    have hfree := rooms_free hr e he
    rw [Chip.strand?, ← hk] at hfree
    rw [Chip.strand?, hfree] at h
    cases h
  rw [Chip.strand?_setStrand_ne _ _ hne, Chip.strand?, cleanCore_strands]
  exact hrec

section
variable {ch : Chip} {img : Except Nat Image} {sup : Bool} {part ndev grp : Nat} {pass : Nat → Bool}

/-- The owner that an admission weaves, its phases those found at offset o. -/
def Chip.admitted (ch : Chip) (hdr : Header) (sup : Bool) (part ndev grp on o : Nat) (l : List (Nat × Nat)) : Owner :=
  let copied := ch.gts + 1 + Config.copyBeats ch.fresh
  { Owner.empty with
    state := .admitting, hdr := { hdr with phases := l.map (·.2) }, sup := sup, part := part,
    origin := firstBeat (if ndev = 1 then copied + 1 else copied + 256) hdr.rotation o, ndev := ndev, grp := grp,
    placed := l.map (·.1), resvBeat := some ch.gts, s1root := (ch.owner on).s1root }

theorem admitted_origin_later (hdr : Header) (on o : Nat) (l : List (Nat × Nat)) :
    ch.gts < (ch.admitted hdr sup part ndev grp on o l).origin := by
  refine lt_of_lt_of_le ?_ (firstBeat_le ..)
  split <;> omega

theorem admission_brake (hb : ch.host.brake = true) : admission ch img sup part ndev grp pass = (6, 0, { chip := ch, writes := [] }) :=
  if_pos hb

variable (hb : ch.host.brake = false)
include hb

theorem admission_unbraked : admission ch img sup part ndev grp pass =
    match admitRoom ch img with
    | .error e => (e, 0, { chip := ch, writes := [] })
    | .ok (i, rooms, on) =>
      match searchPhases ch none i.hdr pass with
      | none => (6, 0, { chip := ch, writes := [] })
      | some (o, l) => (0, on, weave { ch with fresh := ch.fresh + 1 } on (ch.admitted i.hdr sup part ndev grp on o l) i rooms) :=
  if_neg (by rw [hb]; exact Bool.false_ne_true)

theorem admission_error {e : Nat} (h : admitRoom ch img = .error e) :
    admission ch img sup part ndev grp pass = (e, 0, { chip := ch, writes := [] }) := by
  rw [admission_unbraked hb, h]

variable {im : Image} {rooms : List (Nat × Nat × Nat)} {on : Nat} (hr : admitRoom ch img = .ok (im, rooms, on))
include hr

theorem admission_noOffset (h : searchPhases ch none im.hdr pass = none) :
    admission ch img sup part ndev grp pass = (6, 0, { chip := ch, writes := [] }) := by
  rw [admission_unbraked hb, hr]
  simp only [h]

theorem admission_woven {o : Nat} {l : List (Nat × Nat)} (h : searchPhases ch none im.hdr pass = some (o, l)) :
    admission ch img sup part ndev grp pass =
      (0, on, weave { ch with fresh := ch.fresh + 1 } on (ch.admitted im.hdr sup part ndev grp on o l) im rooms) := by
  rw [admission_unbraked hb, hr]
  simp only [h]

end

theorem admitRoom_rooms {ch : Chip} {img : Except Nat Image} {im : Image} {rooms : List (Nat × Nat × Nat)} {on : Nat}
    (h : admitRoom ch img = .ok (im, rooms, on)) : roomsFor ch im.hdr = .ok rooms := by
  cases img with
  | error e => cases h
  | ok i =>
    simp only [admitRoom] at h
    cases hr : roomsFor ch i.hdr with
    | error e => simp only [hr] at h; cases h
    | ok rs =>
      simp only [hr] at h
      split at h
      · cases h
      · cases h
        exact hr

/-- The image that an operand heads, as this owner reads it (21 R358 step 1). -/
def Ctx.admitImage (x : Ctx) (v : Word) : Except Nat Image :=
  match imagePtr v with
  | none => .error 1
  | some va => readImage (readVirtual x.mem x.chip x.st.place.owner) (coreInPart x.chip x.owner.part) va none

/-- What an admission is asked with. -/
structure AdmitArgs where
  img : Except Nat Image
  sup : Bool
  ndev : BitVec 7
  grp : BitVec 16
  xd : Reg

section
variable (x : Ctx) (g : AdmitArgs)

/-- The admission is decided on a machine, other devices allowing what `pass` says. -/
def Ctx.admits (ch : Chip) (pass : Nat → Bool) : Effect :=
  let a := admission ch g.img g.sup x.owner.part g.ndev.toNat g.grp.toNat pass
  x.spl a.2.2 g.xd a.1 a.2.1

/-- The beat from which an admission of several devices counts its wait (21 R359). -/
def Ctx.waitingSince : Nat := match x.sq.wait with | .admitWait _ t _ => t | _ => x.chip.gts - Config.firstIssue x.chip.fresh

/-- What an admission of several devices does once it has room here. -/
def Ctx.admitAsks : Effect :=
  let ch1 := { x.chip with fresh := x.chip.fresh + 1 }
  if !x.chip.timed then x.spl { chip := x.chip, writes := [] } g.xd 10 0
  else if Config.peersIssue x.chip.fresh then x.admits g ch1 (Config.peersPass x.chip.fresh)
  else .block none (.admitWait g.grp.toNat x.waitingSince none) ch1

/-- What it does as long as its outcome is not known. -/
def Ctx.admitRest : Effect :=
  match admitRoom x.chip g.img with
  | .error e => x.spl { chip := x.chip, writes := [] } g.xd e 0
  | .ok _ => x.admitAsks g

/-- An admission of several devices. -/
def Ctx.admitMany : Effect :=
  match x.sq.wait with
  | .admitWait _ _ (some st) => x.spl { chip := x.chip, writes := [] } g.xd st 0
  | _ => x.admitRest g

variable {x g}

theorem admitMany_told {a b n : Nat} (h : x.sq.wait = .admitWait a b (some n)) :
    x.admitMany g = x.spl { chip := x.chip, writes := [] } g.xd n 0 := by
  rw [Ctx.admitMany, h]

theorem admitMany_undecided (h : ∀ a b n, x.sq.wait ≠ .admitWait a b (some n)) : x.admitMany g = x.admitRest g := by
  rw [Ctx.admitMany]
  split
  · next heq => exact absurd heq (h _ _ _)
  · rfl

theorem admitRest_error {e : Nat} (h : admitRoom x.chip g.img = .error e) :
    x.admitRest g = x.spl { chip := x.chip, writes := [] } g.xd e 0 := by
  rw [Ctx.admitRest, h]

theorem admitRest_ok {r : Image × List (Nat × Nat × Nat) × Nat} (h : admitRoom x.chip g.img = .ok r) : x.admitRest g = x.admitAsks g := by
  rw [Ctx.admitRest, h]

theorem admitAsks_untimed (h : x.chip.timed = false) : x.admitAsks g = x.spl { chip := x.chip, writes := [] } g.xd 10 0 :=
  if_pos (by rw [h]; rfl)

section
variable (h : x.chip.timed = true)
include h

theorem admitAsks_decided (hi : Config.peersIssue x.chip.fresh = true) :
    x.admitAsks g = x.admits g { x.chip with fresh := x.chip.fresh + 1 } (Config.peersPass x.chip.fresh) :=
  (if_neg (by rw [h]; exact Bool.false_ne_true)).trans (if_pos hi)

theorem admitAsks_waits (hi : Config.peersIssue x.chip.fresh = false) :
    x.admitAsks g = .block none (.admitWait g.grp.toNat x.waitingSince none) { x.chip with fresh := x.chip.fresh + 1 } :=
  (if_neg (by rw [h]; exact Bool.false_ne_true)).trans (if_neg (by rw [hi]; exact Bool.false_ne_true))

end
end

theorem tells_zero (s : State) (h : Head) (st : Strand) (xd : Reg) (n : Nat) (ch : Chip) : s.tells h st xd 0 n ch =
    .next (s.issuedOn h 0xE0 14 (s.chip.remember ch) (st.laterX .ct 1 xd (BitVec.ofNat 64 n))) := by
  rw [State.tells, Nat.zero_mul, Nat.add_zero]

section
variable {s : State} {h : Head} {st : Strand} {xd xa : Reg} {sup : Bool} {ndev : BitVec 7} {grp : BitVec 16} (rd : Ready s h .ct st)
include rd

theorem execSplAdmit_ready (hsup : st.place.sup = true) (hwf : (Instr.splAdmit h xd xa sup ndev grp).WF) (hp : st.px .ct xa = false) :
    exec (.splAdmit h xd xa sup ndev grp) s = s.ends h (supInfo 0xE0 (Instr.wf (.splAdmit h xd xa sup ndev grp))) st
      (if ndev = 1 ∨ s.chip.host.brake = true then
        (s.ctx st).admits ⟨(s.ctx st).admitImage (st.rx .ct xa), sup, ndev, grp, xd⟩ s.chip (fun _ => true)
      else (s.ctx st).admitMany ⟨(s.ctx st).admitImage (st.rx .ct xa), sup, ndev, grp, xd⟩) := by
  refine (show execSplAdmit h xd xa sup ndev grp s = _ from ?_)
  rw [execSplAdmit, issue_ends rd rfl (congrArg not hsup) hwf rfl, rd.ctx_px, rd.ctx_rx, if_neg (by rw [hp]; exact Bool.false_ne_true)]
  refine congrArg (s.ends h _ st) (ite_congr rfl (fun _ => rfl) fun _ => ?_)
  cases hw : (s.ctx st).sq.wait with
  | admitWait a b c =>
    cases c <;> simp only [Ctx.admitMany, Ctx.admitRest, Ctx.admitAsks, Ctx.waitingSince, hw] <;> rfl
  | _ =>
    simp only [Ctx.admitMany, Ctx.admitRest, Ctx.admitAsks, Ctx.waitingSince, hw]
    rfl

variable {i : Info} {ok : Bool} {g : AdmitArgs} {ch : Chip} {pass : Nat → Bool} (hst : ch.strands = s.chip.strands)
include hst

/-- Nothing is woven: the status is told. -/
theorem ends_admits_status {n : Nat}
    (ha : admission ch g.img g.sup (s.chip.owner st.place.owner).part g.ndev.toNat g.grp.toNat pass = (n, 0, { chip := ch, writes := [] })) :
    s.ends h (supInfo 0xE0 ok) st ((s.ctx st).admits g ch pass) =
      .next (s.issuedOn h 0xE0 14 (s.chip.remember ch) (st.laterX .ct 1 g.xd (BitVec.ofNat 64 n))) := by
  have hx : admission ch g.img g.sup (s.ctx st).owner.part g.ndev.toNat g.grp.toNat pass = (n, 0, { chip := ch, writes := [] }) := ha
  have hch : ch.strand? s.chip.cur.core s.chip.cur.slot = some st := by rw [Chip.strand?, hst]; exact rd.strand
  rw [Ctx.admits, hx, ends_spl_tells rd hch, tells_zero]

/-- The owner is woven, and its slot told. -/
theorem ends_admits_woven {im : Image} {rooms : List (Nat × Nat × Nat)} {on : Nat} {own : Owner} (hr : admitRoom ch g.img = .ok (im, rooms, on))
    (ha : admission ch g.img g.sup (s.chip.owner st.place.owner).part g.ndev.toNat g.grp.toNat pass =
      (0, on, weave { ch with fresh := ch.fresh + 1 } on own im rooms)) :
    s.ends h (supInfo 0xE0 ok) st ((s.ctx st).admits g ch pass) =
      .next (s.issuedRes h 0xE0 14 { weave { ch with fresh := ch.fresh + 1 } on own im rooms with
        chip := (s.chip.remember (weave { ch with fresh := ch.fresh + 1 } on own im rooms).chip).setStrand s.chip.cur.core s.chip.cur.slot
          (st.laterX .ct 1 g.xd (BitVec.ofNat 64 (on * 2 ^ 8))) }) := by
  have hx : admission ch g.img g.sup (s.ctx st).owner.part g.ndev.toNat g.grp.toNat pass =
    (0, on, weave { ch with fresh := ch.fresh + 1 } on own im rooms) := ha
  have hch : ch.strand? s.chip.cur.core s.chip.cur.slot = some st := by rw [Chip.strand?, hst]; exact rd.strand
  rw [Ctx.admits, hx, ends_spl rd (weave_strand? (admitRoom_rooms hr) hch), Nat.zero_add]
  rfl

end
end Sys2Proof.Machine
end
section
/-! SUPPORT. The words of the Splicer (21 R358 to R366). -/

namespace Sys2Proof.Proofs
open Sys2Proof.Machine

/-- Settles O39: each word that names an owner slot tells what its operation gives (`ownerWord_gives`), and SPL.ADMIT weaves into
slots without a strand, so that the word's own strand stays to be told (`weave_strand?`). -/
theorem splicerWords : Obligations.SplicerWords := by
  refine ⟨fun s h st xd xa delta wait rd => ?_, fun s h st xd xa sup ndev grp rd hsup hwf hp => ?_⟩
  · intro v on o gts words res asked clear free
    refine ⟨fun i m him => ?_,
      fun hsup hp hon => ⟨fun hv => ⟨?_, ?_, ?_, ?_, ?_, fun hwf => ⟨?_, ?_, ?_⟩⟩, fun hv => ⟨?_, ?_, ?_, ?_, ?_, ?_, ?_⟩⟩⟩
    · obtain ⟨ok, f, he, hok⟩ := ownerWords_exec s h xd xa delta wait him
      exact ⟨fun hsup => he.trans (ownerWord_denied rd hsup), fun hsup hwf hp => he.trans (ownerWord_poisoned rd hsup (hok hwf) hp),
        fun hsup hwf hp hv => he.trans (ownerWord_refused rd hsup (hok hwf) hp hv)⟩
    · exact fun hs => (splRetire_gives rd hsup hp hon hv).trans (if_pos hs)
    · exact fun h1 h2 => (splRetire_gives rd hsup hp hon hv).trans (if_neg (not_or.mpr ⟨h1, h2⟩))
    · intro hs hr hf
      exact splFreeze_gives rd hsup hp hon hv ((beginFreeze_running hs hr).trans
        (congrArg (Prod.mk 0) (if_pos (Option.isSome_iff_ne_none.mpr hf)))) rd.strand
    · intro hs hr hf
      exact splFreeze_gives rd hsup hp hon hv ((beginFreeze_running hs hr).trans
        (congrArg (Prod.mk 0) (if_neg (by rw [Option.isSome_iff_ne_none, not_not]; exact hf)))) rd.strand
    · exact fun hr => splFreeze_gives rd hsup hp hon hv (beginFreeze_refused hr) rd.strand
    · exact fun hs => splRephase_gives rd hsup hp hon hwf hv (rephaseOf_halted hs) ((asked_strand? ..).trans rd.strand)
    · exact fun hs hr => splRephase_gives rd hsup hp hon hwf hv (rephaseOf_refused hs hr) ((asked_strand? ..).trans rd.strand)
    · intro hs hd hr hc
      refine ⟨_, splRephase_gives rd hsup hp hon hwf hv (rephaseOf_pending hs hd hr hc)
        (mapStrands_strand? ((asked_strand? ..).trans rd.strand) (Ne.symm hon)), ?_, fun n hn => ?_⟩
      · exact (Chip.owner_setOwner ..).trans (rephasing_eq ..)
      · rw [mapStrands_owner]
        exact (Chip.owner_setOwner_ne _ _ hn).trans (asked_owner ..)
    · exact fun hs hc => splThaw_gives rd hsup hp hon hv ((beginThaw_frozen hs).trans
        (if_pos fun h0 => hc (BitVec.eq_of_toNat_eq h0))) rd.strand
    · intro hs hc ht
      exact splThaw_gives rd hsup hp hon hv ((beginThaw_frozen hs).trans ((if_neg (not_not.mpr (congrArg BitVec.toNat hc))).trans
        (congrArg (Prod.mk 0) (if_pos (Option.isSome_iff_ne_none.mpr ht))))) rd.strand
    · intro g hs ht hc hg hl
      obtain ⟨t, he, hle, hlt, hmod⟩ := beginThaw_frozen_thaws (b := o.lead gts) hs (congrArg BitVec.toNat hc) ht hg hl
      exact ⟨t, splThaw_gives rd hsup hp hon hv he rd.strand, hle, hlt, hmod⟩
    · exact fun hs hc => splThaw_gives rd hsup hp hon hv (beginThaw_ready_wrong hs hc) rd.strand
    · exact fun hs hc ht => splThaw_gives rd hsup hp hon hv (beginThaw_ready_stands hs hc ht) rd.strand
    · intro hs ht hc
      rcases beginThaw_ready (b := o.lead gts) hs hc ht with he | ⟨t, ps, hle, he⟩
      · exact .inl (splThaw_gives rd hsup hp hon hv he rd.strand)
      · exact .inr ⟨t, ps, (lead_later o gts).trans_le hle, splThaw_gives rd hsup hp hon hv he rd.strand⟩
    · exact fun hs => splThaw_gives rd hsup hp hon hv (beginThaw_other hs) rd.strand
  · intro me img i told wovenOn fresh1
    let g : AdmitArgs := ⟨(s.ctx st).admitImage (st.rx .ct xa), sup, ndev, grp, xd⟩
    have he : exec i s = _ := execSplAdmit_ready rd hsup hwf hp
    have hwoven {ch : Chip} {pass : Nat → Bool} (hd : exec i s = s.ends h (supInfo 0xE0 (Instr.wf i)) st ((s.ctx st).admits g ch pass))
        (hst : ch.strands = s.chip.strands) (hgts : ch.gts = s.chip.gts) (hb : ch.host.brake = false) : wovenOn ch pass := by
      intro im rooms on hr
      refine ⟨fun hno => hd.trans (ends_admits_status rd hst (admission_noOffset hb hr hno)), fun o l hol => ?_⟩
      have hfound := admission_woven (sup := sup) (part := me.part) (ndev := ndev.toNat) (grp := grp.toNat) hb hr hol
      exact ⟨ch.admitted im.hdr sup me.part ndev.toNat grp.toNat on o l, rfl, rfl, congrArg some hgts, rfl, rfl, rfl, rfl, rfl,
        fun hl => firstBeat_mod _ _ hl, hgts ▸ admitted_origin_later .., hd.trans (ends_admits_woven rd hst hr hfound)⟩
    have hone (h1 : ndev = 1 ∨ s.chip.host.brake = true) := he.trans (congrArg (s.ends h _ st) (if_pos h1))
    have hmany (hb : s.chip.host.brake = false) (h1 : ndev ≠ 1) :=
      he.trans (congrArg (s.ends h _ st) (if_neg (not_or.mpr ⟨h1, by rw [hb]; exact Bool.false_ne_true⟩)))
    refine ⟨fun hb => ?_, fun hb h1 => ⟨fun e hr => ?_, ?_⟩, ?_⟩
    · exact (hone (.inr hb)).trans (ends_admits_status rd rfl (admission_brake hb))
    · exact (hone (.inl h1)).trans (ends_admits_status rd rfl (admission_error hb hr))
    · exact hwoven (hone (.inl h1)) rfl rfl hb
    · intro since
      have hsq : (s.ctx st).sq.wait = st.ct.wait := congrArg Seq.wait rd.ctx_sq
      have htells {n : Nat} (hd : exec i s = s.ends h (supInfo 0xE0 (Instr.wf i)) st
          ((s.ctx st).spl { chip := s.chip, writes := [] } xd n 0)) : told s.chip n :=
        hd.trans ((ends_spl_tells rd rd.strand n 0).trans (tells_zero ..))
      refine ⟨fun hb h1 hw => ?_, fun a t n hb h1 hw => ?_⟩
      · have hrest := (hmany hb h1).trans (congrArg (s.ends h _ st) (admitMany_undecided (g := g) fun a t n => hsq ▸ hw a t n))
        refine ⟨fun e hr => ?_, fun r hr => ?_⟩
        · exact htells (hrest.trans (congrArg (s.ends h _ st) (admitRest_error hr)))
        · have hasks := hrest.trans (congrArg (s.ends h _ st) (admitRest_ok hr))
          refine ⟨fun ht => ?_, fun ht hi => ?_, fun ht hi => ?_⟩
          · exact htells (hasks.trans (congrArg (s.ends h _ st) (admitAsks_untimed ht)))
          · exact hwoven (hasks.trans (congrArg (s.ends h _ st) (admitAsks_decided ht hi))) rfl rfl hb
          · refine hasks.trans ((congrArg (s.ends h _ st) (admitAsks_waits ht hi)).trans ?_)
            rw [Ctx.waitingSince, hsq]
            rfl
      · exact htells ((hmany hb h1).trans (congrArg (s.ends h _ st) (admitMany_told (hsq.trans hw))))

end Sys2Proof.Proofs
end

section
/-! SUPPORT. CTX.SAVE, CTX.LOAD and CTX.KILL (08 R198, R199). -/

namespace Sys2Proof.Machine

/-- A strand with a CTX word's result on its way: the status to xd and CTXSTAT. -/
def Strand.ctxLater (st : Strand) (xd : Reg) (n ctx : Nat) : Strand :=
  st.later .ct 1 [.x .ct (st.regNo .ct xd) (BitVec.ofNat 64 n) none false, .csr 0x1801 (BitVec.ofNat 64 (n + ctx * 2 ^ 8))]

/-- The context number that a CTX word names. -/
def Strand.namedCtx (st : Strand) (xa : Reg) : Nat := ((st.rx .ct xa).extractLsb' 8 8).toNat

/-- The outcome of a CTX word that leaves memory. -/
def State.tellsCtx (s : State) (h : Head) (me : Strand) (xd : Reg) (ctx n : Nat) (ch : Chip) : Outcome :=
  .next (s.issuedOn h 0xE8 14 (s.chip.remember ch) (me.ctxLater xd n ctx))

theorem retire_owners (m : Memory) (ch : Chip) (c sl : Nat) (q : SeqId) (h : Head) (i : Info) (f : Flow) (w : HeadWait) :
    (retire m ch c sl q h i f w).owners = ch.owners := by
  rw [retire]
  split <;> rfl

theorem remember_owners (old new : Chip) : (old.remember new).owners = new.owners := by
  rw [Chip.remember]
  split <;> rfl

section
variable {s : State} {h : Head} {st : Strand} {xd xa : Reg} {ok : Bool}

theorem ends_ctx (rd : Ready s h .ct st) {ch : Chip} {me : Strand} (hch : ch.strand? s.chip.cur.core s.chip.cur.slot = some me) (n ctx : Nat) :
    s.ends h (supInfo 0xE8 ok) st ((s.ctx st).ctx { chip := ch, writes := [] } xd n ctx false) = s.tellsCtx h me xd ctx n ch := by
  have hx : ((s.ctx st).chip.remember ch).strand? (s.ctx st).core (s.ctx st).slot = some me := (remember_strand? ..).trans hch
  rw [Ctx.ctx, hx, rd.ctx_q, if_neg Bool.false_ne_true, Nat.add_zero]
  rfl

/-- Whatever a CTX word does, it issues, writes what its operation writes, and leaves the owners as its operation does. -/
theorem ends_ctx_some {i : Info} {r : Res} {n ctx : Nat} {done : Bool} : ∃ t, s.ends h i st ((s.ctx st).ctx r xd n ctx done) = .next t ∧
    t.mem = writeAll s.mem r.writes ∧ t.chip.owners = r.chip.owners := by
  rw [Ctx.ctx]
  split
  · exact ⟨_, rfl, rfl, (retire_owners ..).trans (remember_owners ..)⟩
  · exact ⟨_, rfl, rfl, (retire_owners ..).trans (remember_owners ..)⟩

variable {mask : Word} {f : Ctx → Nat → Nat → Nat × Bool × Res} (rd : Ready s h .ct st)
include rd

theorem ctxWord_denied (hsup : st.place.sup = false) : ctxWord s h ok xd xa mask f = .next (s.trapped st .priv (noAddr .priv) 0) :=
  issue_denied rd rfl (congrArg not hsup)

variable (hsup : st.place.sup = true) (hok : ok = true)
include hsup hok

theorem ctxWord_ready : ctxWord s h ok xd xa mask f =
    if st.px .ct xa then .next (s.trapped st .poisonConsumed (st.rx .ct xa) 0)
    else if st.rx .ct xa &&& ~~~mask ≠ 0 then s.tellsCtx h st xd (st.namedCtx xa) 7 s.chip
    else
      let r := f (s.ctx st) (st.named xa) (st.namedCtx xa)
      s.ends h (supInfo 0xE8 ok) st ((s.ctx st).ctx r.2.2 xd r.1 (st.namedCtx xa) r.2.1) := by
  rw [ctxWord, issue_ends rd rfl (congrArg not hsup) hok rfl, rd.ctx_px, rd.ctx_rx, State.ends_ite, State.ends_ite,
    ← ends_ctx (ok := ok) rd rd.strand, bitsOf_eq_extract, bitsOf_eq_extract]
  rfl

theorem ctxWord_poisoned (hp : st.px .ct xa = true) :
    ctxWord s h ok xd xa mask f = .next (s.trapped st .poisonConsumed (st.rx .ct xa) 0) :=
  (ctxWord_ready rd hsup hok).trans (if_pos hp)

variable (hp : st.px .ct xa = false)
include hp

theorem ctxWord_refused (hv : st.rx .ct xa &&& ~~~mask ≠ 0) : ctxWord s h ok xd xa mask f = s.tellsCtx h st xd (st.namedCtx xa) 7 s.chip := by
  rw [ctxWord_ready rd hsup hok, if_neg (by rw [hp]; exact Bool.false_ne_true), if_pos hv]

variable (hv : st.rx .ct xa &&& ~~~mask = 0)
include hv

theorem ctxWord_does : ctxWord s h ok xd xa mask f =
    let r := f (s.ctx st) (st.named xa) (st.namedCtx xa)
    s.ends h (supInfo 0xE8 ok) st ((s.ctx st).ctx r.2.2 xd r.1 (st.namedCtx xa) r.2.1) := by
  rw [ctxWord_ready rd hsup hok, if_neg (by rw [hp]; exact Bool.false_ne_true), if_neg (not_not.mpr hv)]

/-- A CTX word that leaves memory tells what its operation gives. -/
theorem ctxWord_gives {n : Nat} {ch : Chip} {me : Strand}
    (hf : f (s.ctx st) (st.named xa) (st.namedCtx xa) = (n, false, { chip := ch, writes := [] }))
    (hch : ch.strand? s.chip.cur.core s.chip.cur.slot = some me) :
    ctxWord s h ok xd xa mask f = s.tellsCtx h me xd (st.namedCtx xa) n ch := by
  rw [ctxWord_does rd hsup hok hp hv, hf]
  exact ends_ctx rd hch ..

end

/-! ### What the words do -/

/-- The strand that asks, by its owner and index. -/
def Ctx.asker (x : Ctx) : Option (Nat × Nat) := some (x.st.place.owner, x.st.place.index)

/-- A CTX word that changes nothing but its status. -/
def Ctx.refusesCtx (x : Ctx) (n : Nat) : Nat × Bool × Res := (n, false, { chip := x.chip, writes := [] })

def Ctx.ctxSaves (x : Ctx) (prept : Bool) (on ctx : Nat) : Nat × Bool × Res :=
  match (x.chip.owner on).state, (x.chip.owner on).preempt with
  | .empty, _ => x.refusesCtx 1
  | .saveHeld, some p =>
    if p.ctx ≠ ctx then x.refusesCtx 2
    else (0, false, { chip := nextUnit x.chip on { x.chip.owner on with state := .save } { p with issuer := x.asker } p.unit, writes := [] })
  | _, _ =>
    if !(x.chip.owner on).canPreempt then x.refusesCtx 2
    else if x.chip.ctxBusy on ctx then x.refusesCtx 2
    else if x.chip.ctxUsed ctx then x.refusesCtx 3
    else if bitsOf (x.chip.part (x.chip.owner on).part).savebase 12 36 = 0 then x.refusesCtx 4
    else (0, false, { chip := requestPreempt x.chip on ctx (if prept then bitsOf x.st.csr.preptWait 0 21 else 0) x.asker, writes := [] })

def Ctx.ctxLoads (x : Ctx) (on ctx : Nat) : Nat × Bool × Res :=
  match (x.chip.owner on).state, (x.chip.owner on).preempt with
  | .loadHeld, some p =>
    if p.ctx ≠ ctx then x.refusesCtx 2
    else (0, false, { chip := nextUnit x.chip on { x.chip.owner on with state := .load } { p with issuer := x.asker } p.unit, writes := [] })
  | .saved, _ =>
    if x.chip.ctxBusy on ctx then x.refusesCtx 2 else
    (match x.chip.saved.get? ctx with
     | none => x.refusesCtx 3
     | some v =>
       if v.owner ≠ on then x.refusesCtx 3
       else if bitsOf (x.chip.part (x.chip.owner on).part).savebase 12 36 = 0 then x.refusesCtx 4
       else
         match roomsFor x.chip (x.chip.owner on).hdr, searchPhases x.chip (some on) (x.chip.owner on).hdr (fun _ => true) with
         | .ok rooms, some (_, l) => (0, false, startLoad x.chip on ctx v rooms (l.map (·.1)) x.asker)
         | _, _ => x.refusesCtx 5)
  | .window, _ | .collect, _ | .save, _ | .saveHeld, _ | .load, _ | .ready, _ => x.refusesCtx 2
  | _, _ => x.refusesCtx 1

def Ctx.ctxKills (x : Ctx) (on _ctx : Nat) : Nat × Bool × Res :=
  if on = x.st.place.owner then x.refusesCtx 7
  else if (x.chip.owner on).state = .empty then x.refusesCtx 1
  else (0, true, killOwner x.mem { chip := x.chip, writes := [] } on)

section
variable (s : State) (h : Head) (xd xa : Reg) (prept : Bool)

theorem exec_ctxSave : exec (.ctxSave h xd xa prept) s = ctxWord s h true xd xa 0xFF07 (fun x => x.ctxSaves prept) :=
  show execCtxSave h xd xa prept s = _ from rfl

theorem exec_ctxLoad : exec (.ctxLoad h xd xa) s = ctxWord s h true xd xa 0xFF07 Ctx.ctxLoads :=
  show execCtxLoad h xd xa s = _ from rfl

theorem exec_ctxKill : exec (.ctxKill h xd xa) s = ctxWord s h true xd xa 7 Ctx.ctxKills :=
  show execCtxKill h xd xa s = _ from rfl

/-- The three CTX words, with the bits of xa each reads. -/
theorem ctxWords_exec {i : Instr} {m : Word} (hi : (i, m) ∈ [(Instr.ctxSave h xd xa prept, (0xFF07 : Word)), (.ctxLoad h xd xa, 0xFF07),
    (.ctxKill h xd xa, 7)]) : ∃ f, exec i s = ctxWord s h true xd xa m f := by
  simp only [List.mem_cons, List.not_mem_nil, or_false, Prod.mk.injEq] at hi
  rcases hi with ⟨rfl, rfl⟩ | ⟨rfl, rfl⟩ | ⟨rfl, rfl⟩
  · exact ⟨_, exec_ctxSave ..⟩
  · exact ⟨_, exec_ctxLoad ..⟩
  · exact ⟨_, exec_ctxKill ..⟩

end

section
variable {x : Ctx} {prept : Bool} {on ctx : Nat}

theorem ctxSaves_empty (hs : (x.chip.owner on).state = .empty) : x.ctxSaves prept on ctx = x.refusesCtx 1 := by
  rw [Ctx.ctxSaves, hs]

theorem ctxSaves_held {p : Preempt} (hs : (x.chip.owner on).state = .saveHeld) (hp : (x.chip.owner on).preempt = some p) :
    x.ctxSaves prept on ctx = if p.ctx ≠ ctx then x.refusesCtx 2
      else (0, false, { chip := nextUnit x.chip on { x.chip.owner on with state := .save } { p with issuer := x.asker } p.unit, writes := [] }) := by
  rw [Ctx.ctxSaves, hs, hp]

theorem ctxSaves_other (he : (x.chip.owner on).state ≠ .empty) (hh : (x.chip.owner on).state ≠ .saveHeld) : x.ctxSaves prept on ctx =
    if !(x.chip.owner on).canPreempt then x.refusesCtx 2
    else if x.chip.ctxBusy on ctx then x.refusesCtx 2
    else if x.chip.ctxUsed ctx then x.refusesCtx 3
    else if bitsOf (x.chip.part (x.chip.owner on).part).savebase 12 36 = 0 then x.refusesCtx 4
    else (0, false, { chip := requestPreempt x.chip on ctx (if prept then bitsOf x.st.csr.preptWait 0 21 else 0) x.asker, writes := [] }) := by
  rw [Ctx.ctxSaves]
  split
  · next h => exact absurd h he
  · next h _ => exact absurd h hh
  · rfl

/-- An owner that can be pre-empted is neither empty nor held in a save. -/
theorem states_of_canPreempt {o : Owner} (h : o.canPreempt = true) : o.state ≠ .empty ∧ o.state ≠ .saveHeld := by
  constructor <;> intro hs <;> simp [Owner.canPreempt, hs] at h

/-- A context number that is not in use is no operation's either. -/
theorem ctxBusy_of_not_used {ch : Chip} (h : ch.ctxUsed ctx = false) : ch.ctxBusy on ctx = false := by
  rw [Chip.ctxUsed, Bool.or_eq_false_iff] at h
  obtain ⟨-, h⟩ := h
  rw [List.any_eq_false] at h
  rw [Chip.ctxBusy, List.any_eq_false]
  intro e he hb
  simp only [Bool.and_eq_true] at hb
  exact h e he hb.1.2

theorem ctxLoads_held {p : Preempt} (hs : (x.chip.owner on).state = .loadHeld) (hp : (x.chip.owner on).preempt = some p) :
    x.ctxLoads on ctx = if p.ctx ≠ ctx then x.refusesCtx 2
      else (0, false, { chip := nextUnit x.chip on { x.chip.owner on with state := .load } { p with issuer := x.asker } p.unit, writes := [] }) := by
  rw [Ctx.ctxLoads, hs, hp]

/-- An owner whose window, save or load is under way, or that is ready, is not loaded. -/
theorem ctxLoads_busy (hs : (x.chip.owner on).state = .window ∨ (x.chip.owner on).state = .collect ∨ (x.chip.owner on).state = .save ∨
    (x.chip.owner on).state = .saveHeld ∨ (x.chip.owner on).state = .load ∨ (x.chip.owner on).state = .ready) :
    x.ctxLoads on ctx = x.refusesCtx 2 := by
  rcases hs with hs | hs | hs | hs | hs | hs <;> rw [Ctx.ctxLoads, hs]

/-- An owner that was not saved is not loaded. -/
theorem ctxLoads_unsaved (hs : (x.chip.owner on).state = .empty ∨ (x.chip.owner on).state = .running ∨ (x.chip.owner on).state = .frozen ∨
    (x.chip.owner on).state = .halted) : x.ctxLoads on ctx = x.refusesCtx 1 := by
  rcases hs with hs | hs | hs | hs <;> rw [Ctx.ctxLoads, hs]

section
variable (hs : (x.chip.owner on).state = .saved)
include hs

theorem ctxLoads_saved_busy (hb : x.chip.ctxBusy on ctx = true) : x.ctxLoads on ctx = x.refusesCtx 2 := by
  rw [Ctx.ctxLoads, hs]
  exact if_pos hb

variable (hb : x.chip.ctxBusy on ctx = false)
include hb

theorem ctxLoads_noRecord (hr : ∀ r, x.chip.saved.get? ctx = some r → r.owner ≠ on) : x.ctxLoads on ctx = x.refusesCtx 3 := by
  rw [Ctx.ctxLoads, hs]
  refine (if_neg (by rw [hb]; exact Bool.false_ne_true)).trans ?_
  cases hg : x.chip.saved.get? ctx with
  | none => rfl
  | some v => exact if_pos (hr v hg)

variable {r : Saved} (hr : x.chip.saved.get? ctx = some r) (hown : r.owner = on)
include hr hown

theorem ctxLoads_record : x.ctxLoads on ctx =
    if bitsOf (x.chip.part (x.chip.owner on).part).savebase 12 36 = 0 then x.refusesCtx 4
    else
      match roomsFor x.chip (x.chip.owner on).hdr, searchPhases x.chip (some on) (x.chip.owner on).hdr (fun _ => true) with
      | .ok rooms, some (_, l) => (0, false, startLoad x.chip on ctx r rooms (l.map (·.1)) x.asker)
      | _, _ => x.refusesCtx 5 := by
  rw [Ctx.ctxLoads, hs, hr]
  exact (if_neg (by rw [hb]; exact Bool.false_ne_true)).trans (if_neg (not_not.mpr hown))

theorem ctxLoads_noBase (h0 : bitsOf (x.chip.part (x.chip.owner on).part).savebase 12 36 = 0) : x.ctxLoads on ctx = x.refusesCtx 4 :=
  (ctxLoads_record hs hb hr hown).trans (if_pos h0)

variable (h0 : bitsOf (x.chip.part (x.chip.owner on).part).savebase 12 36 ≠ 0)
include h0

theorem ctxLoads_noRoom (hno : (∃ e, roomsFor x.chip (x.chip.owner on).hdr = .error e) ∨
    searchPhases x.chip (some on) (x.chip.owner on).hdr (fun _ => true) = none) : x.ctxLoads on ctx = x.refusesCtx 5 := by
  rw [ctxLoads_record hs hb hr hown, if_neg h0]
  split
  · next rooms f l hro hse =>
    rcases hno with ⟨e, he⟩ | hn
    · rw [he] at hro; cases hro
    · rw [hn] at hse; cases hse
  · rfl

theorem ctxLoads_starts {rooms : List (Nat × Nat × Nat)} {f : Nat} {l : List (Nat × Nat)} (hro : roomsFor x.chip (x.chip.owner on).hdr = .ok rooms)
    (hse : searchPhases x.chip (some on) (x.chip.owner on).hdr (fun _ => true) = some (f, l)) :
    x.ctxLoads on ctx = (0, false, startLoad x.chip on ctx r rooms (l.map (·.1)) x.asker) := by
  rw [ctxLoads_record hs hb hr hown, if_neg h0, hro, hse]

end

/-- A killed owner's slot is empty. -/
theorem killOwner_state (m : Memory) (r : Res) (on : Nat) (h : (r.chip.owner on).state ≠ .empty) :
    ((killOwner m r on).chip.owner on).state = .empty := by
  rw [killOwner, if_neg h]
  exact congrArg Owner.state (Tab.getD_set_self ..)

/-- A change of an owner's strands that leaves their places, and every other strand. -/
theorem mapStrands_others {ch : Chip} {c sl : Nat} {st : Strand} {f : Strand → Strand} (hf : ∀ st, (f st).place = st.place)
    (h : ch.strand? c sl = some st) :
    ∃ me, (ch.mapStrands on f).strand? c sl = some me ∧ me.place = st.place ∧ (on ≠ st.place.owner → me = st) := by
  rw [mapStrands_strand?_eq, h]
  refine ⟨_, rfl, ?_, fun hne => if_neg (Ne.symm hne)⟩
  dsimp only
  split
  · exact hf st
  · rfl

theorem abandonRephase_others {ch : Chip} {c sl : Nat} {st : Strand} (h : ch.strand? c sl = some st) :
    ∃ me, (abandonRephase ch on).strand? c sl = some me ∧ me.place = st.place ∧ (on ≠ st.place.owner → me = st) := by
  rw [abandonRephase]
  dsimp only
  split
  · exact ⟨st, h, rfl, fun _ => rfl⟩
  · split
    · exact ⟨st, h, rfl, fun _ => rfl⟩
    · exact mapStrands_others (fun _ => rfl) h

/-- A request for a pre-emption leaves the strands of other owners. -/
theorem requestPreempt_others {ch : Chip} {c sl : Nat} {st : Strand} (h : ch.strand? c sl = some st) (wait : Nat)
    (issuer : Option (Nat × Nat)) :
    ∃ me, (requestPreempt ch on ctx wait issuer).strand? c sl = some me ∧ (on ≠ st.place.owner → me = st) := by
  obtain ⟨me, hme, hpl, hsame⟩ := abandonRephase_others (on := on) h
  obtain ⟨me', hme', -, hsame'⟩ := mapStrands_others (on := on)
    (f := fun st => { st with run := { st.run with preptMask := none } }) (fun _ => rfl) hme
  exact ⟨me', hme', fun hne => (hsame' (hpl ▸ hne)).trans (hsame hne)⟩

end

section
variable {s : State} {h : Head} {st : Strand} {xd xa : Reg} {prept : Bool} (rd : Ready s h .ct st) (hsup : st.place.sup = true)
  (hp : st.px .ct xa = false)
include rd hsup hp

theorem ctxSave_gives (hv : st.rx .ct xa &&& ~~~0xFF07 = 0) {n : Nat} {ch : Chip} {me : Strand}
    (hf : (s.ctx st).ctxSaves prept (st.named xa) (st.namedCtx xa) = (n, false, { chip := ch, writes := [] }))
    (hch : ch.strand? s.chip.cur.core s.chip.cur.slot = some me) :
    exec (.ctxSave h xd xa prept) s = s.tellsCtx h me xd (st.namedCtx xa) n ch :=
  (exec_ctxSave ..).trans (ctxWord_gives rd hsup rfl hp hv hf hch)

theorem ctxLoad_gives (hv : st.rx .ct xa &&& ~~~0xFF07 = 0) {n : Nat} {ch : Chip} {me : Strand}
    (hf : (s.ctx st).ctxLoads (st.named xa) (st.namedCtx xa) = (n, false, { chip := ch, writes := [] }))
    (hch : ch.strand? s.chip.cur.core s.chip.cur.slot = some me) :
    exec (.ctxLoad h xd xa) s = s.tellsCtx h me xd (st.namedCtx xa) n ch :=
  (exec_ctxLoad ..).trans (ctxWord_gives rd hsup rfl hp hv hf hch)

theorem ctxLoad_starts (hv : st.rx .ct xa &&& ~~~0xFF07 = 0) {r : Res}
    (hf : (s.ctx st).ctxLoads (st.named xa) (st.namedCtx xa) = (0, false, r)) :
    ∃ t, exec (.ctxLoad h xd xa) s = .next t ∧ t.mem = writeAll s.mem r.writes := by
  have he := (exec_ctxLoad s h xd xa).trans (ctxWord_does rd hsup rfl hp hv)
  rw [hf] at he
  obtain ⟨t, ht, hm, -⟩ := ends_ctx_some (s := s) (h := h) (st := st) (xd := xd) (i := supInfo 0xE8 true) (r := r) (n := 0)
    (ctx := st.namedCtx xa) (done := false)
  exact ⟨t, he.trans ht, hm⟩

theorem ctxKill_refuses (hv : st.rx .ct xa &&& ~~~7 = 0) {n : Nat}
    (hf : (s.ctx st).ctxKills (st.named xa) (st.namedCtx xa) = (s.ctx st).refusesCtx n) :
    exec (.ctxKill h xd xa) s = s.tellsCtx h st xd (st.namedCtx xa) n s.chip :=
  (exec_ctxKill ..).trans (ctxWord_gives rd hsup rfl hp hv hf rd.strand)

theorem ctxKill_kills (hv : st.rx .ct xa &&& ~~~7 = 0) (hon : st.named xa ≠ st.place.owner) (hs : (s.chip.owner (st.named xa)).state ≠ .empty) :
    ∃ t, exec (.ctxKill h xd xa) s = .next t ∧ (t.chip.owner (st.named xa)).state = .empty ∧
      t.mem = writeAll s.mem (killOwner s.mem ⟨s.chip, []⟩ (st.named xa)).writes := by
  have he := (exec_ctxKill s h xd xa).trans (ctxWord_does rd hsup rfl hp hv)
  have hk : (s.ctx st).ctxKills (st.named xa) (st.namedCtx xa) = (0, true, killOwner s.mem ⟨s.chip, []⟩ (st.named xa)) :=
    (if_neg hon).trans (if_neg hs)
  rw [hk] at he
  obtain ⟨t, ht, hm, ho⟩ := ends_ctx_some (s := s) (h := h) (st := st) (xd := xd) (i := supInfo 0xE8 true)
    (r := killOwner s.mem ⟨s.chip, []⟩ (st.named xa)) (n := 0) (ctx := st.namedCtx xa) (done := true)
  refine ⟨t, he.trans ht, ?_, hm⟩
  rw [Chip.owner, ho]
  exact killOwner_state s.mem ⟨s.chip, []⟩ _ hs

end
end Sys2Proof.Machine
end
section
/-! SUPPORT. KEY.ROLL and YIELD (08 R200; 07 R175). -/

namespace Sys2Proof.Machine

section
variable {s : State} {h : Head} {st : Strand} {xd : Reg} {slot : BitVec 8} (rd : Ready s h .ct st)
include rd

theorem execYield_ready : execYield h s =
    if (!st.run.h) = true then .next (s.issuedAs h 0xD5 14 s.chip .next .none)
    else
      let r := requestAny s.chip st.place.owner (bitsOf st.csr.preptWait 0 21)
      if (!r.2) = true then .next (s.issuedAs h 0xD5 14 s.chip .next .none)
      else .next (s.issuedAs h 0xD5 14 (r.1.onStrand s.chip.cur.core s.chip.cur.slot
        (fun st => { st with run := { st.run with hstall := some { kind := .longService, bs := s.chip.gts + 1, cleared := none } } }))
        .next .none) := by
  rw [execYield, issue_ends rd rfl rfl rfl rfl, State.ends_ite, State.ends_nothing]
  dsimp only
  rw [State.ends_ite, State.ends_nothing]
  rfl

variable (hsup : st.place.sup = true)
include hsup

/-- KEY.ROLL anew. -/
theorem execKeyRoll_begins (hw : ∀ k e, st.ct.wait ≠ .keyRoll k e) : execKeyRoll h xd slot s =
    if (!Config.keySlotPresent slot.toNat) = true then .next (s.issuedWith h 0xE9 14 (st.laterX .ct 1 xd (BitVec.ofNat 64 8)))
    else if keyBound s.chip slot.toNat then .next (s.issuedWith h 0xE9 14 (st.laterX .ct 1 xd (BitVec.ofNat 64 9)))
    else .next (s.blockedAt none (.keyRoll slot.toNat (s.chip.gts + 64)) s.chip) := by
  have hsq : (s.ctx st).sq.wait = st.ct.wait := congrArg Seq.wait rd.ctx_sq
  rw [execKeyRoll, issue_ends rd rfl (congrArg not hsup) rfl rfl, hsq]
  split
  · next hk => exact absurd hk (hw _ _)
  · rw [State.ends_ite, State.ends_ite, State.ends_writeX, State.ends_writeX, rd.seq]
    rfl

/-- KEY.ROLL under way. -/
theorem execKeyRoll_rolls {k e : Nat} (hw : st.ct.wait = .keyRoll k e) : execKeyRoll h xd slot s =
    if e = 0 then .next (s.issuedWith h 0xE9 14 (st.laterX .ct 1 xd (BitVec.ofNat 64 0)))
    else .next (s.blockedAt none (.keyRoll k e) s.chip) := by
  have hsq : (s.ctx st).sq.wait = .keyRoll k e := (congrArg Seq.wait rd.ctx_sq).trans hw
  rw [execKeyRoll, issue_ends rd rfl (congrArg not hsup) rfl rfl, hsq]
  dsimp only
  rw [State.ends_ite, State.ends_writeX, rd.seq]
  rfl

end

theorem requestAny_made {ch : Chip} {on wait c : Nat} (hc : ch.freeCtx = some c) (hp : (ch.owner on).canPreempt = true)
    (hb : bitsOf (ch.part (ch.owner on).part).savebase 12 36 ≠ 0) : requestAny ch on wait = (requestPreempt ch on c wait none, true) := by
  simp only [requestAny, hc]
  exact if_pos (by rw [hp, Bool.true_and, bne_iff_ne]; exact hb)

theorem requestAny_refused {ch : Chip} {on wait : Nat} (h : ch.freeCtx = none ∨ (ch.owner on).canPreempt = false ∨
    bitsOf (ch.part (ch.owner on).part).savebase 12 36 = 0) : requestAny ch on wait = (ch, false) := by
  simp only [requestAny]
  split
  · next c hc =>
    refine if_neg fun hb => ?_
    rw [Bool.and_eq_true, bne_iff_ne] at hb
    rcases h with h | h | h
    · rw [hc] at h; cases h
    · rw [hb.1] at h; cases h
    · exact hb.2 h
  · rfl

end Sys2Proof.Machine
end

section
/-! SUPPORT. The words of the context engine (08 R198 to R200). -/

namespace Sys2Proof.Proofs
open Sys2Proof.Machine

/-- Settles O41: each CTX word tells what its operation gives (`ctxWord_gives`); a pre-emption leaves the strands of other owners
(`requestPreempt_others`), and a kill ends with the owner's slot free (`killOwner_state`). -/
theorem contextWords : Obligations.ContextWords := by
  intro s h st xd xa prept slot rd v on ctx o base words lands no makes issuer busy other window rolls
  have hbase : ∀ o : Owner, bitsOf (s.chip.part o.part).savebase 12 36 ≠ 0 ↔ base o := fun o => by rw [bitsOf_eq_extract]
  have hmakes {i : Instr} {ch : Chip} (hi : ∀ {me}, ch.strand? s.chip.cur.core s.chip.cur.slot = some me →
      exec i s = s.tellsCtx h me xd ctx 0 ch)
      (hch : ∃ me, ch.strand? s.chip.cur.core s.chip.cur.slot = some me ∧ (on ≠ st.place.owner → me = st)) : makes i ch := by
    obtain ⟨me, hme, hsame⟩ := hch
    exact ⟨me, hme, hsame, hi hme⟩
  refine ⟨fun i m him => ?_, fun hsup hp hv => ⟨?_, ?_, ?_, ?_, ?_, ?_, ?_, ?_, ?_⟩, fun hsup hp hv => ⟨?_, ?_, ?_⟩, ?_, ?_, ?_, ?_⟩
  · obtain ⟨f, he⟩ := ctxWords_exec s h xd xa prept him
    exact ⟨fun hsup => he.trans (ctxWord_denied rd hsup), fun hsup hp => he.trans (ctxWord_poisoned rd hsup rfl hp),
        fun hsup hp hv => he.trans (ctxWord_refused rd hsup rfl hp hv)⟩
  · exact fun hs => ctxSave_gives rd hsup hp hv (ctxSaves_empty hs) rd.strand
  · intro he hh hc
    exact ctxSave_gives rd hsup hp hv ((ctxSaves_other he hh).trans (if_pos (congrArg not hc))) rd.strand
  · intro hc
    obtain ⟨he, hh⟩ := states_of_canPreempt hc
    have hsave := (ctxSaves_other (x := s.ctx st) (prept := prept) (ctx := ctx) he hh).trans
      (if_neg (show ¬ (!o.canPreempt) = true by rw [hc]; exact Bool.false_ne_true))
    refine ⟨fun hb => ?_, fun hb hu => ?_, fun hu h0 => ?_, fun hu h0 => ?_⟩
    · exact ctxSave_gives rd hsup hp hv (hsave.trans (if_pos hb)) rd.strand
    · exact ctxSave_gives rd hsup hp hv (hsave.trans ((if_neg (ne_true_of_eq_false hb)).trans (if_pos hu))) rd.strand
    · exact ctxSave_gives rd hsup hp hv (hsave.trans ((if_neg (ne_true_of_eq_false (ctxBusy_of_not_used hu))).trans
        ((if_neg (ne_true_of_eq_false hu)).trans (if_pos (not_not.mp fun hb => h0 ((hbase o).mp hb)))))) rd.strand
    · have hreq := hsave.trans ((if_neg (ne_true_of_eq_false (ctxBusy_of_not_used hu))).trans
        ((if_neg (ne_true_of_eq_false hu)).trans (if_neg ((hbase o).mpr h0))))
      rw [bitsOf_eq_extract] at hreq
      exact hmakes (fun hch => ctxSave_gives rd hsup hp hv hreq hch) (requestPreempt_others rd.strand _ _)
  · intro p hpre
    refine ⟨fun hs hc => ?_, fun hs hc => ?_, fun hs hc => ?_, fun hs hc => ?_⟩
    · exact ctxSave_gives rd hsup hp hv ((ctxSaves_held hs hpre).trans (if_pos hc)) rd.strand
    · exact ⟨st, rd.strand, fun _ => rfl,
        ctxSave_gives rd hsup hp hv ((ctxSaves_held hs hpre).trans (if_neg (not_not.mpr hc))) rd.strand⟩
    · exact ctxLoad_gives rd hsup hp hv ((ctxLoads_held hs hpre).trans (if_pos hc)) rd.strand
    · exact ⟨st, rd.strand, fun _ => rfl,
        ctxLoad_gives rd hsup hp hv ((ctxLoads_held hs hpre).trans (if_neg (not_not.mpr hc))) rd.strand⟩
  · exact fun hs => ctxLoad_gives rd hsup hp hv (ctxLoads_busy hs) rd.strand
  · exact fun hs => ctxLoad_gives rd hsup hp hv (ctxLoads_unsaved hs) rd.strand
  · exact fun hs hb => ctxLoad_gives rd hsup hp hv (ctxLoads_saved_busy hs hb) rd.strand
  · exact fun hs hb hr => ctxLoad_gives rd hsup hp hv (ctxLoads_noRecord hs hb hr) rd.strand
  · intro r hs hb hr hown
    refine ⟨fun h0 => ?_, fun h0 hno => ?_, fun rooms f l h0 hro hse => ?_⟩
    · exact ctxLoad_gives rd hsup hp hv (ctxLoads_noBase hs hb hr hown (not_not.mp fun hne => h0 ((hbase o).mp hne))) rd.strand
    · exact ctxLoad_gives rd hsup hp hv (ctxLoads_noRoom hs hb hr hown ((hbase o).mpr h0) hno) rd.strand
    · exact ctxLoad_starts rd hsup hp hv (ctxLoads_starts hs hb hr hown ((hbase o).mpr h0) hro hse)
  · exact fun hon => ctxKill_refuses rd hsup hp hv (if_pos hon)
  · exact fun hon hs => ctxKill_refuses rd hsup hp hv ((if_neg hon).trans (if_pos hs))
  · exact fun hon hs => ctxKill_kills rd hsup hp hv hon hs
  · intro hsup hw
    have he : exec (.keyRoll h xd slot) s = _ := execKeyRoll_begins rd hsup hw
    refine ⟨fun hk => ?_, fun hk hb => ?_, fun hk hb => ?_⟩
    · exact he.trans (if_pos (congrArg not hk))
    · exact he.trans ((if_neg (show ¬ (!_) = true by rw [hk]; exact Bool.false_ne_true)).trans (if_pos hb))
    · exact he.trans ((if_neg (show ¬ (!_) = true by rw [hk]; exact Bool.false_ne_true)).trans (if_neg (ne_true_of_eq_false hb)))
  · intro k e hsup hw
    have he : exec (.keyRoll h xd slot) s = _ := execKeyRoll_rolls rd hsup hw
    exact ⟨fun h0 => he.trans (if_pos h0), fun h0 => he.trans (if_neg h0)⟩
  · intro hno
    have he : exec (.yield h) s = _ := execYield_ready rd
    by_cases hh : st.run.h = true
    · refine he.trans ((if_neg (show ¬ (!st.run.h) = true by rw [hh]; exact Bool.false_ne_true)).trans ?_)
      have hno' : s.chip.freeCtx = none ∨ other.canPreempt = false ∨ bitsOf (s.chip.part other.part).savebase 12 36 = 0 := by
        rcases hno with hf | hc | hpre | hb
        · rw [hh] at hf; cases hf
        · exact .inl hc
        · exact .inr (.inl hpre)
        · exact .inr (.inr (not_not.mp fun hne => hb ((hbase other).mp hne)))
      dsimp only
      rw [requestAny_refused hno']
      rfl
    · exact he.trans (if_pos (congrArg not (eq_false_of_ne_true hh)))
  · intro c hh hc hpre hb
    have he : exec (.yield h) s = _ := execYield_ready rd
    refine he.trans ((if_neg (show ¬ (!st.run.h) = true by rw [hh]; exact Bool.false_ne_true)).trans ?_)
    dsimp only
    rw [requestAny_made hc hpre ((hbase other).mpr hb), bitsOf_eq_extract]
    rfl

end Sys2Proof.Proofs
end

section
/-! SUPPORT. What happens to a strand (02 R38; 08 R179 to R181, R188; 15 R326). -/

namespace Sys2Proof.Machine

/-- The state after a pending trap was taken. -/
def State.takes (s : State) (r : Res) : State := s.commit { r with chip := { r.chip with verdict := .trapped } }

/-- The strand's second cause, taken under DOUBLE_TRAP (08 R185). -/
def State.takesSecond (s : State) (core slot : Nat) (st : Strand) : State := s.keep
  { doubleTrap s.chip core slot { st with run := { st.run with htrap := none } } (causeCode (st.run.htrap.getD .swTrap)) with
    verdict := .trapped }

section
variable {s : State} {core slot : Nat} {st : Strand} (hs : s.chip.strand? core slot = some st)
include hs

theorem execTrapEntry_ready : execTrapEntry core slot s =
    if st.run.h && st.run.htrap.isSome then .next (s.takesSecond core slot st)
    else if !s.chip.slotRuns st || st.traps.isEmpty then .next s
    else .next (s.takes (trapEntry s.mem s.chip core slot st)) := by
  rw [execTrapEntry, hs]
  rfl

theorem execTrapEntry_second (h : st.run.h = true ∧ st.run.htrap ≠ none) : execTrapEntry core slot s = .next (s.takesSecond core slot st) :=
  (execTrapEntry_ready hs).trans (if_pos (by rw [h.1, Option.isSome_iff_ne_none.mpr h.2]; rfl))

theorem execTrapEntry_first (h : ¬ (st.run.h = true ∧ st.run.htrap ≠ none)) : execTrapEntry core slot s =
    if !s.chip.slotRuns st || st.traps.isEmpty then .next s else .next (s.takes (trapEntry s.mem s.chip core slot st)) :=
  (execTrapEntry_ready hs).trans (if_neg (by rwa [Bool.and_eq_true, Option.isSome_iff_ne_none]))

theorem execTrapEntry_idle (h : ¬ (st.run.h = true ∧ st.run.htrap ≠ none)) (hno : s.chip.slotRuns st = false ∨ st.traps = []) :
    execTrapEntry core slot s = .next s :=
  (execTrapEntry_first hs h).trans (if_pos (by rcases hno with h | h <;> simp [h]))

theorem execTrapEntry_takes {t : PTrap} {l : List PTrap} (h : ¬ (st.run.h = true ∧ st.run.htrap ≠ none)) (hr : s.chip.slotRuns st = true)
    (ht : st.traps = t :: l) : execTrapEntry core slot s = .next (s.takes (trapEntry s.mem s.chip core slot st)) :=
  (execTrapEntry_first hs h).trans (if_neg (by simp [hr, ht]))

end

section
variable {m : Memory} {ch : Chip} {core slot : Nat} {st : Strand} {t : PTrap} {l : List PTrap} (ht : st.traps = t :: l)
include ht

theorem trapEntry_plain (hsw : t.cause ≠ .swTrap) (hcu : t.cause ≠ .containmentUnwind) :
    trapEntry m ch core slot st = ⟨takeTrap m (ch.setStrand core slot { st with traps := l }) core slot t, []⟩ := by
  simp only [trapEntry, ht, if_neg hsw, if_neg hcu]

/-- The trap of a TRAP word names the slot in which it is taken. -/
theorem trapEntry_sw (hsw : t.cause = .swTrap) :
    trapEntry m ch core slot st = ⟨takeTrap m (ch.setStrand core slot { st with traps := l }) core slot
      { t with sec := (st.whereNow t.q).1, slot := (st.whereNow t.q).2 }, []⟩ := by
  simp only [trapEntry, ht, if_pos hsw, hsw, reduceCtorEq, if_false]
  rfl

theorem trapEntry_unwinds (hcu : t.cause = .containmentUnwind) :
    trapEntry m ch core slot st = unwind m ch core slot { st with traps := l } (t.tval.extractLsb' 0 3).toNat t := by
  have hsw : t.cause ≠ .swTrap := by rw [hcu]; exact fun h => by cases h
  rw [trapEntry, ht]
  simp only [if_neg hsw, if_pos hcu, bitsOf_eq_extract]

end

/-- A strand whose replay stall begins (15 R326). -/
def Strand.replayed (st : Strand) (m : Memory) (ch : Chip) (core : Nat) : Strand :=
  let at_ (q : SeqId) : Seq := (st.seq q).toPoint m core st.place (st.replay.points.getD (seqNum q) none)
  let st := { st with ct := at_ .ct, ld := at_ .ld, cp := at_ .cp, st := at_ .st }.emptied
  { st with
    replay := { st.replay with count := (st.replay.count + 1) % 16, asked := false, noRecord := allSeqs },
    csr := { st.csr with ttsyn := 0, ttmask := 0, ttInject := st.csr.ttInject &&& ~~~ (BitVec.twoPow 64 63) },
    run := { st.run with stall := some { kind := .replay, bs := ch.gts, cleared := some (ch.gts + 1) } } }

theorem replayStart_eq (m : Memory) (ch : Chip) (core slot : Nat) (st : Strand) :
    replayStart m ch core slot st = ch.setStrand core slot (st.replayed m ch core) := rfl

theorem replayed_seq (m : Memory) (ch : Chip) (core : Nat) (st : Strand) (q : SeqId) : (st.replayed m ch core).seq q =
    { (st.seq q).toPoint m core st.place (st.replay.points.getD (seqNum q) none) with loops := [] } := by cases q <;> rfl

/-- A nest without a shadow to come, or beside a live one, stays. -/
theorem nestSettle_idle {ch : Chip} {st : Strand} (h : ch.runs st = false ∨ st.sh.nest.pendingShadow = false ∨ st.sh.nest.live.isSome = true) :
    (if ch.runs st then { st with sh := { st.sh with nest := st.sh.nest.settle } } else st) = st := by
  rcases h with h | h | h
  · exact if_neg (ne_true_of_eq_false h)
  · rw [Nest.settle, h]
    exact ite_self st
  · have hn : st.sh.nest.settle = st.sh.nest := if_neg (by simp [Option.isSome_iff_ne_none.mp h])
    rw [hn]
    exact ite_self st

/-- Whether one of a strand's two stalls ends in the present beat. -/
def Stall.isOver (k : Option Stall) (b l : Nat) : Bool := match k with | some k => k.endsAt b l | none => false

/-- What is left of a strand's stall once it has ended: with a handler running, the trap's own. -/
def Run.afterStall (r : Run) : Option Stall :=
  match r.stall with
  | some k => if r.h then some { kind := .trap, bs := k.bs, cleared := none } else none
  | none => none

theorem endsAt_of {k : Stall} {c n b l : Nat} (hc : k.cleared = some c) (hle : c ≤ b) (hn : 0 < n) (hb : b = k.bs + n * l) (hl : 0 < l) :
    k.endsAt b l = true := by
  have hpos : 0 < n * l := Nat.mul_pos hn hl
  have hmod : (b - k.bs) % l = 0 := by rw [hb, Nat.add_sub_cancel_left, Nat.mul_mod_left]
  simp [Stall.endsAt, hc, hmod, hle]
  omega

theorem not_endsAt {k : Stall} {b l : Nat} (h : k.cleared = none ∨ (∃ c, k.cleared = some c ∧ b < c) ∨ b ≤ k.bs ∨ (b - k.bs) % l ≠ 0) :
    k.endsAt b l = false := by
  rw [Stall.endsAt]
  rcases h with h | ⟨c, h, hlt⟩ | h | h
  · rw [h]
  · rw [h]
    simp [Nat.not_le.mpr hlt]
  · cases k.cleared <;> simp [Nat.not_lt.mpr h]
  · cases k.cleared <;> simp [h]

section
variable {s : State} {core slot : Nat} {st : Strand} (hs : s.chip.strand? core slot = some st)
include hs

theorem execStallEnd_idle (h : (s.chip.owner st.place.owner).live = false ∨ (s.chip.owner st.place.owner).frozenAt s.chip.gts = true) :
    execStallEnd core slot s = .next s := by
  rw [execStallEnd, hs]
  exact if_pos (by rcases h with h | h <;> simp [h])

theorem execStallEnd_ends (hl : (s.chip.owner st.place.owner).live = true) (hf : (s.chip.owner st.place.owner).frozenAt s.chip.gts = false) :
    execStallEnd core slot s =
      let over_ (k : Option Stall) : Bool := Stall.isOver k s.chip.gts (s.chip.owner st.place.owner).rotation
      .next (s.keep (s.chip.setStrand core slot
        { st with run := { st.run with stall := if over_ st.run.stall then st.run.afterStall else st.run.stall
                                       hstall := if over_ st.run.hstall then none else st.run.hstall } })) := by
  rw [execStallEnd, hs]
  exact if_neg (by simp [hl, hf])

theorem execStallEnd_clears {k : Stall} (hl : (s.chip.owner st.place.owner).live = true)
    (hf : (s.chip.owner st.place.owner).frozenAt s.chip.gts = false) (hh : st.run.h = false) (hhs : st.run.hstall = none)
    (hk : st.run.stall = some k) (hends : k.endsAt s.chip.gts (s.chip.owner st.place.owner).rotation = true) :
    execStallEnd core slot s = .next (s.keep (s.chip.setStrand core slot { st with run := { st.run with stall := none } })) := by
  rw [execStallEnd_ends hs hl hf]
  simp only [hk, hhs, Stall.isOver, Run.afterStall, hends, hh, if_true, Bool.false_eq_true, if_false]

theorem execStallEnd_lasts {k : Stall} (hl : (s.chip.owner st.place.owner).live = true)
    (hf : (s.chip.owner st.place.owner).frozenAt s.chip.gts = false) (hhs : st.run.hstall = none)
    (hk : st.run.stall = some k) (hends : k.endsAt s.chip.gts (s.chip.owner st.place.owner).rotation = false) :
    execStallEnd core slot s = .next (s.keep (s.chip.setStrand core slot st)) := by
  rw [execStallEnd_ends hs hl hf]
  simp only [Stall.isOver, hk, hhs, hends, Bool.false_eq_true, if_false]
  rw [← hk, ← hhs]

theorem execReplayStall_idle (h : s.chip.slotRuns st = false ∨ st.replay.asked = false) : execReplayStall core slot s = .next s := by
  rw [execReplayStall, hs]
  exact if_pos (by rcases h with h | h <;> simp [h])

theorem execReplayStall_starts (hr : s.chip.slotRuns st = true) (ha : st.replay.asked = true) :
    execReplayStall core slot s = .next (s.keep { replayStart s.mem s.chip core slot st with verdict := .stalled }) := by
  rw [execReplayStall, hs]
  exact if_neg (by simp [hr, ha])

theorem execContainmentUnwind_takes {n c : Nat} (hr : s.chip.slotRuns st = true) (hn : ∃ r, r ∈ st.regions ∧ r.num = n) (hc : c < 128) :
    execContainmentUnwind core slot n c s = .next (s.takes (unwind s.mem s.chip core slot st n (st.mkTrap .ct .containmentUnwind
      (noAddr .containmentUnwind) (BitVec.ofNat 64
        (n + c * 2 ^ 8 + (if decide ((st.regions.map (·.num)).head? ≠ some n) then 2 ^ 16 else 0)))))) := by
  have hno : ¬ (!s.chip.slotRuns st || st.regions.all (fun r => r.num != n)) = true := by
    obtain ⟨r, hr', hrn⟩ := hn
    rw [hr, Bool.not_true, Bool.false_or, List.all_eq_true]
    exact fun hall => by simpa [hrn] using hall r hr'
  have hinner : (match st.regions with | r :: _ => r.num != n | [] => false) = decide ((st.regions.map (·.num)).head? ≠ some n) := by
    cases hreg : st.regions with
    | nil => obtain ⟨r, hr', -⟩ := hn; rw [hreg] at hr'; cases hr'
    | cons r t => simp [bne, Bool.beq_eq_decide_eq]
  rw [execContainmentUnwind, hs]
  refine (if_neg hno).trans ?_
  rw [Nat.mod_eq_of_lt hc, ← hinner]
  rfl

/-- The shadow of a nest becomes live in a beat in which the strand runs. -/
theorem execNestShadowLive_sets : execNestShadowLive core slot s = .next (s.keep (s.chip.setStrand core slot
    (if s.chip.runs st then { st with sh := { st.sh with nest := st.sh.nest.settle } } else st))) := by
  rw [execNestShadowLive, Chip.onStrand, hs]

theorem execMwaitTimeout_at {h : Head} {xd : Reg} {t : Nat} (hd : decode (wordAt s.mem core st.place st.ct.pc.toNat) = some (.mwait h xd))
    (hw : st.ct.wait = .mwait t) : execMwaitTimeout core slot s =
      if t + Config.mwaitLimit ≤ (if st.run.h then st.run.hclk else st.run.tau) then
        execMwait h xd (s.keep { s.chip with cur := ⟨core, slot, .ct⟩ })
      else .next s := by
  rw [execMwaitTimeout, hs]
  simp only [hd, hw]

theorem execKeyRollBlockEnd_at {k e : Nat} (hw : st.ct.wait = .keyRoll k e) (he : e ≠ 0) (hsv : st.run.saved = none) :
    execKeyRollBlockEnd core slot s = if e ≤ s.chip.gts then
      .next (s.keep ((s.chip.setStrand core slot { st with ct := { st.ct with wait := .keyRoll k 0 } }).newKey k)) else .next s := by
  rw [execKeyRollBlockEnd, hs]
  by_cases hle : e ≤ s.chip.gts <;> simp [hw, hsv, he, hle]

end
end Sys2Proof.Machine
end

section
/-! SUPPORT. What happens to a strand (02 R38; 08 R179 to R181, R188; 15 R326). -/

namespace Sys2Proof.Proofs
open Sys2Proof.Machine

/-- Settles O43: each event by its guard and its effect. -/
theorem strandEvents : Obligations.StrandEvents := by
  intro s core slot st hs ch o set same taken entry drop second
  refine ⟨?_, ?_, ?_, ?_, ?_, ?_, ?_, ?_, ?_, ?_, ?_, ?_, ?_, ?_, ?_, ?_⟩
  · exact fun h hno => execTrapEntry_idle hs h hno
  · exact fun h => execTrapEntry_second hs h
  · exact fun t l h hr ht hsw hcu => (execTrapEntry_takes hs h hr ht).trans (by rw [trapEntry_plain ht hsw hcu]; rfl)
  · exact fun t l h hr ht hsw => (execTrapEntry_takes hs h hr ht).trans (by rw [trapEntry_sw ht hsw]; rfl)
  · exact fun t l h hr ht hcu => (execTrapEntry_takes hs h hr ht).trans (by rw [trapEntry_unwinds ht hcu]; rfl)
  · exact fun h => execStallEnd_idle hs h
  · intro k c n hl hf hh hhs hk hc hle hn hgts hrot
    exact execStallEnd_clears hs hl hf hh hhs hk (endsAt_of hc hle hn hgts hrot)
  · exact fun k hl hf hhs hk hno => execStallEnd_lasts hs hl hf hhs hk (not_endsAt hno)
  · exact fun h => execReplayStall_idle hs h
  · intro hr ha
    refine ⟨execReplayStall_starts hs hr ha, st.replayed s.mem ch core, Chip.strand?_setStrand .., rfl, rfl, rfl, rfl, rfl, rfl, rfl, rfl,
      rfl, rfl, fun q p hq => ?_⟩
    rw [replayed_seq, hq]
    exact ⟨rfl, rfl, rfl⟩
  · exact fun n c hr hn hc => execContainmentUnwind_takes hs hr hn hc
  · rfl
  · intro hr hp hl
    refine (execNestShadowLive_sets hs).trans ?_
    rw [if_pos hr, Nest.settle, hp, hl]
    rfl
  · intro hno
    refine (execNestShadowLive_sets hs).trans ?_
    rw [nestSettle_idle hno]
  · intro h xd t hd hw
    have he : exec (.mwaitTimeout core slot) s = _ := execMwaitTimeout_at hs hd hw
    exact ⟨fun hle => he.trans (if_pos hle), fun hlt => he.trans (if_neg (Nat.not_le.mpr hlt))⟩
  · intro k e hw he hsv
    have hx : exec (.keyRollBlockEnd core slot) s = _ := execKeyRollBlockEnd_at hs hw he hsv
    exact ⟨fun hle => hx.trans (if_pos hle), fun hlt => hx.trans (if_neg (Nat.not_le.mpr hlt))⟩

end Sys2Proof.Proofs
end

section
/-! SUPPORT. Planned steps of work and deliveries (02 R36; 23 R377 to R379). -/

namespace Sys2Proof.Machine

section
variable {s : State} {w : Nat} {k : Work} {mine : Instr → Bool}

/-- Work with a step of its plan gone. -/
def Work.without (k : Work) (n : Nat) : Work := { k with steps := k.steps.eraseIdx n }

theorem workEvent_none (h : s.chip.work? w = none) : workEvent w mine s = .next s := by
  rw [workEvent, h]

theorem workEvent_idle (h : s.chip.work? w = some k) (hn : s.chip.nextStep w k = none) : workEvent w mine s = .next s := by
  simp only [workEvent, h, hn]

theorem workEvent_step {n : Nat} {p : PStep} (h : s.chip.work? w = some k) (hn : s.chip.nextStep w k = some (n, p)) : workEvent w mine s =
    if !mine (eventOf w k p.act) then .next s
    else .next (s.commit (runAct s.mem (s.chip.setWork w (k.without n)) w (k.without n) p (s.chip.workClock k))) := by
  simp only [workEvent, h, hn]
  rfl

/-- The events that are planned steps of one piece of work. -/
def workSteps (w : Nat) : List Instr :=
  [.meshFlitStep w, .linkFlitStep (.own w), .copySectorLands w, .secldLands w, .chanReadCommand w, .chanWriteCommand w,
    .portResponse w, .collRequestArrives (.own w), .collChunkLands w]

theorem exec_workSteps {i : Instr} (hi : i ∈ workSteps w) : exec i s = workEvent w (· == i) s := by
  simp only [workSteps, List.mem_cons, List.not_mem_nil, or_false] at hi
  rcases hi with rfl | rfl | rfl | rfl | rfl | rfl | rfl | rfl | rfl <;> rfl

theorem execChanReadDelivery_at {n m : Nat} {p : PStep} {e u : Bool} (h : s.chip.work? w = some k) (hn : s.chip.nextStep w k = some (n, p))
    (hp : p.act = .delivered m) : execChanReadDelivery w e u s =
      if e && !u then .next (s.commit (sectorError s.mem ⟨(s.chip.setWork w
        { k with steps := k.steps.set n { p with at_ := s.chip.workClock k + 1 + Config.retryBeats s.chip.fresh } }).freshen, []⟩
          (k.sectorAddr m) true false))
      else .next (s.commit (sectorError s.mem ⟨s.chip.setWork w
        (((k.without n).followed p (s.chip.workClock k) 0).poisonRead m u), []⟩ (k.sectorAddr m) false u)) := by
  simp only [execChanReadDelivery, h, hn, Option.filter_some, hp, if_true]
  rfl

theorem execChanReadDelivery_none {e u : Bool} (h : s.chip.work? w = none) : execChanReadDelivery w e u s = .next s := by
  rw [execChanReadDelivery, h]

theorem drains_none (h : s.chip.work? w = none) : execMdrainDrain w s = .next s ∧ execWstcDrain w s = .next s := by
  rw [execMdrainDrain, execWstcDrain, h]
  exact ⟨rfl, rfl⟩

end

/-! ### Compares and drains -/

/-- A strand as it was, but for its traps, its CSRs and its replay. -/
def Strand.ComparedFrom (u st : Strand) : Prop := u = { st with traps := u.traps, csr := u.csr, replay := u.replay }

theorem Strand.comparedFrom_of (st : Strand) (ts : List PTrap) (c : Csrs) (rp : Replay) :
    ComparedFrom { st with traps := ts, csr := c, replay := rp } st := rfl

theorem compareTile_comparedFrom (st : Strand) (t : CTile) (c : Nat) (trap : Cause → Word → PTrap) :
    (compareTile st t c trap).2.ComparedFrom st := by
  rw [compareTile]
  dsimp only
  generalize st.csr.syndrome c (compareMask st.csr t) = k
  split
  · rfl
  · dsimp only
    split
    · rfl
    · split
      · rfl
      · split <;> rfl
    · rfl

theorem Strand.ComparedFrom.exists {u st : Strand} (h : u.ComparedFrom st) :
    ∃ ts c rp, u = { st with traps := ts, csr := c, replay := rp } := ⟨_, _, _, h⟩

theorem compareUnder_comparedFrom (st : Strand) (look : Option Strand) (t : CTile) (c : Nat) (trap : Cause → Word → PTrap) :
    (compareUnder st look t c trap).2.ComparedFrom st := by
  obtain ⟨ts, k, rp, hu⟩ := (compareTile_comparedFrom { st with csr := { st.csr with
    ttctl := ((look.map (·.csr)).getD st.csr).ttctl, ttTol8 := ((look.map (·.csr)).getD st.csr).ttTol8
    ttTol16 := ((look.map (·.csr)).getD st.csr).ttTol16, ttTolC4 := ((look.map (·.csr)).getD st.csr).ttTolC4 } } t c trap).exists
  simp only [compareUnder, hu]
  exact Strand.comparedFrom_of ..

section
variable {s : State} {w : Nat} {k : Work} {st : Strand} (hk : s.chip.work? w = some k) (hs : s.chip.strand? k.core k.slot = some st)
include hk hs

section
variable {c dst q : Nat} {nochk : Bool} (hkind : k.kind = .mdrain c dst q nochk)
include hkind

theorem execMdrainDrain_idle (hd : drainNow s.chip st k = false) : execMdrainDrain w s = .next s := by
  simp only [execMdrainDrain, hk, hs, hkind, hd, Bool.not_false, if_true]

variable (hd : drainNow s.chip st k = true)
include hd

theorem execMdrainDrain_bad (hb : s.chip.sramBadAt (tileAddr k.core c + 1024 * q) 1024 = true ∨
    nochk = false ∧ s.chip.sramBadAt (tileAddr k.core c) 4096 = true) : execMdrainDrain w s =
      .next (s.keep (finishWork (consume s.chip { k with faddr := noAddr .sramUncorrected } .sramUncorrected) w k (.error .sramUncorrected))) := by
  have hb' : (s.chip.sramBadAt (tileAddr k.core c + 1024 * q) 1024 || (!nochk && s.chip.sramBadAt (tileAddr k.core c) 4096)) = true := by
    rcases hb with h | ⟨h, h'⟩
    · rw [h, Bool.true_or]
    · rw [h, h', Bool.not_false, Bool.and_self, Bool.or_true]
  simp only [execMdrainDrain, hk, hs, hkind, hd, hb', Bool.not_true, Bool.false_eq_true, if_true, if_false]

theorem execMdrainDrain_good (hb : ¬ (s.chip.sramBadAt (tileAddr k.core c + 1024 * q) 1024 = true ∨
    nochk = false ∧ s.chip.sramBadAt (tileAddr k.core c) 4096 = true)) : ∃ u : Strand, u.ComparedFrom st ∧ (nochk = true → u = st) ∧
      execMdrainDrain w s = .next (s.keep ((s.chip.setStrand k.core k.slot (u.dueDrain k
        (regLands dst ((writeAll s.mem (lookAhead s.mem s.chip k.core k.slot).writes).readBytes (tileAddr k.core c + 1024 * q) 1024)
          (List.replicate 16 false) ++ [.workDone w]))).setWork w { k with total := 2 })) := by
  have hb' : (s.chip.sramBadAt (tileAddr k.core c + 1024 * q) 1024 || (!nochk && s.chip.sramBadAt (tileAddr k.core c) 4096)) = false := by
    rw [Bool.or_eq_false_iff, ← Bool.not_eq_true, ← Bool.not_eq_true, Bool.and_eq_true, Bool.not_eq_true']
    exact not_or.mp hb
  simp only [execMdrainDrain, hk, hs, hkind, hd, hb', Bool.not_true, Bool.false_eq_true, if_false]
  cases nochk
  · exact ⟨_, compareUnder_comparedFrom .., fun h => absurd h Bool.false_ne_true, rfl⟩
  · exact ⟨st, rfl, fun _ => rfl, rfl⟩

end

section
variable {ln c : Nat} {h : Handle} {o : List Nat} {ty : Ty} {rnd : Rnd} {ovf : Ovf} {nochk : Bool} {frm : BitVec 3}
  (hkind : k.kind = .wstc ln c h o ty rnd ovf nochk frm)
include hkind

theorem execWstcDrain_idle (hd : drainNow s.chip st k = false) : execWstcDrain w s = .next s := by
  simp only [execWstcDrain, hk, hs, hkind, hd, Bool.not_false, if_true]

variable (hd : drainNow s.chip st k = true)
include hd

theorem execWstcDrain_bad (hb : s.chip.sramBadAt (tileAddr k.core c) 4096 = true) : ∃ ch : Chip,
    execWstcDrain w s = .next (s.keep (ch.setWork w { k with total := 2 })) := by
  simp only [execWstcDrain, hk, hs, hkind, hd, hb, Bool.not_true, Bool.false_eq_true, if_true, if_false]
  exact ⟨_, rfl⟩

theorem execWstcDrain_good (hb : ¬ s.chip.sramBadAt (tileAddr k.core c) 4096 = true) : ∃ (u : Strand) (f : BitVec 6) (ok : Bool)
    (bs : List (Option Nat × Byte)), u.ComparedFrom st ∧ (nochk = true → u = st ∧ ok = true) ∧ (ok = false → bs = []) ∧
      execWstcDrain w s = .next (s.keep ((s.chip.setStrand k.core k.slot
        (u.dueDrain k [.flags f, .laneFill ln ok bs, .workDone w])).setWork w { k with total := 2 })) := by
  simp only [execWstcDrain, hk, hs, hkind, hd, Bool.not_true, Bool.false_eq_true, if_false, hb]
  cases nochk
  · exact ⟨_, _, _, _, compareUnder_comparedFrom .., fun h => absurd h Bool.false_ne_true, fun h => if_neg (ne_true_of_eq_false h), rfl⟩
  · exact ⟨st, _, true, _, rfl, fun _ => ⟨rfl, rfl⟩, fun h => absurd h.symm Bool.false_ne_true, rfl⟩

end
end
end Sys2Proof.Machine
end

section
/-! SUPPORT. Lane beats, the budget and back-pressure (11 R247 to R249). -/

namespace Sys2Proof.Machine

theorem Planner.write_chip (p : Planner) (o : Owner) (ilv a sector t : Nat) (deps : List Nat) : (p.write o ilv a sector t deps).1.chip = p.chip := by
  rw [Planner.write]
  dsimp only
  split
  · rfl
  · split <;> rfl

theorem planned_strands {p : Planner} {ch : Chip} {on w : Nat} {o : Owner} {k : Work} (hp : p.chip = ch) :
    ((p.finish on o).setWork w k).strands = ch.strands := by
  rw [← hp]
  rfl

/-- Planning a flit of a lane store moves no strand. -/
theorem planLaneFlit_strands (ch : Chip) (w : Nat) (k : Work) (fi : Nat) : (planLaneFlit ch w k fi).strands = ch.strands := by
  rw [planLaneFlit]
  split
  · dsimp only
    split
    · rfl
    · refine planned_strands ?_
      split
      · rfl
      · exact List.foldlRecOn (motive := fun p : Planner => p.chip = ch) _ _ rfl fun p hp x _ => (Planner.write_chip ..).trans hp
  · rfl

/-- The flits whose last beat is sent, planned one after another. -/
def Chip.planDue (ch : Chip) (w : Nat) (due : List ((Nat × Nat) × Nat)) : Chip :=
  due.foldl (fun ch f => match ch.work? w with | some k => planLaneFlit ch w k f.2 | none => ch) ch

theorem planDue_strands (ch : Chip) (w : Nat) (due : List ((Nat × Nat) × Nat)) : (ch.planDue w due).strands = ch.strands := by
  refine List.foldlRecOn (motive := fun c : Chip => c.strands = ch.strands) _ _ rfl fun c hc f _ => ?_
  split
  · exact (planLaneFlit_strands ..).trans hc
  · exact hc

/-- The queue of lane stores of a strand. -/
def Chip.laneQueue (ch : Chip) (core slot : Nat) : Option (List LaneStore) := (ch.strand? core slot).map (·.lane.queue)

theorem laneQueue_onStrand {ch : Chip} {core slot c sl : Nat} {f : Strand → Strand} (hf : ∀ st, (f st).lane.queue = st.lane.queue) :
    (ch.onStrand c sl f).laneQueue core slot = ch.laneQueue core slot := by
  rw [Chip.onStrand]
  split
  · next st hst =>
    by_cases hk : skey core slot = skey c sl
    · rw [Chip.laneQueue, Chip.laneQueue, Chip.strand?, Chip.strand?, hk]
      rw [Chip.strand?] at hst
      rw [hst, show (ch.setStrand c sl (f st)).strands.get? (skey c sl) = some (f st) from Chip.strand?_setStrand .., Option.map_some,
        Option.map_some, hf]
    · rw [Chip.laneQueue, Chip.strand?_setStrand_ne _ _ hk, Chip.laneQueue]
  · rfl

theorem lanePerformed_laneQueue (ch : Chip) (w : Nat) (k : Work) (core slot : Nat) :
    (lanePerformed ch w k).laneQueue core slot = ch.laneQueue core slot := by
  rw [lanePerformed]
  split
  · exact laneQueue_onStrand fun _ => rfl
  · rfl

theorem laneCheck_laneQueue (ch : Chip) (w core slot : Nat) : (laneCheck ch w).laneQueue core slot = ch.laneQueue core slot := by
  rw [laneCheck]
  split
  · rfl
  · exact (apply_ite (fun c : Chip => c.laneQueue core slot) ..).trans (by rw [lanePerformed_laneQueue, ite_self])

section
variable {s : State} {core slot : Nat} {st : Strand} (hs : s.chip.strand? core slot = some st)
include hs

theorem execLaneBeat_empty (hq : st.lane.queue = []) : execLaneBeat core slot s = .next s := by
  simp only [execLaneBeat, hs, hq]

variable {e : LaneStore} {rest : List LaneStore} (hq : st.lane.queue = e :: rest)
include hq

theorem execLaneBeat_waits (h : (s.chip.owner st.place.owner).frozenAt s.chip.gts = true ∨
    (s.chip.owner st.place.owner).ownsAt .wlane ((s.chip.owner st.place.owner).clock s.chip.gts) = false ∨
      (s.chip.owner st.place.owner).clock s.chip.gts < e.notBefore) : execLaneBeat core slot s = .next s := by
  simp only [execLaneBeat, hs, hq]
  split
  · split
    · refine if_pos ?_
      rcases h with h | h | h <;> simp [h]
    · rfl
  · rfl

theorem execLaneBeat_sends {k : Work} {n : Nat} {bs : List (Option Nat × Byte)} {ilv key : Nat} {ents : List TlbEntry} {onChip : Bool}
    (hk : s.chip.work? e.work = some k) (hkind : k.kind = .laneStore n bs ilv key ents onChip) (hbs : bs ≠ [])
    (hf : (s.chip.owner st.place.owner).frozenAt s.chip.gts = false)
    (ho : (s.chip.owner st.place.owner).ownsAt .wlane ((s.chip.owner st.place.owner).clock s.chip.gts) = true)
    (hn : e.notBefore ≤ (s.chip.owner st.place.owner).clock s.chip.gts) : ∃ t, execLaneBeat core slot s = .next t ∧ t.mem = s.mem ∧
      t.chip.laneQueue core slot = some (dropSent ({ e with sent := e.sent + 1 } :: rest)) := by
  have hgo : ((s.chip.owner st.place.owner).frozenAt s.chip.gts ||
      !(s.chip.owner st.place.owner).ownsAt .wlane ((s.chip.owner st.place.owner).clock s.chip.gts) ||
      decide ((s.chip.owner st.place.owner).clock s.chip.gts < e.notBefore) || bs.isEmpty) = false := by
    rw [hf, ho, decide_eq_false (Nat.not_lt.mpr hn), List.isEmpty_eq_false_iff.mpr hbs]
    rfl
  simp only [execLaneBeat, hs, hq, hk, hkind, hgo, Bool.false_eq_true, if_false]
  refine ⟨_, rfl, rfl, ?_⟩
  rw [State.keep_chip, laneCheck_laneQueue]
  refine (congrArg (fun t : Tab Strand => (t.get? (skey core slot)).map (·.lane.queue)) (planDue_strands ..)).trans ?_
  exact congrArg (Option.map (·.lane.queue)) (Chip.strand?_setStrand ..)

end

section
variable {s : State} {core slot : Nat} {st : Strand} (hs : s.chip.strand? core slot = some st)
include hs

theorem execLaneBudgetRefill_at : execLaneBudgetRefill core slot s =
    if s.chip.runs st && st.run.tau % 2 ^ laneLogw st.lane == 0 then
      .next (s.keep (s.chip.setStrand core slot (refillLane (s.chip.owner st.place.owner) st)))
    else .next s := by
  rw [execLaneBudgetRefill, hs]

theorem execWlaneBackpressure_full {t : Nat} (hw : st.st.wait = .laneFull t) : execWlaneBackpressure core slot s =
    if t + laneBpwait st.lane ≤ st.run.tau then .next (s.keep
      { takeTrap s.mem s.chip core slot (st.mkTrap .st .wlaneBackpressure (noAddr .wlaneBackpressure) 0) with verdict := .trapped })
    else .next s := by
  simp only [execWlaneBackpressure, hs, hw, headTrap_of_strand hs]

end
end Sys2Proof.Machine
end

section
/-! SUPPORT. Planned steps of work, drains and lane beats (02 R36; 11 R247 to R249; 14 R310). -/

namespace Sys2Proof.Proofs
open Sys2Proof.Machine

/-- Settles O44: a planned step runs when the event names it (`workEvent_step`); a compare leaves all of a strand but its traps, CSRs and
replay (`compareUnder_comparedFrom`); planning a flit moves no strand (`planLaneFlit_strands`). -/
theorem workEvents : Obligations.WorkEvents := by
  intro s w k ch steps same left
  refine ⟨fun hw i hi => ?_, fun hw => ⟨fun i hi => ⟨?_, ?_, ?_⟩, ?_, fun st hs => ⟨?_, ?_⟩⟩, ?_, ?_, fun core slot st hs => ?_⟩
  · rcases hi with hi | rfl | rfl | rfl
    · exact (exec_workSteps hi).trans (workEvent_none hw)
    · exact execChanReadDelivery_none hw
    · exact (drains_none hw).1
    · exact (drains_none hw).2
  · exact fun hn => (exec_workSteps hi).trans (workEvent_idle hw hn)
  · intro n p hn hev
    refine (exec_workSteps hi).trans ((workEvent_step hw hn).trans (if_neg ?_))
    simp [hev]
  · intro n p hn hev
    refine (exec_workSteps hi).trans ((workEvent_step hw hn).trans (if_pos ?_))
    simp [hev]
  · intro n p m u e hn hp now
    have he : exec (.chanReadDelivery w e u) s = _ := execChanReadDelivery_at hw hn hp
    refine ⟨fun he1 hu => he.trans (if_pos (by rw [he1, hu]; rfl)), fun heu => he.trans (if_neg ?_)⟩
    rcases heu with h | h <;> simp [h]
  · intro c dst q nochk hkind
    refine ⟨fun hd => execMdrainDrain_idle hw hs hkind hd, ?_⟩
    intro bad data
    refine ⟨fun hd hb => ⟨_, execMdrainDrain_bad hw hs hkind hd hb, rfl, finishWork_state ..⟩, fun hd hb => ?_⟩
    exact execMdrainDrain_good hw hs hkind hd hb
  · intro ln c h o ty rnd ovf nochk frm hkind
    refine ⟨fun hd => execWstcDrain_idle hw hs hkind hd, ?_⟩
    intro bad
    refine ⟨fun hd hb => ?_, fun hd hb => execWstcDrain_good hw hs hkind hd hb⟩
    obtain ⟨c', he⟩ := execWstcDrain_bad hw hs hkind hd hb
    exact ⟨_, he, rfl, by rw [State.keep_chip, Chip.work?, Chip.setWork, Tab.get?_set_self]; rfl⟩
  · exact fun q => rfl
  · exact fun port on dest data => ⟨rfl, fun h => if_pos h⟩
  · intro o
    refine ⟨fun hq => execLaneBeat_empty hs hq, fun e rest hq h => execLaneBeat_waits hs hq h, ?_, ?_, ?_, ?_, ?_⟩
    · exact fun e rest n bs ilv key ents onChip j hq hj hkind hbs hf ho hn => execLaneBeat_sends hs hq hj hkind hbs hf ho hn
    · exact fun hr ht => ⟨(execLaneBudgetRefill_at hs).trans (if_pos (by rw [hr, ht]; rfl)), rfl, rfl⟩
    · intro h
      refine (execLaneBudgetRefill_at hs).trans (if_neg fun hb => ?_)
      rw [Bool.and_eq_true, beq_iff_eq] at hb
      exact h.elim (fun hr => Bool.false_ne_true (hr.symm.trans hb.1)) fun hne => hne hb.2
    · exact fun t hw hle => (execWlaneBackpressure_full hs hw).trans (if_pos hle)
    · exact fun t hw hlt => (execWlaneBackpressure_full hs hw).trans (if_neg (Nat.not_le.mpr hlt))

end Sys2Proof.Proofs
end

section
/-! SUPPORT. What writes of hardware leave of channels and stacks (06 R410; 23 R386, R390). -/

namespace Sys2Proof.Machine

theorem Chip.stk_setStk_ne (ch : Chip) {n j : Nat} (k : Stack) (h : j ≠ n) : (ch.setStk n k).stk j = ch.stk j := Tab.getD_set_ne _ _ _ h

section
variable (m : Memory) (ch : Chip) (r : Res) (a n : Nat) (l : List Byte)

theorem dropRows_keeps : (dropRows ch a n).chans = ch.chans ∧ (dropRows ch a n).hbm = ch.hbm ∧ (dropRows ch a n).lineKeys = ch.lineKeys := by
  rw [dropRows]
  dsimp only
  split <;> exact ⟨rfl, rfl, rfl⟩

theorem setDirty_keeps : (setDirty ch a n).chans = ch.chans ∧ (setDirty ch a n).lineKeys = ch.lineKeys := by
  rw [setDirty]
  split <;> exact ⟨rfl, rfl⟩

theorem setDirty_migration (s : Nat) : ((setDirty ch a n).stk s).migration = (ch.stk s).migration := by
  rw [setDirty]
  split
  · next t off _ =>
    by_cases hs : s = t
    · subst hs
      dsimp only
      rw [Chip.stk_setStk]
    · dsimp only
      rw [Chip.stk_setStk_ne _ _ hs]
  · rfl

theorem written_chans : (written ch a n).chans = ch.chans := by
  rw [written, (setDirty_keeps ..).1]
  exact (dropRows_keeps ..).1

theorem written_lineKeys : (written ch a n).lineKeys = ch.lineKeys := by
  rw [written, (setDirty_keeps ..).2]
  exact (dropRows_keeps ..).2.2

theorem written_migration (s : Nat) : ((written ch a n).stk s).migration = (ch.stk s).migration := by
  rw [written, setDirty_migration]
  exact congrArg (fun t : Tab Stack => (t.getD s Stack.fresh).migration) (dropRows_keeps ..).2.1

theorem keyedWrites_chans (key : Nat) : (keyedWrites m ch key a l).1.chans = ch.chans := by
  rw [keyedWrites]
  split <;> rfl

theorem patchStores_chans : (patchStores ch a l).chans = ch.chans := by
  rw [patchStores]
  split <;> rfl

theorem writeHome_chans (key : Nat) : (writeHome m r key a l).chip.chans = r.chip.chans := by
  rw [writeHome]
  dsimp only
  split
  · rw [written_chans, keyedWrites_chans, patchStores_chans]
  · rw [written_chans, keyedWrites_chans, written_chans, keyedWrites_chans, patchStores_chans]

theorem writeOwn_chans : (writeOwn m r a l).chip.chans = r.chip.chans := by
  rw [writeOwn, writeFree]
  split
  · rfl
  · exact writeHome_chans ..

theorem faqRecord_chans (stack addr ev : Nat) : (faqRecord m r stack addr ev).chip.chans = r.chip.chans := by
  rw [faqRecord]
  extract_lets
  exact iteInduction (motive := fun x : Res => x.chip.chans = r.chip.chans) (fun _ => rfl) fun _ => writeOwn_chans ..

/-- Starting the copy of a row that waits leaves the rows replaced so far. -/
theorem startRowCopy_remap (c : Nat) : ((startRowCopy m r c).chip.chan c).remap = (r.chip.chan c).remap := by
  rw [startRowCopy]
  dsimp only
  split
  · split
    · dsimp only
      rw [Chip.chan_setChan]
    · rw [Chip.chan, faqRecord_chans]
      dsimp only
      rw [← Chip.chan, Chip.chan_setChan]
  · rfl

theorem setPoison_contains (b : Bool) : (ch.setPoison a b).poisoned.contains a = b := by
  cases b
  · simp [Chip.setPoison]
  · rw [Chip.setPoison, if_pos rfl]
    dsimp only
    split
    · assumption
    · simp

end

theorem Tab.get?_del_self {α : Type} (t : Tab α) (k : Nat) : (t.del k).get? k = none := by
  induction t with
  | nil => rfl
  | cons e t ih =>
    obtain ⟨j, v⟩ := e
    by_cases hj : j = k
    · subst hj
      rw [Tab.del, List.filter_cons_of_neg (by simp)]
      exact ih
    · rw [Tab.del, List.filter_cons_of_pos (by simpa using hj), Tab.get?, if_neg (Ne.symm hj)]
      exact ih

end Sys2Proof.Machine
end

section
/-! SUPPORT. Maintenance of a channel (23 R378, R380, R381, R389). -/

namespace Sys2Proof.Machine

theorem maintSlot_iff {b : Nat} : maintSlot b = true ↔ b % 16 = 15 := beq_iff_eq

section
variable {s : State} {c bank : Nat}

/-- What a refresh finds: the channel's own slot, not used yet, and no alert that comes first. -/
def Chip.refreshes (ch : Chip) (c : Nat) : Prop := ch.gts % 16 = 15 ∧ (ch.chan c).maintFree ch.gts = true ∧ (ch.chan c).alertFirst = false

/-- The bank that the refresh of a slot takes. -/
def Chip.refreshTakes (ch : Chip) (c : Nat) : Option Nat :=
  (refreshBank (ch.chan c) ch.gts 8).or (if copyClaims ch c then none else refreshBank (ch.chan c) ch.gts 1)

theorem refresh_guard (ch : Chip) (c : Nat) :
    (!maintSlot ch.gts || !(ch.chan c).maintFree ch.gts || (ch.chan c).alertFirst) = true ↔ ¬ ch.refreshes c := by
  rw [Chip.refreshes, ← maintSlot_iff]
  cases maintSlot ch.gts <;> cases (ch.chan c).maintFree ch.gts <;> cases (ch.chan c).alertFirst <;> decide

theorem execRefresh_goes (h : s.chip.refreshes c) : execRefresh c s =
    match s.chip.refreshTakes c with
    | none => .next s
    | some b => .next (s.keep (s.chip.setChan c ({ s.chip.chan c with
        refreshDue := (s.chip.chan c).refreshDue.set b ((s.chip.chan c).refreshDue.getD b 0 + 1) }.maintUse s.chip.gts))) :=
  if_neg fun hg => (refresh_guard ..).mp hg h

theorem execRefresh_idle (h : ¬ s.chip.refreshes c ∨ s.chip.refreshTakes c = none) : execRefresh c s = .next s := by
  by_cases hg : s.chip.refreshes c
  · rw [execRefresh_goes hg, h.resolve_left (not_not.mpr hg)]
  · exact if_pos ((refresh_guard ..).mpr hg)

theorem execRefresh_makes {b : Nat} (h : s.chip.refreshes c) (hb : s.chip.refreshTakes c = some b) : execRefresh c s =
    .next (s.keep (s.chip.setChan c ({ s.chip.chan c with
      refreshDue := (s.chip.chan c).refreshDue.set b ((s.chip.chan c).refreshDue.getD b 0 + 1) }.maintUse s.chip.gts))) := by
  rw [execRefresh_goes h, hb]

/-- What a scrub finds. -/
def Chip.scrubs (ch : Chip) (c : Nat) : Prop :=
  ch.gts % 16 = 15 ∧ (ch.chan c).maintFree ch.gts = true ∧ (ch.chan c).alertFirst = false ∧ copyClaims ch c = false ∧
    refreshBank (ch.chan c) ch.gts 1 = none ∧ (ch.chan c).bankFree.getD ((ch.chan c).scrub % 32) 0 ≤ ch.gts ∧ (ch.chan c).scrub < chanSectors

theorem scrub_guard (ch : Chip) (c : Nat) : (!maintSlot ch.gts || !(ch.chan c).maintFree ch.gts || (ch.chan c).alertFirst || copyClaims ch c ||
    (refreshBank (ch.chan c) ch.gts 1).isSome || decide (ch.gts < (ch.chan c).bankFree.getD ((ch.chan c).scrub % 32) 0) ||
      decide (chanSectors ≤ (ch.chan c).scrub)) = true ↔ ¬ ch.scrubs c := by
  rw [Chip.scrubs, ← maintSlot_iff, ← Nat.not_lt (a := ch.gts), ← Nat.not_le (a := chanSectors), ← Option.not_isSome_iff_eq_none]
  generalize chanSectors = n
  simp only [Bool.or_eq_true, Bool.not_eq_true', decide_eq_true_eq]
  grind

theorem execPatrolScrub_idle {e u : Bool} (h : ¬ s.chip.scrubs c) : execPatrolScrub c e u s = .next s :=
  if_pos ((scrub_guard ..).mpr h)

theorem execPatrolScrub_reads {e u : Bool} (h : s.chip.scrubs c) : execPatrolScrub c e u s =
    .next (s.commit (sectorError s.mem ⟨s.chip.setChan c ({ s.chip.chan c with scrub := (s.chip.chan c).scrub + 1 }.maintUse s.chip.gts), []⟩
      (sectorAddress c (s.chip.chan c).scrub) e (u && !s.chip.poisoned.contains (sectorAddress c (s.chip.chan c).scrub / 64)))) :=
  if_neg fun hg => (scrub_guard ..).mp hg h

theorem execAlertBackoff_at : execAlertBackoff c bank s =
    if 8 ≤ (s.chip.chan c).owed bank s.chip.gts ∧ (s.chip.chan c).alert.all (fun e => e.1 != bank) then
      .next (s.keep ((s.chip.setChan c { s.chip.chan c with alert := (s.chip.chan c).alert ++ [(bank, 9)] }).setStk (c / 32)
        { s.chip.stk (c / 32) with alertLog := (s.chip.stk (c / 32)).alertLog ++ [(s.chip.gts, 392 + c / 32, c, bank)] }))
    else .next s := rfl

/-- In the channel's own slot a first command comes first; others come there when no owner has a slot to yield. -/
theorem alertNow_slot {ch : Chip} {a : Nat × Nat} (hs : ch.gts % 16 = 15) (ha : alertNow ch c = some a) :
    a.2 = 9 ∨ ∀ o, o ∈ ch.chanOwners → (ch.chan c).yields.getD o 0 = 0 := by
  rw [alertNow] at ha
  rw [if_pos (maintSlot_iff.mpr hs), Option.or_eq_some_iff] at ha
  rcases ha with h | ⟨-, h⟩
  · exact .inl (by simpa using List.find?_some h)
  · split at h
    · next hall => exact .inr fun o ho => by simpa using List.all_eq_true.mp hall o ho
    · cases h

/-- In another slot it is one that follows, in a slot that an owner yields. -/
theorem alertNow_yielded {ch : Chip} {a : Nat × Nat} (hs : ¬ ch.gts % 16 = 15) (ha : alertNow ch c = some a) :
    a.2 ≠ 9 ∧ (yieldingOwner ch c).isSome = true := by
  rw [alertNow] at ha
  rw [if_neg (maintSlot_iff.not.mpr hs)] at ha
  split at ha
  · next hy => exact ⟨by simpa using List.find?_some ha, hy⟩
  · cases ha

theorem execAlertServiceCommand_idle (h : alertNow s.chip c = none ∨ ¬ (s.chip.chan c).maintFree s.chip.gts = true) :
    execAlertServiceCommand c s = .next s := by
  rw [execAlertServiceCommand]
  split
  · rfl
  · next b j ha =>
    refine if_pos ?_
    rcases h with h | h
    · rw [ha] at h; cases h
    · simpa using h

/-- A channel after the command of an alert. -/
def Chan.served (k : Chan) (share : Tab Nat) (b j now : Nat) : Chan :=
  let left := (k.alert.map (fun e => if e.1 = b then (e.1, j - 1) else e)).filter (fun e => e.2 != 0)
  { k with
    alert := left
    refreshDue := if j ≤ 1 then k.refreshDue else k.refreshDue.set b (k.refreshDue.getD b 0 + 1)
    yields := if j = 9 then share.map (fun (e : Nat × Nat) => (e.1, e.2 + k.yields.getD e.1 0))
      else if left.isEmpty && k.copy.isNone then [] else k.yields }.maintUse now

theorem displace_gts (ch : Chip) (c o : Nat) : (ch.displace c o).gts = ch.gts := by
  rw [Chip.displace]
  dsimp only
  split <;> rfl

theorem spendYield_gts (ch : Chip) (c : Nat) : (spendYield ch c).gts = ch.gts := by
  rw [spendYield]
  split
  · rfl
  · split
    · exact displace_gts ..
    · rfl

theorem served_alert (k : Chan) (share : Tab Nat) (b j now : Nat) : (k.served share b j now).alert =
    (k.alert.map (fun e => if e.1 = b then (e.1, j - 1) else e)).filter (fun e => e.2 != 0) := rfl

theorem served_maintFree (k : Chan) (share : Tab Nat) (b j now : Nat) : (k.served share b j now).maintFree now = false :=
  bne_self_eq_false ..

theorem served_yields {k : Chan} (share : Tab Nat) {b j now : Nat} (hj : j ≠ 9) : (k.served share b j now).yields =
    if (k.served share b j now).alert.isEmpty && k.copy.isNone then [] else k.yields := if_neg hj

theorem execAlertServiceCommand_serves {b j : Nat} (ha : alertNow s.chip c = some (b, j)) (hf : (s.chip.chan c).maintFree s.chip.gts = true) :
    execAlertServiceCommand c s = .next (s.keep ((spendYield s.chip c).setChan c
      (((spendYield s.chip c).chan c).served (shareOut (spendYield s.chip c) 8) b j (spendYield s.chip c).gts))) := by
  simp only [execAlertServiceCommand, ha, hf]
  rfl

end
end Sys2Proof.Machine
end

section
/-! SUPPORT. The copy of a row (23 R389). -/

namespace Sys2Proof.Machine

section
variable {s : State} {c : Nat} {r : RowCopy}

/-- When a command of a row's copy is made. -/
def Chip.copiesRow (ch : Chip) (c : Nat) : Prop :=
  (ch.gts % 16 = 15 ∨ (yieldingOwner ch c).isSome = true) ∧ (ch.chan c).maintFree ch.gts = true ∧ alertNow ch c = none ∧
    (ch.gts % 16 = 15 → refreshBank (ch.chan c) ch.gts 8 = none)

theorem copy_guard (ch : Chip) (c : Nat) : (!maintBeat ch c || !(ch.chan c).maintFree ch.gts || (alertNow ch c).isSome ||
    (maintSlot ch.gts && (refreshBank (ch.chan c) ch.gts 8).isSome)) = true ↔ ¬ ch.copiesRow c := by
  rw [Chip.copiesRow, maintBeat, ← maintSlot_iff, ← Option.not_isSome_iff_eq_none, ← Option.not_isSome_iff_eq_none]
  simp only [Bool.or_eq_true, Bool.not_eq_true', Bool.and_eq_true]
  grind

/-- The machine after a command of a row's copy that is not its last. -/
def Chip.rowCopied (ch : Chip) (c : Nat) (r : RowCopy) : Chip :=
  ch.setChan c { (ch.chan c).maintUse ch.gts with copy := some { r with next := r.next + 1 } }

theorem execSpareRowCopy_none (hr : (s.chip.chan c).copy = none) : execSpareRowCopy c s = .next s := by
  simp only [execSpareRowCopy, hr]

theorem execSpareRowCopy_idle (hr : (s.chip.chan c).copy = some r) (h : ¬ s.chip.copiesRow c) : execSpareRowCopy c s = .next s := by
  simp only [execSpareRowCopy, hr]
  exact if_pos ((copy_guard ..).mpr h)

variable (hr : (s.chip.chan c).copy = some r) (h : s.chip.copiesRow c)
include hr h

theorem execSpareRowCopy_copies (hn : r.next + 1 < 32) : execSpareRowCopy c s =
    if r.next % 2 = 0 then
      let ch := spendYield s.chip c
      let sector := rowAddress c r.bank r.row + r.next / 2 * 32 * 64
      .next (s.commit (if ch.poisoned.contains (sector / 64) || Config.copyMeets ch.fresh then
        faqRecord s.mem ⟨(ch.rowCopied c r).freshen.setPoison (sector / 64) true, []⟩ (c / 32) sector 1
        else ⟨(ch.rowCopied c r).freshen, []⟩))
    else .next (s.keep ((spendYield s.chip c).rowCopied c r)) := by
  simp only [execSpareRowCopy, hr]
  rw [if_neg fun hg => (copy_guard ..).mp hg h, if_pos hn]
  rfl

/-- With the last write the spare row takes the row's place. -/
theorem execSpareRowCopy_ends (hn : r.next = 31) : ∃ v, execSpareRowCopy c s = .next v ∧ (r.bank, r.row, r.spare) ∈ (v.chip.chan c).remap := by
  simp only [execSpareRowCopy, hr]
  rw [if_neg fun hg => (copy_guard ..).mp hg h, hn, if_neg (by decide), if_neg (by decide)]
  refine ⟨_, rfl, ?_⟩
  rw [State.commit_chip, startRowCopy_remap, Chip.chan_setChan]
  exact List.mem_cons_self

end
end Sys2Proof.Machine
end

section
/-! SUPPORT. The hot pages of a stack (23 R391). -/

namespace Sys2Proof.Machine

section
variable {s : State} {n f : Nat} {g : Migration}

theorem execSpareCopyEscalation_at {c : Nat} {r : RowCopy} (hr : (s.chip.chan c).copy = some r) : execSpareCopyEscalation c s =
    if r.since + 2 ^ 16 ≤ s.chip.gts ∧ (s.chip.chan c).yields.all (fun e => e.2 == 0) then
      .next (s.keep (s.chip.setChan c { s.chip.chan c with yields := shareOut s.chip (32 - r.next) }))
    else .next s := by
  simp only [execSpareCopyEscalation, hr]

theorem execSpareCopyEscalation_none {c : Nat} (hr : (s.chip.chan c).copy = none) : execSpareCopyEscalation c s = .next s := by
  simp only [execSpareCopyEscalation, hr]

theorem execHotIneligibleExpiry_at {b : Nat} (hb : (s.chip.stk n).ineligible.get? f = some b) : execHotIneligibleExpiry n f s =
    if b ≤ s.chip.gts then .next (s.keep (s.chip.setStk n { s.chip.stk n with ineligible := (s.chip.stk n).ineligible.del f })) else .next s := by
  simp only [execHotIneligibleExpiry, hb]

theorem execHotIneligibleExpiry_none (hb : (s.chip.stk n).ineligible.get? f = none) : execHotIneligibleExpiry n f s = .next s := by
  simp only [execHotIneligibleExpiry, hb]

theorem migration_none (h : (s.chip.stk n).migration = none) :
    execHotPageMigrationCopy n s = .next s ∧ execMigrationCommit n s = .next s := by
  simp only [execHotPageMigrationCopy, execMigrationCommit, h]
  exact ⟨trivial, trivial⟩

theorem migrationChan_end (h : 2048 ≤ g.next) : migrationChan n g = none := if_pos h

/-- When a command of a frame's migration is made. -/
def Chip.migrates (ch : Chip) (q from_ to_ : Nat) : Prop :=
  ch.gts % 16 = 15 ∧ (ch.chan q).maintFree ch.gts = true ∧ alertNow ch q = none ∧ refreshBank (ch.chan q) ch.gts 8 = none ∧
    (ch.chan q).copy = none ∧ ch.heldAt from_ 64 = false ∧ ch.heldAt to_ 64 = false

theorem migration_guard (ch : Chip) (q a b : Nat) : (!maintSlot ch.gts || !(ch.chan q).maintFree ch.gts || (alertNow ch q).isSome ||
    (refreshBank (ch.chan q) ch.gts 8).isSome || (ch.chan q).copy.isSome || ch.heldAt a 64 || ch.heldAt b 64) = true ↔ ¬ ch.migrates q a b := by
  rw [Chip.migrates, ← maintSlot_iff, ← Option.not_isSome_iff_eq_none, ← Option.not_isSome_iff_eq_none, ← Option.not_isSome_iff_eq_none]
  simp only [Bool.or_eq_true, Bool.not_eq_true']
  grind

/-- The places in the old and the new frame of the sector that a migration is at. -/
def Migration.fromAt (g : Migration) (n : Nat) : Nat := n * 2 ^ 37 + g.frame * 65536 + 64 * (g.next / 2)
def Migration.toAt (g : Migration) : Nat := g.target + 64 * (g.next / 2)

/-- The machine after a command of a migration. -/
def Chip.migrated (ch : Chip) (n q : Nat) (g : Migration) : Chip :=
  (ch.setChan q ((ch.chan q).maintUse ch.gts)).setStk n { ch.stk n with migration := some { g with next := g.next + 1 } }

/-- The keys of lines once a sector is copied. -/
def Chip.keysCopied (ch : Chip) (a b : Nat) : Tab (Nat × Nat) :=
  match ch.lineKeys.get? (a / 64) with | some e => ch.lineKeys.set (b / 64) e | none => ch.lineKeys.del (b / 64)

theorem keysCopied_get? (ch : Chip) (a b : Nat) : (ch.keysCopied a b).get? (b / 64) = ch.lineKeys.get? (a / 64) := by
  rw [Chip.keysCopied]
  split
  · next e he => rw [Tab.get?_set_self, he]
  · next he => rw [Tab.get?_del_self, he]

/-- The machine once a sector of the new frame is written. -/
def Chip.sectorWritten (ch : Chip) (a b : Nat) : Chip :=
  (written { ch with lineKeys := ch.keysCopied a b } b 64).setPoison (b / 64) (ch.poisoned.contains (a / 64))

theorem sectorWritten_lineKeys (ch : Chip) (a b : Nat) : (ch.sectorWritten a b).lineKeys.get? (b / 64) = ch.lineKeys.get? (a / 64) :=
  (congrArg (fun t : Tab (Nat × Nat) => t.get? (b / 64)) (written_lineKeys ..)).trans (keysCopied_get? ..)

theorem sectorWritten_migration (ch : Chip) (a b n : Nat) : ((ch.sectorWritten a b).stk n).migration = (ch.stk n).migration :=
  written_migration ..

theorem execHotPageMigrationCopy_noChan (h : (s.chip.stk n).migration = some g) (hq : migrationChan n g = none) :
    execHotPageMigrationCopy n s = .next s := by
  simp only [execHotPageMigrationCopy, h, hq]

section
variable (h : (s.chip.stk n).migration = some g) {q : Nat} (hq : migrationChan n g = some q)
include h hq

theorem execHotPageMigrationCopy_idle (hno : ¬ s.chip.migrates q (g.fromAt n) g.toAt) : execHotPageMigrationCopy n s = .next s := by
  simp only [execHotPageMigrationCopy, h, hq]
  exact if_pos ((migration_guard ..).mpr hno)

variable (hgo : s.chip.migrates q (g.fromAt n) g.toAt)
include hgo

theorem execHotPageMigrationCopy_goes : execHotPageMigrationCopy n s =
    if g.next % 2 = 0 then .next (s.keep (s.chip.migrated n q g))
    else .next (s.commit ⟨(s.chip.migrated n q g).sectorWritten (g.fromAt n) g.toAt, [(g.toAt, s.mem.readBytes (g.fromAt n) 64)]⟩) := by
  simp only [execHotPageMigrationCopy, h, hq]
  exact if_neg fun hg => (migration_guard ..).mp hg hgo

end

/-! ### The commit -/

/-- What a commit waits for. -/
def Chip.commitHeld (ch : Chip) (n : Nat) (g : Migration) : Prop :=
  ch.heldAt (n * 2 ^ 37 + g.frame * 65536) 65536 = true ∨ ch.heldAt g.target 65536 = true ∨ ch.heldAt g.leaf 8 = true

/-- The machine with a stack's migration ended. -/
def Chip.migrationOver (ch : Chip) (n : Nat) : Chip := ch.setStk n { ch.stk n with migration := none }

theorem execMigrationCommit_waits (h : (s.chip.stk n).migration = some g) (hw : g.next < 2048 ∨ s.chip.commitHeld n g) :
    execMigrationCommit n s = .next s := by
  simp only [execMigrationCommit, h]
  exact if_pos hw

theorem execMigrationCommit_commits (h : (s.chip.stk n).migration = some g) (hn : 2048 ≤ g.next) (hh : ¬ s.chip.commitHeld n g) :
    execMigrationCommit n s =
      let old := n * 2 ^ 37 + g.frame * 65536
      let e := s.mem.readLe (homeAddr 0 g.leaf) 8
      if handleOverlaps s.mem (s.chip.part g.part) old then
        .next (s.commit (returnFrame s.mem ⟨s.chip.migrationOver n, []⟩ (s.chip.stk n) g.target))
      else .next (s.commit (returnFrame s.mem (writeOwn s.mem
        ⟨dropTlb ((s.chip.migrationOver n).moved old g.target) g.part (fun t => t.frame == old), []⟩ (homeAddr 0 g.leaf)
          (leBytes 8 (e - bitsOf (BitVec.ofNat 64 e) 12 36 * 2 ^ 12 + g.target))) (s.chip.stk n) old)) := by
  simp only [execMigrationCommit, h]
  exact if_neg (not_or.mpr ⟨Nat.not_lt.mpr hn, hh⟩)

/-- The frame field of a table entry, by arithmetic. -/
theorem frameField (e : Nat) : bitsOf (BitVec.ofNat 64 e) 12 36 = e / 2 ^ 12 % 2 ^ 36 := by
  rw [bitsOf, BitVec.toNat_ofNat]
  omega

/-- A core that has dropped translations. -/
def Core.forget (k : Core) (gone : TlbEntry → Bool) : Core := { k with tlb := k.tlb.filter (fun t => !gone t) }

theorem dropTlb_cores (ch : Chip) (part : Nat) (gone : TlbEntry → Bool) : (dropTlb ch part gone).cores =
    ch.cores.map (fun e => (e.1, e.2.forget (fun t => (ch.owner t.owner).part == part && gone t))) := rfl

theorem mem_dropTlb {ch : Chip} {part core : Nat} {gone : TlbEntry → Bool} {e : TlbEntry} : e ∈ ((dropTlb ch part gone).core core).tlb ↔
    e ∈ (ch.core core).tlb ∧ ¬ ((ch.owner e.owner).part = part ∧ gone e = true) := by
  rw [Chip.core, Tab.getD, dropTlb_cores,
    Tab.get?_map (t := ch.cores) (f := fun _ k => k.forget (fun t => (ch.owner t.owner).part == part && gone t)), Chip.core, Tab.getD]
  cases ch.cores.get? core with
  | none => exact ⟨fun h => (nomatch h), fun h => (nomatch h.1)⟩
  | some k => simp only [Option.map_some, Option.getD_some, Core.forget, List.mem_filter, Bool.not_eq_true', ← Bool.not_eq_true,
      Bool.and_eq_true, beq_iff_eq]

end
end Sys2Proof.Machine
end

section
/-! SUPPORT. Maintenance and hot pages (23 R378 to R391). -/

namespace Sys2Proof.Proofs
open Sys2Proof.Machine

/-- Settles O45: each event by its guard (`refresh_guard`, `scrub_guard`, `copy_guard`, `migration_guard`) and its effect; the writes of
hardware leave channels, keys and migrations (`writeOwn_chans`, `written_lineKeys`, `written_migration`). -/
theorem maintenanceEvents : Obligations.MaintenanceEvents := by
  intro s c n bank e u ch k sets same slot free t puts scrubAt spent k1 due refreshes scrubs copies
  have halert : exec (.alertBackoff c bank) s = _ := execAlertBackoff_at
  refine ⟨?_, ?_, ?_, ?_, ?_, ?_, ?_, ?_, ?_, ?_, ?_, ?_, ?_, ?_, ?_, ?_, ?_, ?_, ?_, ?_, ?_, ?_, ?_, ?_, ?_, ?_, ?_⟩
  · exact fun hq => congrArg (fun c : Chip => (.next (s.keep c) : Outcome)) (if_neg (by simpa using hq))
  · exact fun hq => congrArg (fun c : Chip => (.next (s.keep c) : Outcome)) (if_pos (by simpa using hq))
  · exact fun hno => execRefresh_idle hno
  · exact fun b hg hd => execRefresh_makes hg hd
  · exact fun hg => execPatrolScrub_reads hg
  · exact fun hg => execPatrolScrub_idle hg
  · exact fun hle => if_pos hle
  · exact fun hlt => if_neg (Nat.not_le.mpr hlt)
  · intro ho hall
    refine ⟨_, halert.trans (if_pos ⟨ho, by simpa using hall⟩), rfl, ?_, ?_⟩
    · exact Chip.chan_setChan ..
    · rw [State.keep_chip, Chip.stk_setStk]
      exact List.mem_append_right _ (List.mem_singleton.mpr rfl)
  · exact fun hlt => halert.trans (if_neg fun h => Nat.not_le.mpr hlt h.1)
  · exact fun hs a ha => alertNow_slot hs ha
  · exact fun hs a ha => alertNow_yielded hs ha
  · exact fun h => execAlertServiceCommand_idle h
  · intro b j ha hf
    have hk : ∀ k' : Chan, ((s.keep (spent.setChan c k')).chip.chan c) = k' := fun k' => Chip.chan_setChan ..
    refine ⟨_, execAlertServiceCommand_serves ha hf, rfl, ?_⟩
    rw [hk, spendYield_gts]
    refine ⟨served_alert .., served_maintFree .., rfl, fun hj hl hc => ?_, fun hj hl => ?_⟩
    · rw [served_yields _ hj]
      exact if_pos (by rw [show (Chan.served ..).alert = [] from hl, show k1.copy = none from hc]; rfl)
    · rw [served_yields _ hj]
      refine if_neg fun hboth => ?_
      rw [Bool.and_eq_true, List.isEmpty_iff, Option.isNone_iff_eq_none] at hboth
      exact hl.elim (fun h => h hboth.1) fun h => Option.isSome_iff_ne_none.mp h hboth.2
  · exact fun r hr hno => execSpareRowCopy_idle hr hno
  · intro r hr hgo hn sector go bad
    have he : exec (.spareRowCopy c) s = _ := execSpareRowCopy_copies hr hgo hn
    rw [Nat.mul_assoc] at he
    refine ⟨fun h1 => he.trans (if_neg (by omega)), fun h0 hb => he.trans ((if_pos h0).trans ?_), fun h0 hb => he.trans ((if_pos h0).trans ?_)⟩
    · exact congrArg (fun r : Res => (.next (s.commit r) : Outcome)) (if_neg (by rw [Bool.or_eq_true]; exact hb))
    · exact congrArg (fun r : Res => (.next (s.commit r) : Outcome)) (if_pos (by rw [Bool.or_eq_true]; exact hb))
  · exact fun r hr hgo hn => execSpareRowCopy_ends hr hgo hn
  · exact fun hr => ⟨execSpareRowCopy_none hr, execSpareCopyEscalation_none hr⟩
  · exact fun r hr hle hall => (execSpareCopyEscalation_at hr).trans (if_pos ⟨hle, by simpa using hall⟩)
  · exact fun r hr hlt => (execSpareCopyEscalation_at hr).trans (if_neg fun h => Nat.not_le.mpr hlt h.1)
  · exact fun h0 => if_pos h0
  · exact fun h0 => if_neg h0
  · exact fun f b hb hlt => (execHotIneligibleExpiry_at hb).trans (if_neg (Nat.not_le.mpr hlt))
  · exact fun f b hb hle => (execHotIneligibleExpiry_at hb).trans (if_pos hle)
  · exact fun f hb => execHotIneligibleExpiry_none hb
  · exact fun hm => migration_none hm
  · intro g hm old from_ to_
    refine ⟨fun hq => execHotPageMigrationCopy_noChan hm hq, migrationChan_end, fun q hq => ?_, ?_⟩
    · intro kq goes
      refine ⟨fun hno => execHotPageMigrationCopy_idle hm hq hno, fun hgo h0 => ?_, fun hgo h1 => ?_⟩
      · exact (execHotPageMigrationCopy_goes hm hq hgo).trans (if_pos h0)
      · refine ⟨_, (execHotPageMigrationCopy_goes hm hq hgo).trans (if_neg (by omega)), rfl, ?_, ?_, ?_⟩
        · exact (sectorWritten_migration ..).trans (congrArg Stack.migration (Chip.stk_setStk ..))
        · exact sectorWritten_lineKeys ..
        · exact setPoison_contains ..
    · intro held ended spare
      refine ⟨fun hw => execMigrationCommit_waits hm hw, fun hn hh ho => ?_, fun hn hh ho => ?_⟩
      · exact (execMigrationCommit_commits hm hn hh).trans (if_pos ho)
      · intro leaf was moved
        refine ⟨fun core e => ?_, rfl, ?_⟩
        · exact mem_dropTlb.trans (and_congr_right fun _ => not_congr (and_congr_right fun _ => beq_iff_eq))
        · refine (execMigrationCommit_commits hm hn hh).trans ((if_neg (ne_true_of_eq_false ho)).trans ?_)
          rw [frameField]
          rfl

end Sys2Proof.Proofs
end

section
/-! SUPPORT. Walks, invalidation, harvest, the memory interfaces, accesses of the host (23 R382 to R394; 06 R410). -/

namespace Sys2Proof.Machine

/-- A field of the first n bits of a word, set bit by bit. -/
theorem foldl_setBit_getLsbD {w : Nat} (f : Nat → Bool) (v : BitVec w) : ∀ (n : Nat), n ≤ w → ∀ i, i < n →
    ((List.range n).foldl (fun v i => setBit v i (f i)) v).getLsbD i = f i
  | 0, _, _, hi => absurd hi (Nat.not_lt_zero _)
  | n + 1, hn, i, hi => by
    rw [List.range_succ, List.foldl_append, List.foldl_cons, List.foldl_nil]
    by_cases hin : i = n
    · subst hin
      exact setBit_self _ _ (by omega)
    · rw [setBit_ne _ _ (by omega) hin]
      exact foldl_setBit_getLsbD f v n (by omega) i (by omega)

section
variable {s : State} {n part page : Nat}

theorem execTlbWalkComplete_waits {w : Walk} (hw : s.chip.walks[n]? = some w)
    (h : w.doneBeat = 0 ∨ s.chip.gts < w.doneBeat ∨ w.result.isSome = true) : execTlbWalkComplete n s = .next s := by
  simp only [execTlbWalkComplete, hw]
  exact if_pos h

/-- What a walk that ends now finds (23 R383). -/
def State.walkGot (s : State) (w : Walk) : Except Cause TlbEntry :=
  translateWalk s.mem (((BitVec.ofNat 64 (s.chip.owner w.owner).s1root).extractLsb' 12 36).toNat * 2 ^ 12)
    (s.chip.part (s.chip.owner w.owner).part).s2root w.owner w.page w.write

section
variable {w : Walk} (hw : s.chip.walks[n]? = some w) (h0 : w.doneBeat ≠ 0) (hle : w.doneBeat ≤ s.chip.gts) (hr : w.result = none)
include hw h0 hle hr

theorem execTlbWalkComplete_ends : execTlbWalkComplete n s =
    match s.walkGot w with
    | .ok e => .next (s.keep (wakeWalker (insertTlb { s.chip with walks := s.chip.walks.eraseIdx n } w.core e) w))
    | .error c => .next (s.keep (wakeWalker { s.chip with walks := s.chip.walks.set n { w with result := some (c, w.page) } } w)) := by
  simp only [execTlbWalkComplete, hw, State.walkGot, ← bitsOf_eq_extract]
  refine (if_neg ?_).trans ?_
  · rintro (h | h | h)
    · exact h0 h
    · exact Nat.not_le.mpr h hle
    · rw [hr] at h; cases h
  · rfl

theorem execTlbWalkComplete_finds {e : TlbEntry} (he : s.walkGot w = .ok e) : execTlbWalkComplete n s =
    .next (s.keep (wakeWalker (insertTlb { s.chip with walks := s.chip.walks.eraseIdx n } w.core e) w)) := by
  rw [execTlbWalkComplete_ends hw h0 hle hr, he]

theorem execTlbWalkComplete_faults {c : Cause} (he : s.walkGot w = .error c) : execTlbWalkComplete n s =
    .next (s.keep (wakeWalker { s.chip with walks := s.chip.walks.set n { w with result := some (c, w.page) } } w)) := by
  rw [execTlbWalkComplete_ends hw h0 hle hr, he]

end

theorem execTlbinv_starts {all : Bool} (h : (s.chip.part part).tlbinv = none) : execTlbinv part page all s =
    .next (s.keep { s.chip.setPart part { s.chip.part part with
                      tlbinv := some (page, all, s.chip.gts + 1 + Config.invBeats s.chip.fresh) } with
                    fresh := s.chip.fresh + 1 }) := by
  simp only [execTlbinv, h]

theorem execTlbinv_joins {all a : Bool} {q d : Nat} (h : (s.chip.part part).tlbinv = some (q, a, d)) : execTlbinv part page all s =
    .next (s.keep { s.chip.setPart part { s.chip.part part with
                      tlbinv := some (page, all || a || decide (q ≠ page), max d (s.chip.gts + 1 + Config.invBeats s.chip.fresh)) } with
                    fresh := s.chip.fresh + 1 }) := by
  simp only [execTlbinv, h]

theorem execTlbinvComplete_waits {q d : Nat} {a : Bool} (h : (s.chip.part part).tlbinv = some (q, a, d)) (hlt : s.chip.gts < d) :
    execTlbinvComplete part s = .next s := by
  simp only [execTlbinvComplete, h]
  exact if_pos hlt

theorem execTlbinvComplete_ends {q d : Nat} {a : Bool} (h : (s.chip.part part).tlbinv = some (q, a, d)) (hle : d ≤ s.chip.gts) :
    execTlbinvComplete part s = .next (s.keep (dropTlb (s.chip.setPart part { s.chip.part part with tlbinv := none }) part
      (fun t => a || t.page == q))) := by
  simp only [execTlbinvComplete, h]
  exact if_neg (Nat.not_lt.mpr hle)

theorem execTlbinvComplete_none (h : (s.chip.part part).tlbinv = none) : execTlbinvComplete part s = .next s := by
  simp only [execTlbinvComplete, h]

/-- A stack after the harvest of 64 dirty bits. -/
def Stack.harvested (k : Stack) (base : Nat) : Stack :=
  { k with
    dhbits := (List.range 64).foldl (fun (v : BitVec 64) i => setBit v i (k.dirty.contains (base + i))) 0#64
    dirty := k.dirty.filter (fun f => !(decide (base ≤ f) && decide (f < base + 64))) }

theorem execDharv_at {high group : BitVec 32} : execDharv high group s = .next (s.keep (s.chip.setStk (s.chip.msel.extractLsb' 0 3).toNat
    ((s.chip.stk (s.chip.msel.extractLsb' 0 3).toNat).harvested (group.toNat * 64)))) := by
  rw [← bitsOf_eq_extract]
  rfl

theorem harvested_dhbits (k : Stack) (base : Nat) {i : Nat} (hi : i < 64) :
    (k.harvested base).dhbits.getLsbD i = k.dirty.contains (base + i) :=
  foldl_setBit_getLsbD (fun i => k.dirty.contains (base + i)) 0#64 64 (Nat.le_refl 64) i hi

theorem mem_harvested_dirty {k : Stack} {base f : Nat} : f ∈ (k.harvested base).dirty ↔ f ∈ k.dirty ∧ (f < base ∨ base + 64 ≤ f) := by
  simp only [Stack.harvested, List.mem_filter, Bool.not_eq_true', Bool.and_eq_false_iff, decide_eq_false_iff_not, Nat.not_le, Nat.not_lt]

theorem execMemoryInterfaceApply_none (h : ∀ e, e ∈ s.chip.stores → canApply s.chip n e = false) : execMemoryInterfaceApply n s = .next s := by
  have hf : s.chip.stores.find? (canApply s.chip n) = none := List.find?_eq_none.mpr fun e he => ne_true_of_eq_false (h e he)
  rw [execMemoryInterfaceApply, hf]

theorem execMemoryInterfaceApply_first {e : Store} (hf : s.chip.stores.find? (canApply s.chip n) = some e) : execMemoryInterfaceApply n s =
    .next (s.keep { s.chip with
      stores := (s.chip.stores.map (fun f => if f.id = e.id then { f with applied := n :: f.applied } else f)).filter
        (fun f => decide (f.applied.length < 4)) }) := by
  rw [execMemoryInterfaceApply, hf]

section
variable {write : Bool} {addr : Nat} {data : List Byte}

theorem execHostMemoryAccess_error (h : inHbm addr = false ∨ s.chip.closed s.mem addr = true) :
    execHostMemoryAccess write addr data s = .next (s.keep (s.chip.emit .errorCompletion)) :=
  if_pos (by rcases h with h | h <;> simp [h])

theorem execHostMemoryAccess_open (hi : inHbm addr = true) (hc : s.chip.closed s.mem addr = false) : execHostMemoryAccess write addr data s =
    if s.chip.heldAt addr data.length then
      .next (s.keep { s.chip with inputs := s.chip.inputs ++ [(s.chip.gts + 1, .hostMemoryAccess write addr data)] })
    else if write then .next (s.commit (writeHome s.mem { chip := s.chip, writes := [] } 0 addr data))
    else .next (s.keep (s.chip.emit (.hostData (decrypt s.chip 0 addr (s.mem.readBytes addr data.length))))) :=
  if_neg (by simp [hi, hc])

end

end
end Sys2Proof.Machine
end

section
/-! SUPPORT. Walks, invalidation, harvest, the memory interfaces, accesses of the host (23 R382 to R394; 06 R410). -/

namespace Sys2Proof.Proofs
open Sys2Proof.Machine

/-- Settles O46: each event by its guard and its effect; a harvest bit by bit (`harvested_dhbits`), an invalidation entry by entry
(`mem_dropTlb`). -/
theorem translationEvents : Obligations.TranslationEvents := by
  intro s n part page addr all write high group data ch same p done inv tells home
  refine ⟨fun w hw h => execTlbWalkComplete_waits hw h, ?_, fun h => execTlbinv_starts h, fun q a d h => execTlbinv_joins h, ?_,
    fun h => execTlbinvComplete_none h, ?_, fun h => execMemoryInterfaceApply_none h, ?_, fun h => execHostMemoryAccess_error h, ?_, ?_⟩
  · intro w hw h0 hle hr o got wake
    exact ⟨fun e hg => execTlbWalkComplete_finds hw h0 hle hr hg, fun c hg => execTlbWalkComplete_faults hw h0 hle hr hg⟩
  · intro q a d h
    refine ⟨fun hlt => execTlbinvComplete_waits h hlt, fun hle => ⟨_, execTlbinvComplete_ends h hle, rfl, ?_, fun c e => ?_⟩⟩
    · exact congrArg Machine.Part.tlbinv (Tab.getD_set_self ..)
    · refine mem_dropTlb.trans (and_congr_right fun _ => not_congr (and_congr_right fun _ => ?_))
      rw [Bool.or_eq_true, beq_iff_eq]
  · intro m
    refine ⟨_, execDharv_at (high := high), rfl, fun i hi => ?_, fun f => ?_⟩
    · rw [State.keep_chip, Chip.stk_setStk]
      exact harvested_dhbits _ _ hi
    · rw [State.keep_chip, Chip.stk_setStk]
      exact mem_harvested_dirty
  · intro e l1 l2 hl h1 he
    refine execMemoryInterfaceApply_first ?_
    rw [show s.chip.stores = l1 ++ e :: l2 from hl, List.find?_append, List.find?_eq_none.mpr fun f hf => ne_true_of_eq_false (h1 f hf).1,
      List.find?_cons_of_pos he]
    rfl
  · exact fun hi hc hh => (execHostMemoryAccess_open hi hc).trans (if_pos hh)
  · intro hi hc hh
    have hopen {write : Bool} := (execHostMemoryAccess_open (write := write) hi hc).trans (if_neg (ne_true_of_eq_false hh))
    exact ⟨fun hw => hopen.trans (if_pos hw), fun hw => hopen.trans (if_neg (ne_true_of_eq_false hw))⟩

end Sys2Proof.Proofs
end

section
/-! SUPPORT. What a plan reads of the machine it leaves (09 R213 to R216, R224; 19 R343). -/

namespace Sys2Proof.Machine
variable (p : Planner) (o : Owner)

theorem Planner.flits_chip (path : List (Nat × Nat)) (ts : List (Nat × List Nat)) (lead fin : Nat → List Act) :
    (p.flits o path ts lead fin).1.chip = p.chip := by
  unfold Planner.flits
  exact List.foldlRecOn (motive := fun a : Planner × List (Nat × Nat) => a.1.chip = p.chip) _ _ rfl fun _ ha _ _ => ha

theorem Planner.links_chip (insts : List Nat) (t : Nat) (deps : List Nat) : (p.links o insts t deps).1.chip = p.chip := rfl

theorem Planner.linkRun_chip (insts : List Nat) (ts : List (Nat × List Nat)) : (p.linkRun o insts ts).1.chip = p.chip := by
  unfold Planner.linkRun
  exact List.foldlRecOn (motive := fun a : Planner × List (Nat × Nat) => a.1.chip = p.chip) _ _ rfl fun _ ha _ _ => ha

theorem Planner.request_chip (core t chan router : Nat) : (p.request o core t chan router).chip = p.chip := by
  unfold Planner.request
  split <;> rfl

theorem Planner.requestIo_chip (core t : Nat) (north : Bool) : (p.requestIo o core t north).chip = p.chip := by
  unfold Planner.requestIo
  split <;> rfl

theorem Planner.read_chip (ilv a sector t : Nat) : (p.read o ilv a sector t).1.chip = p.chip := by
  unfold Planner.read
  split
  · rfl
  · split <;> rfl

theorem Planner.ask_chip (ilv core t a : Nat) : (p.ask o ilv core t a).chip = p.chip := by
  unfold Planner.ask
  split
  · exact Planner.request_chip ..
  · split
    · exact Planner.requestIo_chip ..
    · rfl

theorem planRequests_chip (ilv core t : Nat) (addrs : List Nat) : (planRequests p o ilv core t addrs).chip = p.chip :=
  List.foldlRecOn (motive := fun q : Planner => q.chip = p.chip) _ _ rfl fun _ hq _ _ => (Planner.ask_chip ..).trans hq

theorem planUnit_chip (ilv t n : Nat) (u : CopyUnit) (a : ReadPlan) : (planUnit o ilv t n u a).plan.chip = a.plan.chip := by
  unfold planUnit
  refine List.foldlRecOn (motive := fun b : Planner × (Nat × List Nat) × List (Nat × Nat × Nat) => b.1.chip = a.plan.chip) _ _ rfl
    fun b hb part _ => ?_
  dsimp only
  split
  · exact hb
  · exact (Planner.read_chip ..).trans hb

theorem planInbound_chip (h : Handle) (us : List CopyUnit) (dests : List Nat) (any : Nat) (ready : Nat → Nat × List Nat)
    (fs : List (List Nat)) (prev : List (Nat × Nat)) : (planInbound o h us dests any ready fs p prev).chip = p.chip := by
  induction fs generalizing p prev with
  | nil => rfl
  | cons f rest ih =>
    rw [planInbound]
    exact (ih _ _).trans (List.foldlRecOn (motive := fun a : Planner × List (Nat × Nat × Nat) => a.1.chip = p.chip) _ _ rfl fun _ ha _ _ => ha)

theorem planIn_chip (core t : Nat) (h : Handle) (o0 e0 : Nat) (rows : List (Bool × Nat)) (pad : Pad) (dests : List Nat)
    (landed : Nat → Bool) : (planIn p o core t h o0 e0 rows pad dests landed).chip = p.chip := by
  unfold planIn
  refine (planInbound_chip ..).trans ?_
  refine List.foldlRecOn (motive := fun a : ReadPlan => a.plan.chip = p.chip) _ _ (planRequests_chip ..) fun a ha u _ => ?_
  exact iteInduction (motive := fun b : ReadPlan => b.plan.chip = p.chip) (fun _ => (planUnit_chip ..).trans ha) fun _ => ha

theorem planOut_chip (core t : Nat) (h : Handle) (us : List CopyUnit) (fs : List (List Nat)) : (planOut p o core t h us fs).chip = p.chip := by
  induction fs generalizing p with
  | nil => rfl
  | cons f rest ih =>
    rw [planOut]
    dsimp only
    split
    · exact ih p
    · refine (ih _).trans ?_
      exact List.foldlRecOn (motive := fun q : Planner => q.chip = p.chip) _ _ rfl fun _ hq _ _ => (Planner.write_chip ..).trans hq

theorem planLocal_chip (core src t first n : Nat) : (planLocal p o core src t first n).chip = p.chip :=
  List.foldlRecOn (motive := fun q : Planner => q.chip = p.chip) _ _ rfl fun _ hq _ _ => hq

theorem planMember_chip (ch : Chip) (m : Nat × (Nat × Nat)) (c t n asked : Nat) : (planMember p o ch m c t n asked).1.chip = p.chip := by
  unfold planMember
  cases h : m.2.1 != ch.devnum.toNat
  · exact Planner.flits_chip ..
  · exact (Planner.linkRun_chip ..).trans (Planner.flits_chip ..)

theorem planReduce_chip (ch : Chip) (core : Nat) (e : Group) (z : CollSize) (c0 t : Nat) : (planReduce ch o core e z c0 p t).chip = p.chip := by
  unfold planReduce
  refine List.foldlRecOn (motive := fun a : ChunkPlan => a.1.chip = p.chip) _ _ rfl fun a ha i _ => (Planner.flits_chip ..).trans ?_
  exact List.foldlRecOn (motive := fun b : ChunkPlan => b.1.chip = p.chip) _ _ ha fun _ hb _ _ => (planMember_chip ..).trans hb

theorem planBroadcast_chip (ch : Chip) (core : Nat) (e : Group) (z : CollSize) (c0 t : Nat) :
    (planBroadcast ch o core e z c0 p t).chip = p.chip := by
  unfold planBroadcast
  refine List.foldlRecOn (motive := fun a : ChunkPlan => a.1.chip = p.chip) _ _ rfl fun a ha i _ => ?_
  refine List.foldlRecOn (motive := fun b : ChunkPlan => b.1.chip = p.chip) _ _ ((Planner.flits_chip ..).trans ha) fun b hb m _ => ?_
  refine (Planner.flits_chip ..).trans ?_
  split
  · exact (Planner.linkRun_chip ..).trans hb
  · exact hb

end Sys2Proof.Machine
end

section
/-! SUPPORT. What happens to an owner (02 R33; 21 R364 to R370). -/

namespace Sys2Proof.Machine
variable {s : State} {on : Nat}

theorem Owner.stops_iff {o : Owner} {g : Nat} (hg : o.freezeAt = some g) :
    o.stops = true ↔ ¬ ∃ r, o.rephase = some r ∧ r.release.isSome = true := by
  rw [Owner.stops, hg]
  cases o.rephase <;> simp

theorem execFreezeBegin_begins (hs : (s.chip.owner on).state = .running) (hf : (s.chip.owner on).freezeAt = some s.chip.gts)
    (hr : ¬ ∃ r, (s.chip.owner on).rephase = some r ∧ r.release.isSome = true) :
    execFreezeBegin (.own on) s = .next (s.keep (s.chip.setOwner on { s.chip.owner on with state := .frozen })) :=
  if_pos ⟨hs, hf, (Owner.stops_iff hf).mpr hr⟩

theorem execFreezeBegin_idle (h : (s.chip.owner on).state ≠ .running ∨ (s.chip.owner on).freezeAt ≠ some s.chip.gts ∨
    ∃ r, (s.chip.owner on).rephase = some r ∧ r.release.isSome = true) : execFreezeBegin (.own on) s = .next s := by
  refine if_neg fun ⟨hs, hf, hst⟩ => ?_
  rcases h with h | h | h
  · exact h hs
  · exact h hf
  · exact (Owner.stops_iff hf).mp hst h

theorem peerOrder_freeze {ch : Chip} {g : Nat} (hn : 1 < (ch.owner on).ndev) (hs : (ch.owner on).state = .running)
    (hr : (ch.owner on).rephase = none) (hf : (ch.owner on).freezeAt = none) (hg : ch.gts < g) :
    peerOrder ch on (.freeze g) = ch.setOwner on { ch.owner on with freezeAt := some g, thawAt := none } := by
  rw [peerOrder, if_neg (Nat.not_le.mpr hn)]
  exact (if_pos hg).trans (by rw [beginFreeze_running hs hr, hf]; rfl)

/-! ### Thaws -/

theorem bindAccount_owner (m : Memory) (ch : Chip) : ∃ a, (bindAccount m ch on).owner on = { ch.owner on with acct := a } := by
  unfold bindAccount
  dsimp only
  split
  · exact ⟨_, rfl⟩
  · exact ⟨_, Chip.owner_setOwner ..⟩

/-- Planning a piece of work anew moves no strand and no owner. -/
theorem replanWork_steady (ch : Chip) (w : Nat) (k : Work) : ch.Steady (replanWork ch w k) := by
  unfold replanWork
  split
  · exact .refl ch
  · dsimp only
    split
    · refine Planner.finish_steady ch ?_
      split
      · exact planOut_chip ..
      · split
        · exact planLocal_chip ..
        · exact planIn_chip ..
    · split
      · exact Planner.finish_steady ch (planReduce_chip ..)
      · exact .refl ch
    · split
      · exact Planner.finish_steady ch (planBroadcast_chip ..)
      · exact .refl ch
    · exact .refl ch

theorem replanAll_steady (ch : Chip) (on : Nat) : ch.Steady (replanAll ch on) := by
  unfold replanAll
  dsimp only
  refine .trans ?_ (.foldl (fun ch (e : Nat × Work) => replanWork_steady ch e.1 e.2) _ _)
  refine .trans ?_ (setOwner_resv_steady _ on _)
  exact .of_eq rfl rfl rfl

theorem execThawResume_frozen (ht : (s.chip.owner on).thawAt = some s.chip.gts) (hs : (s.chip.owner on).state = .frozen) :
    execThawResume on s = .next (s.keep (s.chip.setOwner on { s.chip.owner on with
      state := if (s.chip.strandsOf on).all (fun e => e.2.run.reported) then .halted else .running, freezeAt := none, thawAt := none })) := by
  refine (if_neg (not_not.mpr ht)).trans ?_
  dsimp only
  rw [hs]

/-- An owner that has thawed after a restore; `ended` is whether every strand of it has reported. -/
def Owner.thawed (o : Owner) (ended : Bool) : Owner :=
  { o with state := if ended then .halted else .running, freezeAt := none, thawAt := none, preempt := none, placed := [], resv := [] }
/-- A strand that resumes: its stalls move on, its monitors are marked. -/
def Strand.thawed (st : Strand) (from_ now : Nat) : Strand :=
  { st with run := { st.run with stall := st.run.stall.bind (·.thawed from_ now), hstall := st.run.hstall.bind (·.thawed from_ now) },
            monitors := st.monitors.map (fun k => { k with restored := true }) }
/-- A machine without the record that an owner was restored from. -/
def Chip.dropRecord (ch : Chip) (on : Nat) : Chip :=
  match (ch.owner on).preempt with | some p => { ch with saved := ch.saved.del p.ctx } | none => ch
/-- A machine whose restored owner is running again, with its account. -/
def Chip.thawOwner (ch : Chip) (m : Memory) (on : Nat) : Chip :=
  bindAccount m ((ch.dropRecord on).setOwner on ((ch.owner on).thawed ((ch.strandsOf on).all (fun e => e.2.run.reported)))) on

theorem execThawResume_restored (ht : (s.chip.owner on).thawAt = some s.chip.gts) (hs : (s.chip.owner on).state = .ready) :
    execThawResume on s = .next (s.keep (replanAll ((s.chip.thawOwner s.mem on).mapStrands on
      (·.thawed ((s.chip.owner on).freezeAt.getD s.chip.gts) (s.chip.thawOwner s.mem on).gts)) on)) := by
  refine (if_neg (not_not.mpr ht)).trans ?_
  dsimp only
  rw [hs]
  rfl

theorem Chip.thawOwner_owner (ch : Chip) (m : Memory) (on : Nat) :
    ∃ b a, (ch.thawOwner m on).owner on = { (ch.owner on).thawed b with acct := a } := by
  obtain ⟨a, ha⟩ := bindAccount_owner (on := on) m
    ((ch.dropRecord on).setOwner on ((ch.owner on).thawed ((ch.strandsOf on).all (fun e => e.2.run.reported))))
  rw [Chip.owner_setOwner] at ha
  exact ⟨_, a, ha⟩

/-- A restored owner that thaws runs, or is halted, and nothing of its pre-emption is left. -/
theorem execThawResume_ready (ht : (s.chip.owner on).thawAt = some s.chip.gts) (hs : (s.chip.owner on).state = .ready) :
    ∃ t, execThawResume on s = .next t ∧ t.mem = s.mem ∧ ((t.chip.owner on).state = .running ∨ (t.chip.owner on).state = .halted) ∧
      (t.chip.owner on).preempt = none ∧ (t.chip.owner on).freezeAt = none ∧ (t.chip.owner on).thawAt = none := by
  have hrun := execThawResume_restored ht hs
  have hsteady := (replanAll_steady ((s.chip.thawOwner s.mem on).mapStrands on
    (·.thawed ((s.chip.owner on).freezeAt.getD s.chip.gts) (s.chip.thawOwner s.mem on).gts)) on).owners on
  obtain ⟨b, a, ho⟩ := s.chip.thawOwner_owner s.mem on
  rw [mapStrands_owner, ho] at hsteady
  generalize replanAll _ _ = t at hrun hsteady
  refine ⟨_, hrun, rfl, ?_, congrArg Owner.preempt hsteady, congrArg Owner.freezeAt hsteady, congrArg Owner.thawAt hsteady⟩
  have hstate : _ = if b then OwnerState.halted else .running := congrArg Owner.state hsteady
  cases b
  · exact .inl hstate
  · exact .inr hstate

/-! ### Re-phases -/

/-- A strand that a re-phase holds no longer. -/
def Strand.unheld (st : Strand) : Strand :=
  match st.run.stall with
  | some k => if k.kind = .rephaseHold then { st with run := { st.run with stall := none } } else st
  | none => st

theorem Strand.unheld_stall (st : Strand) : (st.unheld.run.stall.map (·.kind)) ≠ some .rephaseHold := by
  rw [Strand.unheld]
  split
  · next k hk =>
    split
    · exact nofun
    · next hne => rw [hk]; exact fun h => hne (Option.some.inj h)
  · next hk => rw [hk]; exact nofun

theorem execRephase_none {on : Nat} (hr : (s.chip.owner on).rephase = none) :
    execRephaseRelease on s = .next s ∧ execRephaseResume on s = .next s ∧ execRephaseAbandon on s = .next s := by
  refine ⟨?_, if_neg fun h => ?_, ?_⟩
  · simp only [execRephaseRelease, hr]
  · rw [hr] at h
    exact Bool.false_ne_true h.1
  · simp only [execRephaseAbandon, hr]

variable {r : Rephase} (hr : (s.chip.owner on).rephase = some r)
include hr

theorem execRephaseRelease_release (hg : r.release = some s.chip.gts) (hf : (s.chip.owner on).freezeAt = none) :
    execRephaseRelease on s = .next (s.keep ((s.chip.setOwner on
      { s.chip.owner on with freezeAt := some s.chip.gts, thawAt := some (s.chip.gts + r.delta), last := 0 }).mapStrands on Strand.unheld)) := by
  simp only [execRephaseRelease, hr]
  exact if_pos ⟨hg, congrArg Option.isNone hf⟩

theorem execRephaseRelease_at (hg : r.release = some s.chip.gts) (hf : (s.chip.owner on).freezeAt = none) :
    ∃ t, execRephaseRelease on s = .next t ∧ t.mem = s.mem ∧
      t.chip.owner on = { s.chip.owner on with freezeAt := some s.chip.gts, thawAt := some (s.chip.gts + r.delta), last := 0 } ∧
      ∀ c sl st, t.chip.strand? c sl = some st → st.place.owner = on → (st.run.stall.map (·.kind)) ≠ some .rephaseHold := by
  refine ⟨_, execRephaseRelease_release hr hg hf, rfl, ?_, fun c sl st hst hown => ?_⟩
  · rw [State.keep_chip, mapStrands_owner, Chip.owner_setOwner]
  · rw [State.keep_chip, mapStrands_strand?_eq, Option.map_eq_some_iff] at hst
    obtain ⟨st0, -, rfl⟩ := hst
    by_cases hmine : st0.place.owner = on
    · rw [if_pos hmine]
      exact st0.unheld_stall
    · rw [if_neg hmine] at hown
      exact absurd hown hmine

theorem execRephaseRelease_idle (hg : r.release ≠ some s.chip.gts) : execRephaseRelease on s = .next s := by
  simp only [execRephaseRelease, hr]
  exact if_neg fun h => hg h.1

theorem execRephaseResume_at (ht : (s.chip.owner on).thawAt = some s.chip.gts) (hg : r.release.isSome = true) :
    ∃ t, execRephaseResume on s = .next t ∧ t.mem = s.mem ∧
      t.chip.owner on = { s.chip.owner on with rephase := none, freezeAt := none, thawAt := none, last := 0 } := by
  have hrun : execRephaseResume on s = _ := if_pos ⟨by rw [hr]; exact hg, ht⟩
  refine ⟨_, hrun, rfl, ?_⟩
  rw [State.keep_chip, mapStrands_owner, Chip.owner_setOwner]

theorem execRephaseResume_idle (h : (s.chip.owner on).thawAt ≠ some s.chip.gts ∨ r.release = none) : execRephaseResume on s = .next s := by
  refine if_neg fun ⟨hany, ht⟩ => ?_
  rw [hr] at hany
  rcases h with h | h
  · exact h ht
  · rw [Option.any_some, h] at hany; cases hany

theorem execRephaseAbandon_at {b : Nat} (hl : r.limit = some b) (hg : r.release = none) (hb : b ≤ s.chip.gts) :
    ∃ t, execRephaseAbandon on s = .next t ∧ t.mem = s.mem ∧ t.chip.owner on = { s.chip.owner on with rephase := none, last := 11 } := by
  have hrun : execRephaseAbandon on s = .next (s.keep (abandonRephase s.chip on)) := by
    simp only [execRephaseAbandon, hr, hl, hg]
    exact if_pos hb
  have hstep : (s.chip.owner on).stepped s.chip.gts = 0 := by simp only [Owner.stepped, hr, hg]
  refine ⟨_, hrun, rfl, ?_⟩
  rw [State.keep_chip]
  simp only [abandonRephase, hr, hstep]
  rw [if_neg (not_not.mpr rfl), mapStrands_owner, Chip.owner_setOwner]

theorem execRephaseAbandon_idle (h : r.limit = none ∨ r.release.isSome = true) : execRephaseAbandon on s = .next s := by
  simp only [execRephaseAbandon, hr]
  split
  · next hl hg =>
    rcases h with h | h
    · rw [h] at hl; cases hl
    · rw [hg] at h; cases h
  · rfl

end Sys2Proof.Machine
end

section
/-! SUPPORT. Admissions of several devices, windows and collection (08 R189 to R191; 21 R359). -/

namespace Sys2Proof.Machine
variable {s : State} {on : Nat} {p : Preempt}

/-- A strand after an admission's limit has passed. -/
def Strand.admitOver (st : Strand) (grp now : Nat) : Strand :=
  match st.ct.wait with
  | .admitWait g t none => if g = grp ∧ t + 2 ^ 24 ≤ now then { st with ct := { st.ct with wait := .admitWait g t (some 10) } } else st
  | _ => st

theorem execAdmitTimeout_at (grp : Nat) : ∃ t, execAdmitTimeout grp s = .next t ∧ t.mem = s.mem ∧
    ∀ c sl, t.chip.strand? c sl = (s.chip.strand? c sl).map (·.admitOver grp s.chip.gts) := by
  refine ⟨_, rfl, rfl, fun c sl => ?_⟩
  rw [State.keep_chip, Chip.strand?, Chip.strand?, ← Tab.get?_map (f := fun _ (st : Strand) => st.admitOver grp s.chip.gts)]
  refine congrArg (Tab.get? · _) (List.map_congr_left fun e _ => ?_)
  split
  · next g t hw =>
    simp only [Strand.admitOver, hw]
    split <;> rfl
  · next hne =>
    rw [Strand.admitOver]
    split
    · next hw => exact absurd hw (hne _ _)
    · rfl

theorem Strand.admitOver_past {st : Strand} {grp b now : Nat} (hw : st.ct.wait = .admitWait grp b none) (hb : b + 2 ^ 24 ≤ now) :
    (st.admitOver grp now).ct.wait = .admitWait grp b (some 10) := by
  rw [Strand.admitOver, hw]
  dsimp only
  rw [if_pos ⟨rfl, hb⟩]

theorem Strand.admitOver_before {st : Strand} {grp b now : Nat} (hw : st.ct.wait = .admitWait grp b none) (hb : now < b + 2 ^ 24) :
    st.admitOver grp now = st := by
  rw [Strand.admitOver, hw]
  exact if_neg fun h => Nat.not_le.mpr hb h.2

/-- Every strand of an owner, here and on its other devices, has recorded its mask. -/
def Chip.windowReady (ch : Chip) (on : Nat) : Bool :=
  (decide ((ch.owner on).ndev ≤ 1) || Config.peersPrept ch.gts) && (ch.strandsOf on).all (fun e => e.2.run.preptMask.isSome)

section
variable (hs : (s.chip.owner on).state = .window) (hp : (s.chip.owner on).preempt = some p)
include hs hp

theorem execPreptWindowExpiry_waits (h : s.chip.gts < p.g ∨ (s.chip.gts < p.windowEnd ∧ s.chip.windowReady on = false)) :
    execPreptWindowExpiry on s = .next s := by
  simp only [execPreptWindowExpiry, hs, hp]
  exact if_pos h

theorem execPreptWindowExpiry_over (h : ¬ (s.chip.gts < p.g ∨ (s.chip.gts < p.windowEnd ∧ s.chip.windowReady on = false))) :
    ∃ due from_ f, execPreptWindowExpiry on s = .next (s.keep (({ s.chip with fresh := s.chip.fresh + 1 }.setOwner on
      { s.chip.owner on with state := .collect, freezeAt := some from_, thawAt := none,
                             preempt := some { p with gf := s.chip.gts, unitDue := due } }).mapStrands on f)) := by
  simp only [execPreptWindowExpiry, hs, hp]
  exact ⟨_, _, _, if_neg h⟩

theorem execPreptWindowExpiry_ends (hg : p.g ≤ s.chip.gts) (h : p.windowEnd ≤ s.chip.gts ∨ s.chip.windowReady on = true) :
    ∃ t, execPreptWindowExpiry on s = .next t ∧ t.mem = s.mem ∧ (t.chip.owner on).state = .collect ∧ (t.chip.owner on).thawAt = none ∧
      ((t.chip.owner on).preempt.map (·.gf)) = some s.chip.gts := by
  have hwait : ¬ (s.chip.gts < p.g ∨ (s.chip.gts < p.windowEnd ∧ s.chip.windowReady on = false)) := by
    rintro (h' | ⟨hlt, hready⟩)
    · exact Nat.not_lt.mpr hg h'
    · rcases h with h | h
      · exact Nat.not_lt.mpr h hlt
      · exact Bool.false_ne_true (hready.symm.trans h)
  obtain ⟨due, from_, f, hrun⟩ := execPreptWindowExpiry_over hs hp hwait
  refine ⟨_, hrun, rfl, ?_⟩
  rw [State.keep_chip, mapStrands_owner, Chip.owner_setOwner]
  exact ⟨rfl, rfl, rfl⟩

end

section
variable (hs : (s.chip.owner on).state = .collect) (hp : (s.chip.owner on).preempt = some p)
include hs hp

theorem execCollectComplete_waits (h : s.chip.gts < p.unitDue ∨ (outOpen s.chip on = true ∧ s.chip.gts < p.gf + 2048)) :
    execCollectComplete on s = .next s := by
  simp only [execCollectComplete, hs, hp]
  exact if_pos h

theorem execCollectComplete_over (h : ¬ (s.chip.gts < p.unitDue ∨ (outOpen s.chip on = true ∧ s.chip.gts < p.gf + 2048))) :
    ∃ (ch : Chip) (o : Owner),
      execCollectComplete on s = .next (s.commit ⟨ch.setOwner on o, (cancelPending s.mem ⟨s.chip, []⟩ on).writes⟩) ∧ o.state = .save ∧
      (ch.saved.get? p.ctx).map (·.owner) = some on ∧ ∀ e, e ∈ ch.strands → e.2.place.owner ≠ on := by
  simp only [execCollectComplete, hs, hp]
  refine ⟨_, _, if_neg h, rfl, ?_, fun e he => bne_iff_ne.mp (List.mem_filter.mp he).2⟩
  rw [Tab.get?_set_self]
  rfl

/-- What the collector has taken is in the context's record, and no strand of the owner is left. -/
theorem execCollectComplete_ends (h : ¬ (s.chip.gts < p.unitDue ∨ (outOpen s.chip on = true ∧ s.chip.gts < p.gf + 2048))) :
    ∃ t, execCollectComplete on s = .next t ∧ t.mem = writeAll s.mem (cancelPending s.mem ⟨s.chip, []⟩ on).writes ∧
      (t.chip.owner on).state = .save ∧ (t.chip.saved.get? p.ctx).map (·.owner) = some on ∧ ∀ e, e ∈ t.chip.strands → e.2.place.owner ≠ on := by
  obtain ⟨ch, o, hrun, hst, hsaved, hgone⟩ := execCollectComplete_over hs hp h
  refine ⟨_, hrun, rfl, ?_, hsaved, hgone⟩
  rw [State.commit_chip, Chip.owner_setOwner]
  exact hst

end

end Sys2Proof.Machine
end

section
/-! SUPPORT. The units of a save and of a restore, and what halts (07 R173; 08 R194 to R196). -/

namespace Sys2Proof.Machine
variable {s : State} {on : Nat} {p : Preempt}

theorem setOwner_state (ch : Chip) (on : Nat) (w : Owner) : ((ch.setOwner on w).owner on).state = w.state :=
  congrArg Owner.state (Chip.owner_setOwner ..)

theorem releaseAccount_state (r : Res) (on : Nat) : ((releaseAccount r on).chip.owner on).state = (r.chip.owner on).state := by
  unfold releaseAccount
  dsimp only
  split
  · rfl
  · split
    · exact setOwner_state ..
    · exact (congrArg Owner.state ((written_steady ..).owners on)).trans (setOwner_state r.chip on _)

theorem ctxDone_owner (ch : Chip) (issuer : Option (Nat × Nat)) (ctx n : Nat) : (ctxDone ch issuer ctx).owner n = ch.owner n := by
  unfold ctxDone
  split <;> rfl

section
variable (hs : (s.chip.owner on).state = .save) (hp : (s.chip.owner on).preempt = some p)
include hs hp

theorem execContextSaveUnit_waits (h : s.chip.gts < p.unitDue) : execContextSaveUnit on s = .next s := by
  simp only [execContextSaveUnit, hs, hp]
  exact if_pos h

variable (hd : p.unitDue ≤ s.chip.gts)
include hd

/-- After its last unit an owner is saved. -/
theorem execContextSaveUnit_last (hc : (s.chip.owner on).hdr.cores[p.unit / unitsEach]? = none)
    (hu : spillAt s.chip p (s.chip.owner on).hdr.ncore = none) :
    ∃ t, execContextSaveUnit on s = .next t ∧ (t.chip.owner on).state = .saved := by
  have hrun : execContextSaveUnit on s = .next (s.commit (releaseAccount ⟨ctxDone (s.chip.setOwner on
      { s.chip.owner on with state := .saved, preempt := some p }) p.issuer p.ctx, []⟩ on)) := by
    simp only [execContextSaveUnit, hs, hp, hc, hu]
    exact if_neg (Nat.not_lt.mpr hd)
  refine ⟨_, hrun, ?_⟩
  rw [State.commit_chip, releaseAccount_state, ctxDone_owner, Chip.owner_setOwner]

variable {l : Leaf}

theorem execContextSaveUnit_spilled {r : SavedStrand} {i j : Nat} (hc : (s.chip.owner on).hdr.cores[p.unit / unitsEach]? = none)
    (hu : spillAt s.chip p (s.chip.owner on).hdr.ncore = some (r, i, j))
    (hl : stage2 s.mem (s.chip.part (s.chip.owner on).part).s2root
      (spillIpa (s.chip.part (s.chip.owner on).part).savebase p.ctx i j) true = some l)
    (hh : unitHeld s.chip l (spillIpa (s.chip.part (s.chip.owner on).part).savebase p.ctx i j) = false) :
    execContextSaveUnit on s = .next (s.commit (bulkWrite s.mem ⟨nextUnit s.chip on (s.chip.owner on) p (p.unit + 1), []⟩ l
      (spillIpa (s.chip.part (s.chip.owner on).part).savebase p.ctx i j) (r.spillBytes j))) := by
  simp only [execContextSaveUnit, hs, hp, hc, hu, hl]
  exact (if_neg (Nat.not_lt.mpr hd)).trans (if_neg (ne_true_of_eq_false hh))

variable {c : Nat} (hc : (s.chip.owner on).hdr.cores[p.unit / unitsEach]? = some c)
  (hl : stage2 s.mem (s.chip.part (s.chip.owner on).part).s2root
    (unitIpa (s.chip.part (s.chip.owner on).part).savebase p.ctx (p.unit / unitsEach) (p.unit % unitsEach)) true = some l)
include hc hl

theorem execContextSaveUnit_buffer : execContextSaveUnit on s =
    if unitHeld s.chip l (unitIpa (s.chip.part (s.chip.owner on).part).savebase p.ctx (p.unit / unitsEach) (p.unit % unitsEach)) then .next s
    else .next (s.commit (bulkWrite s.mem ⟨nextUnit s.chip on (s.chip.owner on) p (p.unit + 1), []⟩ l
      (unitIpa (s.chip.part (s.chip.owner on).part).savebase p.ctx (p.unit / unitsEach) (p.unit % unitsEach))
      (s.mem.readBytes (unitAddr c (p.unit % unitsEach)) 4096))) := by
  simp only [execContextSaveUnit, hs, hp, hc, hl]
  exact if_neg (Nat.not_lt.mpr hd)

end

theorem addRecord_owner (ch : Chip) (part n : Nat) (r : KRecord) : (ch.addRecord part r).owner n = ch.owner n := rfl

theorem engineRecord_owner (ch : Chip) (on core slot n : Nat) (c : Cause) (fa : Word) : (engineRecord ch on core slot c fa).owner n = ch.owner n := by
  unfold engineRecord causeOn
  dsimp only
  split <;> rfl

theorem restoreStaged_owner (ch : Chip) (ctx n : Nat) : (restoreStaged ch ctx).owner n = ch.owner n := by
  unfold restoreStaged
  split
  · rfl
  · refine List.foldlRecOn (motive := fun c : Chip => c.owner n = ch.owner n) _ _ rfl fun c hc r _ => ?_
    refine List.foldlRecOn (motive := fun a : Chip × List Byte => a.1.owner n = ch.owner n) _ _ hc fun a ha e _ => ?_
    split
    · split
      · exact ha
      · exact ha
    · exact ha

section
variable (hs : (s.chip.owner on).state = .load) (hp : (s.chip.owner on).preempt = some p)
include hs hp

theorem execContextLoadUnit_waits (h : s.chip.gts < p.unitDue ∨ bulkUnits s.chip p (s.chip.owner on).hdr.ncore < p.unit) :
    execContextLoadUnit on s = .next s := by
  simp only [execContextLoadUnit, hs, hp]
  exact if_pos h

variable (hd : p.unitDue ≤ s.chip.gts) (hn : p.unit ≤ bulkUnits s.chip p (s.chip.owner on).hdr.ncore)
include hd hn

theorem not_unit_waits : ¬ (s.chip.gts < p.unitDue ∨ bulkUnits s.chip p (s.chip.owner on).hdr.ncore < p.unit) :=
  not_or.mpr ⟨Nat.not_lt.mpr hd, Nat.not_lt.mpr hn⟩

/-- After its last unit an owner is READY, unless one of its records fails its check. -/
theorem execContextLoadUnit_last (hc : (s.chip.owner on).hdr.cores[p.unit / unitsEach]? = none)
    (hu : spillAt s.chip p (s.chip.owner on).hdr.ncore = none) :
    ∃ t, execContextLoadUnit on s = .next t ∧ t.mem = s.mem ∧
      (t.chip.owner on).state = (if (badRecord s.chip p.ctx).isSome then .load else .ready) := by
  cases hb : badRecord s.chip p.ctx with
  | none =>
    refine ⟨s.keep (ctxDone (restoreStaged (s.chip.setOwner on { s.chip.owner on with state := .ready }) p.ctx) p.issuer p.ctx), ?_, rfl, ?_⟩
    · simp only [execContextLoadUnit, hs, hp, hc, hu, hb]
      exact if_neg (not_unit_waits hs hp hd hn)
    · rw [State.keep_chip, ctxDone_owner, restoreStaged_owner, Chip.owner_setOwner]
      rfl
  | some v =>
    have hrun : ∃ core slot, execContextLoadUnit on s = .next (s.keep (engineRecord (s.chip.setOwner on
        { s.chip.owner on with preempt := some { p with unit := p.unit + 1 } }) on core slot .shadowUncorrected (noAddr .shadowUncorrected))) := by
      simp only [execContextLoadUnit, hs, hp, hc, hu, hb]
      exact ⟨_, _, if_neg (not_unit_waits hs hp hd hn)⟩
    obtain ⟨core, slot, hrun⟩ := hrun
    refine ⟨_, hrun, rfl, ?_⟩
    rw [State.keep_chip, engineRecord_owner, Chip.owner_setOwner]
    exact hs

theorem execContextLoadUnit_buffer {c : Nat} {l : Leaf} (hc : (s.chip.owner on).hdr.cores[p.unit / unitsEach]? = some c)
    (hw : stillSaving s.chip on c = false)
    (hl : stage2 s.mem (s.chip.part (s.chip.owner on).part).s2root
      (unitIpa (s.chip.part (s.chip.owner on).part).savebase p.ctx (p.unit / unitsEach) (p.unit % unitsEach)) false = some l)
    (hh : unitHeld s.chip l (unitIpa (s.chip.part (s.chip.owner on).part).savebase p.ctx (p.unit / unitsEach) (p.unit % unitsEach)) = false)
    (hm : unitMine s.chip on c (p.unit % unitsEach) = true) : execContextLoadUnit on s = .next (s.commit
      (writeHome s.mem ⟨nextUnit s.chip on (s.chip.owner on) p (p.unit + 1), []⟩ 0 (unitAddr c (p.unit % unitsEach))
        (bulkRead s.mem s.chip l c
          (unitIpa (s.chip.part (s.chip.owner on).part).savebase p.ctx (p.unit / unitsEach) (p.unit % unitsEach)) 4096))) := by
  simp only [execContextLoadUnit, hs, hp, hc, hl, hm]
  exact (if_neg (not_unit_waits hs hp hd hn)).trans ((if_neg (ne_true_of_eq_false hw)).trans (if_neg (ne_true_of_eq_false hh)))

end

/-! ### Halted strands -/

/-- Engine work or lane stores of a strand that its report waits for. -/
def Chip.haltBusy (ch : Chip) (core slot : Nat) (st : Strand) : Bool :=
  (ch.worksOf core slot).any (fun e => !e.2.seenDone ch.gts) || !st.lane.queue.isEmpty || decide (st.lane.wdone < st.lane.wissued)
/-- A strand that has reported that it has halted. -/
def Strand.reporting (st : Strand) : Strand := { st with run := { st.run with reported := true } }

section
variable {core slot : Nat} {st : Strand} (hst : s.chip.strand? core slot = some st)
include hst

theorem execHaltReported_idle (h : st.run.halted = false ∨ st.run.reported = true ∨ s.chip.haltBusy core slot st = true) :
    execHaltReported core slot s = .next s := by
  simp only [execHaltReported, hst]
  refine if_pos ?_
  rw [Bool.or_eq_true, Bool.or_eq_true, Bool.not_eq_true', or_assoc]
  exact h

/-- A strand that reports; its owner is halted with the last of its strands. -/
theorem execHaltReported_at (hh : st.run.halted = true) (hr : st.run.reported = false) (hb : s.chip.haltBusy core slot st = false) :
    ∃ t, execHaltReported core slot s = .next t ∧ t.mem = s.mem ∧ t.chip.strand? core slot = some st.reporting ∧
      ((∀ e, e ∈ t.chip.strandsOf st.place.owner → e.2.run.reported = true) →
        (s.chip.owner st.place.owner).state = .running ∨ (s.chip.owner st.place.owner).state = .frozen →
        (t.chip.owner st.place.owner).state = .halted) := by
  have hrun : execHaltReported core slot s =
      if !((s.chip.setStrand core slot st.reporting).strandsOf st.place.owner).all (fun e => e.2.run.reported) then
        .next (s.keep (s.chip.setStrand core slot st.reporting))
      else match (s.chip.owner st.place.owner).state with
        | .running => .next (s.keep ((s.chip.setStrand core slot st.reporting).setOwner st.place.owner
            { s.chip.owner st.place.owner with state := .halted }))
        | .frozen => .next (s.keep ((s.chip.setStrand core slot st.reporting).setOwner st.place.owner
            { s.chip.owner st.place.owner with state := .halted, freezeAt := none, thawAt := none }))
        | _ => .next (s.keep (s.chip.setStrand core slot st.reporting)) := by
    simp only [execHaltReported, hst]
    refine (if_neg ?_).trans rfl
    rw [Bool.or_eq_true, Bool.or_eq_true, Bool.not_eq_true', hh, hr, or_assoc]
    exact fun h => h.elim nofun fun h => h.elim nofun fun h => Bool.false_ne_true (hb.symm.trans h)
  rw [hrun]
  have hme : (s.chip.setStrand core slot st.reporting).strand? core slot = some st.reporting := Chip.strand?_setStrand ..
  split
  · next hall =>
    refine ⟨_, rfl, rfl, hme, fun h _ => ?_⟩
    rw [Bool.not_eq_true', ← Bool.not_eq_true, List.all_eq_true] at hall
    exact absurd h hall
  · split
    · exact ⟨_, rfl, rfl, hme, fun _ _ => congrArg Owner.state (Chip.owner_setOwner ..)⟩
    · exact ⟨_, rfl, rfl, hme, fun _ _ => congrArg Owner.state (Chip.owner_setOwner ..)⟩
    · next hnr hnf => exact ⟨_, rfl, rfl, hme, fun _ h => h.elim (absurd · hnr) (absurd · hnf)⟩

end

end Sys2Proof.Machine
end

section
/-! SUPPORT. Records and their answers (08 R186). -/

namespace Sys2Proof.Machine
variable {s : State}

/-- The ring of a partition's K or H queue: entries, the next head, and the address of the head's entry. -/
def Part.ringSize (p : Part) (hyper : Bool) : Nat := ((if hyper then p.hqbase else p.kqbase).extractLsb' 48 16).toNat
def Part.ringHead (p : Part) (hyper : Bool) : BitVec 16 := if hyper then p.hqhead else p.kqhead
def Part.ringTail (p : Part) (hyper : Bool) : BitVec 16 := if hyper then p.hqtail else p.kqtail
def Part.ringAddr (p : Part) (hyper : Bool) : Nat :=
  ((if hyper then p.hqbase else p.kqbase).extractLsb' 5 43).toNat * 32 + (p.ringHead hyper).toNat * 32
/-- A partition whose queue has taken a record. -/
def Part.appended (p : Part) (hyper : Bool) (r : KRecord) : Part :=
  if hyper then { p with records := p.records.erase r, hqhead := BitVec.ofNat 16 (((p.ringHead hyper).toNat + 1) % p.ringSize hyper) }
  else { p with records := p.records.erase r, kqhead := BitVec.ofNat 16 (((p.ringHead hyper).toNat + 1) % p.ringSize hyper) }

theorem execKrecordAppend_next {part : Nat} {hyper : Bool} {r : KRecord}
    (hr : nextRecord ((s.chip.part part).records.filter (fun r => r.hyper == hyper)) = some r) : execKrecordAppend part hyper s =
      if (s.chip.part part).ringSize hyper ≤ 1 ∨
          (((s.chip.part part).ringHead hyper).toNat + 1) % (s.chip.part part).ringSize hyper = ((s.chip.part part).ringTail hyper).toNat then .next s
      else if s.chip.heldAt ((s.chip.part part).ringAddr hyper) 32 then .next s
      else .next (s.commit (writeOwn s.mem ⟨s.chip.setPart part ((s.chip.part part).appended hyper r), []⟩ ((s.chip.part part).ringAddr hyper)
        (r.words.flatMap wordBytes))) := by
  simp only [execKrecordAppend, hr, bitsOf_eq_extract]
  rfl

theorem execKrecordAppend_full {part : Nat} {hyper : Bool} {r : KRecord}
    (hr : nextRecord ((s.chip.part part).records.filter (fun r => r.hyper == hyper)) = some r) (h : (s.chip.part part).ringSize hyper ≤ 1 ∨
      (((s.chip.part part).ringHead hyper).toNat + 1) % (s.chip.part part).ringSize hyper = ((s.chip.part part).ringTail hyper).toNat ∨
      s.chip.heldAt ((s.chip.part part).ringAddr hyper) 32 = true) : execKrecordAppend part hyper s = .next s := by
  rw [execKrecordAppend_next hr]
  rcases or_assoc.mpr h with h | h
  · exact if_pos h
  · rw [if_pos h]
    exact ite_self _

theorem execKrecordAppend_room {part : Nat} {hyper : Bool} {r : KRecord}
    (hr : nextRecord ((s.chip.part part).records.filter (fun r => r.hyper == hyper)) = some r) (hn : 1 < (s.chip.part part).ringSize hyper)
    (ht : (((s.chip.part part).ringHead hyper).toNat + 1) % (s.chip.part part).ringSize hyper ≠ ((s.chip.part part).ringTail hyper).toNat)
    (hh : s.chip.heldAt ((s.chip.part part).ringAddr hyper) 32 = false) : execKrecordAppend part hyper s =
      .next (s.commit (writeOwn s.mem ⟨s.chip.setPart part ((s.chip.part part).appended hyper r), []⟩ ((s.chip.part part).ringAddr hyper)
        (r.words.flatMap wordBytes))) :=
  (execKrecordAppend_next hr).trans ((if_neg (not_or.mpr ⟨Nat.not_le.mpr hn, ht⟩)).trans (if_neg (ne_true_of_eq_false hh)))

/-- The owners that a kill of one owner's domain ends. -/
def Chip.domainMates (ch : Chip) (m : Memory) (on : Nat) : List Nat :=
  (ch.owners.filter (fun e => decide (e.1 = on ∨ (e.2.state ≠ .empty ∧ e.2.part = (ch.owner on).part ∧
    (domainOf m (ch.owner on)).isSome = true ∧ domainOf m e.2 = domainOf m (ch.owner on))))).map (·.1)

theorem execKansKill_at {core slot : Nat} {st : Strand} {c : Cause} (h : awaited s.chip core slot = some (st, c)) :
    execKansKill core slot s = .next (s.commit ((s.chip.domainMates s.mem st.place.owner).foldl
      (fun r n => killOwner (writeAll s.mem r.writes) r n) ⟨s.chip, []⟩)) := by
  simp only [execKansKill, h, Chip.domainMates]
  congr 5
  funext e
  rw [Bool.eq_iff_iff]
  simp only [Bool.or_eq_true, Bool.and_eq_true, beq_iff_eq, bne_iff_ne, decide_eq_true_eq, and_assoc]

section
variable {core slot : Nat} {st : Strand} {c : Cause}

theorem execKans_unawaited (h : awaited s.chip core slot = none) : execKansResume core slot s = .next s ∧
    execKansDeliver core slot s = .next s ∧ execKansSwitchOut core slot s = .next s ∧ execKansKill core slot s = .next s := by
  simp only [execKansResume, execKansDeliver, execKansSwitchOut, execKansKill, h]
  exact ⟨trivial, trivial, trivial, trivial⟩

variable (h : awaited s.chip core slot = some (st, c))
include h

theorem execKansResume_at : execKansResume core slot s =
    .next (s.keep (dropWalks (rewalk s.mem (answered s.chip core slot st c) core slot) core slot)) := by
  simp only [execKansResume, h]

theorem execKansDeliver_noHandler (ht : st.csr.tvec = 0) : execKansDeliver core slot s = .next s := by
  simp only [execKansDeliver, h]
  exact if_pos ht

theorem execKansDeliver_at (ht : st.csr.tvec ≠ 0) (hh : st.run.h = false) : execKansDeliver core slot s =
    .next (s.keep (enterHandler s.mem (dropWalks (answered s.chip core slot st c) core slot) core slot st none)) := by
  simp only [execKansDeliver, h]
  exact (if_neg ht).trans (if_neg (ne_true_of_eq_false hh))

theorem execKansSwitchOut_at {ch : Chip} (hw : (s.chip.owner st.place.owner).state ≠ .window)
    (hr : requestAny s.chip st.place.owner 0 = (ch, true)) :
    execKansSwitchOut core slot s = .next (s.keep (dropWalks (answered ch core slot st c) core slot)) := by
  simp only [execKansSwitchOut, h, hr]
  exact if_neg hw

theorem execKansSwitchOut_idle (hw : (s.chip.owner st.place.owner).state = .window ∨ (requestAny s.chip st.place.owner 0).2 = false) :
    execKansSwitchOut core slot s = .next s := by
  simp only [execKansSwitchOut, h]
  rcases hw with hw | hr
  · exact if_pos hw
  · rw [hr]
    exact ite_self _

end

end Sys2Proof.Machine
end

section
namespace Sys2Proof.Proofs
open Sys2Proof.Machine

/-- Settles O47: the events of an owner's life, its re-phases, its pre-emption and restore, its halting, and the answers to its records. -/
theorem ownerEvents : Obligations.OwnerEvents := by
  unfold Obligations.OwnerEvents
  intro s on core slot grp part hyper ch o sets same
  refine ⟨fun hs ho => if_pos ⟨hs, ho⟩, fun h => if_neg fun ⟨hs, ho⟩ => h.elim (absurd hs) (absurd ho), ?_⟩
  intro released ended
  refine ⟨execFreezeBegin_begins, execFreezeBegin_idle, fun q => ⟨rfl, fun h => if_pos h⟩,
    fun g hn hs hr hf hg => congrArg (fun ch => Host.Outcome.next (s.keep ch)) (peerOrder_freeze hn hs hr hf hg),
    execThawResume_frozen, execThawResume_ready, fun h => if_pos h, ?_, ?_, ?_, ?_, ?_, ?_, ?_, ?_, ?_, ?_, ?_⟩
  · exact fun r hr => ⟨execRephaseRelease_at hr, execRephaseRelease_idle hr, execRephaseResume_at hr, execRephaseResume_idle hr,
      fun b => execRephaseAbandon_at hr, execRephaseAbandon_idle hr⟩
  · exact fun hr => execRephase_none hr
  · obtain ⟨t, hrun, hmem, hst⟩ := execAdmitTimeout_at (s := s) grp
    refine ⟨t, hrun, hmem, fun c sl st b h hw hb => ?_, fun c sl st b h hw hb => ?_⟩
    · rw [hst, h, Option.map_some, Option.map_some, Strand.admitOver_past hw hb]
    · rw [hst, h, Option.map_some, Strand.admitOver_before hw hb]
  · exact fun p hs hp => ⟨execPreptWindowExpiry_waits hs hp, execPreptWindowExpiry_ends hs hp⟩
  · exact fun p hs hp => ⟨execCollectComplete_waits hs hp, execCollectComplete_ends hs hp⟩
  · exact fun p hs hp => ⟨execContextSaveUnit_waits hs hp, execContextSaveUnit_last hs hp,
      fun r i j l hd hc hu => execContextSaveUnit_spilled hs hp hd hc hu,
      fun c l hd hc hl => ⟨fun hh => (execContextSaveUnit_buffer hs hp hd hc hl).trans (if_pos hh),
        fun hh => (execContextSaveUnit_buffer hs hp hd hc hl).trans (if_neg (ne_true_of_eq_false hh))⟩⟩
  · exact fun p hs hp => ⟨execContextLoadUnit_waits hs hp, execContextLoadUnit_last hs hp,
      fun c l hd hn hc hw hl hh hm => execContextLoadUnit_buffer hs hp hd hn hc hw hl hh hm⟩
  · exact fun st hst => ⟨execHaltReported_idle hst, execHaltReported_at hst⟩
  · exact fun r hr => ⟨execKrecordAppend_full hr, execKrecordAppend_room hr⟩
  · exact execKans_unawaited
  · exact fun st c h => ⟨execKansResume_at h, execKansDeliver_noHandler h, execKansDeliver_at h, fun ch2 => execKansSwitchOut_at h,
      execKansSwitchOut_idle h, execKansKill_at h⟩

end Sys2Proof.Proofs
end

section
/-! SUPPORT. What the host, the links and the module do (24 R394 to R409). -/

namespace Sys2Proof.Machine
variable {s : State}

/-! ### Blocks, cores and fences (08 R204; 24 R402, R407) -/

section
variable {part : Nat} {value : BitVec 64}

/-- An owner of the partition is selected, and the chain of the block passes. -/
def Chip.binds (ch : Chip) (m : Memory) (part on a : Nat) : Prop :=
  (ch.owner on).state ≠ .empty ∧ (ch.owner on).part = part ∧ rcbChain m 8 a = true

theorem execRcbBind_eq : execRcbBind part value s =
    if (s.chip.owner ((s.chip.part part).rcbsel.extractLsb' 0 3).toNat).state = .empty ∨
        (s.chip.owner ((s.chip.part part).rcbsel.extractLsb' 0 3).toNat).part ≠ part ∨
        rcbChain s.mem 8 ((value.extractLsb' 6 42).toNat * 64) = false then .next s
    else .next (s.commit (bindOwner s.mem ⟨s.chip, []⟩ ((s.chip.part part).rcbsel.extractLsb' 0 3).toNat ((value.extractLsb' 6 42).toNat * 64))) := by
  simp only [execRcbBind, bitsOf_eq_extract]

theorem not_binds_iff {m : Memory} {on a : Nat} : ¬ s.chip.binds m part on a ↔
    (s.chip.owner on).state = .empty ∨ (s.chip.owner on).part ≠ part ∨ rcbChain m 8 a = false := by
  rw [Chip.binds, not_and_or, not_and_or, not_not, Bool.not_eq_true]

theorem execPcoreWrite_refused {m : Nat} (h : s.chip.host.booted = false ∨ s.chip.holdsOwner part = true ∨ 6 ≤ m) :
    execPcoreWrite part m value s = .next s := by
  refine if_pos ?_
  rw [Bool.or_eq_true, Bool.or_eq_true, Bool.not_eq_true', decide_eq_true_iff, or_assoc]
  exact h

/-- A register of cores takes what no other partition holds. -/
theorem execPcoreWrite_takes {m : Nat} (hb : s.chip.host.booted = true) (ho : s.chip.holdsOwner part = false) (hm : m < 6) :
    ∃ t, execPcoreWrite part m value s = .next t ∧ t.mem = s.mem ∧ (m < (s.chip.part part).pcore.length →
      (t.chip.part part).pcore.getD m 0 = value &&& ~~~ heldCores s.chip part m) := by
  refine ⟨_, if_neg ?_, rfl, fun hlen => ?_⟩
  · rw [Bool.or_eq_true, Bool.or_eq_true, Bool.not_eq_true', decide_eq_true_iff, hb, ho]
    exact fun h => (h.elim (·.elim nofun nofun) fun h => Nat.not_le.mpr hm h)
  · refine (congrArg (fun p : Part => p.pcore.getD m 0) (Chip.part_setPart ..)).trans ?_
    rw [List.getD_eq_getElem?_getD, List.getElem?_set_self hlen, Option.getD_some]

theorem execPartitionFence_first (h1 : (s.chip.part part).fencestat ≠ 1) (h2 : (s.chip.part part).fencestat ≠ 2) :
    execPartitionFence part s = .next (s.keep (s.chip.setPart part { s.chip.part part with fencestat := 1 })) := by
  rw [execPartitionFence]
  split
  · next h => exact absurd h h1
  · next h => exact absurd h h2
  · rfl

theorem execPartitionFence_second (h : (s.chip.part part).fencestat = 1) :
    execPartitionFence part s = .next (s.keep (fenceClose s.chip part)) := by
  simp only [execPartitionFence, h]

theorem fenceClose_fencestat (ch : Chip) (part : Nat) : ((fenceClose ch part).part part).fencestat = 2 := by
  simp only [fenceClose, Chip.addRecord, Chip.part_setPart]

/-! ### Keys drawn again -/

theorem genOf_newKey (ch : Chip) (slot k : Nat) : (ch.newKey slot).genOf k = ch.genOf k + if k = slot then 1 else 0 := by
  rw [Chip.newKey, Chip.genOf]
  by_cases hk : k = slot
  · subst hk
    rw [Tab.getD_set_self, if_pos rfl]
  · rw [Tab.getD_set_ne _ _ _ hk, if_neg hk]
    rfl

theorem newKeys_owner (ks : List Nat) (ch : Chip) (o : Nat) : (ks.foldl Chip.newKey ch).owner o = ch.owner o :=
  List.foldlRecOn (motive := fun c : Chip => c.owner o = ch.owner o) _ _ rfl fun _ hc _ _ => hc

/-- Each of the keys drawn again is a generation on. -/
theorem newKeys_genOf {ks : List Nat} (h : ks.Nodup) (ch : Chip) (k : Nat) :
    (ks.foldl Chip.newKey ch).genOf k = ch.genOf k + if k ∈ ks then 1 else 0 := by
  induction ks generalizing ch with
  | nil => rfl
  | cons j ks ih =>
    obtain ⟨hj, hks⟩ := List.nodup_cons.mp h
    rw [List.foldl_cons, ih hks, genOf_newKey]
    by_cases hkj : k = j
    · subst hkj
      rw [if_pos rfl, if_neg hj, if_pos List.mem_cons_self]
    · simp only [List.mem_cons, hkj, false_or, if_false, Nat.add_zero]

/-- A fence's last step kills the partition's owners and draws its keys again. -/
theorem execPartitionFence_last (h : (s.chip.part part).fencestat = 2) {killed : Res}
    (hk : (s.chip.ownersOf part).foldl (fun r o => killOwner (writeAll s.mem r.writes) r o) ⟨s.chip, []⟩ = killed) :
    ∃ t, execPartitionFence part s = .next t ∧ t.mem = writeAll s.mem killed.writes ∧ (t.chip.part part).fencestat = 3 ∧
      (∀ o, t.chip.owner o = killed.chip.owner o) ∧ ∀ k, k < 256 → t.chip.genOf k = killed.chip.genOf k +
        (if Config.keySlotPresent k = true ∧ Config.keySlotPart k = part then 1 else 0) := by
  have hrun : execPartitionFence part s = .next (s.commit (fenceReset s.mem s.chip part)) := by simp only [execPartitionFence, h]
  rw [fenceReset, hk] at hrun
  refine ⟨_, hrun, rfl, congrArg Part.fencestat (Chip.part_setPart ..), newKeys_owner _ _, fun k hlt => ?_⟩
  refine (newKeys_genOf (List.nodup_range.filter _) killed.chip k).trans ?_
  simp only [List.mem_filter, List.mem_range, hlt, true_and, Bool.and_eq_true, beq_iff_eq]

end

/-! ### Register writes answer -/

/-- An outcome that is a next state. -/
def Answers (o : Outcome) : Prop := ∃ t, o = .next t

@[simp] theorem answers_next {t : State} : Answers (.next t) := ⟨t, rfl⟩

theorem blockWrite_answers {part off : Nat} {v : Word} : Answers (blockWrite part off v s) := by
  simp only [blockWrite, kansWrite, execKansResume, execKansDeliver, execKansSwitchOut, execKansKill, execPartitionFence, execRcbBind, execPcoreWrite]
  repeat' split
  all_goals exact answers_next

theorem etherMove_answers {port owner off : Nat} {handle : Word} {out : Bool} {data : List Byte} {i : Instr} :
    Answers (etherMove s port owner handle off out data i) := by
  simp only [etherMove, waitHeld]
  repeat' split
  all_goals exact answers_next

theorem execRegisterWrite_answers (reg : CtlReg) (value : BitVec 64) : Answers (execRegisterWrite reg value s) := by
  simp only [execRegisterWrite, bar0Write, loadBuffer]
  repeat' split
  all_goals simp only [answers_next, blockWrite_answers, etherMove_answers]

end Sys2Proof.Machine
end

section
/-! SUPPORT. Launches (24 R397 to R400). -/

namespace Sys2Proof.Machine

section
variable (m : Memory) (ch : Chip) (r : Res) (a n key : Nat) (l : List Byte)

theorem dropRows_parts : (dropRows ch a n).parts = ch.parts := by
  rw [dropRows]
  dsimp only
  split <;> rfl

theorem written_parts : (written ch a n).parts = ch.parts := by
  rw [written, setDirty]
  split
  · exact dropRows_parts ..
  · exact dropRows_parts ..

theorem keyedWrites_parts : (keyedWrites m ch key a l).1.parts = ch.parts := by
  rw [keyedWrites]
  split <;> rfl

theorem patchStores_parts : (patchStores ch a l).parts = ch.parts := by
  rw [patchStores]
  split <;> rfl

theorem writeHome_parts : (writeHome m r key a l).chip.parts = r.chip.parts := by
  rw [writeHome]
  dsimp only
  split
  · rw [written_parts, keyedWrites_parts, patchStores_parts]
  · rw [written_parts, keyedWrites_parts, written_parts, keyedWrites_parts, patchStores_parts]

theorem releaseAccount_parts (on : Nat) : (releaseAccount r on).chip.parts = r.chip.parts := by
  rw [releaseAccount]
  dsimp only
  split
  · rfl
  · split
    · rfl
    · exact written_parts ..

theorem bindAccount_parts (on : Nat) : (bindAccount m ch on).parts = ch.parts := by
  rw [bindAccount]
  dsimp only
  split
  · rfl
  · split <;> rfl

theorem bindOwner_parts (on : Nat) : (bindOwner m r on a).chip.parts = r.chip.parts :=
  (bindAccount_parts ..).trans (releaseAccount_parts ..)

theorem cleanCore_parts (h : Header) (core wbase : Nat) : (cleanCore r h core wbase).chip.parts = r.chip.parts := by
  rw [cleanCore]
  dsimp only
  split <;> rfl

theorem admission_parts (img : Except Nat Image) (sup : Bool) (part ndev grp : Nat) (pass : Nat → Bool) :
    (admission ch img sup part ndev grp pass).2.2.chip.parts = ch.parts := by
  unfold admission
  dsimp only
  split
  · rfl
  · split
    · rfl
    · split
      · rfl
      · unfold weave
        exact List.foldlRecOn (motive := fun r : Res => r.chip.parts = ch.parts) _ _ rfl fun r hr e _ => (cleanCore_parts ..).trans hr

theorem reportLaunch_parts (k : Packet) (status owner origin spl : Nat) : (reportLaunch m r k status owner origin spl).chip.parts = r.chip.parts := by
  rw [reportLaunch]
  dsimp only
  split
  · rfl
  · split
    · exact writeHome_parts ..
    · rfl

end

variable {s : State}

/-- A launch write that names a place of the launch window. -/
def windowed (p : LaunchPath) : Bool := match p with | .bar0 | .isavik _ => true | _ => false

theorem windowed_iff {p : LaunchPath} : windowed p = true ↔ p = .bar0 ∨ ∃ d, p = .isavik d := by
  cases p <;> simp [windowed]

/-- The partition that a packet names. -/
def packetPart (words : List (BitVec 64)) : Nat := ((words.getD 0 0).extractLsb' 16 8).toNat

section
variable {path : LaunchPath} {m : Nat} {words : List (BitVec 64)} (hl : words.length = 8) (hp : packetPart words ≤ 7)
include hl hp

theorem execLaunchPacket_whole (hw : windowed path = true → m < 8) : execLaunchPacket path m words s =
    if !packetOk words || (s.chip.part (packetPart words)).fenced || (windowed path && m != packetPart words) then
      .next (s.keep (dropLaunch s.chip (packetPart words)))
    else if 64 ≤ (s.chip.part (packetPart words)).launches.length then
      .next (s.commit (reportLaunch s.mem { chip := s.chip, writes := [] } { words := words, path := path, arrival := s.chip.gts }
        (if (s.chip.part (packetPart words)).coreless then 4 else 1) 0 0 0))
    else .next (s.keep (s.chip.setPart (packetPart words) { s.chip.part (packetPart words) with
      launches := (s.chip.part (packetPart words)).launches ++ [{ words := words, path := path, arrival := s.chip.gts }] })) := by
  simp only [execLaunchPacket, bitsOf_eq_extract]
  refine (if_neg ?_).trans ((if_neg (not_not.mpr hl)).trans (if_neg (Nat.not_lt.mpr hp)))
  rw [Bool.and_eq_true, decide_eq_true_iff]
  exact fun h => Nat.not_le.mpr (hw h.1) h.2

theorem execLaunchPacket_queued (hok : packetOk words = true) (hf : (s.chip.part (packetPart words)).fenced = false)
    (hw : (path = .bar0 ∨ ∃ d, path = .isavik d) → m = packetPart words) (hq : (s.chip.part (packetPart words)).launches.length < 64) :
    execLaunchPacket path m words s = .next (s.keep (s.chip.setPart (packetPart words) { s.chip.part (packetPart words) with
      launches := (s.chip.part (packetPart words)).launches ++ [{ words := words, path := path, arrival := s.chip.gts }] })) := by
  have hwin : windowed path = true → m = packetPart words := fun h => hw (windowed_iff.mp h)
  refine (execLaunchPacket_whole hl hp fun h => ?_).trans ((if_neg ?_).trans (if_neg (Nat.not_le.mpr hq)))
  · rw [hwin h]
    exact Nat.lt_succ_of_le hp
  · rw [hok, hf, Bool.not_true, Bool.false_or, Bool.false_or, Bool.and_eq_true, bne_iff_ne]
    exact fun h => h.2 (hwin h.1)

theorem execLaunchPacket_dropped (h : packetOk words = false ∨ (s.chip.part (packetPart words)).fenced = true)
    (hw : (path = .bar0 ∨ ∃ d, path = .isavik d) → m < 8) :
    execLaunchPacket path m words s = .next (s.keep (dropLaunch s.chip (packetPart words))) := by
  refine (execLaunchPacket_whole hl hp fun h => hw (windowed_iff.mp h)).trans (if_pos ?_)
  rw [Bool.or_eq_true, Bool.or_eq_true, Bool.not_eq_true']
  exact .inl h

end

section
variable {part : Nat}

theorem execLaunchDispatch_empty (h : nextPacket s.mem s.chip.gts (s.chip.part part).launches = none) : execLaunchDispatch part s = .next s := by
  simp only [execLaunchDispatch, h]

/-- An outcome with the partitions given. -/
def LeavesParts (ps : Tab Part) (o : Outcome) : Prop := ∃ t, o = .next t ∧ t.chip.parts = ps

/-- The kernel takes the packet off its partition's queue, whatever becomes of it. -/
theorem execLaunchDispatch_takes {k : Packet} (h : nextPacket s.mem s.chip.gts (s.chip.part part).launches = some k)
    (hb : s.chip.host.booted = true) : LeavesParts (s.chip.setPart part { s.chip.part part with
      launches := (s.chip.part part).launches.erase k }).parts (execLaunchDispatch part s) := by
  simp only [execLaunchDispatch, h]
  generalize hch : s.chip.setPart part { s.chip.part part with launches := (s.chip.part part).launches.erase k } = ch
  have hbooted : ch.host.booted = true := hch ▸ hb
  have hno (status owner origin spl : Nat) : LeavesParts ch.parts
      (.next (s.commit (reportLaunch s.mem { chip := ch, writes := [] } k status owner origin spl))) := ⟨_, rfl, reportLaunch_parts ..⟩
  refine iteInduction (fun hn => absurd hbooted (by rwa [Bool.not_eq_true', ← Bool.not_eq_true] at hn)) fun _ => ?_
  refine iteInduction (fun _ => hno ..) fun _ => iteInduction (fun _ => hno ..) fun _ => iteInduction (fun _ => hno ..) fun _ =>
    iteInduction (fun _ => hno ..) fun _ => iteInduction (fun _ => hno ..) fun _ => ?_
  split
  · exact hno ..
  · split
    · next hadm =>
      refine ⟨_, rfl, (reportLaunch_parts ..).trans ((bindOwner_parts ..).trans ?_)⟩
      exact (congrArg (fun a : Nat × Nat × Res => a.2.2.chip.parts) hadm).symm.trans (admission_parts ..)
    · exact hno ..

theorem execLaunchDispatch_launches {k : Packet} (h : nextPacket s.mem s.chip.gts (s.chip.part part).launches = some k)
    (hb : s.chip.host.booted = true) :
    ∃ t, execLaunchDispatch part s = .next t ∧ (t.chip.part part).launches = (s.chip.part part).launches.erase k := by
  obtain ⟨t, hrun, hparts⟩ := execLaunchDispatch_takes h hb
  refine ⟨t, hrun, ?_⟩
  rw [Chip.part, hparts]
  exact congrArg Part.launches (Chip.part_setPart ..)

end

end Sys2Proof.Machine
end

section
/-! SUPPORT. Accesses from outside, links, boot and the module (24 R394 to R396, R403 to R409). -/

namespace Sys2Proof.Machine
variable {s : State}

/-- An access from outside that comes again in the next beat. -/
def Chip.retry (ch : Chip) (i : Instr) : Chip := { ch with inputs := ch.inputs ++ [(ch.gts + 1, i)] }

section
variable {n addr : Nat} {data : List Byte}

theorem execBar2Access_open (ho : s.chip.host.bar2Open = true) (ha : addr + data.length ≤ 2 ^ 32) (w : Bool) : execBar2Access w addr data s =
    if s.chip.heldAt addr data.length then .next (s.keep (s.chip.retry (.hostMemoryAccess w addr data)))
    else if w then .next (s.commit (writeHome s.mem ⟨s.chip, []⟩ 0 addr data))
    else .next (s.keep (s.chip.emit (.hostData (decrypt s.chip 0 addr (s.mem.readBytes addr data.length))))) := by
  refine if_neg ?_
  rw [Bool.or_eq_true, Bool.not_eq_true', decide_eq_true_iff, ho]
  exact fun h => h.elim nofun (Nat.not_lt.mpr ha)

theorem execBar2Access_closed (ho : s.chip.host.bar2Open = false) (w : Bool) : execBar2Access w addr data s =
    if w then .next s else .next (s.keep (s.chip.emit (.hostData (List.replicate data.length 0xFF#8)))) := by
  refine if_pos ?_
  rw [ho]
  rfl

theorem execIsavikWrite_accepted (hp : placeOf addr ≠ .none) (hc : s.chip.closed s.mem addr = false) : execIsavikWrite n addr data s =
    if s.chip.heldAt addr data.length then .next (s.keep (s.chip.retry (.hostMemoryAccess true addr data)))
    else .next (s.commit (writeHome s.mem ⟨s.chip, []⟩ 0 addr data)) :=
  if_neg (not_or.mpr ⟨hp, ne_true_of_eq_false hc⟩)

end

/-! ### Ethernet and the loader (24 R405; 21 R358) -/

section
variable {n m addr : Nat} {value : BitVec 64} {data : List Byte} {hd : Handle} {r w : Bool}

/-- The device addresses of the bytes of a move. -/
def etherBytes (hd : Handle) (off len : Nat) : List Nat := (List.range len).filterMap (fun k => (hd.byteAt (off + k)).map (homeAddr hd.ilv))

theorem etherMove_refused {out : Bool} {i : Instr}
    (hh : readHandle s.mem s.chip (s.chip.part (s.chip.owner n).part) n value = some (hd, r, w)) (hno : (if out then r else w) = false) :
    etherMove s m n value addr out data i = .next s := by
  simp only [etherMove, hh]
  exact if_pos (.inr (.inr (.inr hno)))

theorem etherMove_out {i : Instr} (hm : m < 2) (hs : (s.chip.owner n).state ≠ .empty) (hf : (s.chip.part (s.chip.owner n).part).fenced = false)
    (hh : readHandle s.mem s.chip (s.chip.part (s.chip.owner n).part) n value = some (hd, true, w))
    (hfree : ∀ e, e ∈ addrRuns (etherBytes hd addr data.length) → s.chip.heldAt e.1 e.2 = false) :
    etherMove s m n value addr true data i = .next (s.keep (charge (s.chip.emit (.ethernet m
      ((addrRuns (etherBytes hd addr data.length)).flatMap (fun e => decrypt s.chip (keyOf hd.key hd.ilv) e.1 (s.mem.readBytes e.1 e.2))))) n
      (((etherBytes hd addr data.length).length + 63) / 64))) := by
  simp only [etherMove, hh]
  refine (if_neg ?_).trans (if_neg ?_)
  · rintro (h | h | h | h)
    · exact Nat.not_le.mpr hm h
    · exact hs h
    · exact Bool.false_ne_true (hf.symm.trans h)
    · cases h
  · rw [List.any_eq_true]
    rintro ⟨e, he, hheld⟩
    exact Bool.false_ne_true ((hfree e he).symm.trans hheld)

theorem loadBuffer_at {b : Buf} (hs : (s.chip.owner n).state = .admitting) (ha : addr + data.length ≤ bufSize b) :
    loadBuffer s n (some b) addr data =
      .next (s.commit ((s.chip.owner n).hdr.cores.foldl (fun r c => writeHome s.mem r 0 (bufAddr b c + addr) data) ⟨s.chip, []⟩)) :=
  if_neg (not_or.mpr ⟨not_not.mpr hs, Nat.not_lt.mpr ha⟩)

end

/-! ### Isavik alignment (24 R403, R404) -/

/-- A machine with a port as given. -/
def Chip.setPort (ch : Chip) (n : Nat) (k : Port) : Chip := { ch with host := { ch.host with ports := ch.host.ports.set n k } }

theorem port_setPort (ch : Chip) (n : Nat) (k : Port) : (ch.setPort n k).host.port n = k := Tab.getD_set_self ..

theorem raiseOn_keeps (ch : Chip) (on : Nat) (c : Cause) :
    (ch.raiseOn on c).host = ch.host ∧ (ch.raiseOn on c).gts = ch.gts ∧ (ch.raiseOn on c).devnum = ch.devnum := by
  rw [Chip.raiseOn]
  split
  · exact ⟨rfl, rfl, rfl⟩
  · split <;> exact ⟨rfl, rfl, rfl⟩

/-- A lost port is aligned no more; the clock stands. -/
theorem linkLost_keeps (ch : Chip) (n : Nat) :
    ((linkLost ch n).host.port n).aligned = false ∧ (linkLost ch n).gts = ch.gts ∧ (linkLost ch n).devnum = ch.devnum := by
  have hlost : ((ch.setPort n { ch.host.port n with aligned := false, good := 0 }).host.port n).aligned = false :=
    congrArg Port.aligned (port_setPort ..)
  rw [linkLost]
  dsimp only
  split
  · exact ⟨hlost, rfl, rfl⟩
  · refine List.foldlRecOn (motive := fun c : Chip => (c.host.port n).aligned = false ∧ c.gts = ch.gts ∧ c.devnum = ch.devnum) _ _
      ⟨hlost, rfl, rfl⟩ fun c ⟨hp, hg, hd⟩ e _ => ?_
    obtain ⟨hhost, hgts, hdev⟩ := raiseOn_keeps c e.1 .linkDown
    exact ⟨by rw [hhost]; exact hp, hgts.trans hg, hdev.trans hd⟩

theorem gtsStep_host (ch : Chip) (n : Nat) (offset : Int) : (gtsStep ch n offset).host = ch.host := by
  rw [gtsStep]
  split <;> rfl

theorem gtsStep_master {ch : Chip} (h : ch.devnum = 0) (n : Nat) (offset : Int) : gtsStep ch n offset = ch :=
  if_neg fun hne => hne.1 h

section
variable {n m : Nat} {offset : Int} (hn : n < Config.isavikPorts)
include hn

theorem execAlignExchange_self (hm : m = s.chip.devnum.toNat) : execAlignExchange n offset m s =
    .next (s.keep (linkLost (s.chip.setPort n { s.chip.host.port n with partner := some m, missed := 0 }) n)) :=
  (if_neg (Nat.not_le.mpr hn)).trans (if_pos hm)

theorem execAlignExchange_good (hm : m ≠ s.chip.devnum.toNat) : execAlignExchange n 0 m s =
    .next (s.keep (s.chip.setPort n ⟨min 1024 ((s.chip.host.port n).good + 1), 0, some m,
      (s.chip.host.port n).aligned || decide (1024 ≤ (s.chip.host.port n).good + 1)⟩)) := by
  have hgood : (min 1024 ((s.chip.host.port n).good + 1) == 1024) = decide (1024 ≤ (s.chip.host.port n).good + 1) := by
    rw [Bool.eq_iff_iff, beq_iff_eq, decide_eq_true_iff]
    omega
  rw [← hgood]
  exact (if_neg (Nat.not_le.mpr hn)).trans ((if_neg hm).trans (if_pos rfl))

theorem execAlignExchange_off (hm : m ≠ s.chip.devnum.toNat) (ho : offset ≠ 0) : execAlignExchange n offset m s =
    .next (s.keep (gtsStep (linkLost (s.chip.setPort n { s.chip.host.port n with partner := some m, missed := 0 }) n) n offset)) :=
  (if_neg (Nat.not_le.mpr hn)).trans ((if_neg hm).trans (if_neg ho))

theorem execAlignExchangeMissed_at : execAlignExchangeMissed n s =
    .next (s.keep (if 64 ≤ (s.chip.host.port n).missed + 1 then
      linkLost (s.chip.setPort n { s.chip.host.port n with missed := min 64 ((s.chip.host.port n).missed + 1), good := 0 }) n
    else s.chip.setPort n { s.chip.host.port n with missed := min 64 ((s.chip.host.port n).missed + 1), good := 0 })) :=
  if_neg (Nat.not_le.mpr hn)

theorem execAlignExchangeMissed_few (h : (s.chip.host.port n).missed + 1 < 64) : execAlignExchangeMissed n s =
    .next (s.keep (s.chip.setPort n ⟨0, (s.chip.host.port n).missed + 1, (s.chip.host.port n).partner, (s.chip.host.port n).aligned⟩)) := by
  rw [execAlignExchangeMissed_at hn, if_neg (Nat.not_le.mpr h), Nat.min_eq_right h.le]

end

/-! ### Boot and the module (24 R396, R406, R408) -/

section
variable {n m : Nat}

theorem execSetDevnum_at (hb : s.chip.host.booted = true) (hn : n < 128)
    (hp : ∀ e, e ∈ s.chip.host.ports → e.2.good = 0 ∧ e.2.aligned = false) :
    execSetDevnum n s = .next (s.keep { s.chip with devnum := BitVec.ofNat 7 n }) := by
  refine if_neg ?_
  simp only [Bool.or_eq_true, Bool.not_eq_true', decide_eq_true_iff, List.any_eq_true, bne_iff_ne, hb]
  rintro ((h | h) | ⟨e, he, h⟩)
  · cases h
  · exact Nat.not_le.mpr hn h
  · obtain ⟨hg, ha⟩ := hp e he
    exact h.elim (absurd hg) fun h => Bool.false_ne_true (ha.symm.trans h)

theorem execSetDevnum_refused (h : s.chip.host.booted = false ∨ 128 ≤ n ∨ ∃ e, e ∈ s.chip.host.ports ∧ (e.2.good ≠ 0 ∨ e.2.aligned = true)) :
    execSetDevnum n s = .next s := by
  refine if_pos ?_
  simp only [Bool.or_eq_true, Bool.not_eq_true', decide_eq_true_iff, List.any_eq_true, bne_iff_ne, or_assoc]
  exact h

theorem execBoot_at {image : List Nat} {version : Nat} (h : s.chip.host.firmware = some (image, version)) : execBoot s =
    .next (if Config.signaturesVerify image = true ∧ s.chip.host.rollback ≤ version then
      s.keep { s.chip with host := { s.chip.host with booted := true, measurements := s.chip.host.measurements ++ [Config.measure image] } }
    else s) := by
  simp only [execBoot, h, Bool.and_eq_true, decide_eq_true_iff]
  split <;> rfl

theorem execCxlMailboxCommand_other (hb : s.chip.host.booted = true) (ha : n ≠ 0x4802) (hr : n ≠ 0x4803) :
    execCxlMailboxCommand n m s = .next (s.keep (s.chip.emit (.mailbox [Config.mailboxAnswer n m]))) := by
  refine (if_neg (by rw [hb]; exact nofun)).trans ?_
  split
  · exact absurd rfl ha
  · exact absurd rfl hr
  · rfl

theorem execVoltageBinRaise_core (hn : n < Config.cores) : execVoltageBinRaise n s =
    if !(s.chip.onCore n).isEmpty || decide (Config.cores ≤ n) || ((s.chip.core n).disabled && (s.chip.core n).bin == 450) ||
        !Config.powerAllows s.chip.fresh then .next s
    else .next (s.keep ({ s.chip with fresh := s.chip.fresh + 1 }.setCore n
      { s.chip.core n with bin := nextBin (s.chip.core n).bin, disabled := !Config.retestPasses n s.chip.fresh })) :=
  if_neg fun h => Nat.not_le.mpr hn h.1

theorem execVoltageBinRaise_busy (hn : n < Config.cores) (ho : s.chip.onCore n ≠ []) : execVoltageBinRaise n s = .next s := by
  refine (execVoltageBinRaise_core hn).trans (if_pos ?_)
  rw [Bool.or_eq_true, Bool.or_eq_true, Bool.or_eq_true, Bool.not_eq_true', List.isEmpty_eq_false_iff]
  exact .inl (.inl (.inl ho))

theorem execVoltageBinRaise_retest (ho : s.chip.onCore n = []) (hn : n < Config.cores)
    (hk : ¬ ((s.chip.core n).disabled = true ∧ (s.chip.core n).bin = 450)) : execVoltageBinRaise n s =
      .next (if Config.powerAllows s.chip.fresh = true then s.keep ({ s.chip with fresh := s.chip.fresh + 1 }.setCore n
        { s.chip.core n with bin := nextBin (s.chip.core n).bin, disabled := !Config.retestPasses n s.chip.fresh }) else s) := by
  have hdead : ((s.chip.core n).disabled && (s.chip.core n).bin == 450) = false := by
    rw [← Bool.not_eq_true, Bool.and_eq_true, beq_iff_eq]
    exact hk
  rw [execVoltageBinRaise_core hn, ho, hdead, decide_eq_false (Nat.not_le.mpr hn)]
  cases Config.powerAllows s.chip.fresh <;> rfl

/-- A core of the control cluster is slow from then on. -/
theorem execVoltageBinRaise_control (h : Config.cores ≤ n) (hn : n < Config.cores + 8) :
    ∃ t, execVoltageBinRaise n s = .next t ∧ t.mem = s.mem ∧ n ∈ t.chip.host.slow ∧ t.chip.cores = s.chip.cores := by
  refine ⟨_, if_pos ⟨h, hn⟩, rfl, ?_, rfl⟩
  dsimp only [State.keep_chip]
  split
  · next hc => exact List.contains_iff_mem.mp hc
  · exact List.mem_append_right _ (List.mem_singleton.mpr rfl)

end

end Sys2Proof.Machine
end

section
namespace Sys2Proof.Proofs
open Sys2Proof.Machine

/-- Settles O48: the events of the host port, of launches, of the register block and the partitions, of the links, the boot and the module. -/
theorem hostEvents : Obligations.HostEvents := by
  unfold Obligations.HostEvents
  intro s part m n addr version reg value path words flag data image offset ch same p goes host on a bind named q port setPort exch core waits
  refine ⟨fun h => execRcbBind_eq.trans (if_neg fun hn => not_binds_iff.mpr hn h), fun h => execRcbBind_eq.trans (if_pos (not_binds_iff.mp h)),
    execPcoreWrite_refused, execPcoreWrite_takes, execPartitionFence_first,
    fun h => ⟨execPartitionFence_second h, fenceClose_fencestat ..⟩, fun h => execPartitionFence_last h rfl,
    execRegisterWrite_answers .., fun b => loadBuffer_at, fun b h => if_pos (.inl h), fun h => if_neg (Nat.not_lt.mpr h), ?_,
    rfl, rfl, rfl, rfl, execLaunchPacket_queued, execLaunchPacket_dropped, execLaunchDispatch_empty,
    fun k => execLaunchDispatch_launches, fun ho ha hh w => (execBar2Access_open ho ha w).trans (if_pos hh), ?_, ?_,
    fun hp hc hh => (execIsavikWrite_accepted (n := n) hp hc).trans (if_pos hh),
    fun hp hc hh => (execIsavikWrite_accepted (n := n) hp hc).trans (if_neg (ne_true_of_eq_false hh)), fun h => if_pos h,
    execSetDevnum_at, execSetDevnum_refused, rfl, rfl, execBoot_at, execCxlMailboxCommand_other, ?_, ?_, ?_, ?_,
    execAlignExchangeMissed_few, ?_, rfl, rfl, rfl, rfl, fun c => ⟨rfl, rfl, rfl⟩, execVoltageBinRaise_retest, execVoltageBinRaise_busy,
    execVoltageBinRaise_control⟩
  · intro hd r w hm hs hf hh at_ runs hfree
    refine ⟨fun hr => ?_, fun hr => etherMove_refused hh hr, fun hw => etherMove_refused hh hw⟩
    subst hr
    exact etherMove_out hm hs hf hh hfree
  · exact fun ho ha hh => ⟨(execBar2Access_open ho ha true).trans (if_neg (ne_true_of_eq_false hh)),
      (execBar2Access_open ho ha false).trans (if_neg (ne_true_of_eq_false hh))⟩
  · exact fun ho => ⟨execBar2Access_closed ho true, execBar2Access_closed ho false⟩
  · exact fun hb => if_pos (congrArg Bool.not hb)
  · rintro hn hm rfl
    exact execAlignExchange_good hn hm
  · intro hn hm ho
    obtain ⟨hal, hgts, hdev⟩ := linkLost_keeps (ch.setPort n { ch.host.port n with partner := some m, missed := 0 }) n
    refine ⟨_, execAlignExchange_off hn hm ho, ?_, fun hd => ?_⟩
    · rw [State.keep_chip, gtsStep_host]
      exact hal
    · rw [State.keep_chip, gtsStep_master (hdev.trans hd)]
      exact hgts
  · intro hn hm
    obtain ⟨hal, hgts, -⟩ := linkLost_keeps (ch.setPort n { ch.host.port n with partner := some m, missed := 0 }) n
    exact ⟨_, execAlignExchange_self hn hm, hal, hgts⟩
  · intro hn h
    refine ⟨_, execAlignExchangeMissed_at hn, ?_⟩
    rw [if_pos h]
    exact (linkLost_keeps ..).1

end Sys2Proof.Proofs
end

section
/-! SUPPORT. What a word leaves unchanged at its issue (02 R35; 04 R70): the machine around the strand that issues it. -/

namespace Sys2Proof.Machine

/-- A strand with the registers, predicates, handler bank, lane and place of another. -/
structure Strand.Keeps (u st : Strand) : Prop where
  regs : ∀ q, (u.seq q).x = (st.seq q).x ∧ (u.seq q).p = (st.seq q).p
  bank : u.bank = st.bank
  lane : u.lane = st.lane
  place : u.place = st.place

namespace Strand.Keeps
variable {u v st : Strand}

theorem refl (st : Strand) : st.Keeps st := ⟨fun _ => ⟨rfl, rfl⟩, rfl, rfl, rfl⟩

theorem trans (huv : u.Keeps v) (hv : v.Keeps st) : u.Keeps st where
  regs q := ⟨(huv.regs q).1.trans (hv.regs q).1, (huv.regs q).2.trans (hv.regs q).2⟩
  bank := huv.bank.trans hv.bank
  lane := huv.lane.trans hv.lane
  place := huv.place.trans hv.place

/-- The four sequencers and the parts named are those of the other. -/
theorem of_eq (hct : u.ct = st.ct) (hld : u.ld = st.ld) (hcp : u.cp = st.cp) (hst : u.st = st.st) (hb : u.bank = st.bank)
    (hl : u.lane = st.lane) (hp : u.place = st.place) : u.Keeps st where
  regs q := by
    cases q with
    | ct => exact ⟨congrArg Seq.x hct, congrArg Seq.p hct⟩
    | ld => exact ⟨congrArg Seq.x hld, congrArg Seq.p hld⟩
    | cp => exact ⟨congrArg Seq.x hcp, congrArg Seq.p hcp⟩
    | st => exact ⟨congrArg Seq.x hst, congrArg Seq.p hst⟩
  bank := hb
  lane := hl
  place := hp

end Strand.Keeps

section
variable (st : Strand)

theorem later_keeps (q : SeqId) (n : Nat) (l : List Land) (t : Option PTrap) : (st.later q n l t).Keeps st := .of_eq rfl rfl rfl rfl rfl rfl rfl

theorem laterX_keeps (q : SeqId) (n : Nat) (r : Reg) (v : Word) (t : Option Nat) (p : Bool) : (st.laterX q n r v t p).Keeps st :=
  .of_eq rfl rfl rfl rfl rfl rfl rfl

theorem noting_keeps (t : PTrap) : (st.noting t).Keeps st where
  regs q := by
    obtain ⟨⟨hx, hp, -, -⟩, -, -, -⟩ := Strand.noting_seq (st := st) (t := t) q
    exact ⟨hx, hp⟩
  bank := Strand.noting_bank
  lane := Strand.noting_lane
  place := Strand.noting_place

theorem recorded_keeps (k : Cause) (gts : Nat) : (st.recorded k gts).Keeps st := .of_eq rfl rfl rfl rfl rfl rfl rfl

theorem doubled_keeps (gts second : Nat) : (st.doubled gts second).Keeps st := .of_eq rfl rfl rfl rfl rfl rfl rfl

theorem entered_keeps (gts : Nat) (at? : Option (BitVec 14)) : (st.entered gts at?).Keeps st where
  regs q := by cases q <;> exact ⟨rfl, rfl⟩
  bank := rfl
  lane := rfl
  place := rfl

theorem retired_keeps (m : Memory) (ch : Chip) (c : Nat) (q : SeqId) (h : Head) (opc : BitVec 8) (cls : Nat) (f : Flow) (w : HeadWait) :
    (st.retired m ch c q h opc cls f w).Keeps st where
  regs r := by
    obtain ⟨hx, hp, -, -⟩ := st.retired_sameRegs (m := m) (ch := ch) (c := c) (q := q) (h := h) (opc := opc) (cls := cls) (f := f) (w := w) r
    exact ⟨hx, hp⟩
  bank := Strand.retired_bank
  lane := Strand.retired_lane
  place := Strand.retired_place

end

/-- Machine b has the works, owners, cores, time and other strands of machine a, and keeps what the strand in a slot holds. -/
structure Chip.Framed (a b : Chip) (c sl : Nat) : Prop where
  works : b.works = a.works
  owners : b.owners = a.owners
  cores : b.cores = a.cores
  gts : b.gts = a.gts
  others : ∀ c' sl', skey c' sl' ≠ skey c sl → b.strand? c' sl' = a.strand? c' sl'
  own : ∀ u, b.strand? c sl = some u → ∃ st, a.strand? c sl = some st ∧ u.Keeps st

namespace Chip.Framed
variable {a b d : Chip} {c sl : Nat}

theorem refl (a : Chip) (c sl : Nat) : a.Framed a c sl := ⟨rfl, rfl, rfl, rfl, fun _ _ _ => rfl, fun u hu => ⟨u, hu, .refl u⟩⟩

theorem trans (hab : a.Framed b c sl) (hbd : b.Framed d c sl) : a.Framed d c sl where
  works := hbd.works.trans hab.works
  owners := hbd.owners.trans hab.owners
  cores := hbd.cores.trans hab.cores
  gts := hbd.gts.trans hab.gts
  others c' sl' hne := (hbd.others c' sl' hne).trans (hab.others c' sl' hne)
  own u hu := by
    obtain ⟨v, hv, huv⟩ := hbd.own u hu
    obtain ⟨st, hst, hvs⟩ := hab.own v hv
    exact ⟨st, hst, huv.trans hvs⟩

theorem verdict (h : a.Framed b c sl) (v : Verdict) : a.Framed { b with verdict := v } c sl := ⟨h.works, h.owners, h.cores, h.gts, h.others, h.own⟩

theorem setStrand {st u : Strand} (hs : a.strand? c sl = some st) (hk : u.Keeps st) : a.Framed (a.setStrand c sl u) c sl where
  works := rfl
  owners := rfl
  cores := rfl
  gts := rfl
  others _ _ hne := Chip.strand?_setStrand_ne _ _ hne
  own v hv := by
    rw [Chip.strand?_setStrand, Option.some.injEq] at hv
    exact ⟨st, hs, hv ▸ hk⟩

theorem recording {st u : Strand} (hs : a.strand? c sl = some st) (hk : u.Keeps st) (k : Cause) (second : Nat) :
    a.Framed (a.recording c sl u k second) c sl :=
  have h := setStrand hs hk
  ⟨rfl, rfl, rfl, rfl, h.others, h.own⟩

/-- Taking a trap moves nothing but its strand, and of that no register, lane or place (08 R179). -/
theorem takeTrap (m : Memory) (a : Chip) (c sl : Nat) (t : PTrap) : a.Framed (takeTrap m a c sl t) c sl := by
  cases hs : a.strand? c sl with
  | none => simp only [Machine.takeTrap, hs]; exact refl ..
  | some st =>
    rw [takeTrap_of_strand hs]
    split
    · exact recording hs (doubled_keeps ..) _ _
    · split
      · by_cases hu : (st.noting t).handlerUsable m c ((none : Option (BitVec 14)).getD (st.noting t).csr.tvec)
        · rw [enterHandler_of_usable Strand.saveEpcs_noting hu]
          exact setStrand hs ((entered_keeps ..).trans (noting_keeps ..))
        · rw [enterHandler_of_not_usable Strand.saveEpcs_noting hu, doubleTrap_eq]
          exact recording hs ((doubled_keeps ..).trans ((entered_keeps ..).trans (noting_keeps ..))) _ _
      · exact recording hs ((recorded_keeps ..).trans (noting_keeps ..)) _ _

theorem retire (m : Memory) (a : Chip) (c sl : Nat) (q : SeqId) (h : Head) (i : Info) (f : Flow) (w : HeadWait) :
    a.Framed (retire m a c sl q h i f w) c sl := by
  cases hs : a.strand? c sl with
  | none => simp only [Machine.retire, hs]; exact refl ..
  | some st =>
    rw [retire_of_strand hs]
    exact (setStrand hs (retired_keeps ..)).verdict _

theorem blockSlot (m : Memory) (a : Chip) (c sl : Nat) (q : SeqId) (limit : Option Cause) (w : HeadWait) :
    a.Framed (blockSlot m a c sl q limit w) c sl := by
  cases hs : a.strand? c sl with
  | none => simp only [Machine.blockSlot, hs]; exact refl ..
  | some st =>
    simp only [Machine.blockSlot, hs]
    split
    · exact (takeTrap ..).verdict _
    · refine (setStrand hs ?_).verdict _
      exact ⟨fun r => by cases q <;> cases r <;> exact ⟨rfl, rfl⟩, by cases q <;> rfl, by cases q <;> rfl, by cases q <;> rfl⟩

theorem stallNow (a : Chip) (c sl : Nat) (k : StallKind) : a.Framed (stallNow a c sl k) c sl := by
  cases hs : a.strand? c sl with
  | none => simp only [Machine.stallNow, Chip.onStrand, hs]; exact (refl ..).verdict _
  | some st =>
    simp only [Machine.stallNow, Chip.onStrand, hs]
    refine (setStrand hs ?_).verdict _
    exact .of_eq rfl rfl rfl rfl rfl rfl rfl

end Chip.Framed

/-- An effect that changes nothing but what its strand has latched: memory and the rest of the machine stay. -/
def Effect.Latches (x : Ctx) : Effect → Prop
  | .fault _ _ _ => True
  | .stall _ ch | .block _ _ ch => x.chip.Framed ch x.core x.slot
  | .go r _ _ => r.writes = [] ∧ x.chip.Framed r.chip x.core x.slot

/-- A next state in which memory stays and the machine is framed. -/
def State.Framed (s t : State) : Prop := t.mem = s.mem ∧ s.chip.Framed t.chip s.chip.cur.core s.chip.cur.slot

/-- The frame of a word whose body only latches results. -/
theorem issue_framed {s t : State} {h : Head} {i : Info} {pre : Ctx → Option Cause} {body : Ctx → Effect}
    (hb : ∀ x, x.chip.strand? x.core x.slot = some x.st → (body x).Latches x) (he : issue s h i pre body = .next t) : s.Framed t := by
  have kept {c : Chip} (hc : s.chip.Framed c s.chip.cur.core s.chip.cur.slot)
      (ht : (Host.Outcome.next (s.keep c) : Outcome) = .next t) : s.Framed t := by
    cases ht
    exact ⟨rfl, hc⟩
  cases hs : s.chip.strand? s.chip.cur.core s.chip.cur.slot with
  | none =>
    simp only [issue, hs] at he
    cases he
    exact ⟨rfl, .refl ..⟩
  | some st =>
    simp only [issue, hs] at he
    have hx := hb (s.ctx st) (by rw [State.ctx]; exact hs)
    split at he
    · exact kept ((Chip.Framed.takeTrap ..).verdict _) he
    split at he
    · exact kept ((Chip.Framed.takeTrap ..).verdict _) he
    split at he
    · exact kept ((Chip.Framed.takeTrap ..).verdict _) he
    split at he
    · exact kept ((Chip.Framed.takeTrap ..).verdict _) he
    split at he
    · split at he
      · exact kept (.retire ..) he
      · exact kept (.blockSlot ..) he
    split at he
    · exact kept (.blockSlot ..) he
    rw [State.ctx] at hx
    split at he
    · exact kept ((Chip.Framed.takeTrap ..).verdict _) he
    · next hbody =>
      rw [hbody] at hx
      exact kept (Chip.Framed.trans hx (.stallNow ..)) he
    · next hbody =>
      rw [hbody] at hx
      exact kept (Chip.Framed.trans hx (.blockSlot ..)) he
    · next r f w hbody =>
      rw [hbody] at hx
      obtain ⟨hw, hf⟩ := hx
      split at he
      · exact kept (.blockSlot ..) he
      · cases he
        exact ⟨congrArg (writeAll s.mem) hw, hf.trans (.retire ..)⟩

section
variable {x : Ctx}

theorem latches_trapNow (c : Cause) : (trapNow c).Latches x := trivial

theorem latches_block (l : Option Cause) (w : HeadWait) : (Effect.block l w x.chip).Latches x := .refl ..

theorem latches_nothing : x.nothing.Latches x := ⟨rfl, .refl ..⟩

theorem latches_flow (f : Flow) (w : HeadWait) : (Effect.go { chip := x.chip, writes := [] } f w).Latches x := ⟨rfl, .refl ..⟩

/-- Whether a condition holds does not matter to an effect that latches in both cases. -/
theorem latches_ite {c : Prop} [Decidable c] {e f : Effect} (he : e.Latches x) (hf : f.Latches x) : (if c then e else f).Latches x :=
  iteInduction (motive := fun e : Effect => e.Latches x) (fun _ => he) fun _ => hf

variable (hx : x.chip.strand? x.core x.slot = some x.st)
include hx

theorem latches_done {u : Strand} (hk : u.Keeps x.st) : (x.done u).Latches x := ⟨rfl, .setStrand hx hk⟩

theorem latches_writeX (n : Nat) (r : Reg) (v : Word) (p : Bool) : (x.writeX n r v p).Latches x := latches_done hx (laterX_keeps ..)

theorem latches_goTo {u : Strand} (hk : u.Keeps x.st) (t : Int) : (goTo x u t).Latches x :=
  latches_ite (latches_trapNow _) ⟨rfl, .setStrand hx hk⟩

end

/-! ### Scalar and control words -/

section
variable {s t : State} {h : Head} {opc : BitVec 8}

theorem scalar2_framed {cls n : Nat} {xd xa xb : Reg} {f : Word → Word → Word} (he : scalar2 s h opc cls n xd xa xb f = .next t) : s.Framed t := by
  refine issue_framed ?_ he
  exact fun x hx => latches_writeX hx _ _ _ _

theorem scalar1_framed {ok : Bool} {xd xa : Reg} {f : Word → Word} (he : scalar1 s h opc ok xd xa f = .next t) : s.Framed t := by
  refine issue_framed ?_ he
  exact fun x hx => latches_writeX hx _ _ _ _

theorem predWord_framed {pd : BitVec 3} {f : Ctx → Bool} (he : predWord s h pd f = .next t) : s.Framed t := by
  refine issue_framed ?_ he
  exact fun x hx => latches_done hx (later_keeps ..)

theorem branchIf_framed {off : BitVec 32} {poison taken : Ctx → Bool} (he : branchIf s h opc off poison taken = .next t) : s.Framed t := by
  refine issue_framed ?_ he
  exact fun x hx => latches_ite (latches_trapNow _) (latches_ite (latches_goTo hx (.refl _) _) latches_nothing)

/-- Scalar and control words latch what they write. -/
theorem scalar_framed {i : Instr} {w : IWord} (hw : encScalar i = some w) (he : exec i s = .next t) : s.Framed t := by
  cases i with
  | nop =>
    simp only [exec, execNop] at he
    refine issue_framed ?_ he
    exact fun x _ => latches_nothing
  | add | sub | and | or | xor | andn | shl | shr | sra | min | max | minn | maxn | slt | sltn | mul | mulh | mulhn | div | divn | rem | remn =>
    simp only [exec, execAdd, execSub, execAnd, execOr, execXor, execAndn, execShl, execShr, execSra, execMin, execMax, execMinn, execMaxn,
      execSlt, execSltn, execMul, execMulh, execMulhn, execDiv, execDivn, execRem, execRemn] at he
    exact scalar2_framed he
  | addi | clz | popc | sext | zext =>
    simp only [exec, execAddi, execClz, execPopc, execSext, execZext] at he
    exact scalar1_framed he
  | li | lih | tick | gtsr =>
    simp only [exec, execLi, execLih, execTick, execGtsr] at he
    refine issue_framed ?_ he
    exact fun x hx => latches_writeX hx _ _ _ _
  | pand | por | pxor | pnot =>
    simp only [exec, execPand, execPor, execPxor, execPnot] at he
    exact predWord_framed he
  | pcmp =>
    simp only [exec, execPcmp] at he
    refine issue_framed ?_ he
    exact fun x hx => latches_ite (latches_trapNow _) (latches_done hx (later_keeps ..))
  | br | brp | brpClr | jmp =>
    simp only [exec, execBr, execBrp, execBrpClr, execJmp] at he
    exact branchIf_framed he
  | jmpx | ret =>
    simp only [exec, execJmpx, execRet] at he
    refine issue_framed ?_ he
    exact fun x hx => latches_ite (latches_trapNow _) (latches_goTo hx (.refl _) _)
  | call =>
    simp only [exec, execCall] at he
    refine issue_framed ?_ he
    exact fun x hx => latches_goTo hx (laterX_keeps ..) _
  | loop | waitt =>
    simp only [exec, execLoop, execWaitt] at he
    refine issue_framed ?_ he
    exact fun x _ => latches_ite (latches_trapNow _) (latches_flow _ _)
  | waitc =>
    simp only [exec, execWaitc] at he
    refine issue_framed ?_ he
    exact fun x _ => latches_ite latches_nothing (latches_block _ _)
  | _ => cases hw

end

/-! ### Vector words -/

section
variable {x : Ctx}

theorem vecLater_keeps (n : Nat) (l : List Land) (r : Raised) : (vecLater x n l r).Keeps x.st := by
  unfold vecLater
  split
  all_goals exact later_keeps ..

theorem latches_snanFault (l : Nat) : (snanFault l).Latches x := trivial

theorem latches_vec (hx : x.chip.strand? x.core x.slot = some x.st) (n : Nat) (l : List Land) (r : Raised) :
    (x.done (vecLater x n l r)).Latches x := latches_done hx (vecLater_keeps ..)

theorem latches_whole (hx : x.chip.strand? x.core x.slot = some x.st) (n : Nat) (d : Spec) (e : Nat) (vals : List (Option Nat)) (bad : Bool)
    (r : Raised) : (wholeWrite x n d e vals bad r).Latches x := latches_vec hx ..

end

section
variable {s t : State} {h : Head}

theorem laneWise_framed {i : Info} {ops : List Opnd} {lat : Nat} {ty : Ty} {d : Spec} {srcs : List Spec} {ln : Lanes} {snan : Bool}
    {f : Ctx → Nat → Nat → Nat → Num1} (he : laneWise s h i ops lat ty d srcs ln snan f = .next t) : s.Framed t := by
  refine issue_framed ?_ he
  intro x hx
  dsimp only
  split
  · exact latches_snanFault _
  · exact latches_vec hx ..

/-- A compare consumes the poison its active lanes read. -/
theorem vcmp_framed {c : VCond} {ty : Ty} {m : BitVec 2} {a b : Spec} {ln : Lanes} (he : execVcmp h c ty m a b ln s = .next t) :
    s.Framed t := by
  refine issue_framed ?_ he
  intro x hx
  dsimp only
  split
  · exact latches_snanFault _
  · exact latches_ite (latches_trapNow _) (latches_vec hx ..)

/-- A pop takes the head of q3 at issue; of the strand's other parts only what is latched changes. -/
theorem vqpop_framed {ty : Ty} {d : Spec} {ln : Lanes} (he : execVqpop h ty d ln s = .next t) : s.Framed t := by
  refine issue_framed ?_ he
  intro x hx
  dsimp only
  split
  · exact latches_block _ _
  · exact latches_done hx ((vecLater_keeps ..).trans (.of_eq rfl rfl rfl rfl rfl rfl rfl))

/-- Vector words latch what they write. -/
theorem vec_framed {i : Instr} {w : IWord} (hw : encVec i = some w) (he : exec i s = .next t) : s.Framed t := by
  cases i with
  | vadd | vsub | vmul | vfma | vfms | vfnma | vdiv | vsqrt | vrcp | vrsq | vmin | vmax | vabs | vneg | vand | vor | vxor | vshl | vshr | vsra
  | vmov | vexp2 | vlog2 | vclass =>
    simp only [exec, execVadd, execVsub, execVmul, execVfma, execVfms, execVfnma, execVdiv, execVsqrt, execVrcp, execVrsq, execVmin, execVmax,
      execVabs, execVneg, execVand, execVor, execVxor, execVshl, execVshr, execVsra, execVmov, execVexp2, execVlog2, execVclass, lane1, lane2,
      fused] at he
    exact laneWise_framed he
  | vcmp =>
    simp only [exec] at he
    exact vcmp_framed he
  | vqpop =>
    simp only [exec] at he
    exact vqpop_framed he
  | vsel =>
    simp only [exec, execVsel] at he
    refine issue_framed ?_ he
    exact fun x hx => latches_vec hx ..
  | vcompact | vperm | vlut | vmovi | viota | vcombAcc =>
    simp only [exec, execVcompact, execVperm, execVlut, execVmovi, execViota, execVcombAcc] at he
    refine issue_framed ?_ he
    exact fun x hx => latches_whole hx ..
  | vcombFin =>
    simp only [exec, execVcombFin] at he
    refine issue_framed ?_ he
    exact fun x hx => latches_vec hx ..
  | vcvt | vred =>
    simp only [exec, execVcvt, execVred] at he
    refine issue_framed ?_ he
    intro x hx
    split
    · exact latches_snanFault _
    · exact latches_vec hx ..
  | vscan | vsplitExp | vsplit =>
    simp only [exec, execVscan, execVsplitExp, execVsplit] at he
    refine issue_framed ?_ he
    intro x hx
    split
    · exact latches_snanFault _
    · exact latches_whole hx ..
  | _ => cases hw

end

end Sys2Proof.Machine
end
section
/-! SUPPORT. What a word stores: no word but the copies, the Splicer's words and the context words puts a byte in memory
as it issues (02 R35; 06 R106). -/

namespace Sys2Proof.Machine

/-- The bytes that an effect stores at issue. -/
def Effect.stored : Effect → List (Nat × List Byte)
  | .go r _ _ => r.writes
  | _ => []

/-- Memory stays where the body of a word stores nothing. -/
theorem issue_stores_nothing {s t : State} {h : Head} {i : Info} {pre : Ctx → Option Cause} {body : Ctx → Effect}
    (hb : ∀ x, (body x).stored = []) (he : issue s h i pre body = .next t) : t.mem = s.mem :=
  issue_mem (fun x _ _ _ hbody => (congrArg Effect.stored hbody).symm.trans (hb x)) he

/-! ### The operations that words share -/

section
variable {x : Ctx} {e : Effect}

theorem stored_ite {c : Prop} [Decidable c] {e f : Effect} (he : e.stored = []) (hf : f.stored = []) : (if c then e else f).stored = [] :=
  iteInduction (motive := fun e : Effect => e.stored = []) (fun _ => he) fun _ => hf

theorem laneTest_stored {n : Nat} (h : laneTest x n = some e) : e.stored = [] := by
  unfold laneTest at h
  dsimp only at h
  repeat' split at h
  all_goals cases h
  all_goals rfl

theorem classOf_stored {hd : Handle} {fa : Word} (h : classOf x hd fa = some e) : e.stored = [] := by
  unfold classOf at h
  repeat' split at h
  all_goals cases h
  all_goals rfl

theorem matrixPort_stored {tiles : List (BitVec 6)} (h : matrixPort x tiles = some e) : e.stored = [] := by
  unfold matrixPort at h
  repeat' split at h
  all_goals cases h
  all_goals rfl

theorem scaleShort_stored {n : Nat} {q : List Byte} {out : List Nat} (h : scaleShort x n q out = some e) : e.stored = [] := by
  unfold scaleShort at h
  repeat' split at h
  all_goals cases h
  all_goals rfl

theorem laneHandle_stored {xh : Reg} {k : Handle → Effect} (hk : ∀ hd, (k hd).stored = []) : (laneHandle x xh k).stored = [] := by
  unfold laneHandle
  split
  · rfl
  · exact stored_ite rfl (hk _)

theorem afterRings_stored {h : Head} (he : e.stored = []) : (x.afterRings h e).stored = [] := stored_ite he rfl

theorem laneGo_stored {xd : Reg} {n : Nat} {bs : List (Option Nat × Byte)} {ilv key : Nat} {ents : List TlbEntry} {c : Bool} {fa : Word} :
    (laneGo x xd n bs ilv key ents c fa).stored = [] := rfl

theorem lanePointer_stored {xd : Reg} {fa : Word} {t : Target} {data : List Byte} : (lanePointer x xd fa t data).stored = [] := by
  unfold lanePointer
  split
  · next h => exact laneTest_stored h
  repeat' split
  all_goals rfl

theorem fenceBody_stored {h : Head} {sel : Work → Bool} {sc : Scope} {p : BitVec 7} {s : BitVec 6} : (fenceBody x h sel sc p s).stored = [] := by
  unfold fenceBody
  split
  exact stored_ite rfl (stored_ite rfl rfl)

theorem barrierWord_stored {xa xb : Reg} {k : Nat → Nat → Bool → Effect} (hk : ∀ c a d, (k c a d).stored = []) :
    (barrierWord x xa xb k).stored = [] := by
  unfold barrierWord
  refine stored_ite rfl ?_
  split
  · rfl
  · exact stored_ite rfl (hk ..)

end

section
variable {s t : State} {h : Head}

theorem scalar_mem {i : Instr} {w : IWord} (hw : encScalar i = some w) (he : exec i s = .next t) : t.mem = s.mem := (scalar_framed hw he).1

theorem vec_mem {i : Instr} {w : IWord} (hw : encVec i = some w) (he : exec i s = .next t) : t.mem = s.mem := (vec_framed hw he).1

/-! ### Scalar memory, sections and queues -/

/-- A load, a vector load and an atomic start an access or latch what they read. -/
theorem loadWord_mem {opc : BitVec 8} {ok spec : Bool} {size : LdSize} {xd xa xb : Reg} {off : BitVec 48}
    (he : loadWord s h opc ok spec size xd xa xb off = .next t) : t.mem = s.mem := by
  refine issue_stores_nothing ?_ he
  intro x
  dsimp only
  refine stored_ite rfl ?_
  repeat' split
  all_goals rfl

theorem atomicWord_mem {opc : BitVec 8} {ok : Bool} {size : AmoSize} {xa xp : Reg} {poisons : List Reg} {acc : Ctx → Access}
    (he : atomicWord s h opc ok size xa xp poisons acc = .next t) : t.mem = s.mem := by
  refine issue_stores_nothing ?_ he
  intro x
  dsimp only
  refine stored_ite rfl (stored_ite rfl ?_)
  repeat' split
  all_goals rfl

theorem vloadWord_mem {opc : BitVec 8} {spec : Bool} {d : Spec} {xa xb : Reg} {off : BitVec 32}
    (he : vloadWord s h opc spec d xa xb off = .next t) : t.mem = s.mem := by
  refine issue_stores_nothing ?_ he
  intro x
  dsimp only
  repeat' split
  all_goals rfl

theorem sclWord_mem {opc : BitVec 8} {ok isB : Bool} {xa : Reg} {sl : BitVec 4} {n : BitVec 6} {g c : BitVec 16}
    (he : sclWord s h opc ok isB xa sl n g c = .next t) : t.mem = s.mem := by
  refine issue_stores_nothing ?_ he
  intro x
  exact stored_ite rfl (stored_ite rfl (stored_ite rfl rfl))

theorem barrierUpdate_mem {xa xb : Reg} {bad : Word → Bool} {a : Word → Access} (he : barrierUpdate s h xa xb bad a = .next t) :
    t.mem = s.mem := by
  refine issue_stores_nothing ?_ he
  exact fun x => stored_ite rfl (barrierWord_stored fun _ _ _ => rfl)

/-- A store latches its bytes or starts an access: what it stores lands later. -/
theorem stx_mem {size : StSize} {xd xa xb : Reg} {off : BitVec 48} (he : execStx h size xd xa xb off s = .next t) : t.mem = s.mem := by
  refine issue_stores_nothing ?_ he
  intro x
  dsimp only
  refine stored_ite rfl (stored_ite rfl ?_)
  split
  all_goals rfl

theorem marm_mem {xa : Reg} (he : execMarm h xa s = .next t) : t.mem = s.mem := by
  refine issue_stores_nothing ?_ he
  intro x
  dsimp only
  refine stored_ite rfl ?_
  repeat' split
  all_goals rfl

theorem txbWait_mem {xa xb : Reg} (he : execTxbWait h xa xb s = .next t) : t.mem = s.mem := by
  refine issue_stores_nothing ?_ he
  intro x
  dsimp only
  split
  · repeat' split
    all_goals rfl
  · exact barrierWord_stored fun _ _ _ => rfl

/-- A section load starts its reads; the image lands later. -/
theorem secld_mem {xd xa : Reg} {sec : BitVec 12} {dst : BitVec 14} (he : execSecld h xd xa sec dst s = .next t) : t.mem = s.mem := by
  refine issue_stores_nothing ?_ he
  intro x
  dsimp only
  refine stored_ite rfl ?_
  repeat' split
  all_goals rfl

/-- Words of scalar memory, sections and queues. -/
theorem memGroup_mem {i : Instr} {w : IWord} (hw : encMem i = some w) (ho : ¬ (0x30 ≤ (wOpc w).toNat ∧ (wOpc w).toNat ≤ 0x35))
    (he : exec i s = .next t) : t.mem = s.mem := by
  cases i with
  | ldx | ldxS =>
    simp only [exec, execLdx, execLdxS] at he
    exact loadWord_mem he
  | stx =>
    simp only [exec] at he
    exact stx_mem he
  | chk | chkG =>
    simp only [exec, execChk, execChkG] at he
    refine issue_stores_nothing ?_ he
    exact fun x => stored_ite rfl rfl
  | sptest | spcast | cpyStat =>
    simp only [exec, execSptest, execSpcast, execCpyStat] at he
    refine issue_stores_nothing ?_ he
    exact fun x => rfl
  | amo | cas =>
    simp only [exec, execAmo, execCas] at he
    exact atomicWord_mem he
  | fence =>
    simp only [exec, execFence] at he
    refine issue_stores_nothing ?_ he
    exact fun x => fenceBody_stored
  | marm =>
    simp only [exec] at he
    exact marm_mem he
  | mwait | secwait =>
    simp only [exec, execMwait, execSecwait] at he
    refine issue_stores_nothing ?_ he
    exact fun x => stored_ite rfl rfl
  | txbInit | txbArrive | txbExpect =>
    simp only [exec, execTxbInit, execTxbArrive, execTxbExpect] at he
    exact barrierUpdate_mem he
  | txbWait =>
    simp only [exec] at he
    exact txbWait_mem he
  | cpyIn | cpyOut | cpyG | cpyMC | cpyLL | cpyCancel =>
    cases hw
    simp at ho
  | secld =>
    simp only [exec] at he
    exact secld_mem he
  | qpush =>
    simp only [exec, execQpush] at he
    refine issue_stores_nothing ?_ he
    exact fun x => stored_ite rfl (stored_ite rfl rfl)
  | _ => cases hw

/-! ### Loads and stores of vectors, and the write lane -/

/-- A lane store takes its number and its place in the queue; its bytes are sent later. -/
theorem wst_mem {xd xh xc xs : Reg} {src : Spec} (he : execWst h xd xh xc xs src s = .next t) : t.mem = s.mem := by
  refine issue_stores_nothing ?_ he
  refine fun x => laneHandle_stored fun hd => stored_ite rfl (stored_ite rfl ?_)
  split
  · next hl => exact laneTest_stored hl
  split
  · next hc => exact classOf_stored hc
  · exact laneGo_stored

theorem wstG_mem {xd xh xs : Reg} {src : Spec} (he : execWstG h xd xh xs src s = .next t) : t.mem = s.mem := by
  refine issue_stores_nothing ?_ he
  intro x
  refine stored_ite rfl ?_
  split
  · rfl
  · exact stored_ite rfl (stored_ite rfl lanePointer_stored)

theorem vstp_mem {xd : Reg} {a : Spec} {xb : Reg} {off : BitVec 32} (he : execVstp h xd a xb off s = .next t) : t.mem = s.mem := by
  refine issue_stores_nothing ?_ he
  intro x
  refine stored_ite rfl ?_
  split
  · rfl
  · rfl
  · rfl
  · exact lanePointer_stored

theorem wstc_mem {xd xh xc : Reg} {tk : Toks} {c : BitVec 6} {ty : Ty} {rnd : Rnd} {ovf : Ovf} {nochk : Bool}
    (he : execWstc h xd xh xc tk c ty rnd ovf nochk s = .next t) : t.mem = s.mem := by
  refine issue_stores_nothing ?_ he
  intro x
  dsimp only
  split
  · next hm => exact matrixPort_stored hm
  refine afterRings_stored (laneHandle_stored fun hd => stored_ite rfl (stored_ite rfl ?_))
  split
  · next hl => exact laneTest_stored hl
  split
  · next hc => exact classOf_stored hc
  · rfl

/-- Words of the LD and ST engines. -/
theorem ldStGroup_mem {i : Instr} {w : IWord} (hw : encLdSt i = some w) (he : exec i s = .next t) : t.mem = s.mem := by
  cases i with
  | vld | vbrd | wdrain =>
    simp only [exec, execVld, execVbrd, execWdrain] at he
    refine issue_stores_nothing ?_ he
    exact fun x => stored_ite rfl (stored_ite rfl rfl)
  | qix =>
    simp only [exec, execQix] at he
    refine issue_stores_nothing ?_ he
    exact fun x => stored_ite rfl (stored_ite rfl rfl)
  | vlds =>
    simp only [exec, execVlds] at he
    refine issue_stores_nothing ?_ he
    intro x
    split
    all_goals rfl
  | vgath | vscat =>
    simp only [exec, execVgath, execVscat] at he
    refine issue_stores_nothing ?_ he
    intro x
    refine stored_ite rfl (stored_ite rfl ?_)
    split
    all_goals rfl
  | vldp | vldS =>
    simp only [exec, execVldp, execVldS] at he
    exact vloadWord_mem he
  | sclA | sclB =>
    simp only [exec, execSclA, execSclB] at he
    exact sclWord_mem he
  | vst =>
    simp only [exec, execVst] at he
    refine issue_stores_nothing ?_ he
    exact fun x => stored_ite rfl (stored_ite rfl (stored_ite rfl (stored_ite rfl rfl)))
  | vstp =>
    simp only [exec] at he
    exact vstp_mem he
  | wst =>
    simp only [exec] at he
    exact wst_mem he
  | wstG =>
    simp only [exec] at he
    exact wstG_mem he
  | wstc =>
    simp only [exec] at he
    exact wstc_mem he
  | wbud =>
    simp only [exec, execWbud] at he
    refine issue_stores_nothing ?_ he
    exact fun x => rfl
  | wfence =>
    simp only [exec, execWfence] at he
    refine issue_stores_nothing ?_ he
    exact fun x => fenceBody_stored
  | _ => cases hw

/-! ### The matrix engine -/

theorem tileWord_mem {opc : BitVec 8} {ok : Bool} {ops : List Opnd} {tiles : List (BitVec 6)} {body : Ctx → Effect}
    (hb : ∀ x, (body x).stored = []) (he : tileWord s h opc ok ops tiles body = .next t) : t.mem = s.mem := by
  refine issue_stores_nothing ?_ he
  intro x
  split
  · next hm => exact matrixPort_stored hm
  · exact afterRings_stored (hb x)

theorem startedMma_writes (x : Ctx) (g : MmaArgs) : (startedMma x g).writes = [] := rfl

/-- An MMA latches its update of the tile. -/
theorem mmaWord_mem {opc : BitVec 8} {ok sparse : Bool} {c : BitVec 6} {sa sb sx : BitVec 4} {ta tb : Ty} {acc : Acc} {br : Bool} {tk : Toks}
    (he : mmaWord s h opc ok sparse c sa sb sx ta tb acc br tk = .next t) : t.mem = s.mem := by
  refine issue_stores_nothing ?_ he
  intro x
  dsimp only
  split
  · next hm => exact matrixPort_stored hm
  split
  · rfl
  split
  · rfl
  split
  · next hq => exact scaleShort_stored hq
  · next hq => exact scaleShort_stored hq
  refine stored_ite rfl ?_
  split
  · rfl
  · exact stored_ite rfl (stored_ite rfl (startedMma_writes ..))

/-- Words of the matrix engine and Telltale. -/
theorem matGroup_mem {i : Instr} {w : IWord} (hw : encMat i = some w) (he : exec i s = .next t) : t.mem = s.mem := by
  cases i with
  | mma | mmas =>
    simp only [exec, execMma, execMmas] at he
    exact mmaWord_mem he
  | mclr | mdrain | mchk | mcomp | mbmp | ctabSwap | ttLoc =>
    simp only [exec, execMclr, execMdrain, execMchk, execMcomp, execMbmp, execCtabSwap, execTtLoc] at he
    refine tileWord_mem ?_ he
    exact fun x => rfl
  | mldc | ctabW =>
    simp only [exec, execMldc, execCtabW] at he
    refine tileWord_mem ?_ he
    exact fun x => stored_ite rfl rfl
  | ttFix =>
    simp only [exec, execTtFix] at he
    refine tileWord_mem ?_ he
    intro x
    refine stored_ite rfl ?_
    split
    all_goals rfl
  | ttReplay =>
    simp only [exec, execTtReplay] at he
    refine tileWord_mem ?_ he
    intro x
    repeat' split
    all_goals rfl
  | _ => cases hw

/-! ### Collectives, system and configuration -/

/-- A collective starts; its chunks land later. -/
theorem collWord_mem {opc : BitVec 8} {ok red : Bool} {g : Nat} {xd xh xc xs xb : Reg} {tk : Toks} {es ed : Nat}
    {kind : Nat → Nat → Nat → WorkKind} (he : collWord s h opc ok red g xd xh xc xs xb tk es ed kind = .next t) : t.mem = s.mem := by
  refine issue_stores_nothing ?_ he
  intro x
  dsimp only
  split
  · rfl
  split
  · rfl
  refine stored_ite rfl (stored_ite rfl (stored_ite rfl (stored_ite rfl (stored_ite rfl (stored_ite rfl (stored_ite rfl ?_))))))
  split
  · rfl
  · exact stored_ite rfl (stored_ite rfl rfl)

theorem clgrp_mem {xd xa : Reg} {g : BitVec 4} (he : execClgrp h xd xa g s = .next t) : t.mem = s.mem := by
  refine issue_stores_nothing ?_ he
  intro x
  dsimp only
  refine stored_ite rfl ?_
  repeat' split
  all_goals rfl

theorem csrWord_mem {ok : Bool} {xd : Reg} {xa : Option Reg} {csr : BitVec 12} {f : Word → Word → Word}
    (he : csrWord s h ok xd xa csr f = .next t) : t.mem = s.mem := by
  refine issue_stores_nothing ?_ he
  intro x
  dsimp only
  split
  · rfl
  · exact stored_ite rfl rfl

/-- Words of collectives, system and configuration; the Splicer's words and the context words are left out. -/
theorem sysGroup_mem {i : Instr} {w : IWord} (hw : encSys i = some w) (hspl : (wOpc w).toNat ≠ 0xE0) (hctx : (wOpc w).toNat ≠ 0xE8)
    (he : exec i s = .next t) : t.mem = s.mem := by
  cases i with
  | clgrp =>
    simp only [exec] at he
    exact clgrp_mem he
  | clred | clbc =>
    simp only [exec, execClred, execClbc] at he
    exact collWord_mem he
  | csrr | csrw | csrs | csrc =>
    simp only [exec, execCsrr, execCsrw, execCsrs, execCsrc] at he
    exact csrWord_mem he
  | clstat | halt | nestStat =>
    simp only [exec, execClstat, execHalt, execNestStat] at he
    refine issue_stores_nothing ?_ he
    exact fun x => rfl
  | trap | eret | prept | clgrpRelease | crclose | view | scfg | nestGo =>
    simp only [exec, execTrap, execEret, execPrept, execClgrpRelease, execCrclose, execView, execScfg, execNestGo] at he
    refine issue_stores_nothing ?_ he
    exact fun x => stored_ite rfl rfl
  | cropen | nestSet =>
    simp only [exec, execCropen, execNestSet] at he
    refine issue_stores_nothing ?_ he
    exact fun x => stored_ite rfl (stored_ite rfl rfl)
  | yield | keyRoll =>
    simp only [exec, execYield, execKeyRoll] at he
    refine issue_stores_nothing ?_ he
    intro x
    repeat' split
    all_goals rfl
  | splAdmit | splRetire | splRephase | splFreeze | splThaw | splQuery =>
    cases hw
    simp at hspl
  | ctxSave | ctxLoad | ctxKill =>
    cases hw
    simp at hctx
  | _ => cases hw

end

/-! ### The groups of words and their opcodes (04 R60, R61) -/

section
variable {i : Instr} {w : IWord}

/-- A word is one of six groups. -/
theorem encode_group (hw : encode i = some w) :
    encScalar i = some w ∨ encMem i = some w ∨ encLdSt i = some w ∨ encVec i = some w ∨ encMat i = some w ∨ encSys i = some w := by
  unfold encode at hw
  repeat' split at hw
  all_goals simp_all only [true_or, or_true]

theorem encMem_opcode (hw : encMem i = some w) : 0x20 ≤ (wOpc w).toNat ∧ (wOpc w).toNat < 0x60 := by
  unfold encMem at hw
  split at hw
  all_goals cases hw
  all_goals simp

theorem encLdSt_opcode (hw : encLdSt i = some w) : 0x20 ≤ (wOpc w).toNat ∧ (wOpc w).toNat < 0x60 := by
  unfold encLdSt at hw
  split at hw
  all_goals cases hw
  all_goals simp

theorem encMat_opcode (hw : encMat i = some w) : 0x84 < (wOpc w).toNat := by
  unfold encMat at hw
  split at hw
  all_goals cases hw
  all_goals simp

theorem encSys_opcode (hw : encSys i = some w) : 0x84 < (wOpc w).toNat := by
  unfold encSys at hw
  split at hw
  all_goals cases hw
  all_goals simp

/-- The opcodes of scalar, control and vector words are theirs alone. -/
theorem latching_of_opcode (hw : encode i = some w) (ho : (wOpc w).toNat < 0x20 ∨ (0x60 ≤ (wOpc w).toNat ∧ (wOpc w).toNat ≤ 0x84)) :
    encScalar i = some w ∨ encVec i = some w := by
  rcases encode_group hw with h | h | h | h | h | h
  · exact .inl h
  · have := encMem_opcode h
    omega
  · have := encLdSt_opcode h
    omega
  · exact .inr h
  · have := encMat_opcode h
    omega
  · have := encSys_opcode h
    omega

end

section
variable {s t : State} {i : Instr} {w : IWord} (hw : encode i = some w) (he : exec i s = .next t)
include hw he

/-- A word other than a copy, a Splicer word and a context word stores nothing as it issues. -/
theorem exec_mem (hcpy : ¬ (0x30 ≤ (wOpc w).toNat ∧ (wOpc w).toNat ≤ 0x35)) (hspl : (wOpc w).toNat ≠ 0xE0) (hctx : (wOpc w).toNat ≠ 0xE8) :
    t.mem = s.mem := by
  rcases encode_group hw with h | h | h | h | h | h
  · exact scalar_mem h he
  · exact memGroup_mem h hcpy he
  · exact ldStGroup_mem h he
  · exact vec_mem h he
  · exact matGroup_mem h he
  · exact sysGroup_mem h hspl hctx he

/-- A scalar, control or vector word changes only what its strand has latched and where its sequencer stands. -/
theorem exec_framed (ho : (wOpc w).toNat < 0x20 ∨ (0x60 ≤ (wOpc w).toNat ∧ (wOpc w).toNat ≤ 0x84)) : s.Framed t := by
  rcases latching_of_opcode hw ho with h | h
  · exact scalar_framed h he
  · exact vec_framed h he

end

end Sys2Proof.Machine
end
section
namespace Sys2Proof.Proofs
open Sys2Proof.Machine

/-- Settles O52: no word but the copies, the Splicer's and the context words stores at issue, and the body of a scalar, control or vector word
changes its strand's latches alone. -/
theorem frameOfWords : Obligations.FrameOfWords := by
  unfold Obligations.FrameOfWords
  intro s t i w hw he
  refine ⟨fun hcpy hspl hctx a => congrArg (Memory.read · a) (exec_mem hw he hcpy hspl hctx), fun ho => ?_⟩
  have hf := (exec_framed hw he ho).2
  refine ⟨hf.works, hf.owners, hf.cores, hf.gts, hf.others, fun st u hs hu => ?_⟩
  obtain ⟨v, hv, hk⟩ := hf.own u hu
  cases hs.symm.trans hv
  exact ⟨hk.regs, hk.bank, hk.lane, hk.place⟩

end Sys2Proof.Proofs
end
